-- ==== Sys2Proof/Word.lean ====
section
/-! DEFINITION. Word.lean: the word types and the unit numbers of the module (00_scope.md R7, R13). -/

namespace Sys2Proof

/-- A byte. -/
abbrev Byte := BitVec 8
/-- A 32-bit register word (R7). -/
abbrev Word := BitVec 32
/-- A 64-bit word. -/
abbrev DWord := BitVec 64
/-- A device virtual address, 48 bits (13 R295). -/
abbrev VA := BitVec 48
/-- A command descriptor of 64 bytes (14 R326). -/
abbrev Desc := BitVec 512
/-- Die 0 to 3 (R13). -/
abbrev DieNo := BitVec 2
/-- Global cluster 0 to 31 (R13). -/
abbrev ClusterNo := BitVec 5
/-- Global core 0 to 511 (R13). -/
abbrev CoreNo := BitVec 9
/-- Global engine 0 to 2,047 (R13). -/
abbrev EngineNo := BitVec 11
/-- Global memory slice and stack 0 to 31 (R13). -/
abbrev SliceNo := BitVec 5
/-- Global pseudo-channel 0 to 1,023 (R13). -/
abbrev PcNo := BitVec 10
/-- Global LPDDR5X package 0 to 15 (R13). -/
abbrev PkgNo := BitVec 4
/-- Context 0 to 4,095 (14 R323). -/
abbrev CtxNo := BitVec 12
/-- Queue 0 to 65,535 (14 R323). -/
abbrev QueueNo := BitVec 16
/-- Synchronisation object 0 to 16,383 (14 R323). -/
abbrev SyncNo := BitVec 14
/-- Object 0 to 524,287 (13 R299). -/
abbrev ObjNo := BitVec 19
/-- Pool 0 to 16,383 (08 R191). -/
abbrev PoolNo := BitVec 14
/-- Client, and its session, 0 to 1,023 (14 R323). -/
abbrev SessNo := BitVec 10
/-- A lockstep pair of a flask, 0 to 3 (16 R391). -/
abbrev PairNo := BitVec 2
/-- An interrupt source 0 to 1,023 (16 R396). -/
abbrev SourceNo := BitVec 10
/-- Global island number 20d + i (19 R442). -/
abbrev IslandNo := Fin 80
/-- Rail index 0 to 43 (19 R451). -/
abbrev RailNo := Fin 44
/-- Remote endpoint 0 to 254 (15 R380). -/
abbrev EpNo := Fin 255

end Sys2Proof
end

