-- ==== Sys2Proof/Syntax.lean ====
section
/-! DEFINITION. Syntax.lean: the commands of the block, one constructor of `Instr` per row of
opcode_table.json, with the facts each row takes from outside (a datagram, a descriptor, a unit number, a
physical outcome) as its operands. -/

namespace Sys2Proof

/-! ## Operands of messages -/

/-- The verdict of the self-test of one core (21 R480, CORE_BIST_RES). -/
structure BistFail where
  core : CoreNo
  engFail : BitVec 4
  sramFail : Bool
  pair : BitVec 4
  full : Bool
  lane : BitVec 3
  deriving DecidableEq, Repr

/-- What the world outside the control flask does while a message runs: the 256-byte header a remote read
returns (13 R312; none: the read failed), the cores that fail a self-test (21 R476), the outcome of reading a
flash write back (18 R436), and the irreversible steps done before the seal breaks, if it does (18 R434). -/
structure Physical where
  remote : Option (BitVec 2048)
  bist : List BistFail
  flashReadBack : Bool
  sealBreak : Option Nat
  deriving DecidableEq, Repr

/-- A GCT datagram of a request (15 R363): the header's fields, the UDP payload less 32 bytes, and the body
as one little-endian number. `source` stands for the sender's address and port, `port` is the UDP port it is sent to; `cls` is the
frame's class, `tagged` its tagging. -/
structure Req where
  source : Nat
  port : BitVec 16 := 47329#16
  cls : BitVec 3
  tagged : Bool := false
  magic : Word
  version : Byte
  flags : BitVec 4
  hdrReserved : BitVec 20
  session : BitVec 16
  cookie : DWord
  seq : Word
  ack : Word
  length : BitVec 16
  payload : Nat
  body : Nat
  env : Physical
  deriving DecidableEq, Repr

/-- A RoCEv2 RDMA request arriving on a session's responder queue pair (15 R359, R360). -/
structure RdmaReq where
  session : SessNo
  cls : BitVec 3
  tagged : Bool := false
  rkey : Word
  va : BitVec 64
  data : List Byte
  len : Nat
  ecnCe : Bool
  deriving DecidableEq, Repr

/-- Where an IP packet goes (15 R353): an IPv4 or IPv6 address, the module's IPv6 link-local address, or a multicast address. -/
inductive IpDest where
  | ipv4 (a : BitVec 32)
  | ipv6 (a : BitVec 128)
  | linkLocal
  | multicast
  deriving DecidableEq, Repr
/-- What an Ethernet frame carries, as the port classifies it (15 R353, R356, R358). -/
inductive Payload where
  /-- A GCT datagram with its opcode (15 R369). -/
  | gct (opcode : BitVec 16) (r : Req)
  /-- An RDMA WRITE. -/
  | rdmaWrite (r : RdmaReq)
  /-- An RDMA READ. -/
  | rdmaRead (r : RdmaReq)
  /-- An unsupported RoCEv2 request, marked ECN-CE or not. -/
  | rdmaOther (session : SessNo) (ecnCe : Bool)
  /-- A Congestion Notification Packet for a requester queue pair. -/
  | cnp (ep : EpNo)
  /-- A PFC frame naming the classes it stops. -/
  | pfc (classes : Byte)
  /-- An ARP request for an IPv4 address. -/
  | arp (target : BitVec 32)
  /-- ICMP or ICMPv6 echo, or Neighbour Discovery. -/
  | network
  /-- A Neighbour Solicitation for an IPv6 address, sent to its solicited-node multicast address. -/
  | solicit (target : IpDest)
  /-- Anything else: other protocols. -/
  | other
  deriving DecidableEq, Repr

/-- What a UDP checksum is found to be: the zero that stands for none, right, or wrong. -/
inductive UdpSum where
  | zero | right | wrong
  deriving DecidableEq, Repr
/-- What a frame's IP header and its UDP checksum say (15 R353, R356): `options` IPv4 options or IPv6 extension headers. -/
structure IpHead where
  dst : IpDest
  dscp : BitVec 6 := 0#6
  fragment : Bool := false
  options : Bool := false
  sum : UdpSum := .right
  deriving DecidableEq, Repr
/-- An Ethernet frame as received (15 R353, R356, R359): its tags, the first one's identifier and priority, its IP header where it
has one, and whether the invariant CRC of a RoCEv2 packet is right. -/
structure Frame where
  bytes : Nat
  fcsOk : Bool
  fecCorrected : Nat
  fecUncorrectable : Nat
  tags : Nat
  vlan : BitVec 12
  pcp : BitVec 3 := 0#3
  ip : IpHead
  icrcOk : Bool := true
  payload : Payload
  deriving DecidableEq, Repr

/-! ## Operands of memory and atomic commands -/

/-- An atomic request (06 R162, R164): its requester number 0 to 580, the context it is made for, the device
virtual address of its word. -/
structure AtomReq where
  requester : Fin 581
  ctx : CtxNo
  va : VA
  deriving DecidableEq, Repr

/-- A retention hint (06 R161). -/
inductive Hint where
  | none | stream | keep
  | last (count : Byte)
  deriving DecidableEq, Repr

/-- An access arriving at a shared cache (06 R160, R161). -/
structure CacheAcc where
  pa : BitVec 40
  write : Bool
  wholeSector : Bool
  hint : Hint
  deriving DecidableEq, Repr

/-- Which memory a sector lies in: the near tier, by pseudo-channel and byte offset of the sector within the
channel, or the module tier, by package and offset (12 R262, R286). -/
inductive SectorAt where
  | hbm (pc : PcNo) (sector : BitVec 24)
  | lpddr (pkg : PkgNo) (sector : BitVec 29)
  deriving DecidableEq, Repr

/-- Whose patrol scrubber reads: a stack's or a package's (12 R272, R287). -/
inductive Scrubbed where
  | stack (g : SliceNo)
  | package (p : PkgNo)
  deriving DecidableEq, Repr

/-- Symbols of a stored sector that a read finds flipped: position 0 to 67 of the code of 12 R268 and the
difference at that position. -/
abbrev SymbolErrors := List (Fin 68 × Byte)

/-- Why a pseudo-channel or package is held (12 R273). -/
inductive HoldReason where
  | retraining | margining | migration
  deriving DecidableEq, Repr

/-- What triggers a retraining (12 R276). -/
inductive RetrainCause where
  | temperature (celsius : Byte)
  | parity
  | age
  | request
  deriving DecidableEq, Repr

/-- One bar read from a remote endpoint by a move or a refetch: the directory entry that the image has for it, which an origin image
alone has, and its bytes, or a failed read (13 R312). -/
structure BarRead where
  entry : BitVec 64 := 0#64
  data : Option (List Byte)
  deriving DecidableEq, Repr

/-- A write to the interface of a logical processor (16 R403). -/
inductive FlaskWrite where
  | claim (n : SourceNo)
  | eoi (n : SourceNo)
  | swset (die : DieNo) (n : SourceNo)
  | routeSet (n : SourceNo) (mask : BitVec 4)
  | kick
  deriving DecidableEq, Repr
/-- What a control processor puts out in one flask cycle, as the comparator sees it (16 R392): the address of the instruction fetch,
those of a load and a store with the byte enables, the store's data, the register write-back, a write to the interface of R403, the
signature of the pipeline's control state. -/
structure PairOut where
  fetch : DWord
  load : DWord
  store : DWord
  enables : Byte
  data : DWord
  back : DWord
  iface : Option FlaskWrite
  control : DWord
  deriving DecidableEq, Repr

/-- A margining sweep's hold (12 R289, 21 R475): the direction, how many of its steps were clean, whether it
met an unclean step. -/
structure MarginHold where
  up : Bool
  clean : BitVec 5
  failed : Bool
  deriving DecidableEq, Repr

/-- A unit whose residue or parity check failed (17 R408). -/
inductive ResidueUnit where
  | core (c : CoreNo)
  | ladle (g : SliceNo) (page : Bool)
  deriving DecidableEq, Repr

/-- A resource reached through credits (14 R349) whose freed credit is granted. -/
inductive SharedResource where
  | atomicUnit (g : SliceNo)
  | coreSlots (c : CoreNo)
  | ladleSlots (g : SliceNo)
  | meshChannel (die : DieNo) (port : BitVec 8) (vc : BitVec 4)
  | gateClass (die : DieNo) (port : BitVec 8)
  | linkChannel (die other : DieNo) (vc : BitVec 4)
  | clusterPlaces (k : ClusterNo)
  | startLimiter (die : DieNo)
  | mailbox
  deriving DecidableEq, Repr

/-- A transport hop that detects a bad flit (17 R409). -/
inductive Hop where
  | link (a b : DieNo)
  | mesh (die : DieNo) (hop : Byte)
  deriving DecidableEq, Repr

/-- An SRAM array a scrubber walks (17 R407). -/
inductive SramArray where
  | scratchpad (c : CoreNo)
  | accumulator (e : EngineNo) (slot : BitVec 5) (row : BitVec 5)
  | castPlan (c : CoreNo)
  | translation (c : CoreNo)
  | clusterBuffer (k : ClusterNo)
  | commandProcessor (k : ClusterNo)
  | sharedCache (g : SliceNo) (set : BitVec 11) (way : BitVec 4) (sectors : BitVec 2)
  | flask (die : DieNo) (pair : PairNo)
  deriving DecidableEq, Repr

/-- The outcome of one SECDED decode (17 R407). -/
inductive Secded where
  | clean | corrected | uncorrectable
  deriving DecidableEq, Repr

/-- Why a core is fenced (14 R346). -/
inductive FenceCause where
  | mismatch | sram | hang | selfTest
  deriving DecidableEq, Repr

/-- The cause of a restartable fault (13 R319, R320). -/
inductive RestartCause where
  | residency (obj : ObjNo)
  | heldWait
  | slag (obj : ObjNo)
  deriving DecidableEq, Repr

/-- A temperature sensor (19 R453, 17 R483). -/
inductive Sensor where
  | island (i : IslandNo)
  | stack (g : SliceNo)
  | package (p : PkgNo)
  | regulator (r : RailNo)
  deriving DecidableEq, Repr

/-- The two PLLs of an island, and its reference bypass (19 R444). -/
inductive ClockSource where
  | bypass | pllA | pllB
  deriving DecidableEq, Repr

/-- The condition of the guarantees that is lost (17 R420, R483). -/
inductive Condition where
  | notProduction | debugUnlocked | outsideRatings
  deriving DecidableEq, Repr

/-- What a counter or table wants a safety record written for (17 R413): the mechanism, its unit, the die that
detected it, the interrupt source, the response's status and the detail words. -/
structure RecordReq where
  mech : Byte
  unit : Word
  die : DieNo
  source : SourceNo
  status : BitVec 16
  detail : List Word
  deriving DecidableEq, Repr

/-- A relation of an audit whose loop is not empty when its freeze ends (17 R416, R417, R482). -/
structure AuditRel where
  die : DieNo
  relation : BitVec 4
  inst : BitVec 24
  deriving DecidableEq, Repr

/-- Where a cell's atomic or walk right is used (13 R296). -/
inductive Access where
  | read | write | rdmaRead | rdmaWrite
  deriving DecidableEq, Repr

/-- The physical results of the eight start-up steps (19 R459): what each step's test or training reports. -/
structure StartReport where
  /-- the level of BOOT_SEL (18 R424) -/
  bootSel : Bool
  /-- every rail inside its window (step 1) -/
  railsOk : Bool
  /-- the strap each die reads (01 R19); none: the die does not answer within the ROM's link timeout -/
  straps : List (Option DieNo)
  /-- the seal loop passed its 256 patterns (18 R433) -/
  sealOk : Bool
  /-- copies whose flash cannot be read: bit 0 copy A, bit 1 copy B (18 R441) -/
  flashError : BitVec 2
  /-- islands neither of whose PLLs became ready (step 3), and PLLs that did not become ready of islands whose other did: the island,
  whether PLL B -/
  deadIslands : List IslandNo
  unreadyPlls : List (IslandNo × Bool) := []
  /-- readings of the islands' sensors, by island, in 1/16 °C -/
  islandTemps : List (BitVec 16) := []
  /-- a sensor reads outside its fused range -/
  sensorBad : Bool
  /-- pairs whose checker trees failed their start-up test -/
  badTrees : List (DieNo × PairNo)
  /-- pseudo-channels that fail training (step 4) -/
  badChannels : List PcNo
  /-- stack temperatures at training, °C -/
  stackTemp : Byte
  /-- packages that fail training (step 5), and package temperatures at training, °C -/
  badPackages : List PkgNo
  packageTemp : Byte := 45#8
  /-- cores that fail step 6, with their verdicts -/
  badCores : List BistFail
  /-- clusters whose buffer or command processor failed step 6 -/
  badClusters : List ClusterNo := []
  /-- a shared cache, flask SRAM, or every command processor of a die failed step 6 -/
  sramHalt : Bool
  /-- the link came up within 5 s (step 7) -/
  linkUp : Bool
  /-- uptime, in ms, at which each step ended -/
  stepMs : List Nat
  /-- the monitors report operation within the recommended ratings -/
  inRatings : Bool
  deriving DecidableEq, Repr

/-- One command of the block, one constructor per row of opcode_table.json. -/
inductive Instr where
  -- messages of the mailbox (15, 18, 21)
  | sessionOpen (r : Req)
  | sessionClose (r : Req)
  | nop (r : Req)
  | contextCreate (r : Req)
  | queueCreate (r : Req)
  | objectAlloc (r : Req)
  | objectPlace (r : Req)
  | map (r : Req)
  | syncCreate (r : Req)
  | endpointSet (r : Req)
  | doorbell (r : Req)
  | abort (r : Req)
  | stateExportMessage (r : Req)
  | stateImportMessage (r : Req)
  | status (r : Req)
  | telemetry (r : Req)
  | regRead (r : Req)
  | attest (r : Req)
  | fwUpdate (r : Req)
  | debugUnlock (r : Req)
  | keyRotate (r : Req)
  | factoryReset (r : Req)
  | netConfig (r : Req)
  | retrain (r : Req)
  | margin (r : Req)
  | clkobs (r : Req)
  | enterTest (r : Req)
  | exitTest (r : Req)
  | selftest (r : Req)
  -- mailbox service and events (15)
  | requestRingExecute (k : SessNo)
  | eventRepeat (k : SessNo)
  | eventLost (k : SessNo)
  | progress (k : SessNo) (seq : Word)
  | readyAnnounce
  | sessionExpiry (k : SessNo)
  -- the port (15)
  | frameReceive (f : Frame)
  | pfcXoff (classes : Byte)
  | rdmaWrite (r : RdmaReq)
  | rdmaRead (r : RdmaReq)
  | unsupportedRdmaOp (k : SessNo) (mark : BitVec 3 × Bool)
  | congestionNotification (ep : EpNo)
  | rateRestore (ep : EpNo)
  | ackTimeout (ep : EpNo)
  | linkDown
  | linkRetry (up : Bool)
  -- commands of queues (14 R328): the queue they issue from and the descriptor
  | matmul (q : QueueNo) (d : Desc)
  | conv (q : QueueNo) (d : Desc)
  | attnScore (q : QueueNo) (d : Desc)
  | attnNorm (q : QueueNo) (d : Desc)
  | attnNormBackward (q : QueueNo) (d : Desc)
  | attnApply (q : QueueNo) (d : Desc)
  | attnApplyBackward (q : QueueNo) (d : Desc)
  | gatedStep (q : QueueNo) (d : Desc)
  | scanChunk (q : QueueNo) (d : Desc)
  | fork (q : QueueNo) (d : Desc)
  | appendPage (q : QueueNo) (d : Desc)
  | freeList (q : QueueNo) (d : Desc)
  | deferredFree
  | stateExport (q : QueueNo) (d : Desc)
  | stateImport (q : QueueNo) (d : Desc)
  | optUpdate (q : QueueNo) (d : Desc)
  | reduce (q : QueueNo) (d : Desc)
  | reduceAdapt (q : QueueNo) (d : Desc)
  | reduceHist (q : QueueNo) (d : Desc)
  | copy (q : QueueNo) (d : Desc)
  | zero (q : QueueNo) (d : Desc)
  | wait (q : QueueNo) (d : Desc)
  | signal (q : QueueNo) (d : Desc)
  | branch (q : QueueNo) (d : Desc)
  | branchDeadline (q : QueueNo)
  | stashBranch (q : QueueNo) (d : Desc)
  -- dispatch (14) and cores (05)
  | selectContext (die : DieNo)
  | urgentPreempt (die : DieNo)
  | admission (k : ClusterNo)
  | coreJoin (c : CoreNo)
  | tile (c : CoreNo) (item : Bool) (entry : BitVec 9)
  | dma (c : CoreNo) (item : Bool) (entry : BitVec 9)
  | vector (c : CoreNo) (item : Bool) (entry : BitVec 9)
  | expand (c : CoreNo) (item : Bool) (entry : BitVec 9)
  | transactionSlotGrant (c : CoreNo)
  | transactionResponse (c : CoreNo)
  | tableWalk (c : CoreNo) (va : VA) (a : Access)
  | workItemRetire (c : CoreNo) (item : Bool)
  | phaseBarrier (c : CoreNo)
  | commandRetire (cmd : Nat)
  | cellPhase (cmd : Nat)
  | scanPhase (cmd : Nat)
  | gatedStepStateLoad (cmd : Nat)
  -- the matrix engine (04)
  | patternLoad (e : EngineNo) (quarter : BitVec 2)
  | transposedLoad (e : EngineNo) (quarter : BitVec 2)
  | swap (e : EngineNo) (quarter : BitVec 2)
  | streamedRow (e : EngineNo) (quarter : BitVec 2)
  | ballastRow (e : EngineNo)
  | accumulatorCommit (e : EngineNo) (quarter : BitVec 2) (flip : Word)
  | drainRow (e : EngineNo) (quarter : BitVec 2) (flip : Word)
  | modeChange (e : EngineNo) (toQuarter : Bool)
  | rampStepBoundary (e : EngineNo)
  | startLimiterGrant (die : DieNo)
  | startLimiterTokenReturn (die : DieNo)
  -- tundish operations (05) and atomics of the shared cache (06)
  | claim (c : CoreNo)
  | tundishReturn (c : CoreNo) (index : Word)
  | tundishRetire (c : CoreNo)
  | reclaimAfterReturn (c : CoreNo)
  | addF32 (r : AtomReq) (b : Word)
  | addBf16 (r : AtomReq) (b : BitVec 16)
  | addI32 (r : AtomReq) (b : Word)
  | addWide (r : AtomReq) (b : BitVec 384)
  | maxF32 (r : AtomReq) (b : Word)
  | minF32 (r : AtomReq) (b : Word)
  | maxI32 (r : AtomReq) (b : Word)
  | minI32 (r : AtomReq) (b : Word)
  | atomicAnd (r : AtomReq) (wide : Bool) (b : DWord)
  | atomicOr (r : AtomReq) (wide : Bool) (b : DWord)
  | fetchInc (r : AtomReq)
  | atomicRead (r : AtomReq)
  | atomicCreditGrant (g : SliceNo)
  | creditGrant (x : SharedResource)
  | cacheAccess (a : CacheAcc)
  -- ladle units (06)
  | ladleDelivery
  | ladleBarrier (page : Bool)
  | ladleShareComplete (g : SliceNo) (page : Bool)
  -- ingot (13)
  | ingotCompress (o : ObjNo) (bar : BitVec 24)
  | ingotExpand (o : ObjNo) (bar : BitVec 24)
  -- memory (12)
  | sectorRead (a : SectorAt) (errs : SymbolErrors)
  | sectorWrite (a : SectorAt) (data : BitVec 512) (mask : BitVec 64) (slag : Bool) (errs : SymbolErrors)
  | patrolRead (g : Scrubbed) (errs : SymbolErrors)
  | holdBegin (pc : PcNo) (why : HoldReason)
  | holdRelease (pc : PcNo)
  | heldWaitDeadline (cmd : Nat)
  | retrainTrigger (pc : PcNo) (why : RetrainCause)
  | retrainComplete (pc : PcNo) (celsius : Byte)
  | retrainFail (pc : PcNo)
  | pseudoChannelRetire (pc : PcNo)
  | migrationStep (die : DieNo)
  | marginStepHold (h : MarginHold)
  | lpddrRetrain (p : PkgNo) (celsius : Byte)
  | lpddrPackageFail (p : PkgNo)
  -- tiers (13)
  | invalidation (ctx : CtxNo) (va : VA) (len : BitVec 49)
  | moveUpStep (o : ObjNo) (remote : List BarRead)
  | moveUpCommit (o : ObjNo)
  | promotionTimeout (o : ObjNo)
  | moveDownStep (o : ObjNo)
  | moveDownCommit (o : ObjNo)
  | abandonRequest (o : ObjNo)
  | accessedSweep
  | refetch (o : ObjNo) (bar : BitVec 24) (data : BarRead)
  -- faults, budgets, teardown, fencing (13, 14)
  | restartableFault (cmd : Nat) (cause : RestartCause)
  | replay (cmd : Nat)
  | budgetOverrun (cmd : Nat)
  | teardown (ctx : CtxNo)
  | coreHang (c : CoreNo)
  | coreFence (c : CoreNo) (cause : FenceCause)
  | fenceGateClose (c : CoreNo)
  | clusterFence (k : ClusterNo)
  -- the flask (16)
  | lockstepMismatch (die : DieNo) (p : PairNo) (halves : PairOut × PairOut)
  | checkerTreeTest (die : DieNo) (p : PairNo) (tree : Bool) (flagged : Bool)
  | watchdogExpiry (die : DieNo) (p : PairNo)
  | safWdogKick (die : DieNo) (p : PairNo)
  | interruptEvent (die : DieNo) (n : SourceNo)
  | irqClaim (die : DieNo) (p : PairNo) (n : SourceNo)
  | irqEoi (die : DieNo) (p : PairNo) (n : SourceNo)
  | irqSwset (die : DieNo) (n : SourceNo)
  | irqRouteSet (die : DieNo) (n : SourceNo) (mask : BitVec 4)
  | flaskTimerExpiry (die : DieNo) (timer : BitVec 4 × DWord)
  | registerWrite (addr : Word) (value : Word)
  -- safety (17)
  | sramScrub (a : SramArray) (found : Secded)
  | residueMismatch (u : ResidueUnit)
  | flitRetry (h : Hop)
  | retryExhaustion (h : Hop)
  | clockMonitorWindow (i : IslandNo) (khz : Word)
  | safeStateEntry
  | safetyRecord (r : RecordReq)
  | freeze
  | freezeRelease (ns : Nat) (stuck : List AuditRel)
  | conservationAudit (us : Nat)
  | ledgerSweep
  | conditionLoss (c : Condition)
  -- security (18)
  | svnAdvance
  | presenceAssert
  | sealPattern (sent received : BitVec 16)
  -- clocks and power (19)
  | pllLock (i : IslandNo) (pllB : Bool)
  | clockSwitch (i : IslandNo) (src : ClockSource)
  | pllLockLoss (i : IslandNo)
  | refclkLoss
  | gatedBlockAccess (i : IslandNo) (block : BitVec 5) (write : Bool)
  | railOutOfWindow (r : RailNo) (mv : BitVec 20)
  | vinShutdown
  | thermalThrottle (i : IslandNo) (sixteenths : BitVec 16)
  | throttleRestore (i : IslandNo)
  | temperatureLimit (x : Sensor) (sixteenths : BitVec 16)
  | powerCapSample (watts : BitVec 16)
  | resetNFall (ns : Nat)
  | internalResetRelease
  | startUp (r : StartReport)
  -- the test access port (21)
  | extest (die : DieNo) (shift : BitVec 9)
  | idcode (die : DieNo)
  | samplePreload (die : DieNo) (preload : Option (BitVec 9))
  | secBoot (die : DieNo)
  | flaskDebug (die : DieNo) (p : PairNo) (halt : Option Bool) (addr : Nat)
  | gatedRead (die : DieNo) (addr : Word)
  | bypass (die : DieNo)
  | trst (low : Bool)
  -- presence, reset, alerts (18, 19)
  | presenceRelease
  | presenceWindowExpiry
  | delayedModuleReset
  | thermAlertN (x : Sensor) (sixteenths : BitVec 16)
  | standbyPllLockLoss (i : IslandNo) (pllB : Bool)
  deriving DecidableEq, Repr

end Sys2Proof
end

