-- ==== Sys2Proof/Decode.lean ====
section
/-! DEFINITION. Decode.lean: the command a word spells by the opcode table's bits. No row of the table of this block
gives bits: commands arrive as messages, descriptors and events, whose fields the meanings read. -/

namespace Sys2Proof

/-- The command that nbits bits w spell: none, since no row of the opcode table gives bits. -/
def decodeTableWord (_nbits _w : Nat) : Option Instr := none

end Sys2Proof
end

