-- ==== Sys2Proof/Machine/Bits.lean ====
section
/-! DEFINITION. Machine/Bits.lean: bit fields of little-endian numbers, bytes, signed readings (00_scope.md R7). -/

namespace Sys2Proof.Machine

/-- Bits [hi:lo] of n. -/
def bits (n hi lo : Nat) : Nat := (n >>> lo) % 2 ^ (hi + 1 - lo)
/-- Bit i of n as a Bool. -/
def bit (n i : Nat) : Bool := n.testBit i
/-- n with bits [hi:lo] replaced by v (truncated to the field). -/
def setBits (n hi lo v : Nat) : Nat :=
  n - (bits n hi lo <<< lo) + ((v % 2 ^ (hi + 1 - lo)) <<< lo)
/-- The two's-complement reading of the low w bits of n. -/
def signed (w n : Nat) : Int :=
  let m := n % 2 ^ w
  if m < 2 ^ (w - 1) then (m : Int) else (m : Int) - (2 ^ w : Nat)
/-- The low w bits of an integer's two's complement. -/
def wrap (w : Nat) (i : Int) : Nat := (i % ((2 ^ w : Nat) : Int)).toNat
/-- n as a Word. -/
def w32 (n : Nat) : Word := BitVec.ofNat 32 n
/-- Word i of a value. -/
def wordOf (v i : Nat) : Word := w32 (v >>> (32 * i))
/-- A Bool as 0 or 1. -/
def b2n (b : Bool) : Nat := if b then 1 else 0

/-- The n bytes of v, least significant first (R7). -/
def toBytes : Nat → Nat → List Byte
  | 0, _ => []
  | n + 1, v => BitVec.ofNat 8 v :: toBytes n (v / 256)
/-- The number whose bytes, least significant first, are l (R7). -/
def ofBytes : List Byte → Nat
  | [] => 0
  | b :: l => b.toNat + 256 * ofBytes l
/-- Bytes grouped in words of n bytes (a last partial group is kept). -/
def groupsAux : Nat → Nat → List Byte → List (List Byte)
  | 0, _, _ => []
  | _, _, [] => []
  | fuel + 1, n, l => l.take n :: groupsAux fuel n (l.drop n)
/-- The little-endian words of n bytes of a byte list. -/
def wordsOf (n : Nat) (l : List Byte) : List Nat :=
  (groupsAux l.length n l).map ofBytes
/-- Saturating increase of a 32-bit counter (R16). -/
def satAdd (w : Word) (n : Nat) : Word :=
  if w.toNat + n ≥ 2 ^ 32 then 0xFFFFFFFF#32 else w + w32 n
/-- n rounded up to a multiple of m. -/
def roundUp (n m : Nat) : Nat := if m = 0 then n else ((n + m - 1) / m) * m
/-- ceil(n / m). -/
def ceilDiv (n m : Nat) : Nat := if m = 0 then 0 else (n + m - 1) / m
/-- Whether n is a power of two. -/
def isPow2 (n : Nat) : Bool := n != 0 && 2 ^ n.log2 == n
/-- The sum of a function over 0 … n − 1. -/
def sumTo (n : Nat) (f : Nat → Nat) : Nat := (List.range n).foldl (fun a i => a + f i) 0
/-- Element i of a list of numbers, 0 beyond its end. -/
def nth (l : List Nat) (i : Nat) : Nat := l.getD i 0
/-- The list with element i replaced, unchanged where i is beyond its end. -/
def setNth {α : Type} (l : List α) (i : Nat) (x : α) : List α := l.set i x
/-- Whether every bit of the listed [hi:lo] fields is zero. -/
def zeroFields (n : Nat) (fs : List (Nat × Nat)) : Bool := fs.all fun f => bits n f.1 f.2 == 0

end Sys2Proof.Machine
end

