-- ==== Sys2Proof/Machine/Crypto.lean ====
section
/-! DEFINITION. Machine/Crypto.lean: SHA-256 and ECDSA P-256 (18_security_and_presence.md R426, R430, R431;
09_recurrent_streams.md R225). The constants of both come from the published standards the spec names (00_scope.md):
PRESUMED, log entry 5. -/

namespace Sys2Proof.Machine

/-- The round constants of SHA-256. -/
def shaK : List Word :=
  [0x428A2F98#32, 0x71374491#32, 0xB5C0FBCF#32, 0xE9B5DBA5#32, 0x3956C25B#32, 0x59F111F1#32,
   0x923F82A4#32, 0xAB1C5ED5#32, 0xD807AA98#32, 0x12835B01#32, 0x243185BE#32, 0x550C7DC3#32,
   0x72BE5D74#32, 0x80DEB1FE#32, 0x9BDC06A7#32, 0xC19BF174#32, 0xE49B69C1#32, 0xEFBE4786#32,
   0x0FC19DC6#32, 0x240CA1CC#32, 0x2DE92C6F#32, 0x4A7484AA#32, 0x5CB0A9DC#32, 0x76F988DA#32,
   0x983E5152#32, 0xA831C66D#32, 0xB00327C8#32, 0xBF597FC7#32, 0xC6E00BF3#32, 0xD5A79147#32,
   0x06CA6351#32, 0x14292967#32, 0x27B70A85#32, 0x2E1B2138#32, 0x4D2C6DFC#32, 0x53380D13#32,
   0x650A7354#32, 0x766A0ABB#32, 0x81C2C92E#32, 0x92722C85#32, 0xA2BFE8A1#32, 0xA81A664B#32,
   0xC24B8B70#32, 0xC76C51A3#32, 0xD192E819#32, 0xD6990624#32, 0xF40E3585#32, 0x106AA070#32,
   0x19A4C116#32, 0x1E376C08#32, 0x2748774C#32, 0x34B0BCB5#32, 0x391C0CB3#32, 0x4ED8AA4A#32,
   0x5B9CCA4F#32, 0x682E6FF3#32, 0x748F82EE#32, 0x78A5636F#32, 0x84C87814#32, 0x8CC70208#32,
   0x90BEFFFA#32, 0xA4506CEB#32, 0xBEF9A3F7#32, 0xC67178F2#32]
/-- The initial hash value of SHA-256. -/
def shaH0 : List Word :=
  [0x6A09E667#32, 0xBB67AE85#32, 0x3C6EF372#32, 0xA54FF53A#32, 0x510E527F#32, 0x9B05688C#32, 0x1F83D9AB#32,
   0x5BE0CD19#32]

/-- Rotation right of a word. -/
def rotr (w : Word) (n : Nat) : Word := w.rotateRight n
/-- The big-endian number of a byte string. -/
def ofBytesBE (l : List Byte) : Nat := l.foldl (fun a b => a * 256 + b.toNat) 0
/-- The n bytes of v, most significant first. -/
def toBytesBE (n v : Nat) : List Byte := (toBytes n v).reverse

/-- The message schedule, newest word first, extended n times. -/
def shaExtend : Nat → List Word → List Word
  | 0, ws => ws
  | n + 1, ws =>
    let w := fun i => ws.getD i 0#32
    let s0 := rotr (w 14) 7 ^^^ rotr (w 14) 18 ^^^ (w 14 >>> 3)
    let s1 := rotr (w 1) 17 ^^^ rotr (w 1) 19 ^^^ (w 1 >>> 10)
    shaExtend n ((w 15 + s0 + w 6 + s1) :: ws)

/-- The eight working words. -/
structure Sha8 where
  a : Word
  b : Word
  c : Word
  d : Word
  e : Word
  f : Word
  g : Word
  h : Word
  deriving DecidableEq, Repr

/-- One round. -/
def shaRound (x : Sha8) (kw : Word × Word) : Sha8 :=
  let s1 := rotr x.e 6 ^^^ rotr x.e 11 ^^^ rotr x.e 25
  let ch := (x.e &&& x.f) ^^^ (~~~x.e &&& x.g)
  let t1 := x.h + s1 + ch + kw.1 + kw.2
  let s0 := rotr x.a 2 ^^^ rotr x.a 13 ^^^ rotr x.a 22
  let mj := (x.a &&& x.b) ^^^ (x.a &&& x.c) ^^^ (x.b &&& x.c)
  ⟨t1 + (s0 + mj), x.a, x.b, x.c, x.d + t1, x.e, x.f, x.g⟩

/-- One block of 64 bytes. -/
def shaBlock (h : List Word) (blk : List Byte) : List Word :=
  let w16 := (groupsAux 64 4 blk).map fun g => w32 (ofBytesBE g)
  let ws := (shaExtend 48 w16.reverse).reverse
  let x := fun i => h.getD i 0#32
  let r := (shaK.zip ws).foldl shaRound ⟨x 0, x 1, x 2, x 3, x 4, x 5, x 6, x 7⟩
  [x 0 + r.a, x 1 + r.b, x 2 + r.c, x 3 + r.d, x 4 + r.e, x 5 + r.f, x 6 + r.g, x 7 + r.h]

/-- SHA-256 of a byte string: 32 bytes, the first byte at the lowest address. -/
def sha256 (m : List Byte) : List Byte :=
  let n := m.length
  let pad := (119 - n % 64) % 64
  let msg := m ++ 0x80#8 :: List.replicate pad 0#8 ++ toBytesBE 8 (8 * n)
  ((groupsAux msg.length 64 msg).foldl shaBlock shaH0).flatMap fun w => toBytesBE 4 w.toNat

/-! ## P-256 -/

/-- The field prime. -/
def p256P : Nat := 0xFFFFFFFF00000001000000000000000000000000FFFFFFFFFFFFFFFFFFFFFFFF
/-- The order n of the group. -/
def p256N : Nat := 0xFFFFFFFF00000000FFFFFFFFFFFFFFFFBCE6FAADA7179E84F3B9CAC2FC632551
/-- The curve's coefficient b. -/
def p256B : Nat := 0x5AC635D8AA3A93E7B3EBBD55769886BC651D06B0CC53B0F63BCE3C3E27D2604B
/-- The base point. -/
def p256G : Nat × Nat :=
  (0x6B17D1F2E12C4247F8BCE6E563A440F277037D812DEB33A0F4A13945D898C296,
   0x4FE342E2FE1A7F9B8EE7EB4A7C0F9E162BCE33576B315ECECBB6406837BF51F5)

/-- a − b modulo m. -/
def subMod (a b m : Nat) : Nat := (a + m - b % m) % m
/-- Euclid's inverse modulo m: `r0, r1` the remainders, `t0, t1` the coefficients. -/
def invAux : Nat → Nat → Nat → Nat → Nat → Nat → Nat
  | 0, _, _, _, t0, _ => t0
  | fuel + 1, m, r0, r1, t0, t1 =>
    if r1 = 0 then t0 else invAux fuel m r1 (r0 % r1) t1 (subMod t0 (r0 / r1 * t1) m)
/-- The inverse of a modulo the prime m. -/
def invMod (a m : Nat) : Nat := invAux 800 m m (a % m) 0 1 % m

/-- Sum of two points of the curve; none is the point at infinity. -/
def ptAdd (a b : Option (Nat × Nat)) : Option (Nat × Nat) :=
  match a, b with
  | none, q => q
  | p, none => p
  | some (x1, y1), some (x2, y2) =>
    let p := p256P
    if x1 = x2 ∧ (y1 + y2) % p = 0 then none
    else
      let l := if x1 = x2 then (3 * x1 * x1 + (p - 3)) * invMod (2 * y1) p % p
        else subMod y2 y1 p * invMod (subMod x2 x1 p) p % p
      let x3 := subMod (l * l) (x1 + x2) p
      some (x3, subMod (l * subMod x1 x3 p) y1 p)

/-- k · q, by the bits of k from bit i − 1 down. -/
def ptMulAux : Nat → Nat → Option (Nat × Nat) → Option (Nat × Nat) → Option (Nat × Nat)
  | 0, _, _, acc => acc
  | i + 1, k, q, acc =>
    let d := ptAdd acc acc
    ptMulAux i k q (if k.testBit i then ptAdd d q else d)
/-- k · q. -/
def ptMul (k : Nat) (q : Option (Nat × Nat)) : Option (Nat × Nat) := ptMulAux 256 k q none

/-- Whether a pair of coordinates is a point of the curve. -/
def onCurve (x y : Nat) : Bool :=
  x < p256P && y < p256P && (y * y) % p256P == (x * x * x + (p256P - 3) * x + p256B) % p256P

/-- ECDSA verification: a 64-byte public key (x then y), a 64-byte signature (r then s) and a 32-byte digest. -/
def ecdsaVerify (key sig digest : List Byte) : Bool :=
  let x := ofBytesBE (key.take 32)
  let y := ofBytesBE ((key.drop 32).take 32)
  let r := ofBytesBE (sig.take 32)
  let s := ofBytesBE ((sig.drop 32).take 32)
  let n := p256N
  if !onCurve x y || r == 0 || s == 0 || r ≥ n || s ≥ n then false
  else
    let w := invMod s n
    let e := ofBytesBE digest
    match ptAdd (ptMul (e * w % n) (some p256G)) (ptMul (r * w % n) (some (x, y))) with
    | none => false
    | some (px, _) => px % n == r

/-- The public key of a scalar, x then y. -/
def ecdsaPublic (d : Nat) : List Byte :=
  match ptMul d (some p256G) with
  | none => List.replicate 64 0#8
  | some (x, y) => toBytesBE 32 x ++ toBytesBE 32 y

/-- ECDSA signature of a digest with scalar d and per-signature value k. -/
def ecdsaSign (d k : Nat) (digest : List Byte) : List Byte :=
  let n := p256N
  let k := k % (n - 1) + 1
  match ptMul k (some p256G) with
  | none => List.replicate 64 0#8
  | some (x, _) =>
    let r := x % n
    let s := invMod k n * (ofBytesBE digest + r * d) % n
    toBytesBE 32 r ++ toBytesBE 32 s

end Sys2Proof.Machine
end

