-- ==== Sys2Proof/Machine/Tab.lean ====
section
/-! DEFINITION. Machine/Tab.lean: sparse tables of plain data. A table lists (key, value) pairs with strictly rising
keys and lists no value equal to the default of its key, so equal tables are equal data. -/

namespace Sys2Proof.Machine

/-- A sparse table: an unlisted key holds its default. -/
abbrev Tab (α : Type) := List (Nat × α)

/-- The value at key k, `d k` where it is not listed. -/
def tabGet {α : Type} (d : Nat → α) (t : Tab α) (k : Nat) : α :=
  match t with
  | [] => d k
  | (j, x) :: t => if j = k then x else tabGet d t k

/-- The table with (k, v) listed in the place of key k. -/
def tabIns {α : Type} (t : Tab α) (k : Nat) (v : α) : Tab α :=
  match t with
  | [] => [(k, v)]
  | (j, x) :: t => if k < j then (k, v) :: (j, x) :: t else if k = j then (k, v) :: t else (j, x) :: tabIns t k v

/-- The table with v at key k; a default value is not listed. -/
def tabSet {α : Type} [DecidableEq α] (d : Nat → α) (t : Tab α) (k : Nat) (v : α) : Tab α :=
  if v = d k then t.filter fun p => p.1 != k else tabIns t k v

/-- The table with every listed value passed through f; values that become defaults are dropped. -/
def tabMap {α : Type} [DecidableEq α] (d : Nat → α) (f : Nat → α → α) (t : Tab α) : Tab α :=
  match t with
  | [] => []
  | (k, v) :: t =>
    if f k v = d k then (tabMap d f t).filter fun p => p.1 != k else (k, f k v) :: tabMap d f t

/-- The n values from key a on. -/
def tabRead {α : Type} (d : Nat → α) (t : Tab α) (a n : Nat) : List α := (List.range n).map fun i => tabGet d t (a + i)
/-- The table with the values of a list from key a on. -/
def tabPut {α : Type} [DecidableEq α] (d : Nat → α) (t : Tab α) (a : Nat) (l : List α) : Tab α :=
  match l with
  | [] => t
  | v :: l => tabPut d (tabSet d t a v) (a + 1) l

/-- The canonical form: strictly rising keys, no default listed. -/
def tabWf {α : Type} [DecidableEq α] (d : Nat → α) : Tab α → Bool
  | [] => true
  | (k, v) :: t => decide (v ≠ d k) && t.all (fun p => decide (k < p.1)) && tabWf d t

end Sys2Proof.Machine
end

