-- ==== Sys2Proof/Machine/Parts.lean ====
section
/-! DEFINITION. Machine/Parts.lean: the parts of the machine's state, one structure per kind of unit or table entry,
each with the rules of spec/ that give it. -/

namespace Sys2Proof.Machine

/-! ## Engines (04) -/

/-- The tile an engine, or a quarter of it, works on (05 R121): what the tile sequencer fixed at issue, and how far the
tile has come. Addresses are (space, address): 0 device virtual, 1 scratchpad, 2 cluster buffer. -/
structure EngTile where
  cmd : Nat
  core : Nat
  item : Nat
  entry : Nat
  rank : Nat
  quarter : Bool
  slot : Nat
  rows : Nat
  pats : Nat
  depth : Nat
  pat : Nat
  str : Nat
  accum : Bool
  drain : Bool
  transpose : Bool
  rowMask : Nat
  colMask : Nat
  stoch : Bool
  /-- tile row and column index of the seeds (02 R49) -/
  seedRow : Nat
  seedCol : Nat
  tr : Nat
  tc : Nat
  parity : Nat
  patAddr : Nat × Nat
  strAddr : Nat × Nat
  rowStride : Nat
  patStride : Nat
  outAddr : Nat × Nat
  outStride : Nat
  runEntry : Nat
  factor : Word
  /-- the step of a GATED_STEP's step phase (09 R213) -/
  step : Option Nat := none
  /-- the log-sum-exp record of row 0, where ATTN_APPLY names records (08 R188) -/
  lse : Option Nat := none
  /-- patterns loaded and swapped in; rows of the current pattern issued; pattern and rows committed; rows drained -/
  loaded : Nat := 0
  swapped : Nat := 0
  issued : Nat := 0
  comPat : Nat := 0
  comRows : Nat := 0
  drained : Nat := 0
  /-- rows read so far, over all patterns, and those of them still in the engine's row queue, oldest first (05 R110) -/
  fetched : Nat := 0
  queue : List (List Byte) := []
  /-- what the tile has measured: AMAX, saturations, flushes, EVENTS (03 R66) -/
  amax : Word := 0x7FC00000#32
  sats : Nat := 0
  flushes : Nat := 0
  events : Nat := 0
  /-- an infinite result, and an engine overflow or NaN event (11 R245) -/
  infs : Bool := false
  faults : Bool := false
  deriving DecidableEq, Repr

/-- A bank of stationary values of one quarter, or of the whole array in full mode (R76, R80 to R82, R95). -/
structure Bank where
  /-- codes in order (plane · n + depth position) · n + column, n = 32 or 16 -/
  codes : List Nat := []
  /-- c[p][k] and g[p][k] of R95: FP32 words, or 32-bit integers, at plane · n + depth position -/
  c : List Word := []
  g : List Word := []
  deriving DecidableEq, Repr

/-- A streamed row on its way to the column feet (R85): its tile (command, item, entry), pattern and row, the slice
values of each plane for each unmasked column, those of the checksum column and its magnitude bound, the counted
events of its slices, the elements themselves, and the pattern they met. -/
structure Flight where
  cmd : Nat
  item : Nat
  entry : Nat
  pat : Nat
  row : Nat
  slices : List (List Word)
  cks : List Word
  bound : List Word
  ovf : Nat
  nans : Nat
  elems : List Nat
  bank : Bank
  deriving DecidableEq, Repr

/-- What one quarter of an engine, or the whole array in full mode, holds (R82, R84, R89, R90, R92, R96). -/
structure Quarter where
  pattern : Bank := {}
  next : Bank := {}
  valid : Bool := false
  swapWait : Bool := false
  /-- tiles issued and not yet complete, oldest first -/
  tiles : List EngTile := []
  flight : List Flight := []
  /-- slots whose last commit was of a tile that accumulates in I32 (R99) -/
  intSlots : Tab Bool := []
  /-- drain-pending rows, slot · 32 + row (R90) -/
  pendingRows : List Nat := []
  /-- a commit waits on a drain-pending row -/
  accWait : Bool := false
  /-- admitted cycles its rows have used in the current step (R92, R102) -/
  used : Nat := 0
  /-- checksum accumulators of each row, by slot · 32 + row: Y, G, and S of the row's elements at their last commit (R96,
  R97) -/
  rowY : Tab Word := []
  rowG : Tab Word := []
  rowS : Tab Nat := []
  /-- additions made to each row's checksum accumulator, by slot · 32 + row (R97) -/
  rowN : Tab Nat := []
  /-- Y and G of each column, by slot · 64 + column, column 32 the corner (R96) -/
  colY : Tab Word := []
  colG : Tab Word := []
  /-- streamed-element sums of the slot in progress, by plane · 32 + depth position, and of their magnitudes (R96) -/
  strSum : Tab Word := []
  strAbs : Tab Word := []
  deriving DecidableEq, Repr

/-- An engine (04). -/
structure Engine where
  mode : Bool := false
  /-- the quarters by number; quarter 0 stands for the whole array in full mode -/
  q : Tab Quarter := []
  patFmt : BitVec 4 := 0#4
  strFmt : BitVec 4 := 0#4
  level : Nat := 0
  /-- waiting for a start-limiter grant; granted and not yet at level 1 (R103, R104) -/
  rampReq : Bool := false
  granted : Bool := false
  /-- mode tag of each KiB of accumulator memory: 0 empty, 1 full, 2 quarter (R88, R89) -/
  tags : Tab Nat := []
  /-- a real row was issued in the current step (R103) -/
  realRow : Bool := false
  /-- the last real row streamed since level 0, for ballast (R103) -/
  lastRow : Option (List Nat) := none
  /-- rows are stopped: the engine only falls to level 0 (R105) -/
  stopped : Bool := false
  deriving DecidableEq, Repr

/-- The start limiter of a die (R104): tokens left, the engine granted last (die-local), the tokens out. -/
structure Limiter where
  tokens : Nat := 64
  last : Nat := 511
  out : List Nat := []
  deriving DecidableEq, Repr

/-! ## Cores and clusters (05) -/

/-- An entry of a work item that has issued: its number, the work it has left (transactions, tiles), whether it is
complete (R119, R120). -/
structure Entry where
  no : Nat
  left : Nat
  tiles : Nat
  done : Bool
  deriving DecidableEq, Repr

/-- A work item a core holds (R117, R119). -/
structure Item where
  index : Nat
  parity : Nat
  /-- fully masked: retired without executing any entry (08 R184) -/
  skip : Bool := false
  entries : List Entry := []
  deriving DecidableEq, Repr

/-- What a transaction of a core does when its response comes (R111), within one 256-byte granule. -/
inductive Move where
  /-- bytes of a device virtual address go to an on-die address (space, address) -/
  | fetch (va len : Nat) (dst : Nat × Nat) (hint : Hint)
  /-- bytes go to a device virtual address -/
  | put (va : Nat) (l : List Byte) (hint : Hint)
  /-- bytes of a source line of an EXPAND entry, from an offset of it on, go into the line stage; the entry's rows are written once the
  last has come -/
  | stage (va len line off : Nat)
  deriving DecidableEq, Repr

/-- A transaction of a core (R111): its number, its work item's number, its entry, its unit by the order of R109 (2 the drain, 4
the expander, 5 the DMA engine), what it moves, whether it holds a slot. -/
structure Trans where
  no : Nat
  item : Nat
  entry : Nat
  unit : Nat
  move : Move
  slot : Bool
  deriving DecidableEq, Repr

/-- A core (R108 to R120, R141). -/
structure CoreSt where
  fenced : Bool := false
  /-- the fence gate is closing: stopped, its claims not yet returned (14 R347) -/
  closing : Bool := false
  /-- the fence gate has closed, claims are still to be returned (05 R136) -/
  shut : Bool := false
  cmd : Option Nat := none
  slot : Nat := 0
  place : Nat := 0
  phase : Nat := 0
  items : List Item := []
  /-- work items claimed in the current phase: the parity w of R116 -/
  claimed : Nat := 0
  /-- EMPTY received in the current phase; a RETURN was made since (R136) -/
  empty : Bool := false
  returned : Bool := false
  /-- a RETIRE returned DONE and the barrier is still to be reported (R136) -/
  report : Bool := false
  trans : List Trans := []
  /-- the number of its next transaction; free transaction slots (14 R349) -/
  transNo : Nat := 0
  slotsFree : Nat := 32
  /-- the unit whose transaction was given a slot last (14 R349) -/
  slotLast : Nat := 5
  /-- translation cache: the context it serves and the leaf addresses it holds, newest first (R112) -/
  xctx : Nat := 0
  xlate : List Nat := []
  /-- uptime milliseconds of its checksum mismatches, newest first (14 R346) -/
  mismatches : List Nat := []
  /-- cycles without progress (14 R346) -/
  idleCycles : Nat := 0
  deriving DecidableEq, Repr

/-- A cluster (R132, R136, R140, R141). -/
structure ClusterSt where
  fenced : Bool := false
  /-- reservations: command and slot, base and length in 4 KiB units -/
  res : List ((Nat × Nat) × Nat × Nat) := []
  /-- slots of commands waiting for admission, oldest first: command and slot -/
  waiting : List (Nat × Nat) := []
  /-- places taken: the place's number and its command (14 R335) -/
  places : List (Nat × Nat) := []
  /-- places and 4 KiB units of the buffer that are free (14 R349) -/
  placesFree : Nat := 4
  resFree : Nat := 2048
  deriving DecidableEq, Repr

/-! ## Memory slices (06, 12) -/

/-- The kind of a shared-cache line (R161). -/
inductive LineKind where
  | ordinary | keep | last (n : Nat)
  deriving DecidableEq, Repr

/-- A line of a shared cache (R160): its line number (address / 128), its kind, whether it is dirty. The lines of a set
are listed most recently used first. -/
structure Line where
  tag : Nat
  kind : LineKind
  dirty : Bool
  deriving DecidableEq, Repr

/-- A memory slice (06 R142 to R165, 12 R262 to R294): the ladle unit, the shared cache's atomic unit, the stack. -/
structure SliceSt where
  /-- free credits; requesters holding credits, one entry per credit; requesters waiting; the requester served last (R164) -/
  free : Nat := 64
  credits : List Nat := []
  atomWait : List Nat := []
  atomLast : Nat := 580
  /-- free transaction slots of the ladle unit (14 R349) -/
  slotsFree : Nat := 64
  /-- the old value the atomic unit answered last (R162) -/
  atomOld : Nat := 0
  /-- patrol pointer: sectors read in the current pass (12 R272) -/
  patrol : Nat := 0
  /-- sectors of held pseudo-channels that the pass comes back to -/
  skipped : List Nat := []
  deriving DecidableEq, Repr

/-- A pool of flow-control credits (14 R349; 17 R482): free credits, the sources that hold one each, those that wait, the one
served last. -/
structure Channel where
  free : Nat
  held : List Nat := []
  wait : List Nat := []
  last : Nat := 0
  deriving DecidableEq, Repr

/-- A pseudo-channel (12 R273 to R279). -/
structure PcSt where
  /-- 0 active, 1 held, 2 FAILED, 3 retired -/
  state : BitVec 2 := 0#2
  reason : BitVec 2 := 0#2
  temp : BitVec 8 := 25#8
  cePass : BitVec 16 := 0#16
  /-- ms since the last hold for retraining ended, capped at 100 (R273); the time of each uncorrectable read and
  interface-error retraining that still counts (R278) -/
  lastHoldEnd : Option Nat := none
  ueTimes : List Nat := []
  parityTimes : List Nat := []
  parityErrs : List Nat := []
  lastTrain : Nat := 0
  retireDue : Bool := false
  /-- a retraining is due (R276), and whether interface errors ask for it (R278) -/
  trainDue : Bool := false
  trainParity : Bool := false
  writeMargined : Bool := false
  deriving DecidableEq, Repr

/-- An LPDDR5X package (12 R284 to R288). -/
structure PkgSt where
  state : BitVec 2 := 0#2
  reason : BitVec 2 := 0#2
  temp : BitVec 8 := 25#8
  cePass : BitVec 16 := 0#16
  patrol : Nat := 0
  deriving DecidableEq, Repr

/-- A region of a migration (12 R280). -/
inductive Region where
  /-- a replacement of R279: lane j′, position k, the new die-local channel -/
  | lane (j k new : Nat)
  /-- a logical channel -/
  | logical (c : Nat)
  deriving DecidableEq, Repr

/-- A retirement in progress on a die (12 R279, R280). -/
structure Migration where
  target : Nat
  lane : Nat
  regions : List Region
  w : Nat := 0
  deriving DecidableEq, Repr

/-- A margining sweep in progress (12 R289, 21 R475): its target and parameter, the clean steps below and above the
trained setting, the directions done, and when its last hold ended. -/
structure Sweep where
  lpddr : Bool
  unit : Nat
  chan : Nat
  kind : Nat
  neg : Nat := 0
  pos : Nat := 0
  negDone : Bool := false
  posDone : Bool := false
  lastHold : Option Nat := none
  deriving DecidableEq, Repr

/-- A migration step that has completed (12 R280, R281): the map generation it led to, its die, region, watermark before it,
and the slice it moved granules from. -/
structure StepRec where
  gen : Nat
  die : Nat
  region : Region
  w : Nat
  slice : Nat
  deriving DecidableEq, Repr

/-- A die's memory repair (12 R279, R280): lanes taken, retirements, the migration in progress and those waiting. -/
structure RepairSt where
  lanesTaken : List Nat := []
  abandoned : List Nat := []
  mig : Option Migration := none
  waiting : List Migration := []
  deriving DecidableEq, Repr

/-! ## Objects and address spaces (13) -/

/-- An object: its residency entry (R302), the placement of its near frames as extents (address, bytes), its bars in the
lower tiers, and what its move has in hand. -/
structure Obj where
  /-- 0 FREE, 1 T1, 2 MOVING_UP, 3 MOVING_DOWN, 4 T2, 5 T3 -/
  state : BitVec 3 := 0#3
  src : BitVec 2 := 0#2
  dst : BitVec 2 := 0#2
  pref : BitVec 2 := 0#2
  tierPin : Bool := false
  leaf64k : Bool := false
  origin : Bool := false
  clean : Bool := false
  poison : Bool := false
  refetch : Bool := false
  abandon : Bool := false
  accessed : Bool := false
  ew : BitVec 2 := 1#2
  faults : BitVec 32 := 0#32
  syncEn : Bool := false
  sync : BitVec 14 := 0#14
  ep : BitVec 8 := 0#8
  size64k : Nat := 0
  wmark : BitVec 20 := 0#20
  pins : BitVec 16 := 0#16
  owner : BitVec 12 := 0#12
  near : List (Nat × Nat) := []
  /-- the leaves' PRESENT and WATCH (R296), one value for every leaf of the object -/
  present : Bool := false
  watch : Bool := false
  /-- module-tier frames of each bar: first frame and count, by bar number (R309); remote frames held or reserved -/
  bars : Tab (Nat × Nat) := []
  remFrames : Nat := 0
  /-- remote frames that the bars written by the move in progress use -/
  remUsed : Nat := 0
  /-- the offset of its origin image, in 4 KiB units (R312) -/
  originOff : Nat := 0
  /-- bars of its remote copy that hold slag (R314) -/
  remSlag : List Nat := []
  /-- its remote copy is the origin image: from its creation on, or since the module tier was lost (R299, R318) -/
  image : Bool := false
  /-- the move in progress fetches it again from the origin image (R315, R318) -/
  reMove : Bool := false
  /-- its owner has been released: it is released too once it is in one tier, with no pin and no mapping (15 R368) -/
  orphan : Bool := false
  /-- OBJECT_PLACE requests to report on: session, sequence number, tier (15 R376) -/
  places : List (Nat × Nat × Nat) := []
  deriving DecidableEq, Repr

/-- A mapping of an object in a context's tables (R295, R300): the leaves it stands for. Every entry of the tables on the way to
them is formed from the mappings (`Mach.tableEntry`). -/
structure Mapping where
  ctx : Nat
  va : Nat
  obj : Nat
  write : Bool
  rdmaR : Bool
  rdmaW : Bool
  deriving DecidableEq, Repr

/-- A translation table (R295): its context, its level, the number of its span among the level's spans of the address space, its
address. -/
structure TableSt where
  ctx : Nat
  level : Nat
  span : Nat
  addr : Nat
  deriving DecidableEq, Repr

/-- A table entry (R296). -/
structure TableEntry where
  valid : Bool := false
  leaf : Bool := false
  present : Bool := false
  write : Bool := false
  rdmaR : Bool := false
  rdmaW : Bool := false
  watch : Bool := false
  addr : Nat := 0
  obj : Nat := 0
  deriving DecidableEq, Repr

/-- A page pool or a stash pool in the pool table (08 R191, 10 R238). -/
structure PoolSt where
  live : Bool := false
  stash : Bool := false
  ctx : Nat := 0
  control : Nat := 0
  /-- the control object's address in the context -/
  ctrlVa : Nat := 0
  pages : Nat := 0
  obj : Nat := 0
  audit : Nat := 0
  deriving DecidableEq, Repr

/-- A remote endpoint (13 R312, 15 R359, R380). -/
structure EpSt where
  configured : Bool := false
  body : Nat := 0
  localQpn : Nat := 0
  localPsn : Nat := 0
  /-- its sending rate in 1/65,536 of line rate (15 R359) -/
  rate : Nat := 0
  error : Bool := false
  retries : Nat := 0
  deriving DecidableEq, Repr

/-! ## Scheduling (14) -/

/-- What TELEMETRY keeps of a command that retired or was torn down (15 R385). -/
structure CmdLog where
  cmdId : Nat
  queue : Nat
  status : Nat
  pos : Nat
  charged : Nat
  cycles : Nat
  replays : Nat
  held : Nat
  ovf : Nat
  nan : Nat
  cks : Nat
  deriving DecidableEq, Repr

/-- A context (R323, R337, R352). -/
structure CtxSt where
  /-- 0 free, 1 active, 2 tearing down, 3 TORN -/
  state : BitVec 2 := 0#2
  client : Nat := 0
  share : Nat := 0
  priority : Bool := false
  lastSt : Nat := 0
  charged : Nat := 0
  /-- PASS and REMAIN of each die -/
  pass : Tab Nat := []
  remain : Tab Int := []
  /-- eligible on each die when last considered (R337) -/
  eligible : Tab Bool := []
  /-- the context's TAG (15 R360) and the sessions that have it open (15 R372) -/
  tag : Nat := 0
  sessions : List Nat := []
  /-- CMD_ID of the fault that began its teardown -/
  faultCmd : Nat := 0
  /-- what TELEMETRY reports of it (15 R385): commands retired, replays, residency misses, recomputes, overflow sets -/
  retired : Nat := 0
  replays : Nat := 0
  misses : Nat := 0
  recomputes : Nat := 0
  ovfSets : Nat := 0
  /-- its last 256 commands that retired or were torn down, newest first -/
  log : List CmdLog := []
  deriving DecidableEq, Repr

/-- PASS of a context on die d (R337). -/
def CtxSt.passAt (x : CtxSt) (d : Nat) : Nat := tabGet (fun _ => 0) x.pass d
/-- Writes PASS of die d. -/
def CtxSt.setPass (x : CtxSt) (d p : Nat) : CtxSt := { x with pass := tabSet (fun _ => 0) x.pass d p }
/-- REMAIN of a context on die d (R338). -/
def CtxSt.remainAt (x : CtxSt) (d : Nat) : Int := tabGet (fun _ => 0) x.remain d
/-- Writes REMAIN of die d. -/
def CtxSt.setRemain (x : CtxSt) (d : Nat) (r : Int) : CtxSt := { x with remain := tabSet (fun _ => 0) x.remain d r }
/-- Whether a context was eligible on die d when last considered (R337). -/
def CtxSt.eligibleAt (x : CtxSt) (d : Nat) : Bool := tabGet (fun _ => false) x.eligible d
/-- Marks a context eligible on die d, or not. -/
def CtxSt.setEligible (x : CtxSt) (d : Nat) (b : Bool) : CtxSt :=
  { x with eligible := tabSet (fun _ => false) x.eligible d b }

/-- A queue (R326, R351). -/
structure QueueSt where
  /-- 0 free, 1 active, 2 stopped at a WAIT or BRANCH, 3 TORN -/
  state : BitVec 2 := 0#2
  ctx : Nat := 0
  ringVa : Nat := 0
  sizeLog2 : Nat := 0
  dieMask : Nat := 0
  /-- WR_PTR and RD_PTR, kept unreduced: the pointers are these counts modulo 2^32 -/
  wr : Nat := 0
  rd : Nat := 0
  /-- the positions past the end of the open BRANCH extents, innermost first (05 R140) -/
  extents : List Nat := []
  /-- positions to skip: (first, past the last) -/
  skips : List (Nat × Nat) := []
  /-- doorbells: past-the-end position of each job still to issue, with its job number -/
  jobs : List (Nat × Nat) := []
  /-- pins that doorbells took on state objects: (position, object) (09 R221) -/
  pins : List (Nat × Nat) := []
  /-- positions that a doorbell could not read, whose pins are taken once they are read (09 R221) -/
  pinDue : List Nat := []
  deriving DecidableEq, Repr

/-- A synchronisation object's line (R331). -/
structure SyncSt where
  count : BitVec 32 := 0#32
  status : BitVec 16 := 0#16
  owner : BitVec 12 := 0#12
  live : Bool := false
  applied : BitVec 32 := 0#32
  deriving DecidableEq, Repr

/-- An operation on a synchronisation object that waits at its requester for a credit, a held channel or a freeze (R332; 06 R164):
the requester, the object, the operation, its value, the context. -/
structure SyncOp where
  unit : Nat
  obj : Nat
  op : Nat
  val : Nat
  ctx : Nat
  deriving DecidableEq, Repr

/-- A job: the commands of one accepted DOORBELL still outstanding (R324). -/
structure Job where
  no : Nat
  client : Nat
  ctx : Nat
  left : Nat
  deriving DecidableEq, Repr

/-- A slot of a command on a cluster (R335, 05 R117). -/
structure Slot where
  cluster : Nat
  place : Nat
  admitted : Bool := false
  cores : List Nat := []
  cycles : Nat := 0
  /-- phases whose barrier this slot has reached (05 R118) -/
  barriers : Nat := 0
  deriving DecidableEq, Repr

/-- Where a command stands. -/
inductive CmdSt where
  /-- running, or waiting for admission of a slot -/
  | running
  /-- offered to the control flask (R340) -/
  | offered
  /-- delivered to the ladle units: in its check phase, at the check barrier, working (06 R144) -/
  | check
  | checked
  | work
  /-- stopped by a restartable fault until its cause is resolved (13 R320) -/
  | stopped
  /-- its cause resolved: awaits its replay (R342) -/
  | replay
  /-- a WAIT whose conditions do not hold yet (R333) -/
  | waiting
  /-- a BRANCH waiting for its condition (05 R139) -/
  | branching
  /-- every part of its work is complete: ready to retire -/
  | complete
  deriving DecidableEq, Repr

/-- A walker's registration on one sequence's list and its snapshot (08 R195): the pool, the list header's address, COUNT,
TPP_LOG2. -/
structure Walker where
  pool : Nat
  list : Nat
  count : Nat
  tpp : Nat
  deriving DecidableEq, Repr

/-- Whose translations the accesses of a step use (13 R298): each its own walk's; those of a core's translation cache (05 R112);
those of a ladle command's check phase, which notes the objects it translates; or those that the command has kept since. -/
inductive LeafUse where
  | walk
  | cached
  | check (objs : List Nat)
  | kept (objs : List Nat)
  deriving DecidableEq, Repr

/-- A transaction of a command that waits on a held pseudo-channel (12 R274, R275): its requester, numbered as in 06 R164, the
number of its transaction there, the pseudo-channel, the cycles it has waited. -/
structure HeldWait where
  unit : Nat
  no : Nat
  pc : Nat
  cycles : Nat := 0
  deriving DecidableEq, Repr

/-- A command that has issued and not retired (R330, R336, R341, R343). -/
structure Cmd where
  id : Nat
  ctx : Nat
  queue : Nat
  pos : Nat
  die : Nat
  desc : Nat
  st : CmdSt := .running
  slots : List Slot := []
  job : Option Nat := none
  charge : Nat := 0
  cycles : Nat := 0
  replays : Nat := 0
  walkers : List Walker := []
  /-- snapshots of its walkers written (08 R195) -/
  snaps : Nat := 0
  /-- entries of the length table as checked at issue (08 R180) -/
  lt : List Nat := []
  pins : List Nat := []
  /-- scales read once at issue, by record address (03 R72) -/
  scales : List (Nat × Word) := []
  /-- what else a ladle command read at issue, or took in its check phase: an update block, pages taken -/
  aux : List Nat := []
  /-- overflow objects already set for the command's tiles (11 R245) -/
  ovfSet : List Nat := []
  /-- cast plan checked by a joined core; tundishes written (05 R125, R137) -/
  planned : Bool := false
  /-- barriers of command scope reached (05 R118) -/
  barriers : Nat := 0
  /-- shares of a ladle command still to complete: unit numbers (06 R22) -/
  shares : List Nat := []
  /-- its check phase has begun, and has taken the map generation (06 R144) -/
  begun : Bool := false
  mapGen : Nat := 0
  /-- objects whose leaves its check phase translated, kept until it ends (13 R298) -/
  leaves : List Nat := []
  /-- slice-clock cycles that each unit's share has counted (14 R341) -/
  unitCycles : Tab Nat := []
  /-- passes of its work done, each ended by a barrier of all units (06 R152) -/
  pass : Nat := 0
  /-- steps or chunks done, and cores fixed, of GATED_STEP and SCAN_CHUNK (09 R213, R214, R218) -/
  step : Nat := 0
  loaded : Bool := false
  fixed : List Nat := []
  /-- cycles since issue of a BRANCH; its transactions that wait on a hold -/
  waited : Nat := 0
  heldOn : List HeldWait := []
  cause : Option RestartCause := none
  /-- the deferred free it stands for, as (pool, address of the list header), where no queue holds it (08 R205) -/
  free : Option (Nat × Nat) := none
  /-- the cluster whose command processor decides a BRANCH (05 R139) -/
  decider : Nat := 0
  /-- for TELEMETRY (15 R385): ticks charged, held cycles, overflow and NaN events of its tiles, checksum mismatches -/
  charged : Nat := 0
  held : Nat := 0
  ovf : Nat := 0
  nan : Nat := 0
  cks : Nat := 0
  /-- the cycles of its last execution, where one has ended (15 R385) -/
  lastCycles : Nat := 0
  deriving DecidableEq, Repr

/-- The dispatcher of a die (R337 to R340). -/
structure SchedSt where
  holder : Option Nat := none
  /-- the dispatcher's 64-bit totals (17 R417) -/
  accepted : Nat := 0
  issued : Nat := 0
  discarded : Nat := 0
  retired : Nat := 0
  skipped : Nat := 0
  torn : Nat := 0
  deriving DecidableEq, Repr

/-! ## The host interface (15) -/

/-- A message sent by the module. -/
inductive Sent where
  /-- an answer to a request's source address and port (R363): opcode, session, sequence number, status, body -/
  | answer (dest : Nat) (opcode : Nat) (session : Nat) (seq : Nat) (status : Nat) (body : Nat)
  /-- an event: session, event number, opcode, status, body, FINAL (R367) -/
  | event (session : Nat) (number : Nat) (opcode : Nat) (status : Nat) (body : Nat) (final : Bool)
  /-- a READY announcement, with the STATUS answer body -/
  | ready (body : Nat)
  /-- an RDMA answer: session, acknowledge syndrome (0 acknowledged), data -/
  | rdma (session : Nat) (syndrome : Nat) (data : List Byte)
  /-- a bar written to a remote endpoint: endpoint, object, bar, bytes (13 R312) -/
  | remoteBar (ep : Nat) (obj : Nat) (bar : Nat) (data : List Byte)
  /-- an RDMA read of a bar of the remote copy at a remote endpoint: endpoint, object, bar (13 R304) -/
  | remoteRead (ep : Nat) (obj : Nat) (bar : Nat)
  /-- an RDMA read of an origin image at a remote endpoint: endpoint, byte address in its region, bytes (13 R312) -/
  | originRead (ep : Nat) (addr : Nat) (len : Nat)
  /-- a Congestion Notification Packet for a session's queue pair (R359) -/
  | cnp (session : Nat)
  /-- bits shifted out of a test access port -/
  | jtag (die : Nat) (bits : Nat) (len : Nat)
  /-- an answer to ARP, ICMP or Neighbour Discovery -/
  | network
  /-- a PFC frame that names the classes it stops (15 R357) -/
  | pfc (classes : BitVec 8)
  deriving DecidableEq, Repr

/-- An RDMA request in the receive buffer (15 R357): the bytes it holds there, and whether it is a WRITE. -/
structure RxWait where
  bytes : Nat
  write : Bool
  req : RdmaReq
  deriving DecidableEq, Repr

/-- A stored answer (R365). -/
structure Answered where
  seq : Nat
  opcode : Nat
  status : Nat
  body : Nat
  deriving DecidableEq, Repr

/-- An event in a session's event ring (R367). -/
structure EventSt where
  number : Nat
  opcode : Nat
  status : Nat
  body : Nat
  final : Bool := false
  deriving DecidableEq, Repr

/-- A request in a session's ring (R365): whether the conditions of R387 held at its arrival. -/
structure Buffered where
  seq : Nat
  opcode : Nat
  priv : Bool
  req : Req
  deriving DecidableEq, Repr

/-- A SESSION_OPEN answered in the last 60 s (R370): who sent it, when it was answered, the answer. -/
structure OpenAns where
  source : Nat
  seq : Nat
  ms : Nat
  status : Nat
  body : Nat
  deriving DecidableEq, Repr

/-- An accepted STATE_EXPORT or STATE_IMPORT message (R383): its session, its sequence number, its context, the body as a
descriptor, the pinned state object. -/
structure BlobJob where
  session : Nat
  seq : Nat
  ctx : Nat
  imp : Bool
  desc : Nat
  obj : Nat
  deriving DecidableEq, Repr

/-- A session (R363 to R370). -/
structure Session where
  isOpen : Bool := false
  cookie : Nat := 0
  source : Nat := 0
  jobLimit : Nat := 0
  expiry : Nat := 0
  maxBody : Nat := 0
  hostQp : Nat := 0
  devQpn : Nat := 0
  devPsn : Nat := 0
  hostPsn : Nat := 0
  hostGid : Nat := 0
  pmtu : Nat := 0
  /-- nanosecond of the last Congestion Notification Packet of its queue pair (R359) -/
  cnpAt : Option Nat := none
  /-- the queue pair is in the error state (R361) -/
  qpError : Bool := false
  /-- E of R365 -/
  expected : Nat := 1
  /-- buffered requests: sequence number, opcode, request -/
  ring : List Buffered := []
  answers : List Answered := []
  eventNo : Nat := 0
  events : List EventSt := []
  lost : Nat := 0
  deriving DecidableEq, Repr

/-! ## Safety (17) -/

/-- A safety record that firmware has still to write (17 R413): the event, the uptime and the condition bits of SAF_STATUS
at detection, the page pools live then, and whether it asserted FAULT_N. -/
structure Due where
  req : RecordReq
  ms : Nat
  flags : Nat
  pools : Nat
  asserted : Bool
  deriving DecidableEq, Repr

/-! ## Flasks (16) -/

/-- A lockstep pair (R392 to R400). -/
structure PairSt where
  /-- the compare buffer: Cope's outputs of the last two cycles, the older first (R392) -/
  buffer : List PairOut := []
  halted : Bool := false
  jtagHalt : Bool := false
  wdogCycles : Nat := 0
  inService : Option Nat := none
  /-- what IRQ_CLAIM reads: GRANTED and SOURCE of the last write (R403) -/
  claimed : Bool × Nat := (false, 0)
  deriving DecidableEq, Repr

/-- An entry of an attestation log (18 R429). -/
structure LogEntry where
  die : Nat
  kind : Nat
  digest : Nat
  deriving DecidableEq, Repr

/-- The running image, as the ROM verified it (18 R424 to R427, R430): what its header says, its digest, the active key slot of each
die as the ROMs derived their keys from it. -/
structure Boot where
  version : Nat := 0
  svn : Nat := 0
  prod : Bool := false
  noDebug : Bool := false
  digest : Nat := 0
  akIndex : List Nat := []
  /-- the attestation certificates of the dies (18 R430) -/
  certs : List Nat := []
  deriving DecidableEq, Repr

/-- An island's clock control (17 R410; 19 R446, R453): an announced frequency in kHz whose switch its watcher has not seen
yet, the watcher's windows in a row that saw it out of range, its root's steps of 100 MHz by throttling, the root in kHz from which
these and the power cap's are counted. -/
structure IslandSt where
  announced : Option Nat := none
  bad : Nat := 0
  throttle : Nat := 0
  base : Nat := 2000000
  deriving DecidableEq, Repr

/-- A relation that failed an audit (17 R419, R482): its die, its number, its instance, whether by deferral, and what the record
holds besides. -/
structure AuditFail where
  die : Nat
  rel : Nat
  inst : Nat
  late : Bool := false
  detail : List Word := []
  deriving DecidableEq, Repr

/-- What the audits keep from one to the next (17 R416 to R419): the verdict of the counters latched last, none once it is
reported: passed, or what failed; APPLIED_TOTAL and SENT of each
die, ticks counted, and ticks charged or pending, as latched; relations deferred, with how often in a row; the pool swept
last. -/
structure AuditSt where
  verdict : Option (Option AuditFail) := none
  applied : List Nat := [0, 0, 0, 0]
  sent : List Nat := [0, 0, 0, 0]
  ticks : Nat := 0
  charged : Nat := 0
  deferred : List ((Nat × Nat × Nat) × Nat) := []
  swept : Option Nat := none
  deriving DecidableEq, Repr

/-- The power cap (19 R454): input-power samples of the last 100 ms, newest first, samples into the 1 ms period, periods in
a row above 1,500 W, periods in a row at or below 1,400 W, steps of 100 MHz taken. -/
structure CapSt where
  watts : List Nat := []
  phase : Nat := 0
  overs : Nat := 0
  under : Nat := 0
  steps : Nat := 0
  deriving DecidableEq, Repr

/-- A configuration copy in flash (15 R355). -/
structure ConfCopy where
  body : Nat
  seq : Nat
  crcOk : Bool
  deriving DecidableEq, Repr

/-- The fuses of a die (18 R427, R428): the key slots, each the SHA-256 of a public key or empty, which of them are revoked,
and the fused security version. -/
structure Fuses where
  keys : Tab (Option (BitVec 256)) := []
  revoked : BitVec 16 := 0#16
  svn : Nat := 0
  deriving DecidableEq, Repr

/-- The boot flash (18 R423, R424, R436): firmware copies A and B, the preference records, the configuration copies. -/
structure Flash where
  copyA : List Byte := []
  copyB : List Byte := []
  prefs : List (Option (Nat × Bool)) := [none, none]
  confs : Tab (Option ConfCopy) := []
  deriving DecidableEq, Repr

end Sys2Proof.Machine
end

