-- ==== Sys2Proof/Machine/State.lean ====
section
/-! DEFINITION. Machine/State.lean: the whole state of the module, as plain data, and the state after reset. -/

namespace Sys2Proof.Machine

/-- Why the model stops with a fault. -/
inductive Fault where
  /-- The operands break `Sys2Proof.Instr.wf`: no command of the spec has them. Raised by every meaning that takes such
  operands. Safe: the model stops where no command exists. -/
  | illFormed (what : String)
  deriving DecidableEq, Repr

/-- Why the model refuses a command. -/
inductive Refusal where
  /-- The command has no meaning in this model yet. Raised by the dispatch table alone. Safe: the model stops. -/
  | notModelled (mnemonic : String)
  deriving DecidableEq, Repr

/-- The stage of the module's life (19 R457 to R461, 21 R474). -/
inductive Life where
  /-- rails down (R452) -/
  | off
  /-- RESET_N held low (R457) -/
  | held
  /-- internal reset released, start-up not yet complete (R458, R459) -/
  | starting
  /-- a start-up step failed (R461) -/
  | halted
  | ready
  /-- test mode (21 R474) -/
  | test
  deriving DecidableEq, Repr

/-- Everything the module holds but the command queue, the fuses and the flash. -/
structure Mach where
  /-- the model's own count of fresh values drawn (log entry 1) -/
  free : Nat := 0
  /-- what the module has sent, newest first, with the class of its frame (15 R356); 8 for what leaves by no frame -/
  out : List (Nat × Sent) := []
  life : Life := .starting
  /-- milliseconds since the internal reset was released (19 R458), and nanoseconds below a millisecond -/
  uptime : Nat := 0
  upNs : Nat := 0
  /-- plain registers and counters by REG_READ address -/
  regs : Tab Word := []
  /-- near-tier bytes by device physical address; slag marks by sector number (12 R262, R268) -/
  near : Tab Byte := []
  slag : Tab Bool := []
  /-- sectors whose stored copy is marked slag beneath a valid line of a shared cache (06 R160) -/
  under : Tab Bool := []
  /-- sectors of the stacks that the map does not reach, by physical sector -/
  spare : Tab (BitVec 513) := []
  /-- sectors of the LPDDR packages beyond their data that something has written since start-up; whether training patterns have been
  written to the test areas (12 R286) -/
  lpSpare : Tab (Option (BitVec 513)) := []
  lpPatterns : Bool := false
  /-- module-tier bytes by module-tier physical address, and slag marks by sector (12 R285, R286) -/
  lp : Tab Byte := []
  lpSlag : Tab Bool := []
  /-- repair setting of 12 R263 -/
  repair : Bool := true
  scratch : Tab Byte := []
  /-- the line stages of the cores' expanders, by core · 32,768 + offset (07 R172) -/
  stage : Tab Byte := []
  cbuf : Tab Byte := []
  /-- accumulator words by engine · 2^15 + word offset (04 R88) -/
  acc : Tab Word := []
  /-- additions made to each accumulator word since a tile zeroed it (04 R97) -/
  accAdds : Tab Nat := []
  engines : Tab Engine := []
  limiters : Tab Limiter := []
  cores : Tab CoreSt := []
  clusters : Tab ClusterSt := []
  slices : Tab SliceSt := []
  /-- shared-cache lines by slice · 2048 + set (06 R160) -/
  cache : Tab (List Line) := []
  pcs : Tab PcSt := []
  pkgs : Tab PkgSt := []
  repairs : Tab RepairSt := []
  /-- the migration step completed last (12 R281) -/
  lastStep : Option StepRec := none
  /-- who holds the observation path: 0 nobody, 1 CLKOBS, 2 margining, 3 margining with a suspended CLKOBS (12 R291) -/
  obsPath : Nat := 0
  sweep : Option Sweep := none
  /-- the target of a RETRAIN request in progress: LPDDR5X or not, unit (21 R473) -/
  retrainReq : Option (Bool × Nat) := none
  objs : Tab Obj := []
  maps : List Mapping := []
  /-- the translation tables that firmware holds (13 R295) -/
  tables : List TableSt := []
  pools : Tab PoolSt := []
  eps : Tab EpSt := []
  moduleOut : Bool := false
  victimStart : Nat := 0
  ctxs : Tab CtxSt := []
  queues : Tab QueueSt := []
  syncs : Tab SyncSt := []
  /-- operations on synchronisation objects not yet sent, oldest first (14 R332; 06 R164) -/
  syncDue : List SyncOp := []
  /-- objects operated on since the commands that wait on them were last tested (14 R333) -/
  syncNews : List Nat := []
  /-- APPLIED_TOTAL of each die (17 R417) -/
  appliedTotal : Tab Nat := []
  /-- SENT of each die, over all senders (17 R417) -/
  sent : Tab Nat := []
  /-- a freeze of the conservation audits lasts (17 R416) -/
  frozen : Bool := false
  /-- credits of the mesh's and the links' channels and of the mailbox service, by kind · 2^22 + die · 2^20 + index (14 R349; 17
  R482) -/
  channels : Tab Channel := []
  /-- ticks counted by clusters and ladle units (14 R336, 17 R417) -/
  ticks : Nat := 0
  /-- ticks charged to contexts since reset (14 R336; 17 R417) -/
  chargedTotal : Nat := 0
  /-- a dangerous failure has occurred (17 R404, R412) -/
  danger : Bool := false
  jobs : List Job := []
  nextJob : Nat := 0
  cmds : List Cmd := []
  nextCmd : Nat := 0
  scheds : Tab SchedSt := []
  /-- the die whose offered ladle command the control flask takes next (14 R340) -/
  ladleDie : Nat := 0
  /-- deferred frees requested and not yet delivered: (pool, address of the list header) (08 R205) -/
  deferred : List (Nat × Nat) := []
  /-- walkers' deregistrations that wait for a channel or a credit: the cluster, the context, the walker (08 R195) -/
  walkDue : List (Nat × Nat × Walker) := []
  /-- the translations that the step in progress uses; a walk's between steps (13 R298) -/
  leafUse : LeafUse := .walk
  sessions : Tab Session := []
  /-- SESSION_OPEN requests waiting, oldest first; those answered in the last 60 s; the requester served last, 1,024 for
  SESSION_OPEN (15 R366, R370) -/
  opens : List Req := []
  opened : List OpenAns := []
  mbxLast : Nat := 1024
  /-- classes whose transmission a PFC frame has stopped, and the frames that wait for it (15 R357) -/
  pfcStopped : BitVec 8 := 0#8
  /-- RDMA requests in the receive buffer, oldest first; the classes stopped by PFC frames sent; gate messages that the gate class's
  buffer keeps, with their opcodes (15 R357, R358) -/
  rxWait : List RxWait := []
  xoff : BitVec 8 := 0#8
  gateKept : List (Nat × Req) := []
  txHeld : List (Nat × Sent) := []
  /-- READY announcements sent (15 R367) -/
  readySent : Nat := 0
  /-- released synchronisation objects of each die, longest free first, and numbers never used (15 R379) -/
  syncFreed : Tab (List Nat) := []
  syncNext : Tab Nat := []
  blobs : List BlobJob := []
  /-- the configuration in force, as the NET_CONFIG body (15 R355, R388) -/
  conf : Nat := 0
  boot : Boot := {}
  /-- measurement registers and attestation logs by die (18 R429) -/
  meas : Tab (BitVec 256) := []
  attLog : Tab (List LogEntry) := []
  /-- the debounced PRESENCE_N is asserted (18 R432); disagreements of the seal loop in a row (18 R433) -/
  presLow : Bool := false
  sealBad : Nat := 0
  /-- REFCLK is present (19 R445, R447) -/
  refclk : Bool := true
  islands : Tab IslandSt := []
  audit : AuditSt := {}
  cap : CapSt := {}
  /-- rails outside their windows (19 R451) -/
  railsBad : List Nat := []
  /-- the last readings of the sensors that no register holds, in 1/16 °C, by their number in records (17 R483; 19 R453) -/
  readings : Tab (BitVec 16) := []
  /-- Sensors whose last reading is beyond their rating limit, by their number in records (R453, 17 R420). -/
  beyond : List Nat := []
  /-- FACTORY_RESET has been answered: the module resets 100 ms later (15 R387) -/
  resetDue : Bool := false
  /-- compare values of the flask timers, by die · 16 + timer (16 R391) -/
  timers : Tab Nat := []
  /-- bytes written in the memories of the flasks, by die · 2^24 + address (16 R391) -/
  flaskRam : Tab (Option Byte) := []
  /-- the test access ports: TRST_N low, the selected instruction of each die, die 0's boundary register, whether EXTEST drives
  the pins from it (21 R479) -/
  trstLow : Bool := false
  tapIr : Tab Nat := []
  boundary : BitVec 9 := 0#9
  extest : Bool := false
  /-- safety records firmware has still to write (17 R413) -/
  recordsDue : List Due := []
  pairs : Tab PairSt := []
  deriving DecidableEq, Repr

/-- The state of the module. -/
structure State where
  /-- commands waiting, first in first out -/
  pending : List Instr
  fuses : Tab Fuses
  flash : Flash
  m : Mach
  deriving DecidableEq, Repr

/-- The module when its internal reset is released for the first time (19 R458): start-up is about to begin, every
register at its reset value, every memory at the contents log entry 6 names, nothing waiting. -/
def State.reset : State := { pending := [], fuses := [], flash := {}, m := {} }

end Sys2Proof.Machine
end

