-- ==== Sys2Proof/Machine/Operands.lean ====
section
/-! DEFINITION. Machine/Operands.lean: the fields of command descriptors and of the tables they name
(14_scheduling_and_preemption.md R327, R328; 08_attention_and_rollout_tree.md R179, R181, R186; 09 R207, R211, R217). -/

namespace Sys2Proof.Machine

/-- OPCODE. -/
def dOp (d : Nat) : Nat := bits d 7 0
/-- FORM. -/
def dForm (d : Nat) : Bool := bit d 8
/-- SERIAL. -/
def dSerial (d : Nat) : Bool := bit d 9
/-- CMD_ID. -/
def dCmdId (d : Nat) : Nat := bits d 47 16
/-- The cycle budget, BUDGET_M1 + 1. -/
def dBudget (d : Nat) : Nat := bits d 71 48 + 1
/-- The most cores joined per slot, NCORE_M1 + 1. -/
def dCores (d : Nat) : Nat := bits d 75 72 + 1
/-- The cluster slots wanted, NCL_M1 + 1. -/
def dSlots (d : Nat) : Nat := bits d 80 76 + 1
/-- NOTIFY. -/
def dNotify (d : Nat) : Bool := bit d 81
/-- SIG_OP. -/
def dSigOp (d : Nat) : Nat := bits d 83 82
/-- SIG_OBJ. -/
def dSigObj (d : Nat) : Nat := bits d 97 84
/-- SIG_VAL. -/
def dSigVal (d : Nat) : Nat := bits d 113 98
/-- HOLD_DL, in units of 1,024 cycles. -/
def dHoldDl (d : Nat) : Nat := bits d 127 114
/-- CAST_PLAN (R113). -/
def dPlan (d : Nat) : Nat := bits d 191 128
/-- The descriptor of a row: the row's opcode and form in place of the descriptor's. -/
def dSet (d op : Nat) (form : Bool) : Nat := setBits d 8 0 (op + 256 * b2n form)

/-- Opcodes that run on cores (R328). -/
def isCoreOp (op : Nat) : Bool := (1 ≤ op && op ≤ 7) && op != 4
/-- Opcodes of the ladle units. -/
def isLadleOp (op : Nat) : Bool := op == 4 || (8 ≤ op && op ≤ 10) || (13 ≤ op && op ≤ 16)
/-- Opcodes of the page class. -/
def isPageOp (op : Nat) : Bool := 8 ≤ op && op ≤ 10
/-- Opcodes of a flask: STATE_EXPORT, STATE_IMPORT. -/
def isFlaskOp (op : Nat) : Bool := op == 11 || op == 12
/-- ATTN_SCORE or ATTN_APPLY. -/
def isAttn (op : Nat) : Bool := op == 3 || op == 5
/-- Whether a descriptor is an ATTN_APPLY of GRAD 0b01 (10 R233). -/
def isKeySide (d : Nat) : Bool := dOp d == 5 && dForm d && bits d 506 505 == 1

/-! ## Length tables (R179) -/

/-- A sequence of a length table. -/
structure Seq where
  qLen : Nat
  kLen : Nat
  qRow : Nat
  qPos : Int
  scoreOff : Nat
  roots : Nat
  deriving DecidableEq, Repr

/-- The sequence of a table entry. -/
def seqOf (e : Nat) : Seq :=
  { qLen := bits e 31 0, kLen := bits e 63 32, qRow := bits e 95 64, qPos := signed 32 (bits e 127 96),
    scoreOff := bits e 175 128, roots := bits e 239 192 }
/-- RS(s), the row stride of a sequence's score matrix. -/
def Seq.rs (s : Seq) : Nat := 128 * ceilDiv s.kLen 32
/-- Whether key t is admitted for query r (R186): `mask` and `window` as in R181. -/
def admitted (mask window : Nat) (qPos : Int) (r t : Nat) : Bool :=
  match mask with
  | 0 => true
  | 1 => decide ((t : Int) ≤ qPos + r)
  | _ => decide (qPos + r - window < (t : Int)) && decide ((t : Int) ≤ qPos + r)
/-- Whether any key from k0 below k1 is admitted for any query from r0 below r1 (R184). -/
def anyAdmitted (mask window : Nat) (qPos : Int) (r0 r1 k0 k1 : Nat) : Bool :=
  if r1 ≤ r0 ∨ k1 ≤ k0 then false
  else match mask with
    | 0 => true
    | 1 => decide ((k0 : Int) ≤ qPos + (r1 - 1 : Nat))
    | _ => decide (max (r0 : Int) (k0 - qPos) ≤ min ((r1 - 1 : Nat) : Int) ((k1 : Int) - 2 + window - qPos))

/-- QB, KB and the fixed column blocks of ATTN_SCORE and ATTN_APPLY. -/
def aQb (d : Nat) : Nat := bits d 436 427 + 1
/-- Key block. -/
def aKb (d : Nat) : Nat := 32 * (bits d 440 437 + 1)
/-- Whether phase p takes its items from the length table. -/
def aLt (d p : Nat) : Bool := isAttn (dOp d) && (bits d 472 457).testBit p
/-- Column blocks of a sequence in phase p (R182). -/
def aNc (d p : Nat) (s : Seq) : Nat :=
  if (bits d 488 473).testBit p then bits d 448 441 + 1 else ceilDiv s.kLen (aKb d)
/-- Query blocks of a sequence: one under GRAD 0b01 (10 R233). -/
def aNq (d : Nat) (s : Seq) : Nat := if isKeySide d then 1 else ceilDiv s.qLen (aQb d)

/-- A work item of a length-table phase: its sequence's number and entry, query block, column block. -/
structure LtItem where
  no : Nat
  seq : Seq
  qb : Nat
  cb : Nat
  deriving DecidableEq, Repr

/-- Item i of a length-table phase (R182, R233). -/
def ltFind (d p : Nat) : List Nat → Nat → Nat → Option LtItem
  | [], _, _ => none
  | e :: l, n, i =>
    let s := seqOf e
    let nc := aNc d p s
    let k := aNq d s * nc
    if i < k then some ⟨n, s, i / nc, i % nc⟩ else ltFind d p l (n + 1) (i - k)
/-- The number of items of a length-table phase. -/
def ltCount (d p : Nat) (lt : List Nat) : Nat :=
  lt.foldl (fun a e => a + aNq d (seqOf e) * aNc d p (seqOf e)) 0
/-- tr of an item (R183, R233). -/
def LtItem.tr (x : LtItem) (d : Nat) : Nat := if isKeySide d then x.seq.qRow else x.seq.qRow + x.qb * aQb d
/-- Rows M a TILE entry streams for an item of a length-table phase, `m` being M_M1 + 1 (R183, R233). -/
def LtItem.rows (x : LtItem) (d m : Nat) : Nat :=
  if isKeySide d then m else min (aQb d) (x.seq.qLen - x.qb * aQb d)
/-- Whether none of an item's score elements is admitted (R184). -/
def LtItem.masked (x : LtItem) (d : Nat) : Bool :=
  let r0 := x.qb * aQb d
  let r1 := min (r0 + aQb d) x.seq.qLen
  let k0 := x.cb * aKb d
  let k1 := min (k0 + aKb d) x.seq.kLen
  let (r0, r1, k0, k1) :=
    if isKeySide d then (0, x.seq.qLen, k0, k1) else if dOp d == 5 then (r0, r1, 0, x.seq.kLen) else (r0, r1, k0, k1)
  !anyAdmitted (bits d 391 390) (bits d 415 392) x.seq.qPos r0 r1 k0 k1

/-! ## Gated cells (09 R211, R212) -/

/-- Gates of a cell, 0 for a reserved code. -/
def cellGates (c : Nat) : Nat := match c with | 0 => 4 | 1 => 3 | 2 => 2 | 3 => 1 | 4 => 2 | _ => 0
/-- NVEC of a cell. -/
def cellVecs (c : Nat) : Nat := if c < 2 then 2 else 1
/-- Streams of GATED_STEP. -/
def gStr (d : Nat) : Nat := bits d 395 384 + 1
/-- Steps of GATED_STEP. -/
def gSteps (d : Nat) : Nat := bits d 421 410 + 1
/-- State width of GATED_STEP. -/
def gH (d : Nat) : Nat := 64 * (bits d 405 396 + 1)
/-- Prologue phases of GATED_STEP. -/
def gPro (d : Nat) : Nat := bits d 425 422

end Sys2Proof.Machine
end

