-- ==== Sys2Proof/Config.lean ====
section
/-! DEFINITION. Config.lean: what an implementation fixes and the spec leaves open. Every value here is an opaque
constant: nothing can be proved about it. Fresh values are applied to the model's counter `Mach.free` (log entry 1). -/

namespace Sys2Proof.Config

/-- A fresh 64-bit value the spec does not state: COOKIE (15 R370), context TAG, queue pair and packet sequence
numbers (15 R359, R360, R372), the nonces of signatures (18 R431), and every undefined value a step leaves. -/
opaque freshValue : Nat → BitVec 64
/-- The fused device secret of each die, 256 bits (18 R430). -/
opaque deviceSecret : BitVec 2 → BitVec 256
/-- The vendor's certificate of the identity key of die 0, 1,024 bytes as one number (18 R430). -/
opaque vendorCert : BitVec 8192
/-- The silicon revision (19 R462 DEV_ID, 21 R479). -/
opaque revision : BitVec 8
/-- The MAC address of the factory region; none: the record fails its check (15 R355). -/
opaque factoryMac : Option (BitVec 48)
/-- Where firmware keeps an object's per-bar location map (13 R302 OBJMAP_PA). -/
opaque objMapAddr : Nat → BitVec 40
/-- The bytes of the flasks' memories that nothing has written, by die · 2^24 + address: their boot ROM, and what their SRAMs hold
(16 R391). -/
opaque flaskByte : Nat → BitVec 8
/-- The training patterns of the test areas, by sector (12 R286). -/
opaque testPattern : Nat → BitVec 512
/-- Whether CORE_BANK_STALL_CNT of a core counts a cycle (05 R109): bit 0; the second argument is `Mach.free` (log entry 37). -/
opaque bankStalls : Nat → Nat → BitVec 32
/-- Whether a product that rounds to zero is counted as a flush of a T2 or S1 tensor: 03 R61 says so, 03 R65 never (log
entry 35). -/
opaque narrowFlush : Bool

end Sys2Proof.Config
end

