-- ==== Sys2Proof/Machine/Ops.lean ====
section
/-! DEFINITION. Machine/Ops.lean: reading and writing the parts of the state, plain registers and counters
(00_scope.md R14, R16), and the result of a step's part that may fault (13_tiers_and_residency.md R319). -/

namespace Sys2Proof.Machine

/-! ## Parts of the state -/

/-- Engine g. -/
def Mach.eng (s : Mach) (g : Nat) : Engine := tabGet (fun _ => {}) s.engines g
/-- Replaces engine g. -/
def Mach.setEng (s : Mach) (g : Nat) (e : Engine) : Mach := { s with engines := tabSet (fun _ => {}) s.engines g e }
/-- The start limiter of die d. -/
def Mach.limiter (s : Mach) (d : Nat) : Limiter := tabGet (fun _ => {}) s.limiters d
/-- Replaces a start limiter. -/
def Mach.setLimiter (s : Mach) (d : Nat) (x : Limiter) : Mach :=
  { s with limiters := tabSet (fun _ => {}) s.limiters d x }
/-- Core c. -/
def Mach.core (s : Mach) (c : Nat) : CoreSt := tabGet (fun _ => {}) s.cores c
/-- Replaces core c. -/
def Mach.setCore (s : Mach) (c : Nat) (x : CoreSt) : Mach := { s with cores := tabSet (fun _ => {}) s.cores c x }
/-- Cluster k. -/
def Mach.cluster (s : Mach) (k : Nat) : ClusterSt := tabGet (fun _ => {}) s.clusters k
/-- Replaces cluster k. -/
def Mach.setCluster (s : Mach) (k : Nat) (x : ClusterSt) : Mach :=
  { s with clusters := tabSet (fun _ => {}) s.clusters k x }
/-- Memory slice g. -/
def Mach.slice (s : Mach) (g : Nat) : SliceSt := tabGet (fun _ => {}) s.slices g
/-- Replaces memory slice g. -/
def Mach.setSlice (s : Mach) (g : Nat) (x : SliceSt) : Mach := { s with slices := tabSet (fun _ => {}) s.slices g x }
/-- Pseudo-channel n. -/
def Mach.pc (s : Mach) (n : Nat) : PcSt := tabGet (fun _ => {}) s.pcs n
/-- Replaces pseudo-channel n. -/
def Mach.setPc (s : Mach) (n : Nat) (x : PcSt) : Mach := { s with pcs := tabSet (fun _ => {}) s.pcs n x }
/-- LPDDR5X package p. -/
def Mach.pkg (s : Mach) (p : Nat) : PkgSt := tabGet (fun _ => {}) s.pkgs p
/-- Replaces a package. -/
def Mach.setPkg (s : Mach) (p : Nat) (x : PkgSt) : Mach := { s with pkgs := tabSet (fun _ => {}) s.pkgs p x }
/-- The memory repair of die d. -/
def Mach.repairOf (s : Mach) (d : Nat) : RepairSt := tabGet (fun _ => {}) s.repairs d
/-- Replaces a die's memory repair. -/
def Mach.setRepair (s : Mach) (d : Nat) (x : RepairSt) : Mach :=
  { s with repairs := tabSet (fun _ => {}) s.repairs d x }
/-- Object n. -/
def Mach.obj (s : Mach) (n : Nat) : Obj := tabGet (fun _ => {}) s.objs n
/-- Replaces object n. -/
def Mach.setObj (s : Mach) (n : Nat) (x : Obj) : Mach := { s with objs := tabSet (fun _ => {}) s.objs n x }
/-- Pool n. -/
def Mach.pool (s : Mach) (n : Nat) : PoolSt := tabGet (fun _ => {}) s.pools n
/-- Replaces pool n. -/
def Mach.setPool (s : Mach) (n : Nat) (x : PoolSt) : Mach := { s with pools := tabSet (fun _ => {}) s.pools n x }
/-- Remote endpoint n. -/
def Mach.ep (s : Mach) (n : Nat) : EpSt := tabGet (fun _ => {}) s.eps n
/-- Replaces a remote endpoint. -/
def Mach.setEp (s : Mach) (n : Nat) (x : EpSt) : Mach := { s with eps := tabSet (fun _ => {}) s.eps n x }
/-- Context c. -/
def Mach.ctx (s : Mach) (c : Nat) : CtxSt := tabGet (fun _ => {}) s.ctxs c
/-- Replaces context c. -/
def Mach.setCtx (s : Mach) (c : Nat) (x : CtxSt) : Mach := { s with ctxs := tabSet (fun _ => {}) s.ctxs c x }
/-- Queue q. -/
def Mach.queue (s : Mach) (q : Nat) : QueueSt := tabGet (fun _ => {}) s.queues q
/-- Replaces queue q. -/
def Mach.setQueue (s : Mach) (q : Nat) (x : QueueSt) : Mach := { s with queues := tabSet (fun _ => {}) s.queues q x }
/-- Synchronisation object g. -/
def Mach.sync (s : Mach) (g : Nat) : SyncSt := tabGet (fun _ => {}) s.syncs g
/-- Replaces a synchronisation object. -/
def Mach.setSync (s : Mach) (g : Nat) (x : SyncSt) : Mach := { s with syncs := tabSet (fun _ => {}) s.syncs g x }
/-- The dispatcher of die d. -/
def Mach.sched (s : Mach) (d : Nat) : SchedSt := tabGet (fun _ => {}) s.scheds d
/-- Replaces a dispatcher. -/
def Mach.setSched (s : Mach) (d : Nat) (x : SchedSt) : Mach := { s with scheds := tabSet (fun _ => {}) s.scheds d x }
/-- Session k. -/
def Mach.session (s : Mach) (k : Nat) : Session := tabGet (fun _ => {}) s.sessions k
/-- Replaces session k. -/
def Mach.setSession (s : Mach) (k : Nat) (x : Session) : Mach :=
  { s with sessions := tabSet (fun _ => {}) s.sessions k x }
/-- Pair p of die d. -/
def Mach.pair (s : Mach) (d p : Nat) : PairSt := tabGet (fun _ => {}) s.pairs (4 * d + p)
/-- Replaces a pair. -/
def Mach.setPair (s : Mach) (d p : Nat) (x : PairSt) : Mach :=
  { s with pairs := tabSet (fun _ => {}) s.pairs (4 * d + p) x }

/-- The command with a number, if it is still in flight. -/
def Mach.cmd? (s : Mach) (id : Nat) : Option Cmd := s.cmds.find? fun c => c.id == id
/-- Replaces the command that has the same number. -/
def Mach.setCmd (s : Mach) (c : Cmd) : Mach := { s with cmds := s.cmds.map fun x => if x.id == c.id then c else x }
/-- Removes a command. -/
def Mach.dropCmd (s : Mach) (id : Nat) : Mach := { s with cmds := s.cmds.filter fun x => x.id != id }

/-- A fresh value the spec does not state, and the state with the count advanced (log entry 1). -/
def Mach.fresh (s : Mach) : Nat × Mach := ((Config.freshValue s.free).toNat, { s with free := s.free + 1 })
/-- Eight times n bytes whose values the spec does not state (log entry 1). -/
def Mach.freshBytes (s : Mach) (n : Nat) : List Byte × Mach :=
  ((List.range n).flatMap fun i => toBytes 8 (Config.freshValue (s.free + i)).toNat, { s with free := s.free + n })
/-- The class of frames the module originates (15 R356, R388). -/
def Mach.origClass (s : Mach) : Nat := bits s.conf 30 28
/-- Sends something with a class. -/
def Mach.sendAs (s : Mach) (cls : Nat) (x : Sent) : Mach := { s with out := (cls, x) :: s.out }
/-- Nanoseconds since the internal reset was released. -/
def Mach.nowNs (s : Mach) : Nat := 1000000 * s.uptime + s.upNs

/-! ## Plain registers -/

/-- Whether an address lies in a block of n bytes from `base`. -/
def inBlock (a base n : Nat) : Bool := base ≤ a && a < base + n
/-- The reset value of the plain register at an address (the chapters' register maps): zero but where stated. -/
def regReset (a : Nat) : Word :=
  -- SAF_STATUS: DEBUG_LOCKED (17 R422)
  if a = 0x07E00000 then 0x08000000#32
  -- HBM_REMAP: DIRECT, PHYS = c (12 R265, R294)
  else if inBlock a 0x07801000 0x1000 then w32 ((a - 0x07801000) / 4)
  -- SCH_CFG.SLICE (14 R350)
  else if a ∈ [0x07B00000, 0x07B01000, 0x07B02000, 0x07B03000] then 100000#32
  -- IRQ_ROUTE, with sources 0 to 11 fixed (16 R398, R402)
  else if inBlock a 0x07D00000 0x4000 && inBlock (a % 0x1000) 0x200 0x200 then
    (if a % 0x1000 = 0x200 then 0x18427BDE#32 else if a % 0x1000 = 0x204 then 0xFFFF7BDE#32 else 0xFFFFFFFF#32)
  -- DEV_STATUS.STAGE, DEV_STEP_MS, PWR_STATUS (19 R462)
  else if a = 0x08000000 then 0x01000000#32
  else if inBlock a 0x08000014 32 then 0xFFFFFFFF#32
  else if a = 0x08000080 then 0x800000FF#32
  -- CLK_ROOT_KHZ of the islands that are clocked (19 R462)
  else if inBlock a 0x08100000 0x5000 && a % 0x100 = 4 && !([39, 59, 79].contains ((a - 0x08100000) / 0x100)) then 156250#32
  else 0#32

/-- A plain register. -/
def Mach.reg (s : Mach) (a : Nat) : Word := tabGet regReset s.regs a
/-- Writes a plain register. -/
def Mach.setReg (s : Mach) (a : Nat) (w : Word) : Mach := { s with regs := tabSet regReset s.regs a w }
/-- Adds n events to a counter that stops at 0xFFFF_FFFF (R16). -/
def Mach.bump (s : Mach) (a n : Nat) : Mach := if n = 0 then s else s.setReg a (satAdd (s.reg a) n)
/-- Adds an event to the 16-bit field of a counter at bits [lo+15:lo] that stops at 0xFFFF (05 R141). -/
def Mach.bump16 (s : Mach) (a lo : Nat) : Mach :=
  let w := (s.reg a).toNat
  let v := bits w (lo + 15) lo
  s.setReg a (w32 (setBits w (lo + 15) lo (if v = 0xFFFF then v else v + 1)))
/-- Sets bits [hi:lo] of a plain register. -/
def Mach.setField (s : Mach) (a hi lo v : Nat) : Mach := s.setReg a (w32 (setBits (s.reg a).toNat hi lo v))

/-- Register address of engine g at an offset (04 R106). -/
def engReg (g off : Nat) : Nat := 0x04000000 + g * 0x1000 + off
/-- Register address of core c (05 R141). -/
def coreReg (c off : Nat) : Nat := 0x05000000 + c * 0x1000 + off
/-- Register address of cluster k (05 R141). -/
def clReg (k off : Nat) : Nat := 0x06000000 + k * 0x1000 + off
/-- Register address of memory slice g (06 R165). -/
def ldlReg (g off : Nat) : Nat := 0x07000000 + g * 0x1000 + off
/-- Register address of the module memory block (12 R294). -/
def memReg (off : Nat) : Nat := 0x07800000 + off
/-- Register address of LPDDR5X package p (12 R294). -/
def lpdReg (p off : Nat) : Nat := 0x07900000 + p * 0x1000 + off
/-- Register address of the residency block (13 R322). -/
def tierReg (off : Nat) : Nat := 0x07A00000 + off
/-- Register address of the scheduling block of die d (14 R350). -/
def schReg (d off : Nat) : Nat := 0x07B00000 + d * 0x1000 + off

/-- Register address of the flask block of die d (16 R402). -/
def flaskReg (d off : Nat) : Nat := 0x07D00000 + d * 0x1000 + off

/-- Register address of the device block (19 R462). -/
def devReg (off : Nat) : Nat := 0x08000000 + off
/-- Register address of the port and mailbox block (15 R390). -/
def portReg (off : Nat) : Nat := 0x07C00000 + off
/-- Register address of the security block (18 R441). -/
def secReg (off : Nat) : Nat := 0x07F00000 + off
/-- Register address of island g's clock block (19 R462). -/
def clkReg (g off : Nat) : Nat := 0x08100000 + g * 0x100 + off
/-- Register address of the safety block (17 R422). -/
def safReg (off : Nat) : Nat := 0x07E00000 + off

/-- Whether the Ethernet link is up (15 R354, R390). -/
def Mach.linkUp (s : Mach) : Bool := (s.reg (portReg 0)).toNat.testBit 31
/-- Whether READY is raised (19 R460). -/
def Mach.isReady (s : Mach) : Bool := (s.reg (devReg 0)).toNat.testBit 31
/-- The mark of a frame's class and tagging (15 R356): the class, and 16 more where it is tagged. -/
def txMark (cls : BitVec 3) (tagged : Bool) : Nat := cls.toNat + 16 * b2n tagged
/-- Bytes of a packet of a session's queue pair (15 R359, R370). -/
def Mach.mtu (s : Mach) (k : Nat) : Nat := 128 * 2 ^ (s.session k).pmtu
/-- Bytes of a packet of a remote endpoint's queue pair (15 R359, R380). -/
def Mach.epMtu (s : Mach) (e : Nat) : Nat := 128 * 2 ^ bits (s.ep e).body 74 72
/-- Packets that n bytes take. -/
def packetsOf (n mtu : Nat) : Nat := max 1 ((n + mtu - 1) / mtu)
/-- Frames that a message takes: an RDMA answer with data, and a bar written to a remote endpoint, one for each packet of its queue
pair's path MTU (15 R359); any other one. -/
def Mach.framesOf (s : Mach) (x : Sent) : Nat :=
  match x with
  | .rdma k _ l => packetsOf l.length (s.mtu k)
  | .remoteBar e _ _ l => packetsOf l.length (s.epMtu e)
  | _ => 1
/-- Sends a frame of a class: kept while a PFC frame stops the class, lost while the link is down (15 R354, R357). -/
def Mach.sendOn (s : Mach) (cls : Nat) (x : Sent) : Mach :=
  if !s.linkUp then s
  else if cls % 16 < 7 && s.pfcStopped.getLsbD (cls % 16) then { s with txHeld := s.txHeld ++ [(cls, x)] }
  else (s.sendAs cls x).bump (portReg 0x14) (s.framesOf x)
/-- The requester queue pair of an endpoint sends, unless it is in error (15 R356, R359). -/
def Mach.sendEp (s : Mach) (e : Nat) (x : Sent) : Mach := if (s.ep e).error then s else s.sendOn s.origClass x

/-- Whether FAULT_N is asserted (17 R411). -/
def Mach.faultN (s : Mach) : Bool := (s.reg (safReg 0)).toNat.testBit 31
/-- Whether the module is in the safe state (17 R412). -/
def Mach.safe (s : Mach) : Bool := (s.reg (safReg 0)).toNat.testBit 30
/-- Live page pools (17 R483). -/
def Mach.livePools (s : Mach) : Nat := (s.pools.filter fun p => p.2.live && !p.2.stash).length
/-- A safety record firmware has to write (17 R413), as at this moment. -/
def Mach.recordDueAs (s : Mach) (r : RecordReq) (asserted : Bool) : Mach :=
  { s with recordsDue := s.recordsDue ++ [⟨r, s.uptime, bits (s.reg (safReg 0)).toNat 29 26, s.livePools, asserted⟩] }
/-- A safety record of an event that does not assert FAULT_N. -/
def Mach.recordDue (s : Mach) (r : RecordReq) : Mach := s.recordDueAs r false

/-! ## Results that may fault -/

/-- How a part of a step fails (13 R319): fatally to its context with a status code, by a restartable fault, by waiting on a
held channel (12 R274), by waiting for a credit of a slice's atomic unit as a requester (06 R164), or by waiting for a transaction
slot of a core or a freeze's end (05 R111; 17 R416). -/
inductive Flt where
  | fatal (st : Nat)
  | restart (c : RestartCause)
  | held (pc : Nat)
  | credit (r g : Nat)
  | slot (core : Nat)
  deriving DecidableEq, Repr

/-- The result of a part of a step: a value and the state, or a failure and the state it leaves. -/
inductive Res (α : Type) where
  | ok (a : α) (s : Mach)
  | err (f : Flt) (s : Mach)

/-- Continues where no failure occurred. -/
def Res.bind {α β : Type} (r : Res α) (k : α → Mach → Res β) : Res β :=
  match r with
  | .ok a s => k a s
  | .err f s => .err f s
/-- The state a result leaves. -/
def Res.state {α : Type} (r : Res α) : Mach :=
  match r with
  | .ok _ s => s
  | .err _ s => s
/-- Fails where a condition does not hold. -/
def Res.check (b : Bool) (st : Nat) (s : Mach) : Res Unit := if b then .ok () s else .err (.fatal st) s

/-- A fold of a list that stops at the first failure. -/
def foldRes {α β : Type} (f : β → α → Mach → Res β) : β → List α → Mach → Res β
  | b, [], s => .ok b s
  | b, a :: l, s =>
    match f b a s with
    | .ok b' s' => foldRes f b' l s'
    | .err e s' => .err e s'

/-- Repeats an action on each element of a list, stopping at the first failure. -/
def eachRes {α : Type} (f : α → Mach → Res Unit) (l : List α) (s : Mach) : Res Unit :=
  foldRes (fun _ a s => f a s) () l s

/-- Repeats an action on each element of a list. -/
def each {α : Type} (f : α → Mach → Mach) (l : List α) (s : Mach) : Mach := l.foldl (fun s a => f a s) s

/-! ## Status codes (15 R389) -/

/-- ST_OK. -/
def stOk : Nat := 0x0000
/-- ST_SHAPE. -/
def stShape : Nat := 0x0001
/-- ST_SCALE. -/
def stScale : Nat := 0x0002
/-- ST_NO_CREDIT. -/
def stNoCredit : Nat := 0x0003
/-- ST_FAULT_XLATE. -/
def stFaultXlate : Nat := 0x0004
/-- ST_FAULT_POISON. -/
def stFaultPoison : Nat := 0x0005
/-- ST_PERM. -/
def stPerm : Nat := 0x0006
/-- ST_BUDGET. -/
def stBudget : Nat := 0x0007
/-- ST_BUSY. -/
def stBusy : Nat := 0x0008
/-- ST_ABORTED. -/
def stAborted : Nat := 0x0009
/-- ST_REFUSED. -/
def stRefused : Nat := 0x000A
/-- ST_NOT_READY. -/
def stNotReady : Nat := 0x000B
/-- ST_PRESENCE. -/
def stPresence : Nat := 0x000C
/-- ST_SIG. -/
def stSig : Nat := 0x000D
/-- ST_VERSION. -/
def stVersion : Nat := 0x000E
/-- ST_DIGEST. -/
def stDigest : Nat := 0x000F
/-- ST_LIST_STATE. -/
def stListState : Nat := 0x0010
/-- ST_POOL_EMPTY. -/
def stPoolEmpty : Nat := 0x0011
/-- ST_PAGE_SHARED. -/
def stPageShared : Nat := 0x0012
/-- ST_TIER_FULL. -/
def stTierFull : Nat := 0x0013
/-- ST_TIER_TIMEOUT. -/
def stTierTimeout : Nat := 0x0014
/-- ST_REPLAY_LIMIT. -/
def stReplayLimit : Nat := 0x0015
/-- ST_SESSION. -/
def stSession : Nat := 0x0016
/-- ST_SEQ. -/
def stSeq : Nat := 0x0017

end Sys2Proof.Machine
end

