-- ==== Sys2Proof/Machine/Irq.lean ====
section
/-! DEFINITION. Machine/Irq.lean: the interrupt controller's pending bits, route masks and routing
(16_control_complex_and_interrupts.md R396 to R398). -/

namespace Sys2Proof.Machine

/-- Sources that are never set on die d: reserved ranges and those of absent units (R396). -/
def srcReserved (d n : Nat) : Bool :=
  (100 ≤ n && n ≤ 103) || (109 ≤ n && n ≤ 111) || (118 ≤ n && n ≤ 127) || (130 ≤ n && n ≤ 143) ||
  (160 ≤ n && n ≤ 511) || (d != 0 && ((104 ≤ n && n ≤ 108) || (128 ≤ n && n ≤ 129)))
/-- Whether source n of die d is pending. -/
def Mach.irqPending (s : Mach) (d n : Nat) : Bool := (s.reg (flaskReg d (0x100 + 4 * (n / 32)))).toNat.testBit (n % 32)
/-- Writes a pending bit. -/
def Mach.setPending (s : Mach) (d n : Nat) (v : Bool) : Mach :=
  s.setField (flaskReg d (0x100 + 4 * (n / 32))) (n % 32) (n % 32) (b2n v)
/-- An event of source n reaches the controller of die d (R397): it sets the pending bit or is merged. -/
def Mach.raise (s : Mach) (d n : Nat) : Mach :=
  if srcReserved d n || n ≥ 1024 then s
  else if s.irqPending d n then s.bump (flaskReg d 0x30) 1
  else s.setPending d n true

/-- Whether pair p of die d runs. -/
def Mach.pairRuns (s : Mach) (d p : Nat) : Bool := !(s.pair d p).halted && !(s.pair d p).jtagHalt
/-- The route mask of a source as its register holds it. -/
def Mach.routeReg (s : Mach) (d n : Nat) : Nat :=
  bits (s.reg (flaskReg d (0x200 + 4 * (n / 8)))).toNat (4 * (n % 8) + 3) (4 * (n % 8))
/-- The pairs a source may go to (R398): sources 4 + p move on from a halted pair, and a mask with no running pair counts
as every running pair. -/
def Mach.routeMask (s : Mach) (d n : Nat) : List Nat :=
  let run := (List.range 4).filter fun p => s.pairRuns d p
  let base :=
    if 4 ≤ n && n ≤ 7 then
      (([1, 2, 3, 4].map fun i => (n - 4 + i) % 4).filter fun p => s.pairRuns d p).take 1
    else run.filter fun p => (s.routeReg d n).testBit p
  if base.isEmpty then run else base
/-- The running priority of a pair (R398). -/
def Mach.runPrio (s : Mach) (d p : Nat) : Nat := ((s.pair d p).inService).getD 1024
/-- Whether a source is in service on any pair of its die. -/
def Mach.inServiceAny (s : Mach) (d n : Nat) : Bool := (List.range 4).any fun p => (s.pair d p).inService == some n

/-- One pass of the routing of R398 over sources in ascending order: (pair, source) of each source routed. -/
def routeLoop (s : Mach) (d : Nat) : List Nat → List (Nat × Nat) → List (Nat × Nat)
  | [], acc => acc
  | n :: l, acc =>
    let free := (s.routeMask d n).filter fun p => !(acc.any fun r => r.1 == p)
    let best := free.foldl (fun (b : Option Nat) p => match b with
      | none => some p
      | some q => if s.runPrio d p > s.runPrio d q then some p else some q) none
    match best with
    | some p => routeLoop s d l (acc ++ [(p, n)])
    | none => routeLoop s d l acc
/-- The routing of die d as its pending bits stand (R398). -/
def Mach.routing (s : Mach) (d : Nat) : List (Nat × Nat) :=
  routeLoop s d ((List.range 1024).filter fun n => s.irqPending d n && !s.inServiceAny d n) []

end Sys2Proof.Machine
end

