-- ==== Sys2Proof/Machine/Codes.lean ====
section
/-! DEFINITION. Machine/Codes.lean: CRC-32C (13_tiers_and_residency.md R310, 15_host_interface.md R355,
21_bring_up_and_test.md) and the Reed–Solomon code of a stored sector (12_memory_system.md R268). -/

namespace Sys2Proof.Machine

/-- k steps of the reflected CRC-32C register (Castagnoli polynomial). -/
def crcBits : Nat → Nat → Nat
  | 0, c => c
  | k + 1, c => crcBits k (if c.testBit 0 then (c >>> 1) ^^^ 0x82F63B78 else c >>> 1)
/-- CRC-32C of a byte string. The polynomial is the spec's; initial value, reflection and final complement are those of
the published CRC-32C: PRESUMED, log entry 5. -/
def crc32c (l : List Byte) : Nat :=
  (l.foldl (fun c b => crcBits 8 (c ^^^ b.toNat)) 0xFFFFFFFF) ^^^ 0xFFFFFFFF

/-- Multiplication by α in GF(2^8) (R268). -/
def gfX (a : Nat) : Nat := if a ≥ 128 then (2 * a) ^^^ 0x11D else 2 * a
/-- Multiplication in GF(2^8), by the bits of b. -/
def gfMulAux : Nat → Nat → Nat → Nat → Nat
  | 0, _, _, acc => acc
  | k + 1, a, b, acc => gfMulAux k (gfX a) (b / 2) (if b % 2 = 1 then acc ^^^ a else acc)
/-- Multiplication in GF(2^8). -/
def gfMul (a b : Nat) : Nat := gfMulAux 8 a b 0
/-- α^k. -/
def gfPow : Nat → Nat
  | 0 => 1
  | k + 1 => gfX (gfPow k)

/-- g(x) = (x + 1)(x + α)(x + α²) = x³ + g2 x² + g1 x + g0 (R268). -/
def rsG2 : Nat := 1 ^^^ 2 ^^^ 4
/-- Coefficient of x. -/
def rsG1 : Nat := 2 ^^^ 4 ^^^ gfMul 2 4
/-- Constant coefficient. -/
def rsG0 : Nat := gfMul 2 4

/-- The check symbols r2, r1, r0 of 65 information symbols (R268). -/
def rsCheck (info : List Nat) : List Nat :=
  let r := info.foldl (fun (r : Nat × Nat × Nat) s =>
    let f := s ^^^ r.1
    (r.2.1 ^^^ gfMul f rsG2, r.2.2 ^^^ gfMul f rsG1, gfMul f rsG0)) (0, 0, 0)
  [r.1, r.2.1, r.2.2]

/-- The syndrome at α^j of a stored word, symbol k the coefficient of x^(67 − k). -/
def rsSyndrome (w : List Nat) (j : Nat) : Nat :=
  w.foldl (fun a s => gfMul a (gfPow j) ^^^ s) 0

/-- The outcome of a decode (R269). -/
inductive RsResult where
  | clean
  | corrected (word : List Nat)
  | uncorrectable
  deriving DecidableEq, Repr

/-- R268: a decode corrects any one erroneous symbol; a metadata byte corrected into one with a bit of [7:1] set is
uncorrectable. -/
def rsDecode (w : List Nat) : RsResult :=
  let s0 := rsSyndrome w 0
  let s1 := rsSyndrome w 1
  let s2 := rsSyndrome w 2
  if s0 = 0 ∧ s1 = 0 ∧ s2 = 0 then .clean
  else
    -- one symbol in error by v at position k: s0 = v, s1 = v·α^(67 − k), s2 = v·α^(2(67 − k))
    match (List.range 68).find? fun k => s0 != 0 && gfMul s0 (gfPow (67 - k)) == s1 &&
        gfMul s1 (gfPow (67 - k)) == s2 with
    | none => .uncorrectable
    | some k =>
      let w' := w.set k ((w.getD k 0) ^^^ s0)
      if k = 64 ∧ w'.getD 64 0 ≥ 2 then .uncorrectable else .corrected w'

end Sys2Proof.Machine
end

