-- ==== Sys2Proof/Machine/Near.lean ====
section
/-! DEFINITION. Machine/Near.lean: the near tier by device physical address, its interleave and repair map, slag, and
the objects that hold it (12_memory_system.md R262 to R271, R277; 13_tiers_and_residency.md R302, R314). -/

namespace Sys2Proof.Machine

/-- NT, the end of the near tier (R263). -/
def Mach.nt (s : Mach) : Nat := if s.repair then 0xBA00000000 else 0xC000000000
/-- Bytes from address 0 that firmware keeps for its tables (DESIGN CHOICE, log entry 7). -/
def fwArea : Nat := 0x2000000

/-- F(U) of R264. -/
def hashF (u : Nat) : Nat := bits u 9 0 ^^^ bits u 19 10 ^^^ bits u 29 20
/-- The logical channel and the granule offset of an address (R264). -/
def logicalOf (a : Nat) : Nat × Nat :=
  let u := bits a 47 18
  (bits a 17 8 ^^^ hashF u, u)
/-- The address of byte 0 of granule U of logical channel c: the inverse of R264. -/
def addrOf (c u : Nat) : Nat := (u <<< 18) ||| ((c ^^^ hashF u) <<< 8)

/-- The remap entry of logical channel c (R265, R294): mode, lane, PHYS. -/
def Mach.remap (s : Mach) (c : Nat) : Nat × Nat × Nat :=
  let w := (s.reg (memReg (0x1000 + 4 * c))).toNat
  (bits w 31 30, bits w 29 27, bits w 9 0)
/-- Writes the remap entry of logical channel c. -/
def Mach.setRemap (s : Mach) (c mode lane phys : Nat) : Mach :=
  s.setReg (memReg (0x1000 + 4 * c)) (w32 ((mode % 4) <<< 30 ||| (lane % 8) <<< 27 ||| phys % 1024))
/-- S[d][j][k] of R266. -/
def Mach.spread (s : Mach) (d j k : Nat) : Nat :=
  bits (s.reg (memReg (0x2000 + (8 * d + j) * 256 + 4 * (k / 4)))).toNat (8 * (k % 4) + 7) (8 * (k % 4))
/-- Writes S[d][j][k]. -/
def Mach.setSpread (s : Mach) (d j k v : Nat) : Mach :=
  s.setField (memReg (0x2000 + (8 * d + j) * 256 + 4 * (k / 4))) (8 * (k % 4) + 7) (8 * (k % 4)) v
/-- Granules of a logical channel, and the first granule of the spare area (R264). -/
def spareBase : Nat := 3047424

/-- The physical pseudo-channel and granule offset of granule U of logical channel c, none in FAILED mode (R265, R266,
R280). A lane granule that a replacement has moved is at its new place below the watermark. -/
def Mach.locate (s : Mach) (c u : Nat) : Option (Nat × Nat) :=
  let (mode, lane, phys) := s.remap c
  let d := phys / 256
  let spreadAt :=
    let k := u % 248
    let q := u / 248
    let old := s.spread d lane k
    let die := s.repairOf d
    let ch := match die.mig with
      | some m => match m.regions with
        | .lane j k' new :: _ => if j = lane ∧ k' = k ∧ q < m.w then new else old
        | _ => old
      | none => old
    (256 * d + ch, spareBase + 12288 * lane + q)
  match mode with
  | 0 => some (phys, u)
  | 1 => some spreadAt
  | 2 =>
    let w := match (s.repairOf d).mig with
      | some m => match m.regions with
        | .logical c' :: _ => if c' = c then m.w else 0
        | _ => 0
      | none => 0
    if u < w then some spreadAt else some (phys, u)
  | _ => none

/-- Where the granule of an address lies. -/
def Mach.placeOf (s : Mach) (a : Nat) : Option (Nat × Nat) :=
  let (c, u) := logicalOf a
  s.locate c u
/-- The global memory slice whose stack holds an address; in FAILED mode that of the failed channel. -/
def Mach.sliceOf (s : Mach) (a : Nat) : Nat :=
  match s.placeOf a with
  | some (n, _) => n / 32
  | none => (s.remap (logicalOf a).1).2.2 / 32
/-- Whether the granule of an address lies on a FAILED pseudo-channel (R277). -/
def Mach.isFailed (s : Mach) (a : Nat) : Bool :=
  match s.placeOf a with
  | some (n, _) => (s.pc n).state == 2#2
  | none => true
/-- Whether granule U of logical channel c lies in the step that the migration of its die has next (R280). -/
def Mach.inStep (s : Mach) (c u : Nat) : Bool :=
  let (mode, lane, phys) := s.remap c
  match (s.repairOf (phys / 256)).mig with
  | some m => match m.regions with
    | .lane j k _ :: _ => mode == 1 && lane == j && u % 248 == k && m.w ≤ u / 248 && u / 248 < m.w + 4096
    | .logical c' :: _ => c' == c && m.w ≤ u && u < m.w + 4096
    | [] => false
  | none => false
/-- The held pseudo-channel an address lies on, if any (R273, R274); a migration step holds its own granules only. -/
def Mach.heldAt (s : Mach) (a : Nat) : Option Nat :=
  if s.pcs.all fun p => p.2.state != 1#2 then none
  else
    let (c, u) := logicalOf a
    match s.locate c u with
    | some (n, _) =>
      if (s.pc n).state == 1#2 && ((s.pc n).reason != 2#2 || s.inStep c u) then some n else none
    | none => none

/-- A byte of the near tier. -/
def Mach.nearByte (s : Mach) (a : Nat) : Byte := tabGet (fun _ => 0#8) s.near a
/-- The slag mark of the sector that holds an address, as stored. -/
def Mach.slagBit (s : Mach) (a : Nat) : Bool := tabGet (fun _ => false) s.slag (a / 64)
/-- Whether a read of an address delivers slag (R269, R277). -/
def Mach.isSlag (s : Mach) (a : Nat) : Bool := s.slagBit a || s.isFailed a

/-- n bytes from an address, as stored. -/
def Mach.nearBytes (s : Mach) (a n : Nat) : List Byte := tabRead (fun _ => 0#8) s.near a n
/-- Stores bytes from an address on, with no regard to slag. -/
def Mach.putBytes (s : Mach) (a : Nat) (l : List Byte) : Mach :=
  { s with near := tabPut (fun _ => 0#8) s.near a l }

/-- Whether an object's near extents hold an address. -/
def Obj.holds (o : Obj) (a : Nat) : Bool := o.near.any fun e => e.1 ≤ a && a < e.1 + e.2
/-- The object whose near copy holds an address. -/
def Mach.objAt (s : Mach) (a : Nat) : Option Nat := (s.objs.find? fun p => p.2.holds a).map fun p => p.1
/-- Size of an object in bytes. -/
def Obj.bytes (o : Obj) : Nat := o.size64k * 65536
/-- Drops the translations of an object from every translation cache and counts an invalidation per mapping (R298). -/
def Mach.invalidateObj (s : Mach) (n : Nat) : Mach :=
  let ms := s.maps.filter fun m => m.obj == n
  let size := (s.obj n).bytes
  let hit := fun (ctx leaf : Nat) => ms.any fun m => m.ctx == ctx && m.va ≤ leaf && leaf < m.va + size
  let s := { s with cores := tabMap (fun _ => {}) (fun _ (x : CoreSt) =>
    { x with xlate := x.xlate.filter fun l => !hit x.xctx l }) s.cores }
  if ms.isEmpty then s else (s.bump (tierReg 0x2C) ms.length).raise 0 116

/-- An entry of the residency table (13 R302). -/
def Mach.objEntry (s : Mach) (n : Nat) : Nat :=
  let o := s.obj n
  let maps := ((s.maps.filter fun m => m.obj == n).map fun m => m.ctx).eraseDups.length
  let map' := if o.state == 0#3 then 0 else (Config.objMapAddr n).toNat
  o.sync.toNat + b2n o.syncEn <<< 31 + o.faults.toNat <<< 32 + o.ew.toNat <<< 92 + b2n o.accessed <<< 95 +
    b2n o.abandon <<< 96 + b2n o.refetch <<< 97 + b2n o.poison <<< 98 + b2n o.clean <<< 99 + b2n o.origin <<< 100 +
    b2n o.leaf64k <<< 101 + b2n o.tierPin <<< 102 + o.pref.toNat <<< 103 + o.dst.toNat <<< 105 + o.src.toNat <<< 107 +
    o.state.toNat <<< 109 + o.owner.toNat <<< 116 + (maps % 2 ^ 13) <<< 131 + o.pins.toNat <<< 144 + o.wmark.toNat <<< 160 +
    ((o.size64k - 1) % 2 ^ 24) <<< 180 + o.ep.toNat <<< 204 + map' <<< 216
/-- R314: object n holds slag. A new POISON is counted and recorded; without a clean origin the object's leaves lose
PRESENT (R316). -/
def Mach.poisonObj (s : Mach) (n : Nat) : Mach :=
  let o := s.obj n
  if o.poison || o.state == 0#3 then s
  else
    let again := o.clean && o.origin
    let s := (s.setObj n { o with poison := true, refetch := o.refetch || again }).bump (tierReg 0x24) 1
    let s := s.recordDue { mech := 0x25#8, unit := w32 n, die := 0#2, source := 0x3FF#10, status := 0x0005#16,
                           detail := (List.range 8).map fun i => wordOf (s.objEntry n) i }
    if again || !o.present then s else (s.setObj n { s.obj n with present := false }).invalidateObj n
/-- Writes the slag mark of a sector; an object that gains slag is poisoned (R314). -/
def Mach.setSlag (s : Mach) (a : Nat) (v : Bool) : Mach :=
  let s := { s with slag := tabSet (fun _ => false) s.slag (a / 64) v }
  if v then match s.objAt a with
    | some n => s.poisonObj n
    | none => s
  else s

/-- A write within one sector with the writer's mark (R270, R277): a whole sector takes the mark, a partial write keeps
a set mark; a write on a FAILED channel is discarded and counted. -/
def Mach.writeSector (s : Mach) (a : Nat) (l : List Byte) (mark : Bool) : Mach :=
  if s.isFailed a then s.bump (ldlReg (s.sliceOf a) 0x11C) 1
  else
    let whole := a % 64 == 0 && l.length == 64
    let s := s.putBytes a l
    if whole then (if s.slagBit a || mark then s.setSlag a mark else s)
    else if mark then s.setSlag a true else s

/-- A byte string cut at 64-byte boundaries of its address. -/
def sectorPieces : Nat → Nat → List Byte → List (Nat × List Byte)
  | 0, _, _ => []
  | _, _, [] => []
  | fuel + 1, a, l =>
    let n := 64 - a % 64
    (a, l.take n) :: sectorPieces fuel (a + n) (l.drop n)

/-- Writes bytes at a physical address with a slag mark (R270). -/
def Mach.writeNear (s : Mach) (a : Nat) (l : List Byte) (mark : Bool) : Mach :=
  each (fun p s => s.writeSector p.1 p.2 mark) (sectorPieces (l.length + 1) a l) s

/-- The first addresses of the sectors that n bytes from a touch. -/
def sectorsOf (a n : Nat) : List Nat :=
  if n = 0 then [] else (List.range ((a + n - 1) / 64 - a / 64 + 1)).map fun i => (a / 64 + i) * 64

/-- Reads bytes at a physical address: the bytes, whether a sector of them is slag, and the count of each slag sector
delivered (R271). -/
def Mach.readNear (s : Mach) (a n : Nat) : List Byte × Bool × Mach :=
  let bad := (sectorsOf a n).filter fun x => s.isSlag x
  (s.nearBytes a n, !bad.isEmpty, each (fun x s => s.bump (ldlReg (s.sliceOf x) 0x108) 1) bad s)

/-- The held channel that any of n bytes at a physical address lies on (R274). -/
def Mach.heldIn (s : Mach) (a n : Nat) : Option Nat :=
  if s.pcs.all fun p => p.2.state != 1#2 then none
  else ((List.range ((a + n - 1) / 256 - a / 256 + 1)).filterMap fun i => s.heldAt ((a / 256 + i) * 256)).head?

/-! ## The shared caches (06 R160, R161) -/

/-- The lines of a set of a slice's cache, most recently used first. -/
def Mach.cacheSet (s : Mach) (g set : Nat) : List Line := tabGet (fun _ => []) s.cache (2048 * g + set)
/-- Writes a set of a slice's cache. -/
def Mach.setCacheSet (s : Mach) (g set : Nat) (l : List Line) : Mach :=
  { s with cache := tabSet (fun _ => []) s.cache (2048 * g + set) l }
/-- The set of the line that holds an address (log entry 8). -/
def setOf (pa : Nat) : Nat := pa / 128 % 2048
/-- Drops the last line of a list for which p holds; none where there is none. -/
def dropLast (p : Line → Bool) (l : List Line) : Option (List Line) :=
  match l.reverse.findIdx? p with
  | some i => some (l.eraseIdx (l.length - 1 - i))
  | none => none
/-- A set with room for one more line: a way is invalid, or the victim of R161 is dropped. -/
def makeRoom (l : List Line) : List Line :=
  if l.length < 16 then l
  else match dropLast (fun x => x.kind != .keep) l with
  | some l => l
  | none => l.dropLast
/-- A set in which one more line may be KEEP: with 12 already, the least recently used of them becomes ordinary. -/
def demoteKeep (l : List Line) : List Line :=
  if (l.filter fun x => x.kind == .keep).length < 12 then l
  else match l.reverse.findIdx? fun x => x.kind == .keep with
  | some i => l.modify (l.length - 1 - i) fun x => { x with kind := .ordinary }
  | none => l
/-- The kind of a line after an access with a hint; none for a line just allocated. A LAST line stays LAST under KEEP, since
every read of it counts (log entry 45). DESIGN CHOICE (log entry 60): a write with the hint LAST sets the kind as a read does, so a
LAST line takes the larger count from it too. -/
def hintKind (h : Hint) (k : Option LineKind) : LineKind :=
  match h, k with
  | .keep, some (.last m) => .last m
  | .keep, _ => .keep
  | .last n, some (.last m) => .last (max m n.toNat)
  | .last _, some .keep => .keep
  | .last n, _ => .last n.toNat
  | _, some k => k
  | _, none => .ordinary
/-- A line leaves its cache: written back where it is dirty, else the mark of its stored sectors shows (R160). -/
def Mach.dropLine (s : Mach) (l : Line) : Mach :=
  each (fun k s =>
    if !tabGet (fun _ => false) s.under k then s
    else
      let s := { s with under := tabSet (fun _ => false) s.under k false }
      if l.dirty then s else s.setSlag (64 * k) true) [2 * l.tag, 2 * l.tag + 1] s
/-- A set of a slice's cache takes new lines; those that leave it are dropped. -/
def Mach.replaceSet (s : Mach) (g set : Nat) (l : List Line) : Mach :=
  let gone := if s.under.isEmpty then [] else (s.cacheSet g set).filter fun x => l.all fun y => y.tag != x.tag
  each (fun x s => s.dropLine x) gone (s.setCacheSet g set l)
/-- Whether a valid line of a shared cache holds an address. -/
def Mach.cached (s : Mach) (pa : Nat) : Bool := (s.cacheSet (s.sliceOf pa) (setOf pa)).any fun x => x.tag == pa / 128
/-- A stored sector is found uncorrectable: beneath a valid line its mark shows once the line has left (R160). -/
def Mach.stackSlag (s : Mach) (pa : Nat) : Mach :=
  if s.cached pa then { s with under := tabSet (fun _ => false) s.under (pa / 64) true } else s.setSlag pa true
/-- An access to the line of an address passes through its slice's cache (R161). -/
def Mach.touchLine (s : Mach) (pa : Nat) (write : Bool) (h : Hint) : Mach :=
  let g := s.sliceOf pa
  let set := setOf pa
  let l := s.cacheSet g set
  let tag := pa / 128
  let hit := l.find? fun x => x.tag == tag
  let s := s.bump (ldlReg g (if hit.isSome then 0x24 else 0x28)) 1
  if hit.isNone && h == .stream then s
  else
    let rest := l.filter fun x => x.tag != tag
    let kind := hintKind h (hit.map fun x => x.kind)
    let rest := if kind = .keep ∧ (hit.map fun x => x.kind) ≠ some .keep then demoteKeep rest else rest
    let rest := makeRoom rest
    let line : Line := { tag := tag, kind := kind, dirty := write || (hit.any fun x => x.dirty) }
    match kind, write with
    | .last n, false =>
      if n ≤ 1 then (s.replaceSet g set rest).bump (ldlReg g 0x2C) 1
      else s.replaceSet g set ({ line with kind := .last (n - 1) } :: rest)
    | _, _ => s.replaceSet g set (line :: rest)
/-- An access to n bytes of the near tier passes through the caches of its lines' slices (R160). Where no mark waits beneath a line, all
that changes is the caches and their counters. -/
def Mach.touch (s : Mach) (pa n : Nat) (write : Bool) (h : Hint) : Mach :=
  if n = 0 then s
  else
    let y := each (fun i s => s.touchLine ((pa / 128 + i) * 128) write h) (List.range ((pa + n - 1) / 128 - pa / 128 + 1)) s
    if s.under.isEmpty then { s with cache := y.cache, regs := y.regs } else y

/-- The granules of a range that lie on FAILED pseudo-channels (R277). -/
def Mach.failedIn (s : Mach) (a n : Nat) : List Nat :=
  if s.pcs.all fun p => p.2.state != 2#2 then []
  else ((List.range (n / 256)).map fun i => a + 256 * i).filter fun x => s.isFailed x
/-- Zero-fills a range of whole granules: data and marks (13 R299). It passes through the caches (06 R160); the writes to FAILED
pseudo-channels are discarded, four sectors a granule (R277). -/
def Mach.clearNear (s : Mach) (a n : Nat) : Mach :=
  let bad := s.failedIn a n
  let keep := fun (x : Nat) => !(a ≤ x && x < a + n) || bad.contains (x / 256 * 256)
  let s := { s with near := s.near.filter fun p => keep p.1, slag := s.slag.filter fun p => keep (64 * p.1) }
  (each (fun x s => s.bump (ldlReg (s.sliceOf x) 0x11C) 4) bad s).touch a n true .none

/-! ## Physical sectors -/

/-- The logical granule that lies at a physical granule, if the map places one there (inverse of R265, R266). -/
def Mach.logicalAt (s : Mach) (pc off : Nat) : Option (Nat × Nat) :=
  (List.range 1024).findSome? fun c =>
    let (mode, lane, phys) := s.remap c
    if mode = 3 then none
    else if off < spareBase then (if s.locate c off = some (pc, off) then some (c, off) else none)
    else
      let j := (off - spareBase) / 12288
      let q := (off - spareBase) % 12288
      if mode = 0 ∨ j ≠ lane ∨ phys / 256 ≠ pc / 256 then none
      else (List.range 248).findSome? fun k =>
        if s.locate c (q * 248 + k) = some (pc, off) then some (c, q * 248 + k) else none
/-- With repair disabled the whole channel is logical; the address of sector n of pseudo-channel pc, if mapped. -/
def Mach.sectorAddr (s : Mach) (pc sector : Nat) : Option Nat :=
  let off := sector / 4
  let r := if s.repair then s.logicalAt pc off
    else (List.range 1024).findSome? fun c => if s.locate c off = some (pc, off) then some (c, off) else none
  r.map fun p => addrOf p.1 p.2 + 64 * (sector % 4)

/-! ## The canonical form of the memories -/

/-- Every memory of the module is in its one form: addresses strictly rising, nothing listed that an unlisted address reads
as. -/
def Memory.wf (s : Mach) : Bool :=
  tabWf (fun _ => 0#8) s.near && tabWf (fun _ => false) s.slag && tabWf (fun _ => 0#513) s.spare &&
    tabWf (fun _ => none) s.lpSpare && tabWf (fun _ => 0#8) s.lp && tabWf (fun _ => false) s.lpSlag &&
    tabWf (fun _ => 0#8) s.scratch && tabWf (fun _ => 0#8) s.stage && tabWf (fun _ => 0#8) s.cbuf && tabWf (fun _ => 0#32) s.acc &&
    tabWf (fun _ => 0) s.accAdds && tabWf (fun _ => false) s.under && tabWf (fun _ => none) s.flaskRam

end Sys2Proof.Machine
end

