-- ==== Sys2Proof/Machine/Residency.lean ====
section
/-! DEFINITION. Machine/Residency.lean: the residency engine's bookkeeping: room in the tiers, promotion requests,
moves, victims, pins (13_tiers_and_residency.md R299 to R308). Which frames an object gets is the model's own
choice: lowest first (DESIGN CHOICE, log entry 7). -/

namespace Sys2Proof.Machine

/-- Insertion of an extent by its start. -/
def insertExt (x : Nat × Nat) : List (Nat × Nat) → List (Nat × Nat)
  | [] => [x]
  | y :: l => if x.1 ≤ y.1 then x :: y :: l else y :: insertExt x l
/-- Extents by ascending start. -/
def sortExt : List (Nat × Nat) → List (Nat × Nat)
  | [] => []
  | x :: l => insertExt x (sortExt l)
/-- The gaps between sorted extents, from `at` up to `top`. -/
def gapsFrom : List (Nat × Nat) → Nat → Nat → List (Nat × Nat)
  | [], a, top => if a < top then [(a, top - a)] else []
  | (b, n) :: l, a, top => (if a < b then [(a, b - a)] else []) ++ gapsFrom l (max a (b + n)) top

/-- Total bytes or frames of extents. -/
def extSum (l : List (Nat × Nat)) : Nat := l.foldl (fun a e => a + e.2) 0

/-- Bytes of a translation table of a level (R295). -/
def tableBytes (level : Nat) : Nat := if level = 3 then 256 else 4096
/-- The extents of the translation tables. -/
def Mach.tableExts (s : Mach) : List (Nat × Nat) := s.tables.map fun t => (t.addr, tableBytes t.level)
/-- The gaps of the near tier beside the extents of objects and the translation tables. -/
def Mach.gapsBeside (s : Mach) (l : List (Nat × Nat)) : List (Nat × Nat) := gapsFrom (sortExt (l ++ s.tableExts)) fwArea s.nt
/-- The free gaps of the near tier. -/
def Mach.nearGaps (s : Mach) : List (Nat × Nat) := s.gapsBeside (s.objs.flatMap fun p => p.2.near)
/-- Free near-tier bytes. -/
def Mach.nearFree (s : Mach) : Nat := extSum s.nearGaps
/-- The gaps cut to whole leaves at leaf alignment. -/
def alignGaps (leaf : Nat) (l : List (Nat × Nat)) : List (Nat × Nat) :=
  l.filterMap fun g =>
    let a := roundUp g.1 leaf
    let n := (g.1 + g.2 - a) / leaf * leaf
    if a < g.1 + g.2 ∧ n > 0 then some (a, n) else none
/-- Takes n bytes from the front of aligned gaps; none where they do not suffice. -/
def takeExt : List (Nat × Nat) → Nat → Option (List (Nat × Nat))
  | _, 0 => some []
  | [], _ => none
  | (a, m) :: l, n => if n ≤ m then some [(a, n)] else (takeExt l (n - m)).map fun r => (a, m) :: r

/-- Leaf size of an object in bytes (R299). -/
def Obj.leaf (o : Obj) : Nat := if o.leaf64k then 65536 else 2097152
/-- Bars of an object: one per 64 KiB (R309). -/
def Obj.nbars (o : Obj) : Nat := o.size64k
/-- Near frames for an object, if there is room. -/
def Mach.allocNear (s : Mach) (o : Obj) : Option (List (Nat × Nat)) :=
  takeExt (alignGaps o.leaf s.nearGaps) o.bytes
/-- Whether an object is moving down from the near tier, whose frames its commit will free. -/
def Obj.leavingNear (o : Obj) : Bool := o.state == 3#3 && o.src == 1#2 && !o.abandon
/-- Whether an object will have near frames once the moves down in progress have committed (R307). -/
def Mach.fitsAfter (s : Mach) (o : Obj) : Bool :=
  let stay := s.objs.flatMap fun p => if p.2.leavingNear then [] else p.2.near
  (takeExt (alignGaps o.leaf (s.gapsBeside stay)) o.bytes).isSome

/-- The device physical address of byte `off` of an object's near copy. -/
def extAt : List (Nat × Nat) → Nat → Option Nat
  | [], _ => none
  | (a, n) :: l, off => if off < n then some (a + off) else extAt l (off - n)
/-- The device physical address of byte `off` of an object's near copy. -/
def Obj.pa (o : Obj) (off : Nat) : Option Nat := extAt o.near off

/-- Frames of the module tier: 480 GiB in 4 KiB frames (12 R285). -/
def modTotal : Nat := 125829120
/-- The free gaps of the module tier, in frames. -/
def Mach.modGaps (s : Mach) : List (Nat × Nat) :=
  gapsFrom (sortExt (s.objs.flatMap fun p => p.2.bars.map fun b => b.2)) 0 modTotal
/-- Free module-tier frames. -/
def Mach.modFree (s : Mach) : Nat := extSum s.modGaps
/-- First frames for n bars of 17 frames each, bar b first (R305, R309). -/
def takeBars : List (Nat × Nat) → Nat → Nat → Tab (Nat × Nat)
  | [], _, _ => []
  | (a, m) :: l, b, n =>
    let k := min n (m / 17)
    ((List.range k).map fun i => (b + i, (a + 17 * i, 17))) ++ takeBars l (b + k) (n - k)
/-- Bar places for an object in the module tier, if there is room for its largest size. -/
def Mach.allocMod (s : Mach) (o : Obj) : Option (Tab (Nat × Nat)) :=
  let r := takeBars s.modGaps 0 o.nbars
  if r.length = o.nbars then some r else none

/-- Length of endpoint e's region in 4 KiB units (15 R380). -/
def Mach.epRegion (s : Mach) (e : Nat) : Nat := if (s.ep e).configured then bits (s.ep e).body 231 192 else 0
/-- Free remote frames on endpoint e. -/
def Mach.remFree (s : Mach) (e : Nat) : Nat :=
  s.epRegion e - (s.objs.foldl (fun (a : Nat) (p : Nat × Obj) => if p.2.ep.toNat = e then a + p.2.remFrames else a) 0)
/-- Whether at least one endpoint is configured. -/
def Mach.anyEp (s : Mach) : Bool := s.eps.any fun p => p.2.configured
/-- The endpoint that takes an object moving to the remote tier: its own where configured and roomy, else the lowest
with room (DESIGN CHOICE, log entry 7). -/
def Mach.pickEp (s : Mach) (o : Obj) : Option Nat :=
  let need := 17 * o.nbars
  let own := o.ep.toNat
  if (o.origin || o.remFrames > 0) && (s.ep own).configured && need ≤ s.remFree own then some own
  else (s.eps.find? fun p => p.2.configured && need ≤ s.remFree p.1).map fun p => p.1

/-- Whether a tier (2 module, 3 remote) has room for an object's largest size (R305). -/
def Mach.roomBelow (s : Mach) (o : Obj) (tier : Nat) : Bool :=
  if tier = 2 then !s.moduleOut && (s.allocMod o).isSome else (s.pickEp o).isSome

/-- The preference an object has: the module tier stands for the remote tier, or else the near one, while it is out of use
(R318). -/
def Mach.prefOf (s : Mach) (o : Obj) : Nat :=
  if o.pref == 2#2 && s.moduleOut then (if s.anyEp then 3 else 1) else o.pref.toNat
/-- The start of a move down (R303, R305): WATCH set, leaves invalidated, the largest size reserved. -/
def Mach.startDown (s : Mach) (n dst : Nat) : Mach :=
  let o := s.obj n
  let src : BitVec 2 := if o.state == 1#3 then 1#2 else 2#2
  let base := { o with state := 3#3, src := src, dst := BitVec.ofNat 2 dst, wmark := 0#20, abandon := false,
                       watch := src == 1#2 }
  let o' := if dst = 2 then (match s.allocMod o with | some b => { base with bars := b } | none => base)
    else (match s.pickEp o with
      | some e => { base with ep := BitVec.ofNat 8 e, remFrames := base.remFrames + 17 * o.nbars, remSlag := [] }
      | none => base)
  let s := s.setObj n o'
  if src == 1#2 then s.invalidateObj n else s

/-- Where a victim goes (R307, R318): its preference below the near tier, else the module tier, else the remote one. -/
def Mach.victimTier (s : Mach) (o : Obj) : Nat :=
  if s.prefOf o = 3 then 3 else if s.moduleOut then 3 else 2

/-- Objects that may be victims, in the order of R307, from the rotating start. -/
def Mach.victims (s : Mach) : List Nat :=
  let cand := s.objs.filter fun p => p.2.state == 1#3 && p.2.pins == 0#16 && !(p.2.tierPin && s.prefOf p.2 == 1) &&
    !(p.2.poison && !p.2.clean) && s.roomBelow p.2 (s.victimTier p.2)
  let rot := (cand.filter fun p => s.victimStart ≤ p.1) ++ (cand.filter fun p => p.1 < s.victimStart)
  let lower := fun (o : Obj) => decide (s.prefOf o = 2 ∨ s.prefOf o = 3)
  let c1 := rot.filter fun p => lower p.2
  let c2 := rot.filter fun p => !lower p.2 && !p.2.accessed
  let c3 := rot.filter fun p => !lower p.2 && p.2.accessed
  (c1 ++ c2 ++ c3).map fun p => p.1

/-- Starts victims' moves until the frames they leave, with those already moving down, hold object x, or no victim is left. -/
def evictLoop (x : Obj) : List Nat → Mach → Mach
  | [], s => s
  | n :: l, s =>
    let o := s.obj n
    if s.fitsAfter x then s
    else if s.roomBelow o (s.victimTier o) then
      evictLoop x l { s.startDown n (s.victimTier o) with victimStart := n + 1 }
    else evictLoop x l s
/-- Whether near frames for an object can come: from moves down in progress, or from a victim (R307). -/
def Mach.mayFit (s : Mach) (o : Obj) : Bool := s.fitsAfter o || !s.victims.isEmpty

/-- Starts a move up of an object in T2 or T3 toward a tier: it takes near frames, and module frames too where it goes to the
module tier. None where the target tier has no room, and, in the near tier, no victim exists (R301, R304, R307). -/
def Mach.startUp (s : Mach) (n dst : Nat) : Option Mach :=
  let o := s.obj n
  let src : BitVec 2 := if o.state == 5#3 then 3#2 else 2#2
  let base := { o with state := 2#3, src := src, dst := BitVec.ofNat 2 dst, wmark := 0#20, abandon := false }
  (if dst = 2 then s.allocMod o else some o.bars).bind fun b =>
    let base := { base with bars := b }
    match s.allocNear o with
    | some e => some ((s.setObj n { base with near := e }))
    | none =>
      if dst ≠ 2 ∧ !s.mayFit o then none
      else
        -- the frames come free at the victims' commits
        some ((evictLoop o s.victims (s.setObj n base)).setObj n { base with near := [] })

/-- A promotion request (R305): an object in a lower tier begins its move up; some (a status) where the near tier has no
victim. -/
def Mach.request (s : Mach) (n : Nat) : Mach × Option Nat :=
  let o := s.obj n
  if o.state == 4#3 || o.state == 5#3 then
    match s.startUp n 1 with
    | some s => (s, none)
    | none => (s, some stTierFull)
  else (s, none)
/-- What a residency miss asks for (R305): a promotion, or that a move down be abandoned. -/
def Mach.promote (s : Mach) (n : Nat) : Mach × Option Nat :=
  let o := s.obj n
  if o.state == 4#3 || o.state == 5#3 then s.request n
  else if o.state == 3#3 then (s.setObj n { o with abandon := true }, none)
  else (s, none)

/-- An abandon request by a write or a pin (R305): it stops a move down from the near tier only. -/
def Mach.abandonReq (s : Mach) (n : Nat) : Mach :=
  let o := s.obj n
  if o.state == 3#3 && o.src == 1#2 then s.setObj n { o with abandon := true } else s

/-- Takes a pin (R308, 09 R221). -/
def Mach.pin (s : Mach) (n : Nat) : Mach :=
  let o := s.obj n
  (s.setObj n { o with pins := o.pins + 1#16 }).abandonReq n
/-- Releases a pin. -/
def Mach.unpin (s : Mach) (n : Nat) : Mach :=
  let o := s.obj n
  s.setObj n { o with pins := if o.pins == 0#16 then 0#16 else o.pins - 1#16 }

end Sys2Proof.Machine
end

