-- ==== Sys2Proof/Machine/Xlate.lean ====
section
/-! DEFINITION. Machine/Xlate.lean: translation of device virtual addresses and the accesses units make through it
(13_tiers_and_residency.md R295 to R298, R305, R319; 12_memory_system.md R263, R271, R274). -/

namespace Sys2Proof.Machine

/-- The mapping of a context that covers an address: the leaf of R295 a walk finds. -/
def Mach.leafAt (s : Mach) (ctx va : Nat) : Option Mapping :=
  s.maps.find? fun m => m.ctx == ctx && m.va ≤ va && va < m.va + (s.obj m.obj).bytes

/-! ## The tables (R295, R296) -/

/-- The lowest virtual address bit that indexes a table of a level. -/
def levelBit (level : Nat) : Nat := nth [39, 30, 21, 16] level
/-- The index of an address into its table of a level. -/
def levelIndex (level va : Nat) : Nat := bits va (nth [47, 38, 29, 20] level) (levelBit level)
/-- The level of an object's leaves. -/
def Obj.leafLevel (o : Obj) : Nat := if o.leaf64k then 3 else 2
/-- The number of the span of the address space that an address's table of a level covers: the root covers it all. -/
def tableSpan (level va : Nat) : Nat := va / 2 ^ nth [48, 39, 30, 21] level
/-- The address of context ctx's table of a level for an address (R295). -/
def Mach.tableBase (s : Mach) (ctx level va : Nat) : Nat :=
  match s.tables.find? fun t => t.ctx == ctx && t.level == level && t.span == tableSpan level va with
  | some t => t.addr
  | none => 0
/-- The address of the entry for an address in that table. -/
def Mach.tableAt (s : Mach) (ctx level va : Nat) : Nat := s.tableBase ctx level va + 8 * levelIndex level va
/-- The entry of context ctx's table of a level for an address: the leaf, a pointer on the way to one, or not in use. -/
def Mach.tableEntry (s : Mach) (ctx va level : Nat) : TableEntry :=
  let size := 2 ^ levelBit level
  let base := va / size * size
  match s.leafAt ctx va with
  | some m =>
    let o := s.obj m.obj
    if level = o.leafLevel then
      { valid := true, leaf := true, present := o.present, write := m.write, rdmaR := m.rdmaR, rdmaW := m.rdmaW, watch := o.watch,
        addr := (o.pa ((va - m.va) / o.leaf * o.leaf)).getD 0, obj := m.obj }
    else if level < o.leafLevel then { valid := true, addr := s.tableBase ctx (level + 1) va }
    else {}
  | none =>
    if s.maps.any fun m => m.ctx == ctx && decide (level < (s.obj m.obj).leafLevel) && decide (m.va < base + size) &&
        decide (base < m.va + (s.obj m.obj).bytes) then
      { valid := true, addr := s.tableBase ctx (level + 1) va }
    else {}
/-- The 8 bytes of an entry. -/
def TableEntry.word (e : TableEntry) : BitVec 64 :=
  BitVec.ofNat 64 (b2n e.valid + b2n e.leaf <<< 1 + b2n e.present <<< 2 + b2n e.write <<< 3 + b2n e.rdmaR <<< 4 +
    b2n e.rdmaW <<< 5 + b2n e.watch <<< 6 + (e.addr / 256 % 2 ^ 32) <<< 8 + (e.obj % 2 ^ 19) <<< 45)
/-- The entries that a walk of an address reads, level by level, and the last of them. -/
def Mach.descend (s : Mach) (ctx va : Nat) : Nat → Nat → List Nat × TableEntry
  | 0, level => ([level], s.tableEntry ctx va level)
  | n + 1, level =>
    let e := s.tableEntry ctx va level
    if e.valid && !e.leaf then ((level :: (s.descend ctx va n (level + 1)).1), (s.descend ctx va n (level + 1)).2)
    else ([level], e)
/-- The leaf that a walk of an address finds; none where an entry on the way is not in use. -/
def Mach.tableLeaf (s : Mach) (ctx va : Nat) : Option TableEntry :=
  let e := (s.descend ctx va 3 0).2
  if e.valid && e.leaf then some e else none

/-- Whether a leaf grants an access (R296): reads through any valid leaf. -/
def TableEntry.grants (e : TableEntry) (a : Access) : Bool :=
  match a with
  | .read => true
  | .write => e.write
  | .rdmaRead => e.rdmaR
  | .rdmaWrite => e.rdmaW

/-- Whether an object is the control object of a pool: device writes to it are permission violations (08 R191, 10 R238). -/
def Mach.isControl (s : Mach) (n : Nat) : Bool := s.pools.any fun p => p.2.live && p.2.control == n

/-- A residency miss (R297, R320): counted, and the object's promotion requested. -/
def Mach.residencyMiss (s : Mach) (n : Nat) : Flt × Mach :=
  let o := s.obj n
  let s := ((s.setObj n { o with faults := o.faults + 1#32 }).bump (tierReg 0x10) 1).raise 0 115
  match s.promote n with
  | (s, none) => (.restart (.residency (BitVec.ofNat 19 n)), s)
  | (s, some st) => (.fatal st, s)

/-- Whether a translation of an object is at hand with no walk: in the core's cache, or kept by a ladle command (R298). -/
def LeafUse.keeps (u : LeafUse) (n : Nat) : Bool :=
  match u with
  | .kept l => l.contains n
  | .cached => true
  | _ => false
/-- A check phase notes an object it translated (R298). -/
def LeafUse.note (u : LeafUse) (n : Nat) : LeafUse :=
  match u with
  | .check l => .check (if l.contains n then l else n :: l)
  | u => u
/-- Whether a ladle command of a context, or of any, keeps a translation of an object from its check phase: an invalidation of its
leaves waits for the command's end (R298). -/
def Mach.ladleHolds (s : Mach) (ctx : Option Nat) (n : Nat) : Bool :=
  s.cmds.any fun c => (c.st == .checked || c.st == .work) && c.leaves.contains n && ctx.all fun x => x == c.ctx
/-- The reads of the table entries that a walk follows: lines with no retention hint, which may be held or slag (R297; 06 R161; 12
R271, R274). -/
def Mach.readTables (s : Mach) (ctx va : Nat) : Res Unit :=
  eachRes (fun level s =>
    let pa := s.tableAt ctx level va
    match s.heldAt pa with
    | some pc => .err (.held pc) s
    | none =>
      if s.isSlag pa then .err (.fatal stFaultPoison) (s.bump (ldlReg (s.sliceOf pa) 0x108) 1)
      else .ok () (s.touch pa 8 false .none)) (s.descend ctx va 3 0).1 s
/-- Whether a translation of an address is at hand with no walk. -/
def Mach.atHand (s : Mach) (ctx va : Nat) : Bool := (s.leafAt ctx va).any fun m => s.leafUse.keeps m.obj
/-- What a walk ends in, or a translation at hand gives (R297, R298): the physical address, or how the access fails. With `own` a
unit writes a control object it is a writer of (08 R191), whose leaves are read-only for the context. -/
def Mach.walkEnd (s : Mach) (ctx va : Nat) (a : Access) (own : Bool) : Res Nat :=
  match s.tableLeaf ctx va with
  | none => .err (.fatal stFaultXlate) s
  | some m =>
    let o := s.obj m.obj
    let kept := s.leafUse.keeps m.obj
    if !m.present && !kept then
      if o.poison && !o.clean then .err (.fatal stFaultPoison) s
      else
        let s := s.setCtx ctx { s.ctx ctx with misses := (s.ctx ctx).misses + 1 }
        let (f, s) := s.residencyMiss m.obj
        .err f s
    else
      let s := if kept then s else { s.setObj m.obj { o with accessed := true } with leafUse := s.leafUse.note m.obj }
      let wr := a == .write || a == .rdmaWrite
      if !m.grants (if own then .read else a) || (wr && !own && s.isControl m.obj) then .err (.fatal stPerm) s
      else
        let s := if wr && m.watch && !kept then s.abandonReq m.obj else s
        let pa := m.addr + va % o.leaf
        if pa ≥ s.nt then .err (.fatal stFaultXlate) s else .ok pa s

/-- The translation of an address for an access: by a table walk, whose reads pass through the caches, where it is not at hand
(R297). -/
def Mach.walk (s : Mach) (ctx va : Nat) (a : Access) (own : Bool) : Res Nat :=
  if s.atHand ctx va then s.walkEnd ctx va a own
  else (s.readTables ctx va).bind fun _ s => s.walkEnd ctx va a own
/-- A part of a step that uses the translations a core's cache holds (05 R112). -/
def Mach.byCache {α : Type} (s : Mach) (f : Mach → Res α) : Res α :=
  match f { s with leafUse := .cached } with
  | .ok a s => .ok a { s with leafUse := .walk }
  | .err e s => .err e { s with leafUse := .walk }

/-- A byte range cut at 64 KiB boundaries of its address: (address, length). -/
def leafPieces : Nat → Nat → Nat → List (Nat × Nat)
  | 0, _, _ => []
  | fuel + 1, a, n =>
    if n = 0 then []
    else
      let k := min n (65536 - a % 65536)
      (a, k) :: leafPieces fuel (a + k) (n - k)
/-- Pieces of a range of n bytes. -/
def rangePieces (a n : Nat) : List (Nat × Nat) := leafPieces (n / 65536 + 2) a n

/-- How a unit's read of slag fails (R319): restartable where the object is CLEAN with ORIGIN, else fatal. -/
def Mach.slagFault (s : Mach) (pa : Nat) : Flt :=
  match s.objAt pa with
  | some n => if (s.obj n).clean && (s.obj n).origin then .restart (.slag (BitVec.ofNat 19 n)) else .fatal stFaultPoison
  | none => .fatal stFaultPoison

/-- A walk of one piece whose target must not be held (12 R274); the access passes through the shared caches (06 R160). -/
def Mach.pieceH (s : Mach) (ctx : Nat) (a : Access) (own : Bool) (h : Hint) (p : Nat × Nat) : Res Nat :=
  (s.walk ctx p.1 a own).bind fun pa s =>
    match s.heldIn pa p.2 with
    | some pc => .err (.held pc) s
    | none => .ok pa (s.touch pa p.2 (a == .write || a == .rdmaWrite) h)
/-- The same with no retention hint. -/
def Mach.piece (s : Mach) (ctx : Nat) (a : Access) (own : Bool) (p : Nat × Nat) : Res Nat := s.pieceH ctx a own .none p

/-- Reads n bytes at a device virtual address with a retention hint; slag is not used as data (12 R271). -/
def Mach.readVaH (s : Mach) (ctx va n : Nat) (h : Hint) : Res (List Byte) :=
  foldRes (fun acc p s => (s.pieceH ctx .read false h p).bind fun pa s =>
    let (l, bad, s) := s.readNear pa p.2
    if bad then
      let x := ((sectorsOf pa p.2).find? fun x => s.isSlag x).getD pa
      let s := match s.objAt x with | some o => s.poisonObj o | none => s
      .err (s.slagFault x) s
    else .ok (acc ++ l) s) [] (rangePieces va n) s

/-- Reads n bytes at a device virtual address with no retention hint. -/
def Mach.readVa (s : Mach) (ctx va n : Nat) : Res (List Byte) := s.readVaH ctx va n .none

/-- Writes bytes at a device virtual address with a retention hint, mark 0 (12 R270). -/
def Mach.writeVaH (s : Mach) (ctx va : Nat) (l : List Byte) (own : Bool) (h : Hint) : Res Unit :=
  (foldRes (fun (rest : List Byte) p s => (s.pieceH ctx .write own h p).bind fun pa s =>
    .ok (rest.drop p.2) (s.writeNear pa (rest.take p.2) false)) l (rangePieces va l.length) s).bind
    fun _ s => .ok () s
/-- Writes bytes at a device virtual address with no retention hint. -/
def Mach.writeVaAs (s : Mach) (ctx va : Nat) (l : List Byte) (own : Bool) : Res Unit := s.writeVaH ctx va l own .none
/-- Writes bytes at a device virtual address as an ordinary unit. -/
def Mach.writeVa (s : Mach) (ctx va : Nat) (l : List Byte) : Res Unit := s.writeVaAs ctx va l false

/-- Translates a whole range for an access without touching data, as a check phase does (06 R144). -/
def Mach.checkRange (s : Mach) (ctx va n : Nat) (a : Access) (own : Bool) : Res Unit :=
  eachRes (fun p s => (s.walk ctx p.1 a own).bind fun _ s => .ok () s) (rangePieces va n) s

/-- The little-endian word of n bytes at a device virtual address. -/
def Mach.readWord (s : Mach) (ctx va n : Nat) : Res Nat := (s.readVa ctx va n).bind fun l s => .ok (ofBytes l) s
/-- Writes a little-endian word of n bytes. -/
def Mach.writeWord (s : Mach) (ctx va n v : Nat) : Res Unit := s.writeVa ctx va (toBytes n v)
/-- Writes a little-endian word, control objects included. -/
def Mach.ownWord (s : Mach) (ctx va n v : Nat) : Res Unit := s.writeVaAs ctx va (toBytes n v) true

/-- Where an atomic unit finds its word (06 R162): aligned, on no slag, on no held channel; counted in LDL_ATOM_CNT. -/
def Mach.atomicAt (s : Mach) (ctx va n : Nat) (wr own : Bool) : Res Nat :=
  if va % n ≠ 0 then .err (.fatal stShape) s
  else (s.piece ctx (if wr then .write else .read) own (va, n)).bind fun pa s =>
    if (sectorsOf pa n).any fun x => s.isSlag x then .err (.fatal stFaultPoison) s
    else .ok pa (s.bump (ldlReg (s.sliceOf pa) 0x1C) 1)
/-- Whether a migration step moved granule u of logical channel c (12 R280). -/
def StepRec.moved (x : StepRec) (s : Mach) (c u : Nat) : Bool :=
  match x.region with
  | .lane j k _ =>
    let (mode, lane, phys) := s.remap c
    mode == 1 && lane == j && phys / 256 == x.die && u % 248 == k && decide (x.w ≤ u / 248) && decide (u / 248 < x.w + 4096)
  | .logical c' => c' == c && decide (x.w ≤ u) && decide (u < x.w + 4096)
/-- The slice an address belonged to by a map generation: the current one, or, by one before the last step, the one that the step
moved its granule from (12 R281). -/
def Mach.sliceBy (s : Mach) (gen a : Nat) : Nat :=
  match s.lastStep with
  | some x =>
    if gen < x.gen ∧ x.moved s (logicalOf a).1 (logicalOf a).2 then x.slice else s.sliceOf a
  | none => s.sliceOf a
/-- The unit whose share of a command an address's granule is in (01 R22; 06 R145; 12 R281). -/
def Mach.unitOf (s : Mach) (cmd : Cmd) (va : Nat) : Nat :=
  match s.leafAt cmd.ctx va with
  | some m => match (s.obj m.obj).pa (va - m.va) with
    | some pa => s.sliceBy cmd.mapGen pa
    | none => 0
  | none => 0
/-- The slice whose unit is home to a line (06 R151). -/
def homeSlice (s : Mach) (ctx va : Nat) : Nat :=
  match s.leafAt ctx va with
  | some m => match (s.obj m.obj).pa (va - m.va) with
    | some pa => s.sliceOf pa
    | none => 0
  | none => 0

/-! ## Credits of an atomic unit (06 R164) -/

/-- Whether requester r may send a request to a unit now: it holds a credit, or one is free, nobody waits before it, and
no freeze keeps credits back (17 R416). -/
def SliceSt.admits (x : SliceSt) (r : Nat) (frozen : Bool) : Bool :=
  x.credits.contains r || (!frozen && x.atomWait.all (fun w => w == r) && decide (0 < x.free))
/-- The unit's state once the request of r is done: the credit it held, if any, is free again. -/
def SliceSt.served (x : SliceSt) (r old : Nat) : SliceSt :=
  { x with credits := x.credits.erase r, free := x.free + b2n (x.credits.contains r), atomWait := x.atomWait.erase r,
           atomOld := old }
/-- The waiting requester served next: the first after the last served, in ascending order round the requesters, that
holds fewer than two credits. -/
def SliceSt.nextWaiting (x : SliceSt) : Option Nat :=
  let can := x.atomWait.filter fun r => decide ((x.credits.filter fun c => c == r).length < 2)
  let far := fun (r : Nat) => (r + 581 - x.atomLast - 1) % 581
  can.foldl (fun (b : Option Nat) r => match b with
    | some y => if far r < far y then some r else b
    | none => some r) none
/-- Requester r waits at the unit of slice g for a credit. -/
def Mach.awaitCredit (s : Mach) (r g : Nat) : Mach :=
  let x := s.slice g
  if x.atomWait.contains r then s else s.setSlice g { x with atomWait := x.atomWait ++ [r] }
/-- A request of r at the unit of slice g is done: the credit it held is free again. -/
def Mach.freeCredit (s : Mach) (r g : Nat) : Mach := s.setSlice g ((s.slice g).served r (s.slice g).atomOld)
/-- The result of a request of r at slice g: its credit is free again unless it waits, on a held channel (12 R274)
or for a credit. -/
def underCredit {α : Type} (r g : Nat) (x : Res α) : Res α :=
  match x with
  | .err (.held n) s => .err (.held n) s
  | .err (.credit r g) s => .err (.credit r g) s
  | .ok a s => .ok a (s.freeCredit r g)
  | .err f s => .err f (s.freeCredit r g)

/-- An atomic of requester r that replaces an n-byte word by a function of it and returns the old word (06 R162), under a
credit of the word's unit (06 R164). -/
def Mach.atomic (s : Mach) (r ctx va n : Nat) (f : Nat → Nat) (wr own : Bool) : Res Nat :=
  let g := homeSlice s ctx va
  if !(s.slice g).admits r s.frozen then .err (.credit r g) s
  else underCredit r g ((s.atomicAt ctx va n wr own).bind fun pa s =>
    let old := ofBytes (s.nearBytes pa n)
    .ok old (if wr then s.putBytes pa (toBytes n (f old)) else s))

end Sys2Proof.Machine
end

