-- ==== Sys2Proof/Machine/Events.lean ====
section
/-! DEFINITION. Machine/Events.lean: events to sessions, synchronisation objects, charges, faults of commands
(15_host_interface.md R367; 14_scheduling_and_preemption.md R331, R332, R336, R337, R344; 11 R244;
13_tiers_and_residency.md R319, R320). -/

namespace Sys2Proof.Machine

/-- Posts an event to an open session: stored and sent, or counted while the ring is full (15 R367). -/
def Mach.postEvent (s : Mach) (k opcode status body : Nat) (final : Bool) : Mach :=
  let x := s.session k
  if !x.isOpen then s
  else if x.events.length ≥ 1024 then s.setSession k { x with lost := x.lost + 1 }
  else
    let n := x.eventNo + 1
    let s := s.setSession k { x with eventNo := n, events := x.events ++ [⟨n, opcode, status, body, final⟩] }
    s.sendOn s.origClass (.event k n opcode status body final)
/-- Posts an event to every session of a list. -/
def Mach.postAll (s : Mach) (ks : List Nat) (opcode status body : Nat) : Mach :=
  each (fun k s => s.postEvent k opcode status body false) ks s
/-- The open sessions in ascending number. -/
def Mach.openSessions (s : Mach) : List Nat := (s.sessions.filter fun p => p.2.isOpen).map fun p => p.1

/-- The address of a synchronisation object's line in firmware's part of the near tier (R331). DESIGN CHOICE (log entry 61): object
g lies at 64g, which fixes the slice whose shared cache and atomic unit serve it. -/
def syncPa (obj : Nat) : Nat := 64 * obj
/-- A request of requester r on a synchronisation object's line passes through its shared cache, an atomic one under a credit (06
R160, R162, R164). -/
def Mach.onSyncLine (s : Mach) (r obj : Nat) (wr atom : Bool) : Res Unit :=
  let pa := syncPa obj
  let g := s.sliceOf pa
  match s.heldAt pa with
  | some pc => .err (.held pc) s
  | none =>
    if !atom then .ok () (s.touchLine pa wr .none)
    else if !(s.slice g).admits r s.frozen then .err (.credit r g) s
    else if s.isSlag pa then .err (.fatal stFaultPoison) (s.freeCredit r g)
    else .ok () (((s.touchLine pa wr .none).bump (ldlReg g 0x1C) 1).freeCredit r g)
/-- COUNT of a synchronisation object, as requester r reads bits [63:0] of its line with one atomic READ (R331). -/
def Mach.readSync (s : Mach) (r obj : Nat) : Res Nat :=
  (s.onSyncLine r obj false true).bind fun _ s => .ok (s.sync obj).count.toNat s
/-- What an operation on a synchronisation object for a context does (R332): 1 ADD, 2 OR, 3 WRITE; discarded where the object is
not live or has another owner. APPLIED_TOTAL (17 R417) counts every one. -/
def Mach.doSync (s : Mach) (obj op val ctx : Nat) : Mach :=
    let s := { s with appliedTotal := tabSet (fun _ => 0) s.appliedTotal (obj / 4096)
                        (tabGet (fun _ => 0) s.appliedTotal (obj / 4096) + 1),
                      sent := tabSet (fun _ => 0) s.sent (obj / 4096) (tabGet (fun _ => 0) s.sent (obj / 4096) + 1),
                      syncNews := s.syncNews ++ [obj] }
    let x := s.sync obj
    if !x.live || x.owner.toNat != ctx then s
    else
      let c := x.count
      let v := w32 val
      let c' := if op = 1 then c + v else if op = 2 then c ||| v else v
      s.setSync obj { x with count := c', applied := x.applied + 1#32 }
/-- An operation of requester r on a synchronisation object for a context (R332). It is kept where an earlier one of r on the object
waits, where the line's channel is held, and, but for a WRITE, without a credit (06 R164); slag there is fatal to the context. -/
def Mach.applySync (s : Mach) (r obj op val ctx : Nat) : Mach :=
  if op = 0 then s
  else
    let keep := fun (s : Mach) => ({ s with syncDue := s.syncDue ++ [⟨r, obj, op, val, ctx⟩] } : Mach)
    if s.frozen || s.syncDue.any fun x => x.unit == r && x.obj == obj then keep s
    else match s.onSyncLine r obj true (op != 3) with
    | .ok _ s => s.doSync obj op val ctx
    | .err (.credit r g) s => keep (s.awaitCredit r g)
    | .err (.held _) s => keep s
    | .err _ s => if (s.ctx ctx).state == 1#2 then
        s.setCtx ctx { s.ctx ctx with state := 2#2, lastSt := stFaultPoison, faultCmd := 0 } |>.raise 0 113 else s
/-- The operations that wait are tried again, oldest first, those of one requester on one object in order (06 R163, R164). -/
def Mach.resend (s : Mach) : Mach :=
  if s.frozen then s else each (fun x s => s.applySync x.unit x.obj x.op x.val x.ctx) s.syncDue { s with syncDue := [] }
/-- The requester number of a die's flask, which holds its dispatcher (06 R164; 01 R24). -/
def flaskUnit (die : Nat) : Nat := 576 + die
/-- The overflow set of 11 R244 by requester r: OR 0x1 into the count. -/
def Mach.setOverflow (s : Mach) (r obj ctx : Nat) : Mach :=
  (s.applySync r obj 2 1 ctx).setCtx ctx { s.ctx ctx with ovfSets := (s.ctx ctx).ovfSets + 1 }
/-- Whether a number is a live object of a context (R329). -/
def Mach.ownsSync (s : Mach) (obj ctx : Nat) : Bool := (s.sync obj).live && (s.sync obj).owner.toNat == ctx

/-- A charge of t ticks to a context on a die (R336, R337). -/
def Mach.charge (s : Mach) (ctx die t : Nat) : Mach :=
  if t = 0 then s
  else
    let x := s.ctx ctx
    let stride := if x.share = 0 then 0 else 65536 / x.share
    let y := { x with charged := (x.charged + t) % 2 ^ 64 }
    ({ s with chargedTotal := s.chargedTotal + t } : Mach).setCtx ctx
      ((y.setPass die ((x.passAt die + t * stride) % 2 ^ 64)).setRemain die (x.remainAt die - (t : Int)))
/-- R338: a charge that brings the slice holder's REMAIN to 0 or below ends its slice. -/
def Mach.sliceEnd (s : Mach) (die : Nat) : Mach :=
  let d := s.sched die
  match d.holder with
  | none => s
  | some c => if (s.ctx c).remainAt die ≤ 0 then s.setSched die { d with holder := none } else s

/-- A fault fatal to a context begins its teardown (R344): the context is tearing down, its code and the faulting
command are kept for the record of step 7. -/
def Mach.fatalOn (s : Mach) (die ctx st cmdId : Nat) : Mach :=
  let x := s.ctx ctx
  if x.state != 1#2 then s
  else (s.setCtx ctx { x with state := 2#2, lastSt := st, faultCmd := cmdId }).raise die 113
/-- The same, told to the dispatcher of die 0. -/
def Mach.fatal (s : Mach) (ctx st cmdId : Nat) : Mach := s.fatalOn 0 ctx st cmdId

/-- CMD_ID of a descriptor (R327). -/
def descCmdId (d : Nat) : Nat := bits d 47 16

/-- Transaction slots that a core's transactions hold (05 R111). -/
def CoreSt.slotsHeld (x : CoreSt) : Nat := (x.trans.filter fun t => t.slot).length
/-- The release of a command's units (05 R132; 14 R335; 04 R105): its reservations, admissions waited for and places end,
its cores leave it, its tiles stop and their rows in flight are discarded. DESIGN CHOICE (log entry 62): of an engine of its, the
VALID flags, a swap and a commit that wait, drain-pending rows and a limiter request are cleared too. -/
def Mach.freeUnits (s : Mach) (id : Nat) : Mach :=
  let free := fun (_ : Nat) (k : ClusterSt) =>
    let mine := k.res.filter fun r => r.1.1 == id
    ({ k with res := k.res.filter fun r => r.1.1 != id, resFree := k.resFree + mine.foldl (fun a r => a + r.2.2) 0,
              waiting := k.waiting.filter fun w => w.1 != id, places := k.places.filter fun p => p.2 != id,
              placesFree := k.placesFree + (k.places.filter fun p => p.2 == id).length } : ClusterSt)
  let leave := fun (_ : Nat) (x : CoreSt) =>
    if x.cmd == some id then
      ({ x with cmd := none, slot := 0, place := 0, phase := 0, items := [], claimed := 0, empty := false,
                returned := false, report := false, trans := [], slotsFree := x.slotsFree + x.slotsHeld } : CoreSt)
    else x
  let quiet := fun (_ : Nat) (e : Engine) =>
    if e.q.any fun q => q.2.tiles.any fun t => t.cmd == id then
      ({ e with q := tabMap (fun _ => {}) (fun _ (q : Quarter) =>
                  { q with tiles := q.tiles.filter fun t => t.cmd != id, flight := [], swapWait := false, accWait := false,
                           valid := false, pendingRows := [] }) e.q,
                rampReq := false } : Engine)
    else e
  { s with clusters := tabMap (fun _ => {}) free s.clusters,
           cores := tabMap (fun _ => {}) leave s.cores,
           engines := tabMap (fun _ => {}) quiet s.engines }
/-- Whether a wait is of a requester's transaction. -/
def HeldWait.is (w : HeldWait) (unit no : Nat) : Bool := w.unit == unit && w.no == no
/-- Whether a wait has lasted longer than a held-channel deadline, in 1,024 cycles (12 R275); none has with deadline 0. -/
def HeldWait.over (w : HeldWait) (dl : Nat) : Bool := dl != 0 && decide (1024 * dl < w.cycles)
/-- A ladle unit's transaction takes a transaction slot of its (06 R143; 14 R349). -/
def Mach.takeSlot (s : Mach) (unit : Nat) : Mach :=
  if unit < 544 ∨ 576 ≤ unit then s
  else s.setSlice (unit - 544) { s.slice (unit - 544) with slotsFree := (s.slice (unit - 544)).slotsFree - 1 }
/-- The transaction slots that waiting transactions of ladle units hold come free. -/
def Mach.freeSlots (s : Mach) (l : List HeldWait) : Mach :=
  each (fun (w : HeldWait) s => if w.unit < 544 ∨ 576 ≤ w.unit then s
    else s.setSlice (w.unit - 544) { s.slice (w.unit - 544) with slotsFree := (s.slice (w.unit - 544)).slotsFree + 1 }) l s
/-- The cycles of a command's execution so far: its largest count (14 R341). -/
def Cmd.maxCycles (c : Cmd) : Nat := c.slots.foldl (fun a x => max a x.cycles) c.cycles
/-- The cycles of a command's last execution (15 R385): of the one that ended, where it awaits its replay. -/
def Cmd.lastCount (c : Cmd) : Nat :=
  if (c.st == .stopped || c.st == .replay) && c.slots.isEmpty then c.lastCycles else c.maxCycles
/-- Whether an entry that has issued on one of a command's cores is still to complete (13 R320). -/
def Mach.inFlight (s : Mach) (id : Nat) : Bool :=
  s.cores.any fun p => p.2.cmd == some id && p.2.items.any fun x => x.entries.any fun e => !e.done
/-- The end of an execution that a replay is to follow (13 R320; 14 R336, R343): claims, reservations and places end, the
cores are released, the execution is charged. The scales it read stay (03 R72; log entry 41). -/
def Mach.endExecution (s : Mach) (c : Cmd) : Mach :=
  let s := (((s.freeUnits c.id).freeSlots c.heldOn).charge c.ctx c.die c.charge).sliceEnd c.die
  s.setCmd { c with charged := c.charged + c.charge, charge := 0, lastCycles := c.maxCycles, cycles := 0, slots := [],
                    planned := false, barriers := 0, shares := [], leaves := [], unitCycles := [], step := 0, pass := 0,
                    begun := false, loaded := false, fixed := [], heldOn := c.heldOn.filter fun w => c.cause == some .heldWait && w.over (dHoldDl c.desc) }
/-- The last entry in flight of a stopped command completes: its execution ends (13 R320). -/
def Mach.endStop (s : Mach) (id : Nat) : Mach :=
  match s.cmd? id with
  | some c => if c.st = .stopped ∧ c.slots ≠ [] ∧ !s.inFlight id then s.endExecution c else s
  | none => s
/-- A context whose command stops has that queue ready no more: it stays eligible on a die only by another queue with entries to read
(14 R337). -/
def Mach.stopEligible (s : Mach) (c : Cmd) : Mach :=
  let die := fun (x : QueueSt) => ((List.range 4).find? fun d => x.dieMask.testBit d).getD 0
  if s.queues.any fun p => p.1 != c.queue && p.2.ctx == c.ctx && p.2.state == 1#2 && decide (p.2.rd < p.2.wr) && die p.2 == c.die
  then s
  else s.setCtx c.ctx ((s.ctx c.ctx).setEligible c.die false)
/-- A command stops (13 R320, 14 R343), one that has stopped already as it stands: its execution ends, after a restartable fault once its entries in flight have
completed; the 16th replay's execution takes ST_REPLAY_LIMIT in place of a further replay. -/
def Mach.stopCmd (s : Mach) (c : Cmd) (cause : Option RestartCause) (st : CmdSt) : Mach :=
  if c.st = .stopped then s.endStop c.id
  else if c.replays ≥ 16 then s.fatalOn c.die c.ctx stReplayLimit (descCmdId c.desc)
  else if st = .stopped ∧ c.st = .running ∧ s.inFlight c.id then (s.stopEligible c).setCmd { c with st := st, cause := cause }
  else (s.stopEligible c).endExecution { c with st := st, cause := cause }

/-- Transaction `no` of a requester waits on a held channel for a command (12 R274); a ladle unit's keeps a transaction slot. -/
def Mach.addWait (s : Mach) (id unit no pc : Nat) : Mach :=
  match s.cmd? id with
  | none => s
  | some c =>
    if c.heldOn.any fun w => w.is unit no then
      s.setCmd { c with heldOn := c.heldOn.map fun w => if w.is unit no ∧ w.pc ≠ pc then ⟨unit, no, pc, 0⟩ else w }
    else (s.takeSlot unit).setCmd { c with heldOn := c.heldOn ++ [⟨unit, no, pc, 0⟩] }
/-- Those of a command's waits on held channels that satisfy p are over. -/
def Mach.dropWaits (s : Mach) (id : Nat) (p : HeldWait → Bool) : Mach :=
  match s.cmd? id with
  | none => s
  | some c =>
    if c.heldOn.any p then
      (s.freeSlots (c.heldOn.filter p)).setCmd { c with heldOn := c.heldOn.filter fun w => !p w }
    else s
/-- A failure of transaction `no` of a requester for a command: a fatal fault, a restartable one, or a wait on a held channel or for a
credit or a slot, where the step's other effects have not come about (`s0`). -/
def Mach.cmdFault (s s0 : Mach) (id unit no : Nat) (f : Flt) : Mach :=
  match f with
  | .held pc => s0.addWait id unit no pc
  | .credit r g => s0.awaitCredit r g
  | .slot c => s0.bump (coreReg c 0x1C) (b2n ((s0.core c).slotsFree == 0))
  | .fatal st => match s.cmd? id with
    | some c => s.fatalOn c.die c.ctx st (descCmdId c.desc)
    | none => s
  | .restart cause => match s.cmd? id with
    | some c => (s.stopCmd c (some cause) .stopped).raise c.die 114
    | none => s

/-- The state after transaction `no` of a requester for a command. -/
def Mach.settle (s0 : Mach) (id unit no : Nat) (r : Res Unit) : Mach :=
  match r with
  | .ok _ s => s.dropWaits id fun w => w.is unit no
  | .err f s => s.cmdFault s0 id unit no f

end Sys2Proof.Machine
end

