-- ==== Sys2Proof/Machine/Fp.lean ====
section
/-! DEFINITION. Machine/Fp.lean: the floating-point formats and the exact arithmetic behind every rounding
(02_formats_and_arithmetic.md R29 to R32, R51 to R54). A finite value is (−1)^neg · m · 2^e, exactly. -/

namespace Sys2Proof.Machine

/-- An exact value of a floating-point operand. -/
inductive Fv where
  | nan
  | inf (neg : Bool)
  | fin (neg : Bool) (m : Nat) (e : Int)
  deriving DecidableEq, Repr

/-- A floating-point layout of R29: fraction bits, exponent bias, the largest finite magnitude code, the code of
infinity where there is one, the canonical NaN (R31), and the position of the sign bit. -/
structure FpFmt where
  frac : Nat
  bias : Nat
  maxMag : Nat
  infMag : Option Nat
  nan : Nat
  signPos : Nat
  deriving DecidableEq, Repr

/-- R29, R31. -/
def fmtF32 : FpFmt := ⟨23, 127, 0x7F7FFFFF, some 0x7F800000, 0x7FC00000, 31⟩
/-- R29, R31. -/
def fmtBf16 : FpFmt := ⟨7, 127, 0x7F7F, some 0x7F80, 0x7FC0, 15⟩
/-- R29, R31: no infinities, and 0x7F is the only NaN magnitude. -/
def fmtE4m3 : FpFmt := ⟨3, 7, 0x7E, none, 0x7F, 7⟩
/-- R29, R31. -/
def fmtE5m2 : FpFmt := ⟨2, 15, 0x7B, some 0x7C, 0x7E, 7⟩

/-- The exponent of the smallest subnormal's step (R29). -/
def FpFmt.tmin (f : FpFmt) : Int := 1 - (f.bias : Int) - (f.frac : Int)

/-- The exact value of a code (R29, R30: subnormals are honoured). -/
def fpDecode (f : FpFmt) (code : Nat) : Fv :=
  let neg := code.testBit f.signPos
  let mag := code % 2 ^ f.signPos
  if mag > f.maxMag then
    if f.infMag = some mag then .inf neg else .nan
  else
    let ex := mag >>> f.frac
    let fr := mag % 2 ^ f.frac
    if ex = 0 then .fin neg fr f.tmin
    else .fin neg (2 ^ f.frac + fr) (f.tmin + (ex : Int) - 1)

/-- The magnitude code nearest to m · 2^e, ties to even (R41's step: never below the smallest subnormal); with
`up`, an exact tie goes to the larger magnitude (the sticky rule of R41). The code may lie above `maxMag`:
the value rounded beyond the largest finite one. -/
def roundMag (f : FpFmt) (m : Nat) (e : Int) (up : Bool) : Nat :=
  if m = 0 then 0 else
    let t := max ((Nat.log2 m : Int) + e - (f.frac : Int)) f.tmin
    let q :=
      if t ≤ e then m <<< (e - t).toNat
      else
        let k := (t - e).toNat
        let q := m >>> k
        let r := m % 2 ^ k
        let h := 2 ^ (k - 1)
        if r > h || (r == h && (up || q % 2 == 1)) then q + 1 else q
    ((t - f.tmin).toNat <<< f.frac) + q

/-- The magnitude code of m · 2^e truncated toward zero (R47). -/
def truncMag (f : FpFmt) (m : Nat) (e : Int) : Nat :=
  if m = 0 then 0 else
    let t := max ((Nat.log2 m : Int) + e - (f.frac : Int)) f.tmin
    let q := if t ≤ e then m <<< (e - t).toNat else m >>> (t - e).toNat
    ((t - f.tmin).toNat <<< f.frac) + q

/-- The code with the given sign. -/
def withSign (f : FpFmt) (neg : Bool) (mag : Nat) : Nat := if neg then 2 ^ f.signPos + mag else mag

/-- An FP32 word from a sign and a magnitude code, overflowing to infinity. -/
def packF32 (neg : Bool) (mag : Nat) : Word :=
  w32 (withSign fmtF32 neg (if mag > 0x7F7FFFFF then 0x7F800000 else mag))

/-- The canonical FP32 NaN (R31). -/
def f32NaN : Word := 0x7FC00000#32
/-- +0. -/
def f32Zero : Word := 0#32
/-- 1.0. -/
def f32One : Word := 0x3F800000#32
/-- An FP32 infinity. -/
def f32Inf (neg : Bool) : Word := if neg then 0xFF800000#32 else 0x7F800000#32

/-- The exact value of an FP32 word. -/
def f32Val (w : Word) : Fv := fpDecode fmtF32 w.toNat
/-- The FP32 word nearest to an exact value (R51: nearest, ties to even; the NaN is canonical). -/
def f32Of : Fv → Word
  | .nan => f32NaN
  | .inf n => f32Inf n
  | .fin n m e => packF32 n (roundMag fmtF32 m e false)

/-- Whether a word is a NaN. -/
def f32IsNaN (w : Word) : Bool := w.toNat % 2 ^ 31 > 0x7F800000
/-- Whether a word is an infinity. -/
def f32IsInf (w : Word) : Bool := w.toNat % 2 ^ 31 == 0x7F800000
/-- Whether a word is finite. -/
def f32IsFin (w : Word) : Bool := w.toNat % 2 ^ 31 < 0x7F800000
/-- Whether a word is +0 or −0. -/
def f32IsZero (w : Word) : Bool := w.toNat % 2 ^ 31 == 0
/-- The sign bit. -/
def f32Neg (w : Word) : Bool := w.toNat.testBit 31
/-- Whether a word is a positive normal FP32 value, 0x0080_0000 to 0x7F7F_FFFF (R71). -/
def f32PosNormal (w : Word) : Bool := 0x00800000 ≤ w.toNat && w.toNat ≤ 0x7F7FFFFF
/-- Whether a word is a normal finite FP32 value of either sign (R58). -/
def f32Normal (w : Word) : Bool :=
  let m := w.toNat % 2 ^ 31
  0x00800000 ≤ m && m ≤ 0x7F7FFFFF
/-- The absolute value. -/
def f32Abs (w : Word) : Word := if f32IsNaN w then f32NaN else w &&& 0x7FFFFFFF#32
/-- Element-wise negation (R52). -/
def f32Negate (w : Word) : Word := if f32IsNaN w then f32NaN else w ^^^ 0x80000000#32

/-- The signed integer mantissa of a finite value at a common exponent. -/
def scaled (n : Bool) (m : Nat) (e c : Int) : Int :=
  let v : Int := ((m <<< (e - c).toNat : Nat) : Int)
  if n then -v else v

/-- A finite value from a signed mantissa; a zero has the sign `z`. -/
def finOf (i : Int) (e : Int) (z : Bool) : Fv :=
  if i = 0 then .fin z 0 0 else .fin (decide (i < 0)) i.natAbs e

/-- Exact sum of two values with IEEE 754's special cases; an exact zero is −0 only where both are −0. -/
def fvAdd : Fv → Fv → Fv
  | .nan, _ => .nan
  | _, .nan => .nan
  | .inf a, .inf b => if a = b then .inf a else .nan
  | .inf a, .fin _ _ _ => .inf a
  | .fin _ _ _, .inf b => .inf b
  | .fin a m e, .fin b n f =>
    if m = 0 ∧ n = 0 then .fin (a && b) 0 0
    else if m = 0 then .fin b n f
    else if n = 0 then .fin a m e
    else
      let c := min e f
      finOf (scaled a m e c + scaled b n f c) c false

/-- Exact product with IEEE 754's special cases. -/
def fvMul : Fv → Fv → Fv
  | .nan, _ => .nan
  | _, .nan => .nan
  | .inf a, .inf b => .inf (a != b)
  | .inf a, .fin b n _ => if n = 0 then .nan else .inf (a != b)
  | .fin a m _, .inf b => if m = 0 then .nan else .inf (a != b)
  | .fin a m e, .fin b n f => .fin (a != b) (m * n) (e + f)

/-- The opposite value. -/
def fvNeg : Fv → Fv
  | .nan => .nan
  | .inf a => .inf (!a)
  | .fin a m e => .fin (!a) m e

/-- A quotient carried to at least 40 significant bits, with one more bit that is 1 where a remainder is left: its
rounding to FP32 is the rounding of the exact quotient. -/
def fvDiv : Fv → Fv → Fv
  | .nan, _ => .nan
  | _, .nan => .nan
  | .inf _, .inf _ => .nan
  | .inf a, .fin b _ _ => .inf (a != b)
  | .fin a _ _, .inf b => .fin (a != b) 0 0
  | .fin a m e, .fin b n f =>
    if n = 0 then (if m = 0 then .nan else .inf (a != b))
    else if m = 0 then .fin (a != b) 0 0
    else
      let k := n.log2 + 40 - m.log2
      let num := m <<< k
      let q := num / n
      let r := num % n
      .fin (a != b) (2 * q + (if r = 0 then 0 else 1)) (e - f - (k : Int) - 1)

/-- floor(√n) by binary digits, from bit k down. -/
def isqrtAux : Nat → Nat → Nat → Nat
  | 0, n, r => if (r + 1) * (r + 1) ≤ n then r + 1 else r
  | k + 1, n, r =>
    let c := r + 2 ^ (k + 1)
    isqrtAux k n (if c * c ≤ n then c else r)
/-- floor(√n). -/
def isqrt (n : Nat) : Nat := isqrtAux (n.log2 / 2 + 1) n 0

/-- A square root carried to at least 40 significant bits with a remainder bit, as `fvDiv`. −0 stays −0 (R52, IEEE
754); a negative value gives NaN. -/
def fvSqrt : Fv → Fv
  | .nan => .nan
  | .inf a => if a then .nan else .inf false
  | .fin a m e =>
    if m = 0 then .fin a 0 0
    else if a then .nan
    else
      let k := 90 + (if (e - 90) % 2 = 0 then 0 else 1)
      let n := m <<< k
      let q := isqrt n
      .fin false (2 * q + (if q * q = n then 0 else 1)) ((e - (k : Int)) / 2 - 1)

/-- Comparison of two values: none where unordered (R53). −0 equals +0. -/
def fvCmp : Fv → Fv → Option Ordering
  | .nan, _ => none
  | _, .nan => none
  | .inf a, .inf b => some (if a = b then .eq else if a then .lt else .gt)
  | .inf a, .fin _ _ _ => some (if a then .lt else .gt)
  | .fin _ _ _, .inf b => some (if b then .gt else .lt)
  | .fin a m e, .fin b n f =>
    let c := min e f
    some (compare (scaled a m e c) (scaled b n f c))

/-- FP32 addition (R51). -/
def f32Add (a b : Word) : Word := f32Of (fvAdd (f32Val a) (f32Val b))
/-- FP32 subtraction (R51). -/
def f32Sub (a b : Word) : Word := f32Of (fvAdd (f32Val a) (fvNeg (f32Val b)))
/-- FP32 multiplication (R51). -/
def f32Mul (a b : Word) : Word := f32Of (fvMul (f32Val a) (f32Val b))
/-- FP32 division (R51). -/
def f32Div (a b : Word) : Word := f32Of (fvDiv (f32Val a) (f32Val b))
/-- FP32 square root (R51). -/
def f32Sqrt (a : Word) : Word := f32Of (fvSqrt (f32Val a))
/-- Fused multiply-add a·b + c, rounded once (R51). -/
def f32Fma (a b c : Word) : Word := f32Of (fvAdd (fvMul (f32Val a) (f32Val b)) (f32Val c))
/-- R31: a value passed through unchanged, but a NaN as the canonical NaN. -/
def f32Canon (w : Word) : Word := if f32IsNaN w then f32NaN else w
/-- R52: an exact zero result of a reduction is +0. -/
def f32PosZero (w : Word) : Word := if f32IsZero w then f32Zero else w
/-- a < b (R53). -/
def f32Lt (a b : Word) : Bool := fvCmp (f32Val a) (f32Val b) == some .lt
/-- a ≤ b (R53). -/
def f32Le (a b : Word) : Bool :=
  let c := fvCmp (f32Val a) (f32Val b)
  c == some .lt || c == some .eq
/-- a = b (R53). -/
def f32Eq (a b : Word) : Bool := fvCmp (f32Val a) (f32Val b) == some .eq

/-- Maximum (R54). -/
def f32Max (a b : Word) : Word :=
  if f32IsNaN a then (if f32IsNaN b then f32NaN else b)
  else if f32IsNaN b then a
  else if f32IsZero a && f32IsZero b then (if f32Neg a && f32Neg b then a else f32Zero)
  else if f32Lt a b then b else a
/-- Minimum (R54). -/
def f32Min (a b : Word) : Word :=
  if f32IsNaN a then (if f32IsNaN b then f32NaN else b)
  else if f32IsNaN b then a
  else if f32IsZero a && f32IsZero b then (if f32Neg a || f32Neg b then 0x80000000#32 else f32Zero)
  else if f32Lt b a then b else a

/-- An integer converted to FP32, nearest even (R57). -/
def f32OfInt (i : Int) : Word := f32Of (finOf i 0 false)
/-- A BF16 code widened to FP32 (R51); a NaN becomes the canonical one (R31). -/
def f32OfBf16 (c : Nat) : Word :=
  let w := w32 ((c % 65536) <<< 16)
  if f32IsNaN w then f32NaN else w
/-- A code of a floating-point format widened exactly to FP32 (R51). -/
def f32OfCode (f : FpFmt) (c : Nat) : Word := f32Of (fpDecode f c)
/-- 2^k as an FP32 word, rounded to nearest even. -/
def f32Pow2 (k : Int) : Word := f32Of (.fin false 1 k)
/-- floor(log2 |w|) of a finite nonzero word. -/
def f32Exp (w : Word) : Int :=
  match f32Val w with
  | .fin _ m e => (Nat.log2 m : Int) + e
  | _ => 0

end Sys2Proof.Machine
end

