-- ==== Sys2Proof/Machine/Formats.lean ====
section
/-! DEFINITION. Machine/Formats.lean: tensor formats, packed codes, dot products, the accumulator, stochastic
rounding, narrow conversions, rescaling, quantisation and L8 (02_formats_and_arithmetic.md R29 to R50,
03_scales_and_quantisation.md R58 to R65). -/

namespace Sys2Proof.Machine

/-- The tensor formats. -/
inductive Format where
  | fp32 | bf16 | e4m3 | e5m2 | i8 | b4 | t2 | s1 | i32
  deriving DecidableEq, Repr

/-- Bits of one element. -/
def Format.width : Format → Nat
  | .fp32 => 32 | .bf16 => 16 | .e4m3 => 8 | .e5m2 => 8 | .i8 => 8 | .b4 => 4 | .t2 => 2 | .s1 => 1 | .i32 => 32
/-- Whether an operand of this format takes the integer path: I8 and I32. -/
def Format.isInt : Format → Bool
  | .i8 => true | .i32 => true
  | .fp32 => false | .bf16 => false | .e4m3 => false | .e5m2 => false | .b4 => false | .t2 => false | .s1 => false
/-- Narrow weight codes (R33, R34). -/
def Format.isNarrow : Format → Bool
  | .b4 => true | .t2 => true | .s1 => true
  | .fp32 => false | .bf16 => false | .e4m3 => false | .e5m2 => false | .i8 => false | .i32 => false
/-- E4M3 or E5M2. -/
def Format.isF8 : Format → Bool
  | .e4m3 => true | .e5m2 => true
  | .fp32 => false | .bf16 => false | .b4 => false | .t2 => false | .s1 => false | .i8 => false | .i32 => false
/-- Whether R56 requires a scale record. -/
def Format.needsRecord : Format → Bool
  | .e4m3 => true | .e5m2 => true | .i8 => true | .b4 => true | .t2 => true | .s1 => true
  | .fp32 => false | .bf16 => false | .i32 => false
/-- Whether R56 allows a scale record. -/
def Format.mayRecord (f : Format) : Bool := f != .fp32 && f != .i32
/-- The format of a code in the descriptors' order, that of TARGET (R70): 0 BF16 … 6 S1. -/
def formatOfTarget : Nat → Option Format
  | 0 => some .bf16 | 1 => some .e4m3 | 2 => some .e5m2 | 3 => some .i8 | 4 => some .b4 | 5 => some .t2
  | 6 => some .s1 | _ => none

/-- The magnitude numerator (denominator 64) of a B4 index (R33). -/
def b4Mag : Nat → Nat
  | 0 => 0 | 1 => 5 | 2 => 11 | 3 => 17 | 4 => 24 | 5 => 32 | 6 => 43 | _ => 64
/-- The integer numerator of a B4 code (R33). -/
def b4Num (c : Nat) : Int :=
  let m : Int := (b4Mag (c % 8) : Nat)
  if c.testBit 3 then -m else m
/-- NIL, the B4 code 0b1000 (R33). -/
def b4Nil (c : Nat) : Bool := c % 16 == 8
/-- The integer numerator of a T2 code (R34). -/
def t2Num (c : Nat) : Int :=
  let m : Int := if c.testBit 0 then 8 else 3
  if c.testBit 1 then -m else m
/-- The numerator of an S1 code (R34). -/
def s1Num (c : Nat) : Int := if c.testBit 0 then -1 else 1

/-- Element i of packed bytes (R35). -/
def elemCode (f : Format) (l : List Byte) (i : Nat) : Nat :=
  let w := f.width
  if w < 8 then
    let b := (l.getD (i * w / 8) 0#8).toNat
    (b >>> (i * w % 8)) % 2 ^ w
  else ofBytes ((l.drop (i * (w / 8))).take (w / 8))
/-- Codes packed into bytes, the last byte filled with zeros (R35). -/
def packCodes (f : Format) (cs : List Nat) : List Byte :=
  let w := f.width
  if w < 8 then
    (groupsAux cs.length (8 / w) (cs.map (fun c => BitVec.ofNat 8 c))).map
      (fun g => BitVec.ofNat 8 ((g.reverse.foldl (fun a c => a * 2 ^ w + c.toNat % 2 ^ w) 0)))
  else cs.flatMap (fun c => toBytes (w / 8) c)
/-- Bytes of n elements. -/
def packedBytes (f : Format) (n : Nat) : Nat := ceilDiv (n * f.width) 8

/-- The exact value of a code, on the floating-point path (R29, R33, R34); integers as they are. -/
def codeVal (f : Format) (c : Nat) : Fv :=
  match f with
  | .fp32 => fpDecode fmtF32 c
  | .bf16 => fpDecode fmtBf16 c
  | .e4m3 => fpDecode fmtE4m3 c
  | .e5m2 => fpDecode fmtE5m2 c
  | .i8 => finOf (signed 8 c) 0 false
  | .i32 => finOf (signed 32 c) 0 false
  | .b4 => finOf (b4Num c) (-6) false
  | .t2 => finOf (t2Num c) (-3) false
  | .s1 => finOf (s1Num c) 0 false
/-- The integer of a code on the integer path (R32, and the numerator columns of R33, R34). -/
def codeInt (f : Format) (c : Nat) : Int :=
  match f with
  | .i8 => signed 8 c
  | .i32 => signed 32 c
  | .b4 => b4Num c
  | .t2 => t2Num c
  | .s1 => s1Num c
  | .fp32 => 0 | .bf16 => 0 | .e4m3 => 0 | .e5m2 => 0
/-- A code widened to FP32 (R51). -/
def codeF32 (f : Format) (c : Nat) : Word := f32Of (codeVal f c)

/-- The path of an operand pair: none where R39 does not list it; some true on the integer path. -/
def pairPath (pat str : Format) : Option Bool :=
  if pat = .bf16 ∧ str = .bf16 then some false
  else if pat.isF8 && str.isF8 then some false
  else if pat = .i8 ∧ str = .i8 then some true
  else if pat.isNarrow && (str.isF8 || str == .bf16) then some false
  else if pat.isNarrow && str == .i8 then some true
  else none

/-- Events counted by an engine (R55). -/
structure EngEv where
  ovf : Nat := 0
  nan : Nat := 0
  deriving DecidableEq, Repr

/-- The slice value of exact finite products (R40, R41, R42), with its overflow count. -/
def sliceFinite (ps : List (Bool × Nat × Int)) : Word × EngEv :=
  let nz := ps.filter fun p => p.2.1 != 0
  match nz with
  | [] => (f32Zero, {})
  | p0 :: _ =>
    let top := fun (p : Bool × Nat × Int) => (Nat.log2 p.2.1 : Int) + p.2.2
    let e := nz.foldl (fun a p => max a (top p)) (top p0)
    let u := e - 49
    let step := fun (a : Int × Bool) (p : Bool × Nat × Int) =>
      let m := p.2.1
      let x := p.2.2
      let (q, lost) :=
        if u ≤ x then (m <<< (x - u).toNat, false)
        else
          let k := (u - x).toNat
          (m >>> k, m % 2 ^ k != 0)
      let v : Int := (q : Nat)
      (a.1 + (if p.1 then -v else v), a.2 || lost)
    let r := nz.foldl step (0, false)
    if r.1 = 0 then (f32Zero, {})
    else
      let neg := decide (r.1 < 0)
      let mag := roundMag fmtF32 r.1.natAbs u r.2
      if mag > 0x7F7FFFFF then (f32Inf neg, { ovf := 1 }) else (packF32 neg mag, {})

/-- The slice value of products in the floating-point path (R43, then R40 to R42). -/
def sliceFloat (ps : List (Fv × Fv)) : Word × EngEv :=
  let prods := ps.map fun p => fvMul p.1 p.2
  let isNaN := prods.any fun p => p == .nan
  let pos := prods.any fun p => p == .inf false
  let neg := prods.any fun p => p == .inf true
  if isNaN || (pos && neg) then (f32NaN, { nan := 1 })
  else if pos then (f32Inf false, {})
  else if neg then (f32Inf true, {})
  else sliceFinite (prods.filterMap fun p => match p with | .fin s m e => some (s, m, e) | _ => none)

/-- The 16 random bits of R48 for a seed and an index. -/
def rndBits (seed index : Nat) : Nat :=
  let m := 2 ^ 64
  let z := (seed + (index + 1) * 0x9E3779B97F4A7C15) % m
  let z := z ^^^ (z >>> 30)
  let z := (z * 0xBF58476D1CE4E5B9) % m
  let z := z ^^^ (z >>> 27)
  let z := (z * 0x94D049BB133111EB) % m
  let z := z ^^^ (z >>> 31)
  z >>> 48
/-- The seed of R49. -/
def rndSeed (cmdId : Nat) (quarter : Bool) (col row : Nat) : Nat :=
  (cmdId % 2 ^ 32) <<< 32 ||| b2n quarter <<< 31 ||| (col % 2 ^ 15) <<< 16 ||| row % 2 ^ 16
/-- The index of R49. -/
def rndIndex (quarter : Bool) (slice row col : Nat) : Nat :=
  if quarter then slice <<< 15 ||| (row % 512) <<< 4 ||| col % 16
  else slice <<< 15 ||| (row % 1024) <<< 5 ||| col % 32

/-- A stochastic rounding of an exact nonzero sum (R47). -/
def stochRound (neg : Bool) (m : Nat) (e : Int) (rnd : Nat) : Word × EngEv :=
  let lo := truncMag fmtF32 m e
  if lo ≥ 0x7F800000 then (f32Inf neg, { ovf := 1 })
  else
    match fpDecode fmtF32 lo, fpDecode fmtF32 (lo + 1) with
    | .fin _ ml el, hi =>
      -- the step from lo to hi; above the largest finite value hi is 2^128 (R47)
      let (mh, eh) : Nat × Int := match hi with | .fin _ mh eh => (mh, eh) | _ => (1, 128)
      let c := min e (min el eh)
      let x := m <<< (e - c).toNat
      let l := ml <<< (el - c).toNat
      let h := mh <<< (eh - c).toNat
      if x = l then (packF32 neg lo, {})
      else
        let d := ((x - l) <<< 16) / (h - l)
        if d > rnd then
          if lo + 1 ≥ 0x7F800000 then (f32Inf neg, { ovf := 1 }) else (packF32 neg (lo + 1), {})
        else (packF32 neg lo, {})
    | _, _ => (f32NaN, {})

/-- One accumulator addition in floating point (R44), stochastic where random bits are given (R46, R47). -/
def accAdd (acc v : Word) (rnd : Option Nat) : Word × EngEv :=
  if f32IsNaN acc then (f32NaN, {})
  else if f32IsNaN v then (f32NaN, {})
  else if f32IsInf acc then
    if f32IsInf v && f32Neg acc != f32Neg v then (f32NaN, { nan := 1 }) else (acc, {})
  else if f32IsInf v then (v, {})
  else
    match fvAdd (f32Val acc) (f32Val v) with
    | .fin neg m e =>
      if m = 0 then (f32Zero, {})
      else
        match rnd with
        | some r => stochRound neg m e r
        | none =>
          let mag := roundMag fmtF32 m e false
          if mag > 0x7F7FFFFF then (f32Inf neg, { ovf := 1 }) else (packF32 neg mag, {})
    | _ => (f32NaN, {})

/-- One accumulator addition in the integer path (R45): modulo 2^32, a wrap counted. -/
def accAddInt (acc : Word) (v : Int) : Word × EngEv :=
  let x := acc.toInt + v
  (BitVec.ofInt 32 x, { ovf := if x < -(2 ^ 31 : Int) ∨ x > 2 ^ 31 - 1 then 1 else 0 })

/-- The outcome of a conversion into a narrow format: the code and the events R65 counts. -/
structure Conv where
  code : Nat
  sat : Bool := false
  flush : Bool := false
  deriving DecidableEq, Repr

/-- R50, for a floating-point target. -/
def convFp (f : FpFmt) (satMag : Nat) (saturating : Bool) (w : Word) : Conv :=
  match f32Val w with
  | .nan => ⟨f.nan, false, false⟩
  | .inf n =>
    match f.infMag with
    | some i => ⟨withSign f n i, false, false⟩
    | none => ⟨if saturating then withSign f n satMag else f.nan, true, false⟩
  | .fin n m e =>
    let mag := roundMag f m e false
    if mag > f.maxMag then
      if saturating then ⟨withSign f n satMag, true, false⟩
      else match f.infMag with
        | some i => ⟨withSign f n i, true, false⟩
        | none => ⟨f.nan, true, false⟩
    else ⟨withSign f n mag, false, mag == 0 && m != 0⟩

/-- Round to nearest even, of a signed dyadic, to an integer. -/
def roundInt (neg : Bool) (m : Nat) (e : Int) : Int :=
  let q : Nat :=
    if 0 ≤ e then m <<< e.toNat
    else
      let k := (-e).toNat
      let q := m >>> k
      let r := m % 2 ^ k
      let h := 2 ^ (k - 1)
      if r > h || (r == h && q % 2 == 1) then q + 1 else q
  if neg then -(q : Int) else (q : Int)

/-- R50, target I8. -/
def convI8 (w : Word) : Conv :=
  match f32Val w with
  | .nan => ⟨0, true, false⟩
  | .inf n => ⟨if n then 0x80 else 0x7F, true, false⟩
  | .fin n m e =>
    let i := roundInt n m e
    if i > 127 then ⟨0x7F, true, false⟩
    else if i < -128 then ⟨0x80, true, false⟩
    else ⟨wrap 8 i, false, i == 0 && m != 0⟩

/-- BF16 by the saturating conversion of R50. -/
def toBf16 (w : Word) : Nat := (convFp fmtBf16 0x7F7F true w).code

/-- |r| compared with num/den · : the magnitude of an FP32 word against n · 2^e. -/
def magCmp (w : Word) (n : Nat) (e : Int) : Ordering :=
  match fvCmp (f32Val (f32Abs w)) (.fin false n e) with
  | some o => o
  | none => .eq

/-- R62: the bell-grid code. Thresholds over 128: 5, 16, 28, 41, 56, 75, 107. -/
def quantB4 (r : Word) : Nat :=
  if f32IsNaN r then 8
  else
    let ths : List Nat := [5, 16, 28, 41, 56, 75, 107]
    let idx := (ths.zipIdx).foldl (fun a t =>
      match magCmp r t.1 (-7) with
      | .gt => t.2 + 1
      | .eq => if t.2 % 2 = 0 then t.2 else t.2 + 1
      | .lt => a) 0
    if idx = 0 then 0 else idx + (if f32Neg r then 8 else 0)
/-- R63. -/
def quantT2 (r : Word) : Nat :=
  if f32IsNaN r then 0
  else (if f32Neg r then 2 else 0) + (if magCmp r 11 (-4) = .gt then 1 else 0)
/-- R64. -/
def quantS1 (r : Word) : Nat := if f32IsNaN r then 0 else if f32Neg r then 1 else 0

/-- One element quantised to a format with reciprocal k (R61 to R65): the code and its events, with the
saturation setting. -/
def quantise (f : Format) (saturating : Bool) (k v : Word) : Conv :=
  let r := f32Mul v k
  let vFinNz := f32IsFin v && !f32IsZero v
  let byConv := fun (c : Conv) =>
    let fl := c.flush || (vFinNz && f32IsZero r)
    ({ code := c.code, sat := c.sat || (f32IsFin v && f32IsInf r), flush := fl } : Conv)
  let overNow := f32IsNaN r || magCmp r 1 0 = .gt
  -- R61 counts it in every format, R65 never in these two (log entry 35)
  let narrowFlush := vFinNz && f32IsZero r && Config.narrowFlush
  match f with
  | .bf16 => byConv (convFp fmtBf16 0x7F7F saturating r)
  | .e4m3 => byConv (convFp fmtE4m3 0x7E saturating r)
  | .e5m2 => byConv (convFp fmtE5m2 0x7B saturating r)
  | .i8 => byConv (convI8 r)
  | .b4 =>
    let c := quantB4 r
    { code := c, sat := overNow, flush := vFinNz && !overNow && c == 0 }
  | .t2 => { code := quantT2 r, sat := overNow, flush := narrowFlush }
  | .s1 => { code := quantS1 r, sat := overNow, flush := narrowFlush }
  | .fp32 => { code := v.toNat }
  | .i32 => { code := v.toNat }

/-- The outcome of an integer rescaling (R60): the clamped value, the rounded quotient before the offset, and the
two events. -/
structure Rescaled where
  y : Int
  q : Int
  sat : Bool
  flush : Bool
  deriving DecidableEq, Repr

/-- R60: the product shifted with half to even, offset, clamped. -/
def rescale (a m : Int) (n : Nat) (z : Int) (wide : Bool) : Rescaled :=
  let p := a * m
  let d : Int := (2 ^ n : Nat)
  let q0 := p / d
  let rem := p - q0 * d
  let half : Int := if n = 0 then 0 else (2 ^ (n - 1) : Nat)
  let q := if n > 0 ∧ (rem > half ∨ (rem = half ∧ q0 % 2 = 1)) then q0 + 1 else q0
  let y := q + z
  let lo : Int := if wide then -(2 ^ 31 : Int) else -128
  let hi : Int := if wide then 2 ^ 31 - 1 else 127
  let c := max lo (min hi y)
  let sat := decide (c ≠ y)
  ⟨c, q, sat, decide (a ≠ 0) && decide (q = 0) && !sat⟩

/-- The combined operand factor c of R58. -/
def combinedFactor (pat str : Format) (sa sw : Word) : Word :=
  let c := f32Mul sa sw
  if str = .i8 && pat.isNarrow then
    let d : Int := if pat = .b4 then 6 else if pat = .t2 then 3 else 0
    f32Mul c (f32Pow2 (-d))
  else c
/-- k = round(1 / SCALE) (R61). -/
def reciprocal (scale : Word) : Word := f32Div f32One scale

/-! ## L8 (R36 to R38) -/

/-- F[j] = 2^(j/8) rounded to nearest (R36). -/
def l8F : Nat → Word
  | 0 => 0x3F800000#32 | 1 => 0x3F8B95C2#32 | 2 => 0x3F9837F0#32 | 3 => 0x3FA5FED7#32
  | 4 => 0x3FB504F3#32 | 5 => 0x3FC5672A#32 | 6 => 0x3FD744FD#32 | _ => 0x3FEAC0C7#32
/-- H[k] = 2^((2k − 1)/16) rounded to nearest (R36), k from 1 to 8. -/
def l8H : List Word :=
  [0x3F85AAC3#32, 0x3F91C3D3#32, 0x3F9EF532#32, 0x3FAD583F#32,
   0x3FBD08A4#32, 0x3FCE248C#32, 0x3FE0CCDF#32, 0x3FF5257D#32]

/-- R37: the value of a code in a block of scale s. -/
def l8Decode (c : Nat) (s : Word) : Word :=
  if c % 256 = 0 then f32Zero
  else
    let d : Int := (c % 256 : Nat) - 255
    let q := d / 8
    let j := (d - 8 * q).toNat
    match f32Val (l8F j) with
    | .fin _ m e => f32Of (fvMul (.fin false m (e + q)) (f32Val s))
    | _ => f32NaN

/-- R38: the code of a value in a block of scale s. -/
def l8EncodeOne (s v : Word) : Nat :=
  if f32IsZero s then 0
  else if f32IsNaN v || f32IsZero v || f32Neg v then 0
  else if f32IsInf s then (if f32IsInf v then 255 else 0)
  else if f32IsInf v then 255
  else
    match f32Val (f32Div v s) with
    | .fin _ m e =>
      if m = 0 then 0
      else
        let ex := (Nat.log2 m : Int) + e
        let n := (l8H.filter fun h => fvCmp (.fin false m (e - ex)) (f32Val h) != some .lt).length
        (max 0 (min 255 (255 + 8 * ex + (n : Int)))).toNat
    | _ => 0

/-- R38: the scale of a block, the NaN-ignoring maximum of its values. -/
def l8Scale (vs : List Word) : Word :=
  match vs with
  | [] => f32Zero
  | v :: vs => vs.foldl f32Max v

/-- R38: a block encoded: its scale, its codes, its flushes (a nonzero value that encodes to 0). -/
def l8Encode (vs : List Word) : Word × List Nat × Nat :=
  let s := l8Scale vs
  let cs := vs.map (l8EncodeOne s)
  (s, cs, ((vs.zip cs).filter fun p => p.2 == 0 && !f32IsZero p.1 && !f32IsNaN p.1).length)

end Sys2Proof.Machine
end

