-- ==== Sys2Proof/Machine/Records.lean ====
section
/-! DEFINITION. Machine/Records.lean: scale records and length tables as commands check them at issue
(03_scales_and_quantisation.md R56, R69, R71, R72, R75; 08_attention_and_rollout_tree.md R180). -/

namespace Sys2Proof.Machine

/-- Whether a record's reserved fields and codes are as R69 has them. -/
def recordForm (r : Nat) : Bool :=
  zeroFields r [(383, 256), (223, 196), (191, 190), (167, 167), (159, 131)] && bits r 165 164 != 3 && bits r 163 160 < 7
/-- Whether a record's CLASS stores tensors of its format (R75). -/
def classStores (r : Nat) (f : Format) : Bool :=
  match bits r 165 164 with
  | 0 => f == .bf16 || f == .e4m3 || f == .e5m2 || f == .i8
  | 1 => f.mayRecord
  | _ => f == .e5m2 || f == .bf16
/-- The 1,024 bits of the record at an address, read through a context. -/
def Mach.readRecord (s : Mach) (ctx va : Nat) : Res Nat := s.readWord ctx va 128
/-- R71 on the record named for a tensor of a format: `va` 0 names none; its SCALE, 1.0 without a record. -/
def checkRecord (ctx va : Nat) (f : Format) (s : Mach) : Res Word :=
  if va = 0 then (if f.needsRecord then .err (.fatal stScale) s else .ok f32One s)
  else if !f.mayRecord || va % 128 != 0 then .err (.fatal stScale) s
  else (s.readRecord ctx va).bind fun r s =>
    if !recordForm r || formatOfTarget (bits r 163 160) != some f || !f32PosNormal (w32 (bits r 31 0)) then
      .err (.fatal stScale) s
    else if bits r 165 164 = 2 && !s.ownsSync (bits r 189 176) ctx then .err (.fatal stPerm) s
    else .ok (w32 (bits r 31 0)) s
/-- R75 on the record named for a tensor, where it can be read. -/
def checkClass (ctx va : Nat) (f : Format) (s : Mach) : Res Unit :=
  if va = 0 || va % 128 != 0 || !f.mayRecord then .ok () s
  else (s.readRecord ctx va).bind fun r s =>
    if recordForm r && formatOfTarget (bits r 163 160) == some f && !classStores r f then .err (.fatal stShape) s
    else .ok () s

/-- The scale of a record of a command: read once, at issue, and kept to its end (R72). -/
def Cmd.record (cmd : Cmd) (va : Nat) (f : Format) (s : Mach) : Res Word :=
  match cmd.scales.find? fun x => x.1 == va with
  | some x => .ok x.2 s
  | none => checkRecord cmd.ctx va f s
/-- The class check of a record a command has not read yet (R72, R75). -/
def Cmd.recordClass (cmd : Cmd) (va : Nat) (f : Format) (s : Mach) : Res Unit :=
  if cmd.scales.any fun x => x.1 == va then .ok () s else checkClass cmd.ctx va f s

/-- Whether the entries of a length table keep R180. -/
def tableOk : List Nat → Bool
  | [] => true
  | e :: l =>
    zeroFields e [(255, 240), (191, 176)] && bits e 31 0 ≤ 1048576 && bits e 63 32 ≤ 16777216 &&
      bits e 175 128 % 256 == 0 && tableOk l
/-- Whether consecutive entries have ascending, disjoint query ranges and score matrices (R180). -/
def tableAscends : List Nat → Bool
  | [] => true
  | e :: l =>
    (match l with
      | [] => decide (bits e 95 64 + bits e 31 0 ≤ 2 ^ 32)
      | f :: _ => decide (bits e 95 64 + bits e 31 0 ≤ bits f 95 64) &&
          decide (bits e 175 128 + bits e 31 0 * (128 * ceilDiv (bits e 63 32) 32) ≤ bits f 175 128)) && tableAscends l
/-- The entries of the length table at an address, checked by R180. -/
def readTable (ctx va : Nat) (s : Mach) : Res (List Nat) :=
  if va % 64 ≠ 0 then .err (.fatal stShape) s
  else (s.readWord ctx va 64).bind fun h s =>
    let n := bits h 31 0
    if bits h 511 32 ≠ 0 ∨ n = 0 ∨ n > 65536 then .err (.fatal stShape) s
    else (s.readVa ctx (va + 64) (32 * n)).bind fun l s =>
      let es := wordsOf 32 l
      if tableOk es && tableAscends es then .ok es s else .err (.fatal stShape) s

end Sys2Proof.Machine
end

