-- ==== Sys2Proof/Machine/Elem.lean ====
section
/-! DEFINITION. Machine/Elem.lean: the correctly rounded functions (05_core_tiles_and_fusion.md R124, R128;
06_ladle_units.md R151). A transcendental value is formed in fixed point with 512 fraction bits and rounded once:
DEDUCED to be the correct rounding, log entry 4. -/

namespace Sys2Proof.Machine

/-- Fraction bits of the fixed-point values. -/
def fxBits : Nat := 512
/-- 1.0 in fixed point. -/
def fxOne : Nat := 2 ^ fxBits
/-- Product of two fixed-point values. -/
def fxMul (a b : Nat) : Nat := (a * b) >>> fxBits
/-- Quotient of two fixed-point values. -/
def fxDiv (a b : Nat) : Nat := if b = 0 then 0 else (a <<< fxBits) / b

/-- Σ z^(2k+1)/(2k+1): `p` is the running power, `k` the odd divisor. -/
def atanhSeries : Nat → Nat → Nat → Nat → Nat → Nat
  | 0, _, _, _, acc => acc
  | fuel + 1, z2, p, k, acc => if p = 0 then acc else atanhSeries fuel z2 (fxMul p z2) (k + 2) (acc + p / k)
/-- artanh z for z ≤ 1/3. -/
def fxAtanh (z : Nat) : Nat := atanhSeries 200 (fxMul z z) z 1 0
/-- ln 2. -/
def fxLn2 : Nat := 2 * fxAtanh (fxOne / 3)
/-- Σ (−1)^k z^(2k+1)/(2k+1) for z = 1/n. -/
def atanSeries : Nat → Nat → Nat → Nat → Bool → Int → Int
  | 0, _, _, _, _, acc => acc
  | fuel + 1, n2, p, k, s, acc =>
    if p = 0 then acc
    else atanSeries fuel n2 (p / n2) (k + 2) (!s) (if s then acc - (p / k : Nat) else acc + (p / k : Nat))
/-- arctan (1/n). -/
def fxAtanInv (n : Nat) : Int := atanSeries 300 (n * n) (fxOne / n) 1 false 0
/-- π, by Machin's formula. -/
def fxPi : Nat := (16 * fxAtanInv 5 - 4 * fxAtanInv 239).toNat
/-- Square root of a fixed-point value. -/
def fxSqrt (a : Nat) : Nat := isqrt (a <<< fxBits)

/-- Taylor's series of e^r, 0 ≤ r < ln 2. -/
def expSeries : Nat → Nat → Nat → Nat → Nat → Nat
  | 0, _, _, _, acc => acc
  | fuel + 1, r, t, n, acc => if t = 0 then acc else expSeries fuel r (fxMul t r / n) (n + 1) (acc + t)
/-- e^x of a signed fixed-point x, as a mantissa with 512 fraction bits, in [1, 2), and an exponent of two. -/
def fxExp (x : Int) : Nat × Int :=
  let l : Int := (fxLn2 : Nat)
  let k := x / l
  let r := (x - k * l).toNat
  (expSeries 130 r fxOne 1 0, k)
/-- e^(−a) in fixed point. -/
def fxExpNeg (a : Nat) : Nat :=
  let r := fxExp (-(a : Int))
  if r.2 ≥ 0 then r.1 else r.1 >>> (-r.2).toNat
/-- The logistic function of ±a. -/
def fxSigmoid (neg : Bool) (a : Nat) : Nat :=
  let e := fxExpNeg a
  fxDiv (if neg then e else fxOne) (fxOne + e)
/-- ln(1 + y), 0 ≤ y ≤ 1. -/
def fxLog1p (y : Nat) : Nat := 2 * fxAtanh (fxDiv y (2 * fxOne + y))

/-- Σ 2^n z^(2n+1) / (1·3·…·(2n+1)). -/
def erfSeries : Nat → Nat → Nat → Nat → Nat → Nat
  | 0, _, _, _, acc => acc
  | fuel + 1, z2, t, n, acc =>
    if t = 0 then acc else erfSeries fuel z2 (fxMul t (2 * z2) / (2 * n + 3)) (n + 1) (acc + t)
/-- erf z, z ≥ 0. -/
def fxErf (z : Nat) : Nat :=
  let z2 := fxMul z z
  fxDiv (2 * fxMul (fxExpNeg z2) (erfSeries 1200 z2 z 0 0)) (fxSqrt fxPi)

/-- The magnitude of a finite value in fixed point (exact for FP32 values). -/
def fxMag (m : Nat) (e : Int) : Nat :=
  let s := e + (fxBits : Int)
  if 0 ≤ s then m <<< s.toNat else m >>> (-s).toNat
/-- An FP32 word from a sign and a fixed-point magnitude. -/
def f32OfFx (neg : Bool) (a : Nat) : Word := f32Of (.fin neg a (-(fxBits : Int)))
/-- x · g rounded once, where g is in fixed point. -/
def f32ScaleFx (neg : Bool) (m : Nat) (e : Int) (g : Nat) : Word := f32Of (.fin neg (m * g) (e - (fxBits : Int)))
/-- Whether |m·2^e| is at least n. -/
def magGe (m : Nat) (e : Int) (n : Nat) : Bool :=
  fvCmp (.fin false m e) (.fin false n 0) != some .lt

/-- EXP (R124). -/
def f32Exp2 (w : Word) : Word :=
  match f32Val w with
  | .nan => f32NaN
  | .inf n => if n then f32Zero else f32Inf false
  | .fin n m e =>
    if m = 0 then f32One
    else if magGe m e 256 then (if n then f32Zero else f32Inf false)
    else
      let a : Int := (fxMag m e : Nat)
      let r := fxExp (if n then -a else a)
      f32Of (.fin false r.1 (r.2 - (fxBits : Int)))
/-- Natural logarithm (06 R151). -/
def f32Ln (w : Word) : Word :=
  match f32Val w with
  | .nan => f32NaN
  | .inf n => if n then f32NaN else f32Inf false
  | .fin n m e =>
    if m = 0 then f32Inf true
    else if n then f32NaN
    else
      let k := m.log2
      let y := (m <<< fxBits) >>> k
      let l : Int := (2 * fxAtanh (fxDiv (y - fxOne) (y + fxOne)) : Nat)
      f32Of (finOf (l + (e + (k : Int)) * (fxLn2 : Nat)) (-(fxBits : Int)) false)
/-- RECIP (R124). -/
def f32Recip (w : Word) : Word := f32Div f32One w
/-- RSQRT (R124): 1/√x, with IEEE 754's values at zero. -/
def f32Rsqrt (w : Word) : Word :=
  match f32Val w with
  | .nan => f32NaN
  | .inf n => if n then f32NaN else f32Zero
  | .fin n m e =>
    if m = 0 then f32Inf n
    else if n then f32NaN
    else
      let odd := e % 2 != 0
      let m' := if odd then 2 * m else m
      let e' := if odd then e - 1 else e
      let q := isqrt (2 ^ 200 / m')
      f32Of (.fin false (2 * q + (if q * q * m' = 2 ^ 200 then 0 else 1)) (-100 - e' / 2 - 1))

/-- The ACT functions of R128. -/
inductive Act where
  | relu | geluErf | geluTanh | silu | sigmoid | tanh | softplus | leaky
  deriving DecidableEq, Repr

/-- The function codes of R128. -/
def actOf : Nat → Option Act
  | 0 => some .relu | 1 => some .geluErf | 2 => some .geluTanh | 3 => some .silu | 4 => some .sigmoid
  | 5 => some .tanh | 6 => some .softplus | 7 => some .leaky | _ => none

/-- R128 at an infinite input. -/
def actInf (f : Act) (neg : Bool) (slope : Word) : Word :=
  match f with
  | .relu => if neg then f32Zero else f32Inf false
  | .geluErf => if neg then 0x80000000#32 else f32Inf false
  | .geluTanh => if neg then 0x80000000#32 else f32Inf false
  | .silu => if neg then 0x80000000#32 else f32Inf false
  | .sigmoid => if neg then f32Zero else f32One
  | .tanh => if neg then 0xBF800000#32 else f32One
  | .softplus => if neg then f32Zero else f32Inf false
  | .leaky => if neg then f32Mul (f32Inf true) slope else f32Inf false

/-- R128 at a finite input (−1)^neg · m · 2^e, whose word is w. -/
def actFin (f : Act) (w : Word) (neg : Bool) (m : Nat) (e : Int) (slope : Word) : Word :=
  let a := fxMag m e
  let big := magGe m e 256
  match f with
  | .relu => if neg then f32Zero else w
  | .leaky => if neg && m != 0 then f32Mul w slope else w
  | .geluErf =>
    if magGe m e 16 then (if neg then 0x80000000#32 else w)
    else
      let g := fxErf (fxDiv a (fxSqrt (2 * fxOne)))
      f32ScaleFx neg m (e - 1) (if neg then fxOne - g else fxOne + g)
  | .geluTanh =>
    if big then (if neg then 0x80000000#32 else w)
    else
      let poly := fxOne + 44715 * fxMul a a / 1000000
      let u := fxMul (fxSqrt (fxDiv (2 * fxOne) fxPi)) (fxMul a poly)
      f32ScaleFx neg m e (fxSigmoid neg (2 * u))
  | .silu =>
    if big then (if neg then 0x80000000#32 else w) else f32ScaleFx neg m e (fxSigmoid neg a)
  | .sigmoid => if big then (if neg then f32Zero else f32One) else f32OfFx false (fxSigmoid neg a)
  | .tanh =>
    if big then (if neg then 0xBF800000#32 else f32One)
    else
      let e2 := fxExpNeg (2 * a)
      f32OfFx neg (fxDiv (fxOne - e2) (fxOne + e2))
  | .softplus =>
    if big then (if neg then f32Zero else w)
    else f32OfFx false ((if neg then 0 else a) + fxLog1p (fxExpNeg a))

/-- ACT in float mode (R128). -/
def actF32 (f : Act) (slope w : Word) : Word :=
  match f32Val w with
  | .nan => f32NaN
  | .inf n => actInf f n slope
  | .fin n m e => actFin f w n m e slope

end Sys2Proof.Machine
end

