-- ==== Sys2Proof/Machine/Engine.lean ====
section
/-! DEFINITION. Machine/Engine.lean: the matrix engine's micro-steps up to the accumulator: loads, swaps, streamed and
ballast rows, commits and their checks, modes, the pour ramp and the start limiter (04_matrix_engine.md). -/

namespace Sys2Proof.Machine

/-! ## On-die memories -/

/-- Bytes of the scratchpad of core c (05 R108). -/
def Mach.scrBytes (s : Mach) (c a n : Nat) : List Byte :=
  tabRead (fun _ => 0#8) s.scratch (c * 2 ^ 20 + a) n
/-- Writes bytes of the scratchpad of core c. -/
def Mach.scrPut (s : Mach) (c a : Nat) (l : List Byte) : Mach :=
  { s with scratch := tabPut (fun _ => 0#8) s.scratch (c * 2 ^ 20 + a) l }
/-- Bytes of the cluster buffer of cluster k (05 R131). -/
def Mach.cbBytes (s : Mach) (k a n : Nat) : List Byte :=
  tabRead (fun _ => 0#8) s.cbuf (k * 2 ^ 23 + a) n
/-- Writes bytes of the cluster buffer of cluster k. -/
def Mach.cbPut (s : Mach) (k a : Nat) (l : List Byte) : Mach :=
  { s with cbuf := tabPut (fun _ => 0#8) s.cbuf (k * 2 ^ 23 + a) l }
/-- The byte base of the reservation of a command's slot in a cluster's buffer (05 R132). -/
def Mach.cbBase (s : Mach) (k cmd slot : Nat) : Nat :=
  match (s.cluster k).res.find? fun r => r.1 == (cmd, slot) with
  | some (_, b, _) => b * 4096
  | none => 0
/-- The byte base of the reservation that core c uses. -/
def Mach.coreBase (s : Mach) (c cmd : Nat) : Nat := s.cbBase (c / 16) cmd (s.core c).slot
/-- The address of the leaf that maps an address of a context (13 R296). -/
def Mach.leafBase (s : Mach) (ctx va : Nat) : Nat :=
  match s.leafAt ctx va with
  | some m => m.va + (va - m.va) / (s.obj m.obj).leaf * (s.obj m.obj).leaf
  | none => va
/-- The walk of an address that core c's translation cache does not hold (05 R112; 13 R297): a miss is counted, and the leaf
it finds enters the cache, which drops the leaf it has held longest when 512 are in it (log entry 43). -/
def Mach.coreWalk (s : Mach) (c ctx va : Nat) (a : Access) : Res Unit :=
  if (s.core c).xlate.contains (s.leafBase ctx va) then .ok () s
  else ((s.bump (coreReg c 0x14) 1).walk ctx va a false).bind fun _ s =>
    let k := s.core c
    .ok () (s.setCore c { k with xlate := (s.leafBase ctx va :: k.xlate).take 512 })
/-- The walks an access of core c to a range needs (05 R112). -/
def Mach.coreXlate (s : Mach) (c ctx va n : Nat) (a : Access) : Res Unit :=
  eachRes (fun p s => s.coreWalk c ctx p.1 a) (rangePieces va n) s
/-- Reads n bytes in a space as core c working on a command of a context: 0 device virtual, 1 scratchpad, 2 cluster
buffer relative to the reservation. -/
def Mach.coreReadH (s : Mach) (c ctx cmd : Nat) (at' : Nat × Nat) (n : Nat) (h : Hint) : Res (List Byte) :=
  match at'.1 with
  | 0 => (s.coreXlate c ctx at'.2 n .read).bind fun _ s => s.byCache fun s => s.readVaH ctx at'.2 n h
  | 1 => .ok (s.scrBytes c at'.2 n) s
  | _ => .ok (s.cbBytes (c / 16) (s.coreBase c cmd + at'.2) n) s
/-- Reads n bytes as core c with no retention hint. -/
def Mach.coreRead (s : Mach) (c ctx cmd : Nat) (at' : Nat × Nat) (n : Nat) : Res (List Byte) :=
  s.coreReadH c ctx cmd at' n .none
/-- Writes bytes in a space as core c. -/
def Mach.coreWriteH (s : Mach) (c ctx cmd : Nat) (at' : Nat × Nat) (l : List Byte) (h : Hint) : Res Unit :=
  match at'.1 with
  | 0 => (s.coreXlate c ctx at'.2 l.length .write).bind fun _ s => s.byCache fun s => s.writeVaH ctx at'.2 l false h
  | 1 => .ok () (s.scrPut c at'.2 l)
  | _ => .ok () (s.cbPut (c / 16) (s.coreBase c cmd + at'.2) l)
/-- Writes bytes as core c with no retention hint. -/
def Mach.coreWrite (s : Mach) (c ctx cmd : Nat) (at' : Nat × Nat) (l : List Byte) : Res Unit :=
  s.coreWriteH c ctx cmd at' l .none

/-- A request of the drain or the DMA engine of core c at an address of a space: in device virtual space it holds a transaction slot
while it lasts, and waits while none is free or a freeze lasts (05 R111; 17 R416). -/
def Mach.viaSlot {α : Type} (s : Mach) (c space : Nat) (f : Mach → Res α) : Res α :=
  if space = 0 ∧ (s.frozen ∨ (s.core c).slotsFree = 0 ∨ (s.core c).trans.any fun t => !t.slot) then .err (.slot c) s else f s
/-- Core c's other accesses to n bytes of device virtual space, with the translations its cache then holds (05 R112). -/
def Mach.viaCache {α : Type} (s : Mach) (c ctx va n : Nat) (a : Access) (f : Mach → Res α) : Res α :=
  (s.coreXlate c ctx va n a).bind fun _ s => s.byCache f

/-! ## The array -/

/-- Planes P of a pattern format (R78). -/
def planesOf (f : Format) : Nat :=
  match f with
  | .bf16 => 1 | .e4m3 => 2 | .e5m2 => 2 | .i8 => 2 | .b4 => 4 | .t2 => 8 | .s1 => 16 | .fp32 => 1 | .i32 => 1
/-- Matrix-clock cycles a row occupies at full duty (R78). -/
def cyclesPerRow (pat str : Format) (quarter : Bool) : Nat :=
  if str = .bf16 && pat.isNarrow then (if pat = .s1 && quarter then 4 else 2)
  else if pat = .s1 && quarter then 2 else 1
/-- A tile's formats. -/
def EngTile.patF (t : EngTile) : Format := (formatOfTarget t.pat).getD .bf16
/-- A tile's streamed format. -/
def EngTile.strF (t : EngTile) : Format := (formatOfTarget t.str).getD .bf16
/-- Whether the tile accumulates in I32. -/
def EngTile.isInt (t : EngTile) : Bool := pairPath t.patF t.strF == some true
/-- Rows and columns of the array in the tile's mode: 32, or 16. -/
def EngTile.side (t : EngTile) : Nat := if t.quarter then 16 else 32
/-- Planes of the tile's patterns. -/
def EngTile.planes (t : EngTile) : Nat := planesOf t.patF
/-- Unmasked columns (R86). -/
def EngTile.cols (t : EngTile) : List Nat := (List.range t.side).filter fun n => t.colMask.testBit n
/-- Whether depth position k of plane p of pattern j takes part (R77, R86). -/
def EngTile.deep (t : EngTile) (j p k : Nat) : Bool :=
  t.rowMask.testBit k && decide (t.side * (t.planes * j + p) + k < t.depth)
/-- Whether every row of every pattern has been issued. -/
def EngTile.streamed (t : EngTile) : Bool := t.swapped == t.pats && t.issued == t.rows
/-- Whether every row of the final pattern has been committed. -/
def EngTile.committed (t : EngTile) : Bool := t.comPat == t.pats
/-- Whether two descriptions are of one tile. -/
def EngTile.same (t : EngTile) (cmd item entry : Nat) : Bool := t.cmd == cmd && t.item == item && t.entry == entry

/-- Word offset of an accumulator element (R88). -/
def accIndex (e : Nat) (quarter : Bool) (q slot row col : Nat) : Nat :=
  e * 32768 + (if quarter then q * 8192 + slot * 256 + row * 16 + col else slot * 1024 + row * 32 + col)
/-- An accumulator element. -/
def Mach.accGet (s : Mach) (i : Nat) : Word := tabGet (fun _ => 0#32) s.acc i
/-- Writes an accumulator element. -/
def Mach.accSet (s : Mach) (i : Nat) (w : Word) : Mach := { s with acc := tabSet (fun _ => 0#32) s.acc i w }

/-- Quarter q of an engine. -/
def Engine.quarter (e : Engine) (q : Nat) : Quarter := tabGet (fun _ => {}) e.q q
/-- Replaces quarter q. -/
def Engine.setQuarter (e : Engine) (q : Nat) (x : Quarter) : Engine := { e with q := tabSet (fun _ => {}) e.q q x }
/-- Whether a quarter number is used in the engine's mode (R92). -/
def Engine.uses (e : Engine) (q : Nat) : Bool := e.mode || q == 0
/-- Replaces the tile of a quarter that is the same as t. -/
def Quarter.setTile (x : Quarter) (t : EngTile) : Quarter :=
  { x with tiles := x.tiles.map fun u => if u.same t.cmd t.item t.entry then t else u }

/-- Rows read for the tiles of a quarter and not yet issued. -/
def Quarter.queued (x : Quarter) : Nat := x.tiles.foldl (fun a t => a + t.queue.length) 0
/-- Rows in the engine's one row queue, whichever quarters they are for (05 R110). -/
def Engine.queued (en : Engine) : Nat := (List.range 4).foldl (fun a q => a + (en.quarter q).queued) 0
/-- The tile whose rows a quarter streams: the oldest not wholly streamed. -/
def Quarter.stream (x : Quarter) : Option EngTile := x.tiles.find? fun t => !t.streamed
/-- The exchange of a swap for tile t (R83): the next pattern becomes the pattern. -/
def Quarter.swapIn (x : Quarter) (t : EngTile) : Quarter :=
  { x.setTile { t with swapped := t.swapped + 1, issued := 0 } with
    pattern := x.next, next := x.pattern, valid := false, swapWait := false }
/-- An engine whose quarter q swaps for tile t: its formats are the tile's (R106). DESIGN CHOICE (log entry 57): the current
tile of ENG_STATUS is that of the engine's last swap, whichever quarter made it. -/
def Engine.swapIn (en : Engine) (q : Nat) (x : Quarter) (t : EngTile) : Engine :=
  { en.setQuarter q (x.swapIn t) with patFmt := BitVec.ofNat 4 t.pat, strFmt := BitVec.ofNat 4 t.str }

/-- The codes of a pattern image (R80, R81) in the order of `Bank.codes`. -/
def imageCodes (f : Format) (n p : Nat) (transpose : Bool) (img : List Byte) : List Nat :=
  let rowBytes := if n = 32 then 64 else 32
  (List.range p).flatMap fun pl => (List.range n).flatMap fun k => (List.range n).map fun c =>
    if transpose then elemCode f ((img.drop (c * rowBytes)).take rowBytes) (n * pl + k)
    else elemCode f ((img.drop (k * rowBytes)).take rowBytes) (c * p + pl)

/-- c[p][k] and g[p][k] over the unmasked columns (R95). -/
def ckColumn (t : EngTile) (codes : List Nat) (mag : Bool) : List Word :=
  let n := t.side
  let f := t.patF
  (List.range (t.planes * n)).map fun r =>
    let row := t.cols.map fun c => nth codes (r * n + c)
    if t.isInt then
      BitVec.ofInt 32 (row.foldl (fun (a : Int) c => a + (if mag then ((codeInt f c).natAbs : Int) else codeInt f c)) 0)
    else row.foldl (fun a c => f32Add a (if mag then f32Abs (codeF32 f c) else codeF32 f c)) f32Zero

/-- The load of the next pattern image of the oldest tile that has patterns to load (R80 to R82, R95); no effect while the
next pattern is VALID or no load is due. A swap that waits for VALID follows at once (R84). -/
def loadPattern (s : Mach) (e q : Nat) (transpose : Bool) : Mach :=
  let en := s.eng e
  let x := en.quarter q
  match x.tiles.find? fun t => t.loaded < t.pats with
  | none => s
  | some t =>
    if x.valid || !en.uses q || t.quarter != en.mode || t.transpose != transpose || en.stopped then s
    else
      let n := t.side
      let len := if t.quarter then 512 else 2048
      match s.cmd? t.cmd with
      | none => s
      | some c =>
        s.settle t.cmd (e / 4) 1 ((s.coreRead t.core c.ctx t.cmd (t.patAddr.1, t.patAddr.2 + t.loaded * len) len).bind fun img s =>
          let codes := imageCodes t.patF n t.planes transpose img
          let bank : Bank := ⟨codes, ckColumn t codes false, ckColumn t codes true⟩
          let nil := if t.patF = .b4 then (codes.filter b4Nil).length else 0
          let x := { x with next := bank, valid := true }.setTile { t with loaded := t.loaded + 1 }
          let en := match (if x.swapWait then x.stream else none) with
            | some u => (s.eng e).swapIn q x u
            | none => (s.eng e).setQuarter q x
          .ok () ((s.setEng e en).bump (engReg e 0x48) nil))

/-- PATTERN_LOAD (R80). -/
def execPatternLoad (e : EngineNo) (q : BitVec 2) (s : State) : Host.Outcome State Fault Refusal :=
  .next { s with m := loadPattern s.m e.toNat q.toNat false }
/-- TRANSPOSED_LOAD (R81). -/
def execTransposedLoad (e : EngineNo) (q : BitVec 2) (s : State) : Host.Outcome State Fault Refusal :=
  .next { s with m := loadPattern s.m e.toNat q.toNat true }

/-- The swap of R83 and R84: it waits while the next pattern is not VALID. -/
def swapBanks (s : Mach) (e q : Nat) : Mach :=
  let en := s.eng e
  let x := en.quarter q
  match x.stream with
  | none => s
  | some t =>
    if !en.uses q || t.quarter != en.mode || en.stopped || t.swapped == t.pats ||
        !(t.swapped == 0 || t.issued == t.rows) then s
    else if !x.valid then s.setEng e (en.setQuarter q { x with swapWait := true })
    else s.setEng e (en.swapIn q x t)
/-- SWAP (R83). -/
def execSwap (e : EngineNo) (q : BitVec 2) (s : State) : Host.Outcome State Fault Refusal :=
  .next { s with m := swapBanks s.m e.toNat q.toNat }

/-- Slice values of one plane for one column of stationary codes: a word (an FP32 value, or a 32-bit integer) and its
events (R40 to R45). `vals` gives the stationary value of each depth position as exact value or integer. -/
def sliceOf (isInt : Bool) (pairs : List (Fv × Fv)) (ints : List (Int × Int)) : Word × EngEv :=
  if isInt then (BitVec.ofInt 32 (ints.foldl (fun (a : Int) p => a + p.1 * p.2) 0), {}) else sliceFloat pairs

/-- A streamed row through the array (R77, R85, R86, R96): what reaches the column feet. -/
def rowFlight (t : EngTile) (b : Bank) (elems : List Nat) : Flight :=
  let n := t.side
  let j := t.swapped - 1
  let pf := t.patF
  let sf := t.strF
  let ks := fun p => (List.range n).filter fun k => t.deep j p k
  let el := fun p k => nth elems (n * p + k)
  let abs := fun (v : Fv) => match v with
    | .fin _ m e => Fv.fin false m e
    | .inf _ => Fv.inf false
    | .nan => Fv.nan
  let planes := List.range t.planes
  let sl := planes.map fun p => t.cols.map fun c =>
    sliceOf t.isInt ((ks p).map fun k => (codeVal pf (nth b.codes ((p * n + k) * n + c)), codeVal sf (el p k)))
      ((ks p).map fun k => (codeInt pf (nth b.codes ((p * n + k) * n + c)), codeInt sf (el p k)))
  let ck := planes.map fun p =>
    (sliceOf t.isInt ((ks p).map fun k => (f32Val (b.c.getD (p * n + k) 0#32), codeVal sf (el p k)))
      ((ks p).map fun k => ((b.c.getD (p * n + k) 0#32).toInt, codeInt sf (el p k)))).1
  let bd := planes.map fun p =>
    if t.isInt then 0#32
    else (sliceFloat ((ks p).map fun k => (f32Val (b.g.getD (p * n + k) 0#32), abs (codeVal sf (el p k))))).1
  { cmd := t.cmd, item := t.item, entry := t.entry, pat := j, row := t.issued,
    slices := sl.map fun r => r.map fun w => w.1, cks := ck, bound := bd,
    ovf := (sl.flatMap fun r => r.map fun w => w.2.ovf).foldl (· + ·) 0,
    nans := (sl.flatMap fun r => r.map fun w => w.2.nan).foldl (· + ·) 0,
    elems := elems, bank := b }

/-- The engines of the core of engine e whose quarter q holds tile t (05 R110). -/
def tileHolders (s : Mach) (e q : Nat) (t : EngTile) : List Nat :=
  ((List.range 4).map fun i => e / 4 * 4 + i).filter fun g =>
    ((s.eng g).quarter q).tiles.any fun u => u.same t.cmd t.item t.entry
/-- Whether the next row of a tile may be read: every named engine's row queue has one of its 8 places free (05 R110). -/
def rowRoom (s : Mach) (e q : Nat) (t : EngTile) : Bool :=
  (tileHolders s e q t).all fun g => decide ((s.eng g).queued < 8)
/-- A row read once goes into the row queue of every named engine (05 R110). -/
def feedRow (s : Mach) (e q : Nat) (t : EngTile) (l : List Byte) : Mach :=
  each (fun g s =>
    let x := (s.eng g).quarter q
    let put := fun (u : EngTile) =>
      if u.same t.cmd t.item t.entry then { u with queue := u.queue ++ [l], fetched := u.fetched + 1 } else u
    s.setEng g ((s.eng g).setQuarter q { x with tiles := x.tiles.map put }))
    (tileHolders s e q t) s
/-- The issue of a row taken from the head of the row queue of a quarter's tile t (R85). -/
def streamRow (s : Mach) (e q : Nat) (t : EngTile) (l : List Byte) : Mach :=
  let en := s.eng e
  let x := en.quarter q
  let elems := (List.range (t.side * t.planes)).map fun i => elemCode t.strF l i
  let x := { x with flight := x.flight ++ [rowFlight t x.pattern elems],
                    used := x.used + cyclesPerRow t.patF t.strF t.quarter }
  let x := x.setTile { t with queue := t.queue.tail, issued := t.issued + 1 }
  (s.setEng e ({ en with realRow := true, lastRow := some elems }.setQuarter q x)).bump (engReg e 0x4C) 1

/-- Whether a tile's next row may stream in its quarter (R84, R85, R90, R92). -/
def Engine.streams (en : Engine) (q : Nat) (t : EngTile) : Bool :=
  en.uses q && t.quarter == en.mode && !en.stopped && decide (0 < t.swapped) && decide (t.issued < t.rows) &&
    !(en.quarter q).swapWait && !(en.quarter q).accWait
/-- Where the next row of a tile is read from (05 R121). -/
def EngTile.rowAddr (t : EngTile) : Nat × Nat :=
  (t.strAddr.1, t.strAddr.2 + t.fetched % t.rows * t.rowStride * 64 + t.fetched / t.rows * t.patStride * 64)
/-- Bytes of a streamed row (05 R121). -/
def EngTile.rowLen (t : EngTile) : Nat := ceilDiv (t.side * t.planes * t.strF.width) 8

/-- The issue of the next real row of a quarter (R85, R101 to R103): only at a level that still admits the quarter a cycle.
The row comes from the engine's row queue; while that is empty the core's next shared read fills it (05 R110). -/
def issueRow (s : Mach) (e q : Nat) : Mach :=
  let en := s.eng e
  let x := en.quarter q
  match x.stream with
  | none => s
  | some t =>
    if !en.streams q t || x.used ≥ en.level then s
    else
      match s.cmd? t.cmd, t.queue with
      | none, _ => s
      | some _, l :: _ => streamRow s e q t l
      | some c, [] =>
        if !rowRoom s e q t then s
        else s.settle t.cmd (e / 4) 2 ((s.coreRead t.core c.ctx t.cmd t.rowAddr t.rowLen).bind fun l s =>
          let s := feedRow s e q t l
          .ok () (match ((s.eng e).quarter q).stream with
            | some t => streamRow s e q t l
            | none => s))
/-- STREAMED_ROW (R85). -/
def execStreamedRow (e : EngineNo) (q : BitVec 2) (s : State) : Host.Outcome State Fault Refusal :=
  .next { s with m := issueRow s.m e.toNat q.toNat }

/-- Whether a real row of any quarter is ready to issue: in its row queue, or free to be read (R103). -/
def rowReady (s : Mach) (e : Nat) : Bool :=
  (List.range 4).any fun q => match ((s.eng e).quarter q).stream with
    | some t => (s.eng e).streams q t && (!t.queue.isEmpty || rowRoom s e q t)
    | none => false
/-- Whether a real row waits, behind a swap or an accumulator wait included (R103). -/
def Engine.rowWaiting (en : Engine) : Bool :=
  !en.stopped && (List.range 4).any fun q => en.uses q && (en.quarter q).stream.isSome

/-- Admitted cycles of the current step in which the engine has issued rows (R92, R102). -/
def Engine.busy (en : Engine) : Nat :=
  (List.range 4).foldl (fun a q => if en.uses q then max a (en.quarter q).used else a) 0
/-- Cycles a ballast row occupies: those of a row of the tile in hand, or of the tile before it (R103). DESIGN CHOICE (log
entry 58): in quarter mode the tile in hand is that of the lowest-numbered quarter that has rows to stream. -/
def Engine.ballastCycles (en : Engine) : Nat :=
  match (List.range 4).findSome? fun q => if en.uses q then (en.quarter q).stream else none with
  | some t => cyclesPerRow t.patF t.strF t.quarter
  | none => cyclesPerRow ((formatOfTarget en.patFmt.toNat).getD .bf16) ((formatOfTarget en.strFmt.toNat).getD .bf16) en.mode
/-- A ballast row in an admitted cycle with no real row ready (R103). DESIGN CHOICE (log entry 58): in quarter mode one ballast
row stands for all quarters, and is issued where no quarter has a row ready. -/
def ballast (s : Mach) (e : Nat) : Mach :=
  let en := s.eng e
  if en.busy ≥ en.level || rowReady s e then s
  else
    let u := en.busy + en.ballastCycles
    let en := ((List.range 4).filter en.uses).foldl (fun (en : Engine) q =>
      en.setQuarter q { en.quarter q with used := u }) en
    (s.setEng e en).bump (engReg e 0x54) 1
/-- BALLAST_ROW (R103). -/
def execBallastRow (e : EngineNo) (s : State) : Host.Outcome State Fault Refusal :=
  .next { s with m := ballast s.m e.toNat }

/-! ## Commits and checks -/

/-- Whether a check passes (R97, R98): 0 fails, 1 passes, 2 passes with both sides non-finite. With a NaN for G the bound
does not hold. -/
def checkPass (isInt : Bool) (x y g : Word) (sN : Nat) : Nat :=
  if isInt then (if x = y then 1 else 0)
  else if !f32IsFin x && !f32IsFin y then 2
  else if !f32IsFin x || !f32IsFin y then 0
  else
    let d := match fvAdd (f32Val x) (fvNeg (f32Val y)) with
      | .fin _ m e => Fv.fin false m e
      | v => v
    let bound := fvMul (.fin false (sN + 32) (-22)) (f32Val g)
    if sN ≥ 2 ^ 22 then 1
    else match fvCmp d bound with
      | some .gt => 0
      | some _ => 1
      | none => 0

/-- The sum of words as a check forms it: FP32 in order, or modulo 2^32. -/
def ckSum (isInt : Bool) (l : List Word) : Word :=
  if isInt then l.foldl (· + ·) 0#32 else l.foldl f32Add f32Zero

/-- The report of a checksum mismatch (R99): it is counted and recorded, the cluster and the flask are told. -/
def reportMismatch (s : Mach) (e kind q slot index : Nat) (isInt : Bool) : Mach :=
  let s := s.bump (engReg e 0x60) 1
  let last := (s.reg (engReg e 0x68)).toNat
  let s := if last.testBit 31 then s
    else s.setReg (engReg e 0x68) (w32 (2 ^ 31 + kind * 2 ^ 29 + q * 2 ^ 27 + slot * 2 ^ 22 + index * 2 ^ 17 +
                                          b2n isInt * 2 ^ 16))
  let c := e / 4
  let core := s.core c
  let s := s.setCore c { core with mismatches := s.uptime :: core.mismatches.take 1 }
  (s.raise (e / 512) (16 + 4 * (c / 16 % 8))).recordDue
    { mech := 0x10#8, unit := w32 e, die := BitVec.ofNat 2 (e / 512), source := BitVec.ofNat 10 (16 + 4 * (c / 16 % 8)),
      status := 0#16, detail := [s.reg (engReg e 0x68)] }
/-- A checksum mismatch in the work of a command (R99), which is to be replayed. -/
def mismatch (s : Mach) (e kind q slot index : Nat) (isInt : Bool) (cmd : Nat) : Mach :=
  let s := reportMismatch s e kind q slot index isInt
  match s.cmd? cmd with
  | some x => (s.stopCmd { x with cks := x.cks + 1 } none .replay).raise x.die 114
  | none => s

/-- Whether the oldest row in flight would be committed into a drain-pending row (R90). -/
def Quarter.headBlocked (x : Quarter) : Bool :=
  match x.flight with
  | [] => false
  | f :: _ => match x.tiles.find? fun t => t.same f.cmd f.item f.entry with
    | some t => x.pendingRows.contains ((t.slot + f.row / t.side) * 32 + f.row % t.side)
    | none => false
/-- A tile stopped at once (R99): its rows in flight and its drain-pending rows are gone with it. -/
def Mach.endTile (s : Mach) (e q : Nat) (t : EngTile) : Mach :=
  let x := (s.eng e).quarter q
  let x := { x with tiles := x.tiles.filter fun u => !u.same t.cmd t.item t.entry,
                    flight := x.flight.filter fun f => !t.same f.cmd f.item f.entry,
                    pendingRows := x.pendingRows.filter fun k =>
                      k / 32 < t.slot || t.slot + ceilDiv t.rows t.side ≤ k / 32 }
  s.setEng e ((s.eng e).setQuarter q { x with accWait := x.accWait && x.headBlocked })

/-- An entry one of whose transactions or drained rows has met a restartable fault does not complete: what it has in hand is gone
(13 R320). -/
def Mach.dropEntry (s : Mach) (c cmd item entry : Nat) : Mach :=
  let k := s.core c
  let mine := fun (t : Trans) => t.item == item && t.entry == entry
  let s := s.setCore c { k with
    trans := k.trans.filter fun t => !mine t, slotsFree := k.slotsFree + (k.trans.filter fun t => mine t && t.slot).length,
    items := k.items.map fun x => if x.index == item then { x with entries := x.entries.filter fun e => e.no != entry } else x }
  each (fun (i : Nat) s => match ((s.eng (4 * c + i / 4)).quarter (i % 4)).tiles.find? fun t => t.same cmd item entry with
    | some t => s.endTile (4 * c + i / 4) (i % 4) t
    | none => s) (List.range 16) s
/-- The state after part `no` of an entry's work on core c: as `settle`, and an entry that a restartable fault has met is dropped, so
that the command's execution ends once its other entries in flight are complete (13 R320). -/
def Mach.settleEntry (s0 : Mach) (cmd c no item entry : Nat) (r : Res Unit) : Mach :=
  let s := s0.settle cmd c no r
  match r with
  | .err (.restart _) _ => (s.dropEntry c cmd item entry).endStop cmd
  | _ => s

/-- The row, column and corner checks' accumulators are words of the quarter, one value per key. -/
def tw (t : Tab Word) (k : Nat) : Word := tabGet (fun _ => 0#32) t k
/-- Writes an accumulator word of a check. -/
def tws (t : Tab Word) (k : Nat) (w : Word) : Tab Word := tabSet (fun _ => 0#32) t k w
/-- A count of additions. -/
def tn (t : Tab Nat) (k : Nat) : Nat := tabGet (fun _ => 0) t k
/-- Writes a count of additions. -/
def tns (t : Tab Nat) (k n : Nat) : Tab Nat := tabSet (fun _ => 0) t k n

/-- Additions of the planes of one row to an element (R44 to R47, R87), with the events counted. -/
def addPlanes (t : EngTile) (cmdId row col : Nat) (pat : Nat) (acc : Word) (vs : List Word) : Word × EngEv :=
  (vs.zipIdx).foldl (fun (a : Word × EngEv) v =>
    let r := if t.isInt then accAddInt a.1 v.1.toInt
      else accAdd a.1 v.1 (if t.stoch then
        some (rndBits (rndSeed cmdId t.quarter t.seedCol t.seedRow) (rndIndex t.quarter (t.planes * pat + v.2) row col))
        else none)
    (r.1, ⟨a.2.ovf + r.2.ovf, a.2.nan + r.2.nan⟩)) (acc, {})
/-- The checksum side's additions: nearest even, no events counted. -/
def addCk (isInt : Bool) (acc : Word) (vs : List Word) : Word :=
  vs.foldl (fun a v => if isInt then a + v else (accAdd a v none).1) acc

/-- What one row's commit forms in each unmasked column: the value, the one held before, the additions made to the element so
far; and the events counted. -/
structure RowCommit where
  vals : List Word
  held : List Word
  adds : List Nat
  ovf : Nat
  nans : Nat
  deriving DecidableEq, Repr

/-- Additions made to an accumulator element since a tile zeroed it (R97). -/
def Mach.addsOf (s : Mach) (i : Nat) : Nat := tabGet (fun _ => 0) s.accAdds i
/-- R44 to R47 for a row: what is committed in each unmasked column. -/
def commitVals (s : Mach) (e q : Nat) (t : EngTile) (f : Flight) (cmdId : Nat) : RowCommit :=
  let slot := t.slot + f.row / t.side
  let r := f.row % t.side
  let rows := (t.cols.zipIdx).map fun c =>
    let i := accIndex e t.quarter q slot r c.1
    let fresh := f.pat = 0 && !t.accum
    let old := if fresh then 0#32 else s.accGet i
    let v := addPlanes t cmdId f.row c.1 f.pat old (f.slices.map fun p => p.getD c.2 0#32)
    (v.1, old, v.2, (if fresh then 0 else s.addsOf i) + t.planes)
  { vals := rows.map fun x => x.1, held := rows.map fun x => x.2.1, adds := rows.map fun x => x.2.2.2,
    ovf := rows.foldl (fun a x => a + x.2.2.1.ovf) f.ovf, nans := rows.foldl (fun a x => a + x.2.2.1.nan) f.nans }
/-- The write of a row's commit into accumulator memory, with its elements' additions. -/
def Mach.commitWrite (s : Mach) (e q slot r : Nat) (t : EngTile) (vals : List Word) (adds : List Nat) : Mach :=
  (t.cols.zip (vals.zip adds)).foldl (fun s p =>
    let i := accIndex e t.quarter q slot r p.1
    { s.accSet i p.2.1 with accAdds := tabSet (fun _ => 0) s.accAdds i p.2.2 }) s

/-- The streamed elements' sums a row adds for the column checks (R96): FP32, or modulo 2^32. -/
def addStream (t : EngTile) (j : Nat) (elems : List Nat) (sums abss : Tab Word) : Tab Word × Tab Word :=
  let n := t.side
  (List.range (t.planes * n)).foldl (fun (a : Tab Word × Tab Word) i =>
    if t.deep j (i / n) (i % n) then
      let c := nth elems i
      if t.isInt then (tws a.1 i (tw a.1 i + BitVec.ofInt 32 (codeInt t.strF c)), a.2)
      else
        let v := codeF32 t.strF c
        (tws a.1 i (f32Add (tw a.1 i) v), tws a.2 i (f32Add (tw a.2 i) (f32Abs v)))
    else a) (sums, abss)

/-- One column of the checksum row (R96): the sum over depth positions and planes of s times the stationary value. DESIGN
CHOICE (log entry 59): in floating pairs s is summed in FP32 in the order of the commits, each plane's sum is a slice of R40
to R43, and the planes are added in ascending order. -/
def ckRowColumn (t : EngTile) (sums : Tab Word) (val : Nat → Fv × Int) (j : Nat) (y : Word) : Word :=
  let n := t.side
  let vs := (List.range t.planes).map fun p =>
    let ks := (List.range n).filter fun k => t.deep j p k
    (sliceOf t.isInt (ks.map fun k => (f32Val (tw sums (p * n + k)), (val (p * n + k)).1))
      (ks.map fun k => ((tw sums (p * n + k)).toInt, (val (p * n + k)).2))).1
  addCk t.isInt y vs

/-- The column checks of a slot at the end of a pattern (R96): none if all pass, else the kind and index of the first that
fails; the quarter with its accumulators, and the number of skips of R98. `b` is the pattern the rows met. -/
def columnChecks (s : Mach) (e q : Nat) (x : Quarter) (t : EngTile) (b : Bank) (j slot rowsIn : Nat) :
    Quarter × Option (Nat × Nat) × Nat :=
  let n := t.side
  let pf := t.patF
  let first := j == 0 && !t.accum
  let colStep := fun (a : Quarter × Option (Nat × Nat) × Nat) (c : Nat) =>
    let (x, bad, skips) := a
    let key := slot * 64 + c
    let data := (List.range rowsIn).map fun r =>
      if c = 32 then tw x.rowY (slot * 32 + r) else s.accGet (accIndex e t.quarter q slot r c)
    let code := fun i => nth b.codes (i * n + c)
    let val : Nat → Fv × Int := fun i =>
      if c = 32 then (f32Val (b.c.getD i 0#32), (b.c.getD i 0#32).toInt)
      else (codeVal pf (code i), codeInt pf (code i))
    let mag : Nat → Fv × Int := fun i =>
      if c = 32 then (f32Val (b.g.getD i 0#32), 0) else (f32Val (f32Abs (codeF32 pf (code i))), 0)
    let y := ckRowColumn t x.strSum val j (if first then 0#32 else tw x.colY key)
    let g := if t.isInt then 0#32 else ckRowColumn t x.strAbs mag j (if first then 0#32 else tw x.colG key)
    let sN := (List.range rowsIn).foldl (fun a r => a + (if c = 32 then tn x.rowN (slot * 32 + r)
      else s.addsOf (accIndex e t.quarter q slot r c))) 0
    let x := { x with colY := tws x.colY key y, colG := tws x.colG key g }
    let r := checkPass t.isInt (ckSum t.isInt data) y g sN
    (x, if bad.isNone && r == 0 then some (if c = 32 then (3, 0) else (1, c)) else bad,
      skips + (if r == 2 then 1 else 0))
  let (x, bad, skips) := (t.cols ++ [32]).foldl colStep (x, none, 0)
  ({ x with strSum := [], strAbs := [] }, bad, skips)

/-- The entry of a work item one of whose tiles is complete (05 R120). -/
def tileDone (s : Mach) (t : EngTile) : Mach :=
  let c := s.core t.core
  let upd := fun (en : Entry) => if en.no == t.entry then
      let n := en.tiles - 1
      { en with tiles := n, done := n == 0 && en.left == 0 }
    else en
  (s.setCore t.core { c with items := c.items.map fun it =>
    if it.index == t.item then { it with entries := it.entries.map upd } else it }).endStop t.cmd

/-- The commit of the oldest row in flight (R85, R87, R90, R96). `flip` is a physical disturbance of the committed value of
the first unmasked column: zero where there is none. -/
def commitRow (s : Mach) (e q : Nat) (flip : Word) : Mach :=
  let en := s.eng e
  let x := en.quarter q
  match x.flight with
  | [] => s
  | f :: rest =>
    match x.tiles.find? fun t => t.same f.cmd f.item f.entry, s.cmd? f.cmd with
    | some t, some cmd =>
      let slot := t.slot + f.row / t.side
      let r := f.row % t.side
      let key := slot * 32 + r
      if x.pendingRows.contains key then s.setEng e (en.setQuarter q { x with accWait := true })
      else
        let cv := commitVals s e q t f (descCmdId cmd.desc)
        let vals := match cv.vals with | [] => [] | v :: l => (v ^^^ flip) :: l
        let s := s.commitWrite e q slot r t vals cv.adds
        let s := ((s.bump (engReg e 0x40) cv.ovf).bump (engReg e 0x44) cv.nans).setCmd
          { cmd with ovf := cmd.ovf + cv.ovf, nan := cmd.nan + cv.nans }
        let start := f.pat == 0
        let y0 := if start then (if t.accum then ckSum t.isInt cv.held else 0#32) else tw x.rowY key
        let g0 := if start then (if t.accum then ckSum t.isInt (cv.held.map f32Abs) else 0#32) else tw x.rowG key
        let y := addCk t.isInt y0 f.cks
        let g := if t.isInt then 0#32 else addCk false g0 f.bound
        let sN := cv.adds.foldl (· + ·) 0
        let rowN := (if start && !t.accum then 0 else tn x.rowN key) + t.planes
        let last := f.pat + 1 == t.pats
        let (sums, abss) := addStream t f.pat f.elems x.strSum x.strAbs
        let endOfSlot := f.row + 1 == t.rows || r + 1 == t.side
        -- held values enter the column sides with the tile's first slice
        let colY := if start && t.accum then (t.cols.zip cv.held).foldl (fun a p =>
            let k := slot * 64 + p.1
            tws a k (ckSum t.isInt [if r = 0 then 0#32 else tw a k, p.2])) x.colY else x.colY
        let colG := if start && t.accum && !t.isInt then (t.cols.zip cv.held).foldl (fun a p =>
            let k := slot * 64 + p.1
            tws a k (f32Add (if r = 0 then 0#32 else tw a k) (f32Abs p.2))) x.colG else x.colG
        let colY := if start && t.accum then
            let k := slot * 64 + 32
            tws colY k (ckSum t.isInt [if r = 0 then 0#32 else tw colY k, y0]) else colY
        let colG := if start && t.accum && !t.isInt then
            let k := slot * 64 + 32
            tws colG k (f32Add (if r = 0 then 0#32 else tw colG k) g0) else colG
        let s := s.setCore t.core { s.core t.core with idleCycles := 0 }
        let x := { x with flight := rest, accWait := false, intSlots := tabSet (fun _ => false) x.intSlots slot t.isInt,
                          rowY := tws x.rowY key y, rowG := tws x.rowG key g, rowS := tns x.rowS key sN, rowN := tns x.rowN key rowN,
                          strSum := sums, strAbs := abss, colY := colY, colG := colG,
                          pendingRows := if last && t.drain then x.pendingRows ++ [key] else x.pendingRows }
        let doneRow := f.row + 1 == t.rows
        let t := { t with faults := t.faults || cv.ovf + cv.nans != 0, comPat := if doneRow then f.pat + 1 else f.pat, comRows := if doneRow then 0 else f.row + 1 }
        let x := x.setTile t
        let s := s.setEng e ((s.eng e).setQuarter q x)
        let rowRes := checkPass t.isInt (ckSum t.isInt vals) y g sN
        let s := if rowRes == 2 then s.bump (engReg e 0x64) 1 else s
        if rowRes == 0 then (mismatch s e 0 (if t.quarter then q else 0) slot r t.isInt t.cmd).endTile e q t
        else
          let (x, bad, skips) := if endOfSlot then columnChecks s e q x t f.bank f.pat slot (r + 1) else (x, none, 0)
          let s := (s.setEng e ((s.eng e).setQuarter q x)).bump (engReg e 0x64) skips
          match bad with
          | some (kind, i) => (mismatch s e kind (if t.quarter then q else 0) slot i t.isInt t.cmd).endTile e q t
          | none =>
            if last && doneRow && !t.drain then
              let x := { x with tiles := x.tiles.filter fun u => !u.same t.cmd t.item t.entry }
              tileDone (s.setEng e ((s.eng e).setQuarter q x)) t
            else s
    | _, _ => s.setEng e (en.setQuarter q { x with flight := rest })
/-- ACCUMULATOR_COMMIT (R90). -/
def execAccumulatorCommit (e : EngineNo) (q : BitVec 2) (flip : Word) (s : State) : Host.Outcome State Fault Refusal :=
  .next { s with m := commitRow s.m e.toNat q.toNat flip }

/-! ## Modes, ramp, limiter -/

/-- The mode change of R94: only with no row in flight and none drain-pending. -/
def changeMode (s : Mach) (e : Nat) (toQuarter : Bool) : Mach :=
  let en := s.eng e
  if en.mode == toQuarter || (en.q.any fun x => !x.2.flight.isEmpty || !x.2.pendingRows.isEmpty) then s
  else s.setEng e { en with mode := toQuarter,
                            q := tabMap (fun _ => {}) (fun _ (x : Quarter) => { x with valid := false, pattern := {}, next := {} }) en.q }
/-- MODE_CHANGE (R94). -/
def execModeChange (e : EngineNo) (toQuarter : Bool) (s : State) : Host.Outcome State Fault Refusal :=
  .next { s with m := changeMode s.m e.toNat toQuarter }

/-- The quarters of an engine at a step boundary: the cycles a row used beyond the step just ended count in the next. -/
def Engine.nextStep (en : Engine) : Engine :=
  { en with realRow := false, q := tabMap (fun _ => {}) (fun _ (x : Quarter) =>
      { x with used := if en.level = 0 then 0 else x.used - en.level }) en.q }
/-- The level at a step boundary (R101, R103, R105). -/
def rampBoundary (s : Mach) (e : Nat) : Mach :=
  let en := s.eng e
  let fencedOff := (s.core (e / 4)).fenced || (s.core (e / 4)).closing
  let wants := en.rowWaiting
  let nx := en.nextStep
  if en.level = 0 then
    let nx := { nx with lastRow := none }
    if fencedOff then s.setEng e { nx with rampReq := false, granted := false, stopped := true }
    else if en.stopped then
      s.setEng e { nx with rampReq := { en with stopped := false }.rowWaiting, granted := false, stopped := false }
    else if en.granted then s.setEng e { nx with level := 1, granted := false, rampReq := false }
    else s.setEng e { nx with rampReq := en.rampReq || wants }
  else
    let l := if en.realRow || wants then min 8 (en.level + 1) else en.level - 1
    s.setEng e { nx with level := l, lastRow := if l = 0 then none else en.lastRow }
/-- RAMP_STEP_BOUNDARY (R103). -/
def execRampStepBoundary (e : EngineNo) (s : State) : Host.Outcome State Fault Refusal :=
  .next { s with m := rampBoundary s.m e.toNat }

/-- The grant of R104: to the first waiting engine after the pointer, in ascending order, wrapping; none in a freeze (17 R416). -/
def limiterGrant (s : Mach) (d : Nat) : Mach :=
  let l := s.limiter d
  if s.frozen || l.tokens = 0 then s
  else
    match ((List.range 512).map fun i => (l.last + 1 + i) % 512).find? fun i =>
        let en := s.eng (512 * d + i)
        en.rampReq && !en.granted with
    | none => s
    | some i =>
      let e := 512 * d + i
      let s := s.setEng e { s.eng e with granted := true }
      s.setLimiter d { tokens := l.tokens - 1, last := i, out := l.out ++ [i] }
/-- START_LIMITER_GRANT (R104). -/
def execStartLimiterGrant (d : DieNo) (s : State) : Host.Outcome State Fault Refusal :=
  .next { s with m := limiterGrant s.m d.toNat }
/-- The return of the oldest token (R104). -/
def limiterReturn (s : Mach) (d : Nat) : Mach :=
  let l := s.limiter d
  match l.out with
  | [] => s
  | _ :: rest => s.setLimiter d { l with tokens := l.tokens + 1, out := rest }
/-- START_LIMITER_TOKEN_RETURN (R104). -/
def execStartLimiterTokenReturn (d : DieNo) (s : State) : Host.Outcome State Fault Refusal :=
  .next { s with m := limiterReturn s.m d.toNat }

end Sys2Proof.Machine
end

