-- ==== Sys2Proof/Machine/Runner.lean ====
section
/-! DEFINITION. Machine/Runner.lean: cast-plan addresses, the drain, the runner's stages and the measurement of a written
tile (05_core_tiles_and_fusion.md R114 to R116, R122, R127 to R130; 03_scales_and_quantisation.md R57 to R67;
04_matrix_engine.md R91). -/

namespace Sys2Proof.Machine

/-! ## Cast-plan entries -/

/-- Entry e of the cast plan copy in a core's scratchpad, as a 512-bit number (R108). -/
def Mach.planEntry (s : Mach) (c e : Nat) : Nat := ofBytes (s.scrBytes c (0xF0000 + 64 * e) 64)
/-- The 128 bits of address generator g (R114). -/
def Mach.planGen (s : Mach) (c g : Nat) : Nat :=
  bits (s.planEntry c (1 + g / 4)) (128 * (g % 4) + 127) (128 * (g % 4))
/-- The space of a generator (R115). -/
def genSpace (g : Nat) : Nat := bits g 49 48
/-- The address a generator gives at an offset, tile coordinates and parity, without the engine term (R116). -/
def genAddr (g : Nat) (off : Int) (tr tc w : Nat) : Int :=
  (bits g 47 0 : Nat) + off + (tr : Int) * signed 32 (bits g 95 64) + (tc : Int) * signed 32 (bits g 127 96) +
    (if w % 2 = 1 then ((bits g 63 50 * 64 : Nat) : Int) else 0)
/-- An address a command forms through generator g for a core, tile coordinates and parity; in a step phase of GATED_STEP
the step's terms of 09 R213 apply. -/
def genAt (s : Mach) (cmd : Cmd) (core g : Nat) (off : Int) (tr tc w : Nat) (step : Option Nat) : Nat × Int :=
  let gen := s.planGen core g
  let (w, x) : Nat × Int := match step with
    | some t => (if (bits cmd.desc 477 470).testBit g then t else w,
        if (bits cmd.desc 469 462).testBit g then (t : Int) * signed 32 (bits cmd.desc 509 478) else 0)
    | none => (w, 0)
  (genSpace gen, genAddr gen off tr tc w + x)
/-- An address in its space: modulo 2^48 in device virtual space (R116). -/
def inSpace (space : Nat) (a : Int) : Nat × Nat := (space, if space = 0 then wrap 48 a else a.toNat)
/-- A PHASE entry's grid rows and columns (R116, R117). -/
def gridRows (p : Nat) : Nat := bits p 23 8 + 1
/-- Grid columns. -/
def gridCols (p : Nat) : Nat := bits p 38 24 + 1

/-- Stage s of a RUNNER entry (R127). -/
def runStage (r i : Nat) : Nat := bits r (60 * i + 67) (60 * i + 8)
/-- The stages of a RUNNER entry. -/
def runStages (r : Nat) : List Nat := (List.range (bits r 7 4)).map (runStage r)
/-- The per-rank offset of a stage's operand (R127). -/
def stageRank (op : Nat) (n w : Nat) : Nat :=
  match op with
  | 2 => n * 4
  | 4 => n * w
  | 5 => n * 4
  | 8 => 4
  | _ => 0
/-- A stage's operand address for a tile (R116, R127). -/
def stageAddr (s : Mach) (cmd : Cmd) (t : EngTile) (st : Nat) : Nat × Nat :=
  let w := if (st >>> 31).testBit 0 then 2 else 4
  let a := genAt s cmd t.core (bits st 6 4) (signed 24 (bits st 30 7)) t.tr t.tc t.parity t.step
  inSpace a.1 (a.2 + ((t.rank * stageRank (bits st 3 0) t.side w : Nat) : Int))

/-! ## Runner values -/

/-- A row in the runner: the value of each unmasked column, the columns discarded, and the output format with its
recorded codes once a QUANT stage has run. -/
structure RunRow where
  vals : List (Nat × Word)
  discard : Nat := 0
  out : Format := .fp32
  codes : List (Nat × Nat) := []
  quant : Bool := false
  amax : Word := 0x7FC00000#32
  sats : Nat := 0
  flushes : Nat := 0
  events : Nat := 0
  infs : Bool := false
  deriving DecidableEq, Repr

/-- Word i of a byte list. -/
def wordAt (l : List Byte) (i : Nat) : Word := w32 (ofBytes ((l.drop (4 * i)).take 4))

/-- EVENTS bits of a conversion (03 R66, R70). -/
def eventBits (sat flush nan : Bool) : Nat := b2n sat + 2 * b2n flush + 4 * b2n nan

/-- The target format of a QUANT stage (R127). -/
def quantTarget (arg : Nat) : Format := if bits arg 3 0 = 15 then .i32 else (formatOfTarget (bits arg 3 0)).getD .bf16

/-- Whether a code of a format is infinite. -/
def codeInfinite (f : Format) (c : Nat) : Bool := (f == .bf16 || f == .e5m2) && f32IsInf (codeF32 f c)
/-- The QUANT stage in float mode (03 R61 to R66): `k` the output reciprocal, `measured` whether a record is named. -/
def quantFloat (f : Format) (sat : Bool) (k : Word) (measured : Bool) (r : RunRow) : RunRow :=
  let conv := r.vals.map fun p => (p.1, p.2, quantise f sat k p.2)
  let counted := conv.filter fun c => !r.discard.testBit c.1
  { r with out := f, quant := true, codes := conv.map fun c => (c.1, c.2.2.code),
           amax := if measured then counted.foldl (fun a c => f32Max a (f32Abs c.2.1)) r.amax else r.amax,
           sats := if measured then (counted.filter fun c => c.2.2.sat).length else 0,
           flushes := if measured then (counted.filter fun c => c.2.2.flush).length else 0,
           events := if measured then counted.foldl (fun a c =>
             a ||| eventBits c.2.2.sat c.2.2.flush (f32IsNaN c.2.1)) 0 else 0,
           infs := measured && counted.any fun c => codeInfinite f c.2.2.code }
/-- The QUANT stage in integer mode (03 R60, R66): `scale` is SCALE of the record, read once at issue. -/
def quantInt (f : Format) (m : Int) (n : Nat) (z : Int) (scale : Word) (measured : Bool) (r : RunRow) : RunRow :=
  let conv := r.vals.map fun p => (p.1, rescale p.2.toInt m n z (f == .i32))
  let counted := conv.filter fun c => !r.discard.testBit c.1
  { r with out := f, quant := true, codes := conv.map fun c => (c.1, wrap f.width c.2.y),
           amax := if measured then counted.foldl (fun a c =>
             f32Max a (f32Mul (f32OfInt c.2.q.natAbs) scale)) r.amax else r.amax,
           sats := if measured then (counted.filter fun c => c.2.sat).length else 0,
           flushes := if measured then (counted.filter fun c => c.2.flush).length else 0,
           events := if measured then counted.foldl (fun a c => a ||| eventBits c.2.sat c.2.flush false) 0 else 0 }

/-- The scale a command read at issue from a record (03 R72); 1.0 where it names none. -/
def Cmd.scaleOf (c : Cmd) (va : Nat) : Word :=
  if va = 0 then f32One
  else match c.scales.find? fun p => p.1 == va with
    | some (_, w) => w
    | none => f32One

/-- Whether integer mode accepts a stage (R129). -/
def intStage (st : Nat) : Bool :=
  match bits st 3 0 with
  | 2 => true
  | 3 => bits (st >>> 31) 3 0 == 0
  | 6 => true
  | 8 => true
  | 7 => quantTarget (st >>> 31) == .i8 || quantTarget (st >>> 31) == .i32
  | _ => false
/-- Whether the program of an I32 tile runs in integer mode (03 R57): where integer mode accepts every stage, and wherever it
quantises to I32, which float mode cannot. The spec names no selector (DESIGN CHOICE, log entry 40). -/
def intProgram (sts : List Nat) : Bool :=
  sts.all intStage || sts.any fun st => bits st 3 0 == 7 && quantTarget (st >>> 31) == .i32
/-- The mode of a tile's drain (03 R57): integer mode, or float mode. -/
def EngTile.intMode (t : EngTile) (sts : List Nat) : Bool := t.isInt && intProgram sts
/-- A row's value as it enters the runner (03 R57, R58). -/
def EngTile.entryVal (t : EngTile) (im : Bool) (v : Word) : Word :=
  if im then v
  else if t.isInt then f32Mul (f32OfInt v.toInt) t.factor
  else if f32IsNaN v then f32NaN else if f32IsInf v then v else f32Mul v t.factor

/-- A read of n bytes by the drain of a tile's core (05 R111). -/
def drainRead (t : EngTile) (cmd : Cmd) (a : Nat × Nat) (n : Nat) (s : Mach) : Res (List Byte) :=
  s.viaSlot t.core a.1 fun s => s.coreRead t.core cmd.ctx t.cmd a n
/-- One runner stage on a row (R127, R128), in integer mode or float mode. -/
def runStageOn (im : Bool) (t : EngTile) (cmd : Cmd) (st : Nat) (row : Nat) (r : RunRow) (s : Mach) : Res RunRow :=
  let op := bits st 3 0
  let arg := st >>> 31
  let a := stageAddr s cmd t st
  let rd := drainRead t cmd
  let map := fun (f : Nat → Word → Word) => { r with vals := r.vals.map fun p => (p.1, f p.1 p.2) }
  match op with
  | 1 => (rd a 4 s).bind fun l s => .ok (map fun _ x => f32Mul x (wordAt l 0)) s
  | 2 => (rd a (4 * t.side) s).bind fun l s =>
      .ok (map fun j x => if im then x + wordAt l j else f32Add x (wordAt l j)) s
  | 3 =>
      if im then .ok (map fun _ x => if x.toInt < 0 then 0#32 else x) s
      else match actOf (bits arg 3 0) with
        | some .leaky => (rd a 4 s).bind fun l s => .ok (map fun _ x => actF32 .leaky (wordAt l 0) x) s
        | some f => .ok (map fun _ x => actF32 f 0#32 x) s
        | none => .ok r s
  | 4 =>
      let bf := arg.testBit 0
      let w := if bf then 2 else 4
      (rd (a.1, a.2 + row * bits arg 16 1 * 16) (w * t.side) s).bind fun l s =>
        .ok (map fun j x => f32Add x
          (if bf then f32OfBf16 (ofBytes ((l.drop (2 * j)).take 2)) else wordAt l j)) s
  | 5 => (rd a (4 * t.side) s).bind fun l s => .ok (map fun j x => f32Mul x (wordAt l j)) s
  | 6 => (rd a 8 s).bind fun l s =>
      .ok (map fun _ x =>
        if im then
          let m := if x.toInt < (wordAt l 0).toInt then wordAt l 0 else x
          if (wordAt l 1).toInt < m.toInt then wordAt l 1 else m
        else f32Min (f32Max x (wordAt l 0)) (wordAt l 1)) s
  | 7 => (rd a 32 s).bind fun l s =>
      let b := ofBytes l
      let srec := bits b 47 0
      let f := quantTarget arg
      if im then
        .ok (quantInt f (signed 32 (bits b 95 64)) (bits b 101 96) (signed 16 (bits b 143 128)) (cmd.scaleOf srec)
          (srec != 0) r) s
      else .ok (quantFloat f (!arg.testBit 4) (reciprocal (cmd.scaleOf srec)) (srec != 0) r) s
  | 8 => (rd a 4 s).bind fun l s => .ok { r with discard := r.discard ||| ofBytes l } s
  | _ => .ok r s

/-- The DISCARD masks of a program, which apply whatever their place (R127, R129). -/
def discardMask (t : EngTile) (cmd : Cmd) (sts : List Nat) (s : Mach) : Res Nat :=
  foldRes (fun m st s => if bits st 3 0 = 8 then
      (drainRead t cmd (stageAddr s cmd t st) 4 s).bind fun l s => .ok (m ||| ofBytes l) s
    else .ok m s) 0 sts s

/-- The runs of written columns of a row, as (column, bytes). -/
def writeRuns (f : Format) (cs : List (Nat × Nat)) : List (Nat × List Byte) :=
  cs.foldr (fun c acc =>
    let b := toBytes (f.width / 8) c.2
    match acc with
    | (k, l) :: rest => if k = c.1 + 1 then (c.1, b ++ l) :: rest else (c.1, b) :: acc
    | [] => [(c.1, b)]) []

/-- The bytes of a drained row and where they go, relative to the row's start (R122). -/
def rowBytes (t : EngTile) (r : RunRow) : List (Nat × List Byte) :=
  let cs := if r.quant then r.codes else r.vals.map fun p => (p.1, p.2.toNat)
  if r.out.width < 8 then
    [(0, packCodes r.out ((List.range t.side).map fun j =>
      if r.discard.testBit j then 0 else match cs.find? fun c => c.1 == j with | some c => c.2 | none => 0))]
  else
    (writeRuns r.out (cs.filter fun c => !r.discard.testBit c.1)).map fun p => (p.1 * (r.out.width / 8), p.2)

/-- Transactions a device virtual range needs: one per 256-byte granule (R111). -/
def granules (a n : Nat) : Nat := if n = 0 then 0 else (a + n - 1) / 256 - a / 256 + 1

/-- The parts of a byte range that lie each within one 256-byte granule, as (address, length) (R111). -/
def granuleParts (a n : Nat) : List (Nat × Nat) :=
  (List.range (granules a n)).map fun i =>
    let b := max a ((a / 256 + i) * 256)
    (b, min (a + n) ((a / 256 + i + 1) * 256) - b)
/-- The moves of bytes to a device virtual address. -/
def putMoves (va : Nat) (l : List Byte) (h : Hint) : List Move :=
  (granuleParts va l.length).map fun p => .put p.1 ((l.drop (p.1 - va)).take p.2) h
/-- The moves of n bytes of a device virtual address to an on-die address. -/
def fetchMoves (va n : Nat) (dst : Nat × Nat) (h : Hint) : List Move :=
  (granuleParts va n).map fun p => .fetch p.1 p.2 (dst.1, dst.2 + (p.1 - va)) h

/-- New transactions of a unit of a core (R111): each takes one of 32 slots while one is free and none waits, and no freeze lasts
(17 R416), else it waits. -/
def addTrans (s : Mach) (core item entry unit : Nat) (ms : List Move) : Mach :=
  if ms.isEmpty then s
  else
    let c := s.core core
    let free := if !s.frozen && c.trans.all fun x => x.slot then c.slotsFree else 0
    let new := ms.zipIdx.map fun m => (⟨c.transNo + m.2, item, entry, unit, m.1, decide (m.2 < free)⟩ : Trans)
    let upd := fun (en : Entry) => if en.no == entry then { en with left := en.left + ms.length } else en
    let items := c.items.map fun it => if it.index == item then ({ it with entries := it.entries.map upd } : Item) else it
    s.setCore core { c with trans := c.trans ++ new, transNo := c.transNo + ms.length, slotsFree := c.slotsFree - min free ms.length,
                            slotLast := if free = 0 then c.slotLast else unit, items := items }

/-- The measurement of a written tensor part by requester r (03 R66, R67; 11 R245): at most one atomic per field of its record. `infs`
tells that a result is infinite. For a core its cluster command processor sets the overflow object (17 R417). -/
def measureRecord (r ctx va : Nat) (amax : Word) (sats flushes events : Nat) (infs : Bool) (s : Mach) : Res Unit :=
  if va = 0 then .ok () s
  else
    (s.atomic r ctx (va + 4) 4 (fun o => (f32Max (w32 o) amax).toNat) true false).bind fun _ s =>
    (if sats = 0 then .ok 0 s else s.atomic r ctx (va + 8) 4 (fun o => (o + sats) % 2 ^ 32) true false).bind fun _ s =>
    (if flushes = 0 then .ok 0 s else s.atomic r ctx (va + 12) 4 (fun o => (o + flushes) % 2 ^ 32) true false).bind fun _ s =>
    (if events = 0 then .ok 0 s else s.atomic r ctx (va + 16) 4 (fun o => o ||| events) true false).bind fun _ s =>
    -- a gradient record's saturation, NaN or infinity sets its overflow object
    if events % 2 = 1 ∨ events ≥ 4 ∨ infs then
      (s.readWord ctx (va + 20) 4).bind fun w s =>
        .ok () (if bits w 5 4 = 2 then s.setOverflow (if r < 512 then 512 + r / 16 else r) (bits w 29 16) ctx else s)
    else .ok () s

/-- 11 R245, third case: a tile that met an overflow or NaN event sets the overflow object of a gradient-class record its
QUANT stage names, once per command and object, as requester r. -/
def tileOverflow (r cmdId ctx va : Nat) (faults : Bool) (s : Mach) : Res Unit :=
  if va = 0 ∨ !faults then .ok () s
  else (s.readWord ctx (va + 20) 4).bind fun w s =>
    let o := bits w 29 16
    match s.cmd? cmdId with
    | some c =>
      if bits w 5 4 = 2 && !c.ovfSet.contains o then
        .ok () ((s.setOverflow r o ctx).setCmd { c with ovfSet := o :: c.ovfSet })
      else .ok () s
    | none => .ok () s

/-- The output record a program's QUANT stage names (R127). -/
def quantRecord (t : EngTile) (cmd : Cmd) (sts : List Nat) (s : Mach) : Res Nat :=
  foldRes (fun a st s => if bits st 3 0 = 7 then
      (drainRead t cmd (stageAddr s cmd t st) 32 s).bind fun l s => .ok (bits (ofBytes l) 47 0) s
    else .ok a s) 0 sts s

/-- R188: in a row whose log-sum-exp record is −∞ every value is replaced by the code of +0, and the row is not measured. -/
def emptyRow (t : EngTile) (cmd : Cmd) (row : Nat) (r : RunRow) (s : Mach) : Res RunRow :=
  match t.lse with
  | none => .ok r s
  | some va => (drainRead t cmd (0, va + 4 * row) 4 s).bind fun l s =>
    if wordAt l 0 = 0xFF800000#32 then
      .ok { r with vals := r.vals.map fun p => (p.1, 0#32), codes := r.codes.map fun c => (c.1, 0),
                   amax := 0x7FC00000#32, sats := 0, flushes := 0, events := 0, infs := false } s
    else .ok r s

/-- The drain of the next row of a quarter's oldest draining tile (04 R90, R91, R96, R100; 05 R122). `flip` disturbs the
row's first unmasked element in storage: zero where there is none. -/
def drainRow (s : Mach) (e q : Nat) (flip : Word) : Mach :=
  let en := s.eng e
  let x := en.quarter q
  match x.tiles.find? fun t => t.drain && t.drained < t.rows with
  | none => s
  | some t =>
    let ready := t.comPat == t.pats || (t.comPat + 1 == t.pats && t.drained < t.comRows)
    match s.cmd? t.cmd with
    | none => s
    | some cmd =>
      if !ready then s
      else
        let row := t.drained
        let slot := t.slot + row / t.side
        let r := row % t.side
        let key := slot * 32 + r
        let vals := match t.cols.map fun c => s.accGet (accIndex e t.quarter q slot r c) with
          | [] => []
          | v :: l => (v ^^^ flip) :: l
        let res := checkPass t.isInt (ckSum t.isInt vals) (tw x.rowY key) (tw x.rowG key) (tn x.rowS key)
        if res == 0 then (mismatch s e 2 (if t.quarter then q else 0) slot r t.isInt t.cmd).endTile e q t
        else
          let s1 := if res == 2 then s.bump (engReg e 0x64) 1 else s
          let sts := if t.runEntry = 0 then [] else runStages (s.planEntry t.core t.runEntry)
          let im := t.intMode sts
          let row0 : RunRow := { vals := t.cols.zip (vals.map (t.entryVal im)) }
          s.settleEntry t.cmd (e / 4) (16 + 4 * (e % 4) + q) t.item t.entry ((discardMask t cmd sts s1).bind fun dm s =>
            (foldRes (fun r st s => runStageOn im t cmd st row r s) { row0 with discard := dm } sts s).bind fun rr s =>
            (emptyRow t cmd row rr s).bind fun rr s =>
            let base := t.outAddr.2 + row * t.outStride * 16
            let ws := rowBytes t rr
            -- writes at a device virtual address are transactions with the hint STREAM (05 R111)
            (if t.outAddr.1 = 0 then
              Res.ok () (addTrans s t.core t.item t.entry 2 (ws.flatMap fun w => putMoves (base + w.1) w.2 .stream))
             else eachRes (fun w s => s.coreWrite t.core cmd.ctx t.cmd (t.outAddr.1, base + w.1) w.2) ws s).bind fun _ s =>
            let s := s.setCore t.core { s.core t.core with idleCycles := 0 }
            let t := { t with drained := row + 1, amax := f32Max t.amax rr.amax, sats := t.sats + rr.sats,
                              flushes := t.flushes + rr.flushes, events := t.events ||| rr.events,
                              infs := t.infs || rr.infs }
            let en := s.eng e
            let x := en.quarter q
            let x := { x with pendingRows := x.pendingRows.filter fun k => k != key }
            let x := { x with accWait := x.accWait && x.headBlocked }
            if t.drained < t.rows then .ok () (s.setEng e (en.setQuarter q (x.setTile t)))
            else
              let x := { x with tiles := x.tiles.filter fun u => !u.same t.cmd t.item t.entry }
              let s := s.setEng e (en.setQuarter q x)
              (quantRecord t cmd sts s).bind fun va s =>
              if va = 0 then .ok () (tileDone s t)
              else (s.viaCache t.core cmd.ctx va 32 .write fun s => s.viaSlot t.core 0 fun s =>
                (measureRecord t.core cmd.ctx va t.amax t.sats t.flushes t.events t.infs s).bind fun _ s =>
                tileOverflow (512 + t.core / 16) t.cmd cmd.ctx va t.faults s).bind fun _ s => .ok () (tileDone s t))
end Sys2Proof.Machine
end

