-- ==== Sys2Proof/Machine/Bulk.lean ====
section
/-! DEFINITION. Machine/Bulk.lean: what the bulk ladle commands check and do: exact sums and combine lines, ATTN_NORM and its
backward form, REDUCE with ADAPT and HIST, COPY, ZERO, OPT_UPDATE (06_ladle_units.md R144 to R157; 08 R187; 10 R234;
03 R73; 11 R248 to R259). Each command has a check phase, which writes only bookkeeping, and its work. -/

namespace Sys2Proof.Machine

/-! ## Combine lines (R148, R149) -/

/-- A combine line. -/
structure Comb where
  acc : Int := 0
  maxv : Word := 0x7FC00000#32
  minv : Word := 0x7FC00000#32
  nan : Bool := false
  pinf : Bool := false
  ninf : Bool := false
  count : Nat := 0
  deriving DecidableEq, Repr
/-- The 512 bits of a combine line. -/
def Comb.word (c : Comb) : Nat :=
  wrap 384 c.acc + c.maxv.toNat <<< 384 + c.minv.toNat <<< 416 + (b2n c.nan) <<< 448 + (b2n c.pinf) <<< 449 +
    (b2n c.ninf) <<< 450 + (c.count % 2 ^ 32) <<< 480
/-- A finite FP32 term in units of 2^−149. -/
def termUnits (w : Word) : Int :=
  match f32Val w with
  | .fin n m e => if n then -((m * 2 ^ (e + 149).toNat : Nat) : Int) else ((m * 2 ^ (e + 149).toNat : Nat) : Int)
  | _ => 0
/-- A term of a sum (R149). -/
def Comb.term (c : Comb) (w : Word) : Comb :=
  if f32IsNaN w then { c with nan := true }
  else if f32IsInf w then (if f32Neg w then { c with ninf := true } else { c with pinf := true })
  else { c with acc := c.acc + termUnits w }
/-- The exact value of a line's sum. -/
def Comb.sum (c : Comb) : Fv := .fin (decide (c.acc < 0)) c.acc.natAbs (-149)
/-- The final value of a sum (R149), or of its mean over n elements. -/
def Comb.final (c : Comb) (mean : Bool) : Word :=
  if c.nan || (c.pinf && c.ninf) then f32NaN
  else if c.pinf then f32Inf false
  else if c.ninf then f32Inf true
  else if c.acc = 0 then f32Zero
  else if mean then (if c.count = 0 then f32Zero else f32Of (fvDiv c.sum (.fin false c.count 0)))
  else f32Of c.sum
/-- A combine line as its 512 bits have it. -/
def ofLine (w : Nat) : Comb :=
  { acc := signed 384 (bits w 383 0), maxv := w32 (bits w 415 384), minv := w32 (bits w 447 416), nan := bit w 448,
    pinf := bit w 449, ninf := bit w 450, count := bits w 511 480 }
/-- Initialises a combine line (R148). -/
def putComb (ctx va : Nat) (c : Comb) (s : Mach) : Res Unit := s.writeVa ctx va (toBytes 64 c.word)
/-- Reads a combine line. -/
def readComb (ctx va : Nat) (s : Mach) : Res Comb := (s.readWord ctx va 64).bind fun w s => .ok (ofLine w) s

/-! ## Atomics of ladle units (R149, R150, R162) -/

/-- An atomic of unit g whose old value is not wanted. -/
def unitAtomic (g ctx va n : Nat) (f : Nat → Nat) (s : Mach) : Res Unit :=
  (s.atomic (544 + g) ctx va n f true false).bind fun _ s => .ok () s
/-- ADD.I32. -/
def unitAdd (g ctx va n : Nat) (s : Mach) : Res Unit := unitAtomic g ctx va 4 (fun o => (o + n) % 2 ^ 32) s
/-- ADD.WIDE into ACC of a combine line. -/
def addWide (g ctx va : Nat) (i : Int) (s : Mach) : Res Unit :=
  unitAtomic g ctx va 64 (fun o => setBits o 383 0 ((bits o 383 0 + wrap 384 i) % 2 ^ 384)) s
/-- OR into FLAGS of a combine line. -/
def orFlags (g ctx va : Nat) (c : Comb) (s : Mach) : Res Unit :=
  unitAtomic g ctx (va + 56) 4 (fun o => o ||| (b2n c.nan + 2 * b2n c.pinf + 4 * b2n c.ninf)) s
/-- MAX.F32 into MAXV. -/
def maxLine (g ctx va : Nat) (w : Word) (s : Mach) : Res Unit :=
  unitAtomic g ctx (va + 48) 4 (fun o => (f32Max (w32 o) w).toNat) s
/-- MIN.F32 into MINV. -/
def minLine (g ctx va : Nat) (w : Word) (s : Mach) : Res Unit :=
  unitAtomic g ctx (va + 52) 4 (fun o => (f32Min (w32 o) w).toNat) s
/-- A unit's partial sum goes into a combine line: ADD.WIDE, OR of the flags (R149), ADD.I32 of the count. -/
def addComb (g ctx va : Nat) (c : Comb) (s : Mach) : Res Unit :=
  (addWide g ctx va c.acc s).bind fun _ s => (orFlags g ctx va c s).bind fun _ s => unitAdd g ctx (va + 60) c.count s

/-! ## Shares (01 R22; 06 R145) -/

/-- The granules of n bytes at an address that are in the share of unit g, of ranges that are its primary operand. -/
def sharePieces (s : Mach) (cmd : Cmd) (g va n : Nat) : List (Nat × Nat) :=
  (granuleParts va n).filter fun p => s.unitOf cmd p.1 == g
/-- Reads the pieces of a range. -/
def readPieces (ctx : Nat) (ps : List (Nat × Nat)) (s : Mach) : Res (List Byte) :=
  foldRes (fun (acc : List Byte) p s => (s.readVa ctx p.1 p.2).bind fun l s => .ok (acc ++ l) s) [] ps s
/-- R147: in the work of an in-place command poison is fatal, even where the object has a clean origin. -/
def inPlace {α : Type} (r : Res α) : Res α :=
  match r with
  | .err (.restart (.slag _)) s => .err (.fatal stFaultPoison) s
  | r => r

/-- Whether byte ranges of one space are disjoint, zero addresses named apart. -/
def apart (l : List (Nat × Nat)) : Bool :=
  match l with
  | [] => true
  | (a, n) :: l => (l.all fun x => n == 0 || x.2 == 0 || decide (a + n ≤ x.1) || decide (x.1 + x.2 ≤ a)) && apart l

/-! ## ATTN_NORM (R151, R152, R187, R234) -/

/-- A row of a length table's batch: its sequence and query. -/
abbrev NormRow := Seq × Nat
/-- Every row of the batch. -/
def normRows (lt : List Nat) : List NormRow :=
  lt.flatMap fun e => (List.range (bits e 31 0)).map fun r => (seqOf e, r)
/-- The first admitted key and the number of admitted keys of a row: they are contiguous (R186). -/
def admittedRun (d : Nat) (x : NormRow) : Nat × Nat :=
  let (q, r) := x
  let mask := bits d 321 320
  let lo : Int := if mask = 2 then max 0 (q.qPos + r - bits d 345 322 + 1) else 0
  let hi : Int := if mask = 0 then (q.kLen : Int) else min (q.kLen : Int) (q.qPos + r + 1)
  if hi ≤ lo then (0, 0) else (lo.toNat, (hi - lo).toNat)
/-- Where a row of the matrix at a base begins. -/
def rowVa (base : Nat) (x : NormRow) : Nat := base + x.1.scoreOff + x.2 * x.1.rs
/-- The batch row (R187). -/
def NormRow.no (x : NormRow) : Nat := x.1.qRow + x.2
/-- The pieces of a row's admitted elements in unit g's share: of the scores, or of dP (R187, R234). -/
def runPieces (s : Mach) (cmd : Cmd) (g : Nat) (x : NormRow) : List (Nat × Nat) :=
  let run := admittedRun cmd.desc x
  sharePieces s cmd g (rowVa (bits cmd.desc 223 176) x + 4 * run.1) (4 * run.2)
/-- Unit g writes +0 over its share of a row's elements below K_LEN that are not admitted (R187, R234). -/
def zeroRest (cmd : Cmd) (g : Nat) (x : NormRow) (s : Mach) : Res Unit :=
  let run := admittedRun cmd.desc x
  let va := rowVa (bits cmd.desc 223 176) x
  let ps := sharePieces s cmd g va (4 * run.1) ++
    sharePieces s cmd g (va + 4 * (run.1 + run.2)) (4 * (x.1.kLen - run.1 - run.2))
  eachRes (fun (p : Nat × Nat) s => s.writeVa cmd.ctx p.1 (List.replicate p.2 0#8)) ps s
/-- Unit g rewrites its share of a row's admitted elements. -/
def mapRun (cmd : Cmd) (g : Nat) (x : NormRow) (f : Nat → List Word → Mach → Res (List Word)) (s : Mach) : Res Unit :=
  eachRes (fun (p : Nat × Nat) s =>
    (s.readVa cmd.ctx p.1 p.2).bind fun l s =>
    (f (p.1 - rowVa (bits cmd.desc 223 176) x) ((wordsOf 4 l).map w32) s).bind fun ws s =>
      s.writeVa cmd.ctx p.1 (ws.flatMap fun w => toBytes 4 w.toNat)) (runPieces s cmd g x) s

/-- How a row ends by its combine line (R151): 1 NaN, 2 empty, 0 neither. -/
def Comb.rowKind (c : Comb) : Nat := if c.nan || c.pinf then 1 else if c.count == 0 || c.maxv == f32Inf true then 2 else 0
/-- t of a score (R151). -/
def normTerm (m x : Word) : Word := f32Exp2 (f32Sub x m)
/-- p of a score (R151). -/
def Comb.normal (c : Comb) (x : Word) : Word :=
  match c.rowKind with
  | 1 => f32NaN
  | 2 => f32Zero
  | _ => f32Div (normTerm c.maxv x) (c.final false)
/-- The record of a row (R151). -/
def Comb.lse (c : Comb) : Word :=
  match c.rowKind with
  | 1 => f32NaN
  | 2 => f32Inf true
  | _ => f32Add c.maxv (f32Ln (c.final false))

/-- The refusals of ATTN_NORM at issue, either form (08 R187), with its length table. -/
def normIssue (cmd : Cmd) (s : Mach) : Res Cmd :=
  let d := cmd.desc
  let mask := bits d 321 320
  if !zeroFields d [(511, if dForm d then 394 else 346)] || bits d 319 272 % 64 != 0 || bits d 271 224 % 4 != 0 || mask == 3 ||
      (mask == 2 && bits d 345 322 == 0) then .err (.fatal stShape) s
  else (readTable cmd.ctx (bits d 175 128) s).bind fun lt s => .ok { cmd with lt := lt } s
/-- The check phase of ATTN_NORM, either form: its translations, then its combine lines. -/
def normCheck (cmd : Cmd) (s : Mach) : Res Cmd :=
  let d := cmd.desc
  let back := dForm d
  let comb := bits d 319 272
  let lse := bits d 271 224
  let mat := fun base (s : Mach) a => eachRes (fun (e : Nat) s =>
    let q := seqOf e
    s.checkRange cmd.ctx (base + q.scoreOff) (q.qLen * q.rs) a false) cmd.lt s
  (mat (bits d 223 176) s .write).bind fun _ s =>
  (if back then mat (bits d 393 346) s .read else .ok () s).bind fun _ s =>
  (eachRes (fun (e : Nat) s =>
    let q := seqOf e
    (s.checkRange cmd.ctx (comb + 64 * q.qRow) (64 * q.qLen) .write false).bind fun _ s =>
      if back && lse == 0 then .ok () s
      else s.checkRange cmd.ctx (lse + 4 * q.qRow) (4 * q.qLen) (if back then .read else .write) false) cmd.lt s).bind
    fun _ s =>
  (eachRes (fun (x : NormRow) s => putComb cmd.ctx (comb + 64 * x.no) {} s) (normRows cmd.lt) s).bind
    fun _ s => .ok cmd s

/-- Unit g's pass 1 of ATTN_NORM on a row (R152): its partial maximum, flags and count. -/
def normMax (cmd : Cmd) (g : Nat) (x : NormRow) (s : Mach) : Res Unit :=
  let line := bits cmd.desc 319 272 + 64 * x.no
  let ps := runPieces s cmd g x
  if ps.isEmpty then .ok () s
  else (readPieces cmd.ctx ps s).bind fun l s =>
    let vs := (wordsOf 4 l).map w32
    let c : Comb := { nan := vs.any f32IsNaN, pinf := vs.any fun w => f32IsInf w && !f32Neg w,
                      ninf := vs.any fun w => f32IsInf w && f32Neg w, count := vs.length }
    (maxLine g cmd.ctx line (vs.foldl f32Max f32NaN) s).bind fun _ s =>
    (orFlags g cmd.ctx line c s).bind fun _ s => unitAdd g cmd.ctx (line + 60) c.count s
/-- Unit g's pass 2 of ATTN_NORM on a row: its partial sum, of rows that are neither NaN nor empty. -/
def normSum (cmd : Cmd) (g : Nat) (x : NormRow) (s : Mach) : Res Unit :=
  let line := bits cmd.desc 319 272 + 64 * x.no
  let ps := runPieces s cmd g x
  if ps.isEmpty then .ok () s
  else (readComb cmd.ctx line s).bind fun c s =>
    if c.rowKind ≠ 0 then .ok () s
    else (readPieces cmd.ctx ps s).bind fun l s =>
      let t := (wordsOf 4 l).map fun w => normTerm c.maxv (w32 w)
      addWide g cmd.ctx line (t.foldl Comb.term ({} : Comb)).acc s
/-- Unit g's pass 3 of ATTN_NORM on a row: p over its scores, the record if it holds it; the home unit of the line counts. -/
def normOut (cmd : Cmd) (g : Nat) (x : NormRow) (s : Mach) : Res Unit :=
  let line := bits cmd.desc 319 272 + 64 * x.no
  let rec' := bits cmd.desc 271 224 + 4 * x.no
  (if (runPieces s cmd g x).isEmpty && s.unitOf cmd line != g && s.unitOf cmd rec' != g then .ok () s
   else (readComb cmd.ctx line s).bind fun c s =>
    (mapRun cmd g x (fun _ ws s => .ok (ws.map c.normal) s) s).bind fun _ s =>
    (if s.unitOf cmd rec' = g then s.writeWord cmd.ctx rec' 4 c.lse.toNat else .ok () s).bind fun _ s =>
      if s.unitOf cmd line = g then
        .ok () ((s.bump (ldlReg g 0x14) (b2n (c.rowKind == 1))).bump (ldlReg g 0x18) (b2n (c.rowKind == 2)))
      else .ok () s).bind fun _ s => zeroRest cmd g x s

/-- Whether a row's forward record marks it empty (R234). -/
def emptyRecord (cmd : Cmd) (x : NormRow) (s : Mach) : Res Bool :=
  let lse := bits cmd.desc 271 224
  if lse = 0 then .ok false s
  else (s.readWord cmd.ctx (lse + 4 * x.no) 4).bind fun w s => .ok (w == 0xFF800000) s
/-- Unit g's pass 1 of the backward form on a row (R234): its partial of D. -/
def dotSum (cmd : Cmd) (g : Nat) (x : NormRow) (s : Mach) : Res Unit :=
  let line := bits cmd.desc 319 272 + 64 * x.no
  let shift := fun (a : Nat) => rowVa (bits cmd.desc 393 346) x + (a - rowVa (bits cmd.desc 223 176) x)
  let ps := runPieces s cmd g x
  if ps.isEmpty then .ok () s
  else (emptyRecord cmd x s).bind fun e s =>
    if e then .ok () s
    else (readPieces cmd.ctx ps s).bind fun gl s =>
      (readPieces cmd.ctx (ps.map fun p => (shift p.1, p.2)) s).bind fun pl s =>
        let ts := ((wordsOf 4 pl).zip (wordsOf 4 gl)).map fun y => f32Mul (w32 y.1) (w32 y.2)
        let c := ts.foldl Comb.term ({} : Comb)
        (addWide g cmd.ctx line c.acc s).bind fun _ s => orFlags g cmd.ctx line c s
/-- Unit g's pass 2 of the backward form on a row: dS over its elements of dP, which it reads but in a row that a record marks empty;
the home unit of the line counts. -/
def gradOut (cmd : Cmd) (g : Nat) (x : NormRow) (s : Mach) : Res Unit :=
  let line := bits cmd.desc 319 272 + 64 * x.no
  (if (runPieces s cmd g x).isEmpty && s.unitOf cmd line != g then .ok () s
   else (emptyRecord cmd x s).bind fun e s =>
    (if e then .ok ({} : Comb) s else readComb cmd.ctx line s).bind fun c s =>
      let dd := c.final false
      let bad := !e && !f32IsFin dd
      (if e then eachRes (fun (p : Nat × Nat) s => s.writeVa cmd.ctx p.1 (List.replicate p.2 0#8)) (runPieces s cmd g x) s
       else mapRun cmd g x (fun off ws s =>
        if bad then .ok (ws.map fun _ => f32NaN) s
        else (s.readVa cmd.ctx (rowVa (bits cmd.desc 393 346) x + off) (4 * ws.length)).bind fun pl s =>
          .ok (((wordsOf 4 pl).zip ws).map fun y => f32Mul (w32 y.1) (f32Sub y.2 dd)) s) s).bind fun _ s =>
        if s.unitOf cmd line = g then .ok () ((s.bump (ldlReg g 0x14) (b2n bad)).bump (ldlReg g 0x18) (b2n e))
        else .ok () s).bind fun _ s => zeroRest cmd g x s
/-- Unit g's share of the current pass of ATTN_NORM; poison is fatal in it (R147). -/
def normShare (cmd : Cmd) (g : Nat) (s : Mach) : Res Unit :=
  inPlace (eachRes (fun x s => match dForm cmd.desc, cmd.pass with
    | false, 0 => normMax cmd g x s
    | false, 1 => normSum cmd g x s
    | false, _ => normOut cmd g x s
    | true, 0 => dotSum cmd g x s
    | true, _ => gradOut cmd g x s) (normRows cmd.lt) s)

/-! ## COPY and ZERO (R157) -/

/-- The refusals of COPY and ZERO at issue. -/
def copyIssue (cmd : Cmd) (s : Mach) : Res Cmd :=
  let d := cmd.desc
  let zero := dOp d == 0x10
  let src := bits d 239 192
  let dst := bits d 303 256
  let n := bits d 165 128 * 64
  if !zeroFields d [(511, 304), (255, 242), (191, 166)] || bits d 241 240 > 1 || src % 64 != 0 || dst % 64 != 0 ||
      n == 0 || (zero && src != 0) || (!zero && !apart [(src, n), (dst, n)]) then .err (.fatal stShape) s
  else .ok cmd s
/-- The check phase of COPY or ZERO. -/
def copyCheck (cmd : Cmd) (s : Mach) : Res Cmd :=
  let d := cmd.desc
  let n := bits d 165 128 * 64
  (if dOp d = 0x10 then .ok () s else s.checkRange cmd.ctx (bits d 239 192) n .read false).bind fun _ s =>
    (s.checkRange cmd.ctx (bits d 303 256) n .write false).bind fun _ s => .ok cmd s
/-- Copies n bytes in whole sectors, slag marks included, with the destination's retention hint (R157, 12 R270). -/
def copyVa (ctx src dst n : Nat) (h : Hint) (s : Mach) : Res Unit :=
  eachRes (fun i s =>
    (s.piece ctx .read false (src + 64 * i, 64)).bind fun a s =>
    (s.pieceH ctx .write false h (dst + 64 * i, 64)).bind fun b s =>
      let (l, bad, s) := s.readNear a 64
      .ok () (s.writeNear b l bad)) (List.range (n / 64)) s
/-- The retention hint of a COPY's or ZERO's destination. -/
def copyHint (d : Nat) : Hint := if bits d 241 240 = 1 then .keep else .stream
/-- Unit g's share of COPY or ZERO: the granules of the destination that it holds. -/
def copyShare (cmd : Cmd) (g : Nat) (s : Mach) : Res Unit :=
  let d := cmd.desc
  let dst := bits d 303 256
  eachRes (fun (p : Nat × Nat) s =>
    if dOp d = 0x10 then s.writeVaH cmd.ctx p.1 (List.replicate p.2 0#8) false (copyHint d)
    else copyVa cmd.ctx (bits d 239 192 + (p.1 - dst)) p.1 p.2 (copyHint d) s)
    (sharePieces s cmd g dst (bits d 165 128 * 64)) s

/-! ## REDUCE (R153 to R156) -/

/-- A two-bit element format of REDUCE. -/
def redFmt (c : Nat) : Format := match c with | 0 => .fp32 | 1 => .bf16 | 2 => .e4m3 | _ => .e5m2
/-- FUNC, SHAPE. -/
def redFunc (d : Nat) : Nat := bits d 131 128
/-- SHAPE. -/
def redShape (d : Nat) : Nat := bits d 133 132
/-- Number of results. -/
def redResults (d : Nat) : Nat :=
  match redShape d with
  | 0 => 1
  | 1 => bits d 383 352
  | _ => bits d 175 144
/-- Bytes of the destination. -/
def redDstLen (d : Nat) : Nat :=
  if redFunc d = 7 then 128 * redResults d else redResults d * ((redFmt (bits d 137 136)).width / 8)
/-- Bytes of a row of a source. -/
def redRowLen (d : Nat) : Nat := bits d 175 144 * ((redFmt (bits d 135 134)).width / 8)
/-- Rows of a source and their stride (R154). -/
def redRows (d : Nat) : Nat × Nat := if redShape d = 1 then (bits d 383 352, bits d 415 384) else (1, 0)
/-- Whether no row of the source at an address meets the destination (R155): of the rows that begin before its end, the last
reaches furthest. -/
def redApart (d a : Nat) : Bool :=
  let (rows, stride) := redRows d
  let dva := bits d 303 256
  let top := dva + redDstLen d
  let r := if stride = 0 then 0 else min (rows - 1) ((top - 1 - a) / stride)
  redDstLen d == 0 || redRowLen d == 0 || decide (top ≤ a) || decide (a + r * stride + redRowLen d ≤ dva)

/-- The record conditions of ADAPT (R156). -/
def adaptOk (r : Nat) : Bool := recordForm r && f32PosNormal (w32 (bits r 31 0))
/-- The refusals of REDUCE at issue (R155), with its source addresses and records, and the scales it reads (R72). -/
def redIssue (cmd : Cmd) (s : Mach) : Res Cmd :=
  let d := cmd.desc
  let fn := redFunc d
  let sh := redShape d
  let adapt := fn == 6
  let hist := fn == 7
  let fs := redFmt (bits d 135 134)
  let fd := redFmt (bits d 137 136)
  let comb := bits d 495 448
  let dst := bits d 351 304 -- record
  let dva := bits d 303 256
  let nsrc := bits d 143 138 + 1
  let shapeBad :=
    !zeroFields d [(511, 496), (439, 416), (207, 176)] || fn > 7 || sh == 3 || (nsrc != 1 && sh != 2) ||
    (if sh == 1 then bits d 383 352 == 0 else bits d 383 352 != 1) || (!hist && bits d 447 440 != 0) ||
    (if sh == 2 || adapt then comb != 0 else comb == 0 || comb % 64 != 0) || (adapt && sh != 0) || (hist && sh == 2) ||
    (hist && bits d 137 136 != 0) || bits d 255 208 % 16 != 0 ||
    (adapt && (dva != 0 || dst != 0 || bits d 415 384 != 0 || bits d 135 134 != 0 || bits d 137 136 != 0))
  if shapeBad then .err (.fatal stShape) s
  else (s.readVa cmd.ctx (bits d 255 208) (16 * nsrc)).bind fun l s =>
    let es := wordsOf 16 l
    let srcs := es.map fun e => (bits e 47 0, bits e 111 64)
    let w := fs.width / 8
    let wd := if hist then 4 else fd.width / 8
    let bad2 := !(es.all fun e => zeroFields e [(63, 48), (127, 112)]) ||
      (if adapt then srcs.any fun x => x.1 % 128 != 0 || x.2 != 0
       else (srcs.any fun x => x.1 % w != 0) || dva % wd != 0 ||
        (sh == 1 && bits d 383 352 > 1 && bits d 415 384 % w != 0) || srcs.any fun x => !redApart d x.1)
    let aux := srcs.flatMap fun x => [x.1, x.2]
    if bad2 then .err (.fatal stShape) s
    else if adapt then .ok { cmd with aux := aux } s
    else
      (eachRes (fun (x : Nat × Format) s => cmd.recordClass x.1 x.2 s) ((srcs.map fun x => (x.2, fs)) ++ [(dst, fd)]) s).bind
        fun _ s =>
      (foldRes (fun (acc : List (Nat × Word)) (x : Nat × Nat) s => (cmd.record x.2 fs s).bind fun k s =>
        .ok (if x.2 = 0 then acc else acc ++ [(x.2, k)]) s) [] srcs s).bind fun sc s =>
      (if dst = 0 then (if fd.isF8 && !hist then .err (.fatal stScale) s else .ok sc s)
       else (cmd.record dst fd s).bind fun k s => .ok (sc ++ [(dst, k)]) s).bind fun sc s =>
        .ok { cmd with scales := sc, aux := aux } s
/-- The sources of a REDUCE: addresses and records. -/
def redSources (cmd : Cmd) : List (Nat × Nat) :=
  (List.range (bits cmd.desc 143 138 + 1)).map fun i => (nth cmd.aux (2 * i), nth cmd.aux (2 * i + 1))
/-- The check phase of REDUCE: the records of ADAPT (R156), else its translations and its combine lines. -/
def redCheck (cmd : Cmd) (s : Mach) : Res Cmd :=
  let d := cmd.desc
  if redFunc d = 6 then
    let n := 128 * bits d 175 144
    (s.checkRange cmd.ctx (nth cmd.aux 0) n .write false).bind fun _ s =>
    (s.readVa cmd.ctx (nth cmd.aux 0) n).bind fun l s =>
      if (wordsOf 128 l).all adaptOk then .ok cmd s else .err (.fatal stScale) s
  else
    (eachRes (fun (x : Nat × Nat) s => eachRes (fun r s =>
      s.checkRange cmd.ctx (x.1 + r * (redRows d).2) (redRowLen d) .read false) (List.range (redRows d).1) s)
      (redSources cmd) s).bind fun _ s =>
    (s.checkRange cmd.ctx (bits d 303 256) (redDstLen d) .write false).bind fun _ s =>
    (if redShape d = 2 then .ok () s
     else eachRes (fun r s => putComb cmd.ctx (bits d 495 448 + 64 * r) {} s) (List.range (redResults d)) s).bind fun _ s =>
      .ok cmd s

/-- e_t of R73: the smallest e with h ≤ Q · 2^e. -/
def scaleExp (h : Word) (q : Nat) : Int :=
  match f32Val h with
  | .fin _ m e =>
    let start := (m.log2 : Int) + e - q.log2 - 2
    let ok := fun (k : Int) => match fvCmp (.fin false m e) (.fin false q k) with
      | some .gt => false
      | _ => true
    (((List.range 6).map fun (i : Nat) => start + (i : Int)).find? ok).getD (start + 6)
  | _ => 0
/-- Q of a TARGET (R70). -/
def refMag (t : Nat) : Nat := match t with | 0 => 2 ^ 64 | 1 => 448 | 2 => 57344 | 3 => 127 | _ => 1
/-- Adaptation of one record (R73): its new 128 bytes; AMAX, the counts and EVENTS are cleared of what was read. -/
def adapt (r : Nat) : Nat :=
  let a := w32 (bits r 63 32)
  let head := bits r 195 192
  let r := setBits r (512 + 32 * head + 31) (512 + 32 * head) a.toNat
  let r := setBits r 195 192 ((head + 1) % 16)
  let step := bits r 255 224
  let r := setBits r 255 224 (if step = 0xFFFFFFFF then step else step + 1)
  let h := (List.range 16).foldl (fun (h : Word) i =>
    let x := w32 (bits r (512 + 32 * i + 31) (512 + 32 * i))
    if f32IsFin x then f32Max h x else h) f32Zero
  let r :=
    if f32Lt f32Zero h && !bit r 166 then
      let cur := f32Exp (w32 (bits r 31 0))
      let e := scaleExp h (refMag (bits r 163 160)) + signed 8 (bits r 175 168)
      let e := max (cur - 8) (min (cur + 8) e)
      let e := max (-126) (min 127 e)
      setBits r 31 0 (f32Pow2 e).toNat
    else r
  let sat64 := fun (t n : Nat) => min (t + n) (2 ^ 64 - 1)
  let r := setBits r 447 384 (sat64 (bits r 447 384) (bits r 95 64))
  let r := setBits r 511 448 (sat64 (bits r 511 448) (bits r 127 96))
  setBits r 159 32 0

/-- Histogram counts of values: bins 0 to 15 and word 16 (R156). -/
def histBins (base : Int) (vs : List Word) : List Nat :=
  vs.foldl (fun (h : List Nat) v =>
    let b : Nat :=
      if f32IsNaN v then 16
      else if f32IsInf v then 15
      else if f32IsZero v then 0
      else (max 0 (min 15 (f32Exp v - base))).toNat
    h.set b (nth h b + 1)) (List.replicate 17 0)
/-- The terms that source bytes with a record hold: its elements decoded and scaled (R154). -/
def redTerms (cmd : Cmd) (sc : Nat) (l : List Byte) : List Word :=
  let f := redFmt (bits cmd.desc 135 134)
  (wordsOf (f.width / 8) l).map fun c => f32Mul (codeF32 f c) (cmd.scaleOf sc)
/-- A unit's partial of a result goes into the result's combine line (R149, R150): ADD.WIDE and OR, MAX.F32 or MIN.F32, and the
count of elements (log entry 46). -/
def redPartial (g ctx line fn : Nat) (ts : List Word) (s : Mach) : Res Unit :=
  let count := ts.length
  match fn with
  | 0 | 2 => addComb g ctx line (ts.foldl Comb.term { count := count }) s
  | 1 => addComb g ctx line ((ts.map fun x => f32Mul x x).foldl Comb.term { count := count }) s
  | 3 => (maxLine g ctx line (ts.foldl f32Max f32NaN) s).bind fun _ s => unitAdd g ctx (line + 60) count s
  | 4 => (minLine g ctx line (ts.foldl f32Min f32NaN) s).bind fun _ s => unitAdd g ctx (line + 60) count s
  | _ => (maxLine g ctx line ((ts.map f32Abs).foldl f32Max f32NaN) s).bind fun _ s => unitAdd g ctx (line + 60) count s
/-- The value of a result by its combine line (R149, R150). -/
def Comb.result (c : Comb) (fn : Nat) : Word :=
  match fn with
  | 0 | 1 => c.final false
  | 2 => c.final true
  | 4 => c.minv
  | _ => c.maxv
/-- The value of a result over its terms, all seen by one unit (R149, R150). -/
def redValue (fn : Nat) (ts : List Word) : Word :=
  let sq := ts.map fun x => f32Mul x x
  match fn with
  | 0 | 2 => (ts.foldl Comb.term { count := ts.length }).final (fn == 2)
  | 1 => (sq.foldl Comb.term { count := ts.length }).final false
  | 3 => ts.foldl f32Max f32NaN
  | 4 => ts.foldl f32Min f32NaN
  | _ => (ts.map f32Abs).foldl f32Max f32NaN
/-- Results converted, written from an address on, measured and counted by unit g (R154). -/
def putResults (cmd : Cmd) (g va : Nat) (rs : List Word) (s : Mach) : Res Unit :=
  let d := cmd.desc
  let fd := redFmt (bits d 137 136)
  let rec' := bits d 351 304
  let k := reciprocal (cmd.scaleOf rec')
  let conv := rs.map fun r =>
    if rec' ≠ 0 then quantise fd true k r
    else if fd = .fp32 then { code := r.toNat } else { code := toBf16 r }
  (s.writeVa cmd.ctx va (conv.flatMap fun c => toBytes (fd.width / 8) c.code)).bind fun _ s =>
    let amax := rs.foldl (fun a r => f32Max a (f32Abs r)) f32NaN
    let ev := (rs.zip conv).foldl (fun a x => a ||| eventBits x.2.sat x.2.flush (f32IsNaN x.1)) 0
    measureRecord (544 + g) cmd.ctx rec' amax (conv.filter fun c => c.sat).length (conv.filter fun c => c.flush).length ev
      (conv.any fun c => codeInfinite fd c.code) s
/-- Adds counts to a histogram with ADD.I32 (R156). -/
def addHist (g ctx va : Nat) (h : List Nat) (s : Mach) : Res Unit :=
  eachRes (fun (b : Nat × Nat) s => unitAdd g ctx (va + 4 * b.2) b.1 s) h.zipIdx s
/-- Unit g's share of ADAPT: the records it holds (R156). One atomic each takes off AMAX, SAT_CNT, FLUSH_CNT and EVENTS what was read
(03 R73; R159). -/
def adaptShare (cmd : Cmd) (g : Nat) (s : Mach) : Res Unit :=
  eachRes (fun j s =>
    let va := nth cmd.aux 0 + 128 * j
    if s.unitOf cmd va ≠ g then .ok () s
    else (s.readWord cmd.ctx va 128).bind fun r s =>
      let l := toBytes 128 (adapt r)
      let less := fun (hi lo : Nat) (o : Nat) => (o + 2 ^ 32 - bits r hi lo) % 2 ^ 32
      (s.writeVa cmd.ctx va (l.take 4)).bind fun _ s =>
      (s.writeVa cmd.ctx (va + 20) (l.drop 20)).bind fun _ s =>
      (unitAtomic g cmd.ctx (va + 8) 4 (less 95 64) s).bind fun _ s =>
      (unitAtomic g cmd.ctx (va + 12) 4 (less 127 96) s).bind fun _ s =>
      (unitAtomic g cmd.ctx (va + 16) 4 (fun o => o &&& (2 ^ 32 - 1 - bits r 159 128)) s).bind fun _ s =>
      unitAtomic g cmd.ctx (va + 4) 4 (fun _ => 0) s)
    (List.range (bits cmd.desc 175 144)) s
/-- Unit g's share of the sources of the whole and rows shapes: each result's partial goes into its combine line or histogram. -/
def redFirst (cmd : Cmd) (g : Nat) (s : Mach) : Res Unit :=
  let d := cmd.desc
  let (a, k) := (redSources cmd).headD (0, 0)
  eachRes (fun r s =>
    let ps := sharePieces s cmd g (a + r * (redRows d).2) (redRowLen d)
    if ps.isEmpty then .ok () s
    else (readPieces cmd.ctx ps s).bind fun l s =>
      let ts := redTerms cmd k l
      if redFunc d = 7 then addHist g cmd.ctx (bits d 303 256 + 128 * r) (histBins (signed 8 (bits d 447 440)) ts) s
      else redPartial g cmd.ctx (bits d 495 448 + 64 * r) (redFunc d) ts s) (List.range (redRows d).1) s
/-- The home units of combine lines write their results. -/
def redSecond (cmd : Cmd) (g : Nat) (s : Mach) : Res Unit :=
  let d := cmd.desc
  let wd := (redFmt (bits d 137 136)).width / 8
  eachRes (fun r s =>
    let line := bits d 495 448 + 64 * r
    if s.unitOf cmd line ≠ g then .ok () s
    else (readComb cmd.ctx line s).bind fun c s => putResults cmd g (bits d 303 256 + r * wd) [c.result (redFunc d)] s)
    (List.range (redResults d)) s
/-- Unit g's share of the sources shape: the elements of the destination that it holds. -/
def redAcross (cmd : Cmd) (g : Nat) (s : Mach) : Res Unit :=
  let d := cmd.desc
  let w := (redFmt (bits d 135 134)).width / 8
  let wd := (redFmt (bits d 137 136)).width / 8
  let dva := bits d 303 256
  eachRes (fun (p : Nat × Nat) s =>
    let n := p.2 / wd
    (foldRes (fun (cols : List (List Word)) (x : Nat × Nat) s =>
      (s.readVa cmd.ctx (x.1 + (p.1 - dva) / wd * w) (n * w)).bind fun l s => .ok (cols ++ [redTerms cmd x.2 l]) s) []
      (redSources cmd) s).bind fun cols s =>
      putResults cmd g p.1 ((List.range n).map fun i => redValue (redFunc d) (cols.map fun c => c.getD i 0#32)) s)
    (sharePieces s cmd g dva (redDstLen d)) s
/-- Unit g's share of the current pass of REDUCE; ADAPT and HIST are in place (R147). -/
def redShare (cmd : Cmd) (g : Nat) (s : Mach) : Res Unit :=
  let d := cmd.desc
  if redFunc d = 6 then inPlace (adaptShare cmd g s)
  else if redFunc d = 7 then inPlace (redFirst cmd g s)
  else if redShape d = 2 then redAcross cmd g s
  else if cmd.pass = 0 then redFirst cmd g s
  else redSecond cmd g s

/-! ## OPT_UPDATE (11 R248 to R259) -/

/-- An FP32 field of the update block. -/
def blkF (b hi lo : Nat) : Word := w32 (bits b hi lo)
/-- LRE of R250. -/
def optLre (d b : Nat) : Word :=
  match f32Val (blkF b 31 0) with
  | .fin n m e => f32Of (.fin n m (e + signed 8 (bits d 143 136)))
  | v => f32Of v
/-- Whether LRE is a normal finite value, formed exactly. -/
def optLreOk (d b : Nat) : Bool :=
  f32Normal (optLre d b) && (match f32Val (blkF b 31 0) with
    | .fin n m e => fvCmp (f32Val (optLre d b)) (.fin n m (e + signed 8 (bits d 143 136))) == some .eq
    | _ => false)
/-- The operand ranges of OPT_UPDATE: (address, bytes, written). -/
def optRanges (d b : Nat) : List (Nat × Nat × Bool) :=
  let n := bits d 175 144
  let f := (formatOfTarget (bits b 323 320)).getD .bf16
  let copy := ceilDiv (n * f.width) 8
  let opt := fun (va len : Nat) => if va = 0 then [] else [(va, len, true)]
  [(bits d 223 176, n * (if bit d 135 then 2 else 4), true), (bits d 271 224, n * (if bit d 134 then 2 else 1), false),
   (bits d 319 272, n * 2, true), (bits d 415 368, 128, false)] ++ opt (bits d 367 320) n ++
  (if bits d 367 320 = 0 then [] else [(bits b 527 480, 4 * ceilDiv n 256, true)]) ++ opt (bits d 463 416) 256 ++
  opt (bits b 575 528) copy ++ opt (bits b 623 576) copy
/-- The refusals of OPT_UPDATE at issue (R250), with its update block and the scales it reads (R72); a replay keeps the block as it was
read (R249, R260). DESIGN CHOICE (log entry 63): GRAD_SREC 0 is refused with ST_SCALE, with a BF16 gradient too. -/
def optIssue (cmd : Cmd) (s : Mach) : Res Cmd :=
  if !cmd.aux.isEmpty then .ok { cmd with aux := cmd.aux.take 1 } s
  else
  let d := cmd.desc
  let adamw := bits d 133 130 == 0
  let n := bits d 175 144
  if !zeroFields d [(511, 464), (129, 128)] || bits d 133 130 > 1 || bits d 463 416 % 256 != 0 || bits d 415 368 % 64 != 0 ||
      bits d 367 320 % 256 != 0 || bits d 319 272 % 64 != 0 || bits d 271 224 % 64 != 0 || bits d 223 176 % 256 != 0 ||
      n == 0 || n > 2 ^ 31 || (adamw && bits d 367 320 == 0) || (!adamw && bits d 367 320 != 0) then
    .err (.fatal stShape) s
  else (s.readWord cmd.ctx (bits d 415 368) 128).bind fun b s =>
    let nc := bits b 383 352
    let ww := bits b 575 528
    let wwt := bits b 623 576
    let named := ww != 0 || wwt != 0
    let f := formatOfTarget (bits b 323 320)
    let p := planesOf (f.getD .bf16)
    let rs := optRanges d b
    if !zeroFields b [(1023, 624), (351, 336), (327, 324)] || f.isNone || bits b 527 480 % 4 != 0 ||
        (named && (nc == 0 || n % nc != 0 || (n / nc) % (32 * p) != 0 || nc % (32 * p) != 0)) ||
        (wwt != 0 && p == 1) || !apart (rs.map fun r => (r.1, r.2.1)) then .err (.fatal stShape) s
    else
      let gf : Format := if bit d 134 then .bf16 else .e5m2
      let wf := f.getD .bf16
      let gs := bits b 431 384
      let ws := bits b 479 432
      (cmd.recordClass gs gf s).bind fun _ s =>
      (cmd.recordClass ws wf s).bind fun _ s =>
      (if gs = 0 ∨ gs % 128 ≠ 0 then .ok () s else (s.readRecord cmd.ctx gs).bind fun r s =>
        if recordForm r && bits r 165 164 != 2 then .err (.fatal stShape) s else .ok () s).bind fun _ s =>
      (if ws = 0 ∨ ws % 128 ≠ 0 then .ok () s else (s.readRecord cmd.ctx ws).bind fun r s =>
        if recordForm r && bits r 165 164 != 1 then .err (.fatal stShape) s else .ok () s).bind fun _ s =>
      if !((List.range 8).all fun i => f32IsFin (blkF b (32 * i + 31) (32 * i))) || !f32IsFin (blkF b 287 256) ||
          !f32IsFin (blkF b 319 288) || !optLreOk d b || gs == 0 then .err (.fatal stScale) s
      else
        (cmd.record gs gf s).bind fun gk s =>
        (cmd.record ws wf s).bind fun wk s =>
          .ok { cmd with aux := [b], scales := (gs, gk) :: (if ws = 0 then [] else [(ws, wk)]) } s
/-- The check phase of OPT_UPDATE. -/
def optCheck (cmd : Cmd) (s : Mach) : Res Cmd :=
  (eachRes (fun (r : Nat × Nat × Bool) s =>
    s.checkRange cmd.ctx r.1 r.2.1 (if r.2.2 then .write else .read) false) (optRanges cmd.desc (nth cmd.aux 0)) s).bind
    fun _ s => .ok cmd s

/-- One element of the update (R251, R252): stored master word, stored first moment code, second moment value, and whether
it is non-finite or stalled; `st` is kept for R257. -/
structure OptElem where
  old : Word
  new : Word
  m1 : Nat
  v1 : Word
  bad : Bool
  stalled : Bool
  deriving DecidableEq, Repr
/-- The update of one element (R251 to R253, R257). A st that is NaN is not zero: such an element, which keeps its master, has stalled
(DESIGN CHOICE, log entry 69). -/
def optElem (d b : Nat) (gscale g0 w : Word) (m1c : Nat) (v : Word) : OptElem :=
  let lean := bit d 135
  let g := f32Mul (f32Mul g0 gscale) (blkF b 319 288)
  let m := f32OfBf16 m1c
  let nlre := f32Negate (optLre d b)
  let wd := blkF b 223 192
  let (m1, v1, st) :=
    if bits d 133 130 = 0 then
      let m1 := f32Fma (blkF b 63 32) m (f32Mul (blkF b 95 64) g)
      let v1 := f32Fma (blkF b 127 96) v (f32Mul (blkF b 159 128) (f32Mul g g))
      let den := f32Add (f32Sqrt (f32Mul v1 (blkF b 287 256))) (blkF b 191 160)
      (m1, v1, f32Fma wd w (f32Div (f32Mul m1 (blkF b 255 224)) den))
    else
      let m1 := f32Fma (blkF b 63 32) m g
      (m1, v, f32Fma wd w m1)
  let w1 := f32Fma nlre st w
  -- the BF16 rounding of R50, seen before any saturation
  let overNow := lean && (match f32Val w1 with
    | .fin _ a e => decide (roundMag fmtBf16 a e false > 0x7F7F)
    | _ => false)
  let bad := !f32IsFin g || !f32IsFin m1 || !f32IsFin v1 || !f32IsFin w1 || overNow
  let stored := if lean then f32OfBf16 (toBf16 w1) else w1
  if bad then ⟨w, w, m1c, v, true, !f32IsZero st && f32Eq w w⟩
  else ⟨w, stored, toBf16 m1, v1, false, !f32IsZero st && f32Eq stored w⟩

/-- The elements of image row r of a working copy of a k by n master, in the row's order (R254): in forward or transposed image
order. -/
def imageRow (f : Format) (k n : Nat) (fwd : Bool) (r : Nat) : List Nat :=
  let p := planesOf f
  let wide := 32 * p
  let i := r % 32
  let blk := r / 32
  (List.range wide).map fun e =>
    if fwd then
      let j := k / wide
      -- blk = floor(n/32) · J + floor(k/32P), row i is k mod 32, element (n mod 32) · P + floor((k mod 32P)/32)
      let col := blk / j * 32 + e / p
      let row := blk % j * wide + e % p * 32 + i
      row * n + col
    else
      let sN := n / wide
      (blk / sN * 32 + i) * n + blk % sN * wide + e

/-- The bin of an element's update ratio (R259). -/
def ratioBin (base : Int) (x : OptElem) : Nat :=
  let dl := f32Sub x.new x.old
  if f32IsZero dl then 0
  else if f32IsZero x.old then 15
  else
    let r := f32Div (f32Abs dl) (f32Abs x.old)
    if f32IsInf r then 15 else if f32IsZero r then 0 else (max 0 (min 15 (f32Exp r - base))).toNat
/-- What unit g adds to the statistics of an update (R252, R257 to R259). -/
def optStats (g ctx va : Nat) (base : Int) (xs : List OptElem) (s : Mach) : Res Unit :=
  if va = 0 || xs.isEmpty then .ok () s
  else
    let good := xs.filter fun x => !x.bad
    let sq := (good.map fun x => f32Mul x.old x.old).foldl Comb.term { count := good.length }
    let sd := (good.map fun x => let dl := f32Sub x.new x.old; f32Mul dl dl).foldl Comb.term { count := good.length }
    let bins := good.foldl (fun (h : List Nat) x => let b := ratioBin base x; h.set b (nth h b + 1))
      (List.replicate 16 0)
    let inc := fun (a n : Nat) (s : Mach) => if n = 0 then Res.ok () s else unitAdd g ctx a n s
    (addComb g ctx va sq s).bind fun _ s =>
    (addComb g ctx (va + 64) sd s).bind fun _ s =>
    (eachRes (fun (b : Nat × Nat) s => inc (va + 0x80 + 4 * b.2) b.1 s) bins.zipIdx s).bind fun _ s =>
    (inc (va + 196) (xs.filter fun x => x.bad).length s).bind fun _ s =>
      inc (va + 200) (xs.filter fun x => x.stalled).length s
/-- Elements in a 256-byte granule of masters. -/
def optEpg (d : Nat) : Nat := if bit d 135 then 128 else 64
/-- The update of granule j of the masters by its unit (R251 to R253): its elements, with masters and first moments written. -/
def optGranule (cmd : Cmd) (j : Nat) (s : Mach) : Res (List OptElem) :=
  let d := cmd.desc
  let b := nth cmd.aux 0
  let e := optEpg d * j
  let n := min (optEpg d) (bits d 175 144 - e)
  let lean := bit d 135
  let adamw := bits d 133 130 == 0
  let gf : Format := if bit d 134 then .bf16 else .e5m2
  let gw := gf.width / 8
  let ww := if lean then 2 else 4
  let wva := bits d 223 176 + e * ww
  let mva := bits d 319 272 + 2 * e
  (s.readVa cmd.ctx (bits d 271 224 + e * gw) (n * gw)).bind fun gl s =>
  (s.readVa cmd.ctx wva (n * ww)).bind fun wl s =>
  (s.readVa cmd.ctx mva (n * 2)).bind fun ml s =>
  (if adamw then s.readVa cmd.ctx (bits d 367 320 + e) n else .ok [] s).bind fun vl s =>
  (if adamw then s.readWord cmd.ctx (bits b 527 480 + 4 * (e / 256)) 4 else .ok 0 s).bind fun sc s =>
    let gs := (wordsOf gw gl).map (codeF32 gf)
    let ws := if lean then (wordsOf 2 wl).map f32OfBf16 else (wordsOf 4 wl).map w32
    let ms := wordsOf 2 ml
    let vs := vl.map fun c => l8Decode c.toNat (w32 sc)
    let gk := cmd.scaleOf (bits b 431 384)
    let xs := (List.range n).map fun i =>
      optElem d b gk (gs.getD i 0#32) (ws.getD i 0#32) (nth ms i) (vs.getD i 0#32)
    (s.writeVa cmd.ctx wva (xs.flatMap fun x => if lean then toBytes 2 (toBf16 x.new) else toBytes 4 x.new.toNat)).bind
      fun _ s =>
    (s.writeVa cmd.ctx mva (xs.flatMap fun x => toBytes 2 x.m1)).bind fun _ s => .ok xs s
/-- What the units have forwarded of an update's elements, by element number: v1 and the stored master, plus 1 (R145). -/
def optSeen (cmd : Cmd) : Tab Nat :=
  (cmd.aux.drop 1).foldl (fun t x => tabSet (fun _ => 0) t (x >>> 64) (x % 2 ^ 64 + 1)) []
/-- An element's v1 and stored master, once it has been forwarded. -/
def optGet (t : Tab Nat) (e : Nat) : Option (Word × Word) :=
  match tabGet (fun _ => 0) t e with
  | 0 => none
  | x + 1 => some (w32 (x >>> 32), w32 x)
/-- The unit that holds an L8 block encodes it once it has received the block's values of v1 (R253): of the blocks of `ks`, those of
which every element has been forwarded. -/
def optMoments (cmd : Cmd) (t : Tab Nat) (ks : List Nat) (s : Mach) : Res Unit :=
  let d := cmd.desc
  let b := nth cmd.aux 0
  if bits d 133 130 ≠ 0 then .ok () s
  else eachRes (fun k s =>
    let n := min 256 (bits d 175 144 - 256 * k)
    let vs := (List.range n).filterMap fun i => optGet t (256 * k + i)
    if vs.length < n then .ok () s
    else
      let (scale, codes, _) := l8Encode (vs.map fun x => x.1)
      (s.writeVa cmd.ctx (bits d 367 320 + 256 * k) (codes.map fun c => BitVec.ofNat 8 c)).bind fun _ s =>
        s.writeWord cmd.ctx (bits b 527 480 + 4 * k) 4 scale.toNat) ks s
/-- The quantisation of a stored master for the working copies (R254). -/
def optCode (cmd : Cmd) (w : Word) : Conv :=
  let b := nth cmd.aux 0
  let rec' := bits b 479 432
  if rec' = 0 then { code := toBf16 w }
  else quantise ((formatOfTarget (bits b 323 320)).getD .bf16) true (reciprocal (cmd.scaleOf rec')) w
/-- The image rows of the working copies that elements just forwarded complete are written by the units that hold them (R145, R254);
`new` tells those elements. -/
def optCopies (cmd : Cmd) (t : Tab Nat) (new : Nat → Bool) (s : Mach) : Res Unit :=
  let b := nth cmd.aux 0
  let n := bits cmd.desc 175 144
  let f := (formatOfTarget (bits b 323 320)).getD .bf16
  let nc := bits b 383 352
  eachRes (fun (c : Nat × Bool) s =>
    if c.1 = 0 then .ok () s
    else eachRes (fun r s =>
      let es := imageRow f (n / nc) nc c.2 r
      let ws := es.filterMap fun e => optGet t e
      if !es.any new || ws.length < es.length then .ok () s
      else s.writeVa cmd.ctx (c.1 + 64 * r) (packCodes f (ws.map fun x => (optCode cmd x.2).code)))
      (List.range (n / (32 * planesOf f))) s) [(bits b 575 528, true), (bits b 623 576, false)] s
/-- The measurement of unit g's elements in the working copies' record, once per element (R254). -/
def optMeasure (cmd : Cmd) (g : Nat) (ws : List Word) (s : Mach) : Res Unit :=
  let b := nth cmd.aux 0
  if bits b 575 528 = 0 ∧ bits b 623 576 = 0 ∨ ws.isEmpty then .ok () s
  else
    let conv := ws.map (optCode cmd)
    let ev := (ws.zip conv).foldl (fun a x => a ||| eventBits x.2.sat x.2.flush (f32IsNaN x.1)) 0
    measureRecord (544 + g) cmd.ctx (bits b 479 432) (ws.foldl (fun a w => f32Max a (f32Abs w)) f32NaN)
      (conv.filter fun c => c.sat).length (conv.filter fun c => c.flush).length ev
      (conv.any fun c => codeInfinite ((formatOfTarget (bits b 323 320)).getD .bf16) c.code) s
/-- Unit g's share of OPT_UPDATE (R145): the elements whose masters it holds. Their v1 and stored masters are forwarded, kept in `aux`
till the units that hold the second moments and the working copies have all of a block or of an image row (log entry 47). -/
def optShare (cmd : Cmd) (g : Nat) (s : Mach) : Res Unit :=
  let d := cmd.desc
  let b := nth cmd.aux 0
  let epg := optEpg d
  let mine := (List.range (ceilDiv (bits d 175 144) epg)).filter fun j => s.unitOf cmd (bits d 223 176 + 256 * j) == g
  inPlace ((foldRes (fun (acc : List OptElem × List Nat) j s => (optGranule cmd j s).bind fun xs s =>
      .ok (acc.1 ++ xs, acc.2 ++ xs.zipIdx.map fun x => (epg * j + x.2) <<< 64 ||| x.1.v1.toNat <<< 32 ||| x.1.new.toNat) s)
      ([], []) mine s).bind fun acc s =>
    let cmd' := { cmd with aux := cmd.aux ++ acc.2 }
    let t := optSeen cmd'
    (optMoments cmd t ((mine.map fun j => epg * j / 256).eraseDups) s).bind fun _ s =>
    (optCopies cmd t (fun e => mine.contains (e / epg)) s).bind fun _ s =>
    (optMeasure cmd g (acc.1.map fun x => x.new) s).bind fun _ s =>
    (optStats g cmd.ctx (bits d 463 416) (signed 8 (bits b 335 328)) acc.1 s).bind fun _ s =>
      match s.cmd? cmd.id with
      | some c => .ok () (s.setCmd { c with aux := cmd'.aux })
      | none => .ok () s)

end Sys2Proof.Machine
end

