-- ==== Sys2Proof/Machine/CorePlan.lean ====
section
/-! DEFINITION. Machine/CorePlan.lean: cast plans: phases, work items, the checks at issue
(05_core_tiles_and_fusion.md R113 to R130; 07_convolution.md R166 to R173; 08_attention_and_rollout_tree.md R182, R183,
R185, R197; 09_recurrent_streams.md R213, R215; 10_backward_pass.md R233). -/

namespace Sys2Proof.Machine

/-! ## Phases and items -/

/-- COUNT of the plan a core has loaded. -/
def Mach.planCount (s : Mach) (c : Nat) : Nat := bits (s.planEntry c 0) 13 4
/-- CB_RES and CB_EXP, in 4 KiB units. -/
def Mach.planRes (s : Mach) (c : Nat) : Nat × Nat := (bits (s.planEntry c 0) 91 80, bits (s.planEntry c 0) 107 96)
/-- TUND_VA. -/
def Mach.planTund (s : Mach) (c : Nat) : Nat := bits (s.planEntry c 0) 175 128
/-- KIND of an entry. -/
def eKind (e : Nat) : Nat := bits e 3 0

/-- A phase of a plan: its number, its PHASE entry, the numbers of its body entries. -/
structure Phase where
  no : Nat
  pe : Nat
  first : Nat
  body : List Nat
  deriving DecidableEq, Repr

/-- The phases formed by entries i onward (R117). -/
def phasesFrom (ent : Nat → Nat) : Nat → Nat → Nat → List Phase → List Phase
  | 0, _, _, acc => acc
  | fuel + 1, i, n, acc =>
    if i ≥ n then acc
    else
      let e := ent i
      if eKind e = 6 then phasesFrom ent fuel (i + 1) n (acc ++ [⟨acc.length, e, i, []⟩])
      else
        let acc := match acc.reverse with
          | [] => acc
          | p :: r => (({ p with body := p.body ++ [i] } : Phase) :: r).reverse
        phasesFrom ent fuel (i + 1) n acc
/-- The phases of the plan in a core's scratchpad. -/
def Mach.phases (s : Mach) (c : Nat) : List Phase := phasesFrom (s.planEntry c) 512 3 (s.planCount c) []

/-- FIRST. -/
def Phase.firstItem (p : Phase) : Nat := bits p.pe 71 40
/-- LIMIT. -/
def Phase.limit (p : Phase) : Nat := bits p.pe 103 72
/-- SPAN. -/
def Phase.span (p : Phase) : Nat := bits p.pe 135 104
/-- Whether the phase has one tundish for the whole command: command scope, or items from a length table (R115, R182). -/
def Phase.single (d : Nat) (p : Phase) : Bool := aLt d p.no || !bit p.pe 4
/-- The range of items of a slot's tundish in a phase (R117, R137, R182). -/
def Phase.range (cmd : Cmd) (p : Phase) (slot : Nat) : Nat × Nat :=
  if aLt cmd.desc p.no then (0, ltCount cmd.desc p.no cmd.lt)
  else if p.single cmd.desc then (p.firstItem, p.limit)
  else (min (p.firstItem + slot * p.span) p.limit, min (p.firstItem + (slot + 1) * p.span) p.limit)

/-- Coordinates of a work item: tr, tc, and its length-table place. -/
structure At where
  tr : Nat
  tc : Nat
  lt : Option LtItem
  deriving DecidableEq, Repr
/-- The coordinates of item i of a phase (R117, R183). -/
def Phase.at (cmd : Cmd) (p : Phase) (i : Nat) : At :=
  if aLt cmd.desc p.no then match ltFind cmd.desc p.no cmd.lt 0 i with
    | some x => ⟨x.tr cmd.desc, x.cb, some x⟩
    | none => ⟨0, 0, none⟩
  else ⟨i % gridRows p.pe, i / gridRows p.pe, none⟩

/-! ## Fields of entries -/

/-- Pattern format, streamed format of a TILE entry. -/
def tFmt (e : Nat) : Option Format × Option Format := (formatOfTarget (bits e 27 24), formatOfTarget (bits e 31 28))
/-- Engines named, ascending. -/
def tEngines (e : Nat) : List Nat := (List.range 4).filter fun i => (bits e 15 12).testBit i
/-- Rows and columns of the array in the tile's mode. -/
def tSide (e : Nat) : Nat := if bit e 16 then 16 else 32
/-- Depth K. -/
def tDepth (e : Nat) : Nat := 16 * bits e 80 64
/-- Patterns for a depth (R121). -/
def tPats (e depth : Nat) (f : Format) : Nat := ceilDiv depth (tSide e * planesOf f)
/-- Element width of a VECTOR format code. -/
def vWidth (c : Nat) : Nat := match c with | 0 => 4 | 1 => 2 | _ => 1
/-- Whether a VECTOR operation reads B; FMA also reads D. -/
def vReadsB (op : Nat) : Bool := 1 ≤ op && op ≤ 5

/-! ## EXPAND geometry (R166 to R173) -/

/-- The geometry of an EXPAND entry. -/
structure Geo where
  f : Nat
  w : Nat
  c : Nat
  inH : Nat
  inW : Nat
  kh : Nat
  kw : Nat
  sh : Nat
  sw : Nat
  dh : Nat
  dw : Nat
  padT : Nat
  padL : Nat
  outH : Nat
  outW : Nat
  stripe : Nat
  line : Nat
  pix : Nat
  dst : Nat
  slice : Nat
  rowElems : Nat
  width : Nat
  chMajor : Bool
  deriving DecidableEq, Repr
/-- The geometry of an entry. -/
def geoOf (e : Nat) : Geo :=
  { f := 2 ^ bits e 21 20, w := if bit e 18 then 2 else 1, c := bits e 123 112, inH := bits e 95 80, inW := bits e 111 96,
    kh := bits e 131 128 + 1, kw := bits e 135 132 + 1, sh := bits e 139 136 + 1, sw := bits e 143 140 + 1,
    dh := bits e 159 144 + 1, dw := bits e 175 160 + 1, padT := bits e 191 176, padL := bits e 207 192,
    outH := bits e 223 208, outW := bits e 239 224, stripe := bits e 255 240, line := 16 * bits e 279 256,
    pix := bits e 295 280, dst := 64 * bits e 311 296, slice := bits e 319 312, rowElems := bits e 343 320,
    width := if bit e 24 then 16 else 32, chMajor := bit e 19 }
/-- Rows, columns and channels of the regrouped image. -/
def Geo.h (g : Geo) : Nat := ceilDiv g.inH g.f
/-- Columns of the regrouped image. -/
def Geo.wd (g : Geo) : Nat := ceilDiv g.inW g.f
/-- Channels of the regrouped image. -/
def Geo.ch (g : Geo) : Nat := g.f * g.f * g.c
/-- Elements that R168 places in a row. -/
def Geo.placed (g : Geo) : Nat :=
  if g.slice = 0 then g.kh * g.kw * g.ch else ceilDiv g.ch g.slice * g.width
/-- Output rows of stripe s: the first and the number (R171). -/
def Geo.rows (g : Geo) (s : Nat) : Nat × Nat := (g.stripe * s, min (g.stripe * (s + 1)) g.outH - g.stripe * s)
/-- Regrouped rows the taps of stripe s touch inside the image, ascending (R172). -/
def Geo.touched (g : Geo) (s : Nat) : List Nat :=
  let (o, n) := g.rows s
  (List.range g.h).filter fun iy => (List.range g.kh).any fun i =>
    -- iy = oy · SH − PAD_T + i · DH for some oy of the stripe
    let t : Int := (iy : Int) + g.padT - (i * g.dh : Nat)
    decide (0 ≤ t) && decide (t % g.sh = 0) && decide ((o : Int) ≤ t / g.sh) && decide (t / g.sh < ((o + n : Nat) : Int))
/-- Bytes of a regrouped row in the line stage. -/
def Geo.rowBytes (g : Geo) : Nat := g.f * g.inW * g.c * g.w

/-! ## Byte ranges an entry touches -/

/-- A byte range an entry touches in a space, its alignment, and whether it is written. -/
structure Rng where
  space : Nat
  at' : Int
  len : Nat
  write : Bool
  align : Nat
  deriving DecidableEq, Repr

/-- A corner of a phase at which addresses are checked: tile coordinates, parity, step of a GATED_STEP, and the streamed
rows of a TILE where a length table gives them. -/
structure Corner where
  tr : Nat
  tc : Nat
  w : Nat
  step : Option Nat
  deriving DecidableEq, Repr

/-- The distinct values of a list. -/
def distinct (l : List Nat) : List Nat := l.eraseDups
/-- The corners of a phase: extreme coordinates of its items, both parities where it has two items, first and last
step (R125). The last-but-one row is a corner too, since LAST_M changes the footprint at the last. -/
def Phase.corners (cmd : Cmd) (p : Phase) : List Corner :=
  let d := cmd.desc
  let (trs, tcs, n) :=
    if aLt d p.no then
      let ss := cmd.lt.map seqOf
      let ss := ss.filter fun s => aNq d s * aNc d p.no s > 0
      let lo := ss.head?.map fun s => s.qRow
      let hi := ss.getLast?.map fun s => if isKeySide d then s.qRow else s.qRow + (aNq d s - 1) * aQb d
      ((lo.toList ++ hi.toList), [0, (ss.foldl (fun a s => max a (aNc d p.no s)) 1) - 1], ltCount d p.no cmd.lt)
    else
      let r := gridRows p.pe
      let a := p.firstItem
      let b := p.limit - 1
      let whole := a / r ≠ b / r
      let lo := if whole then 0 else a % r
      let hi := if whole then r - 1 else b % r
      ([lo, hi] ++ (if hi = r - 1 ∧ lo < hi then [hi - 1] else []), [a / r, b / r] ++
        (if b / r = gridCols p.pe - 1 ∧ a / r < b / r then [b / r - 1] else []), p.limit - a)
  let ws := if n ≤ 1 then [0] else [0, 1]
  let steps : List (Option Nat) :=
    if dOp d = 6 ∧ p.no ≥ gPro d then (distinct [0, min 1 (gSteps d - 1), gSteps d - 1, gSteps d - 2]).map some else [none]
  (distinct trs).flatMap fun tr => (distinct tcs).flatMap fun tc => ws.flatMap fun w => steps.map fun st => ⟨tr, tc, w, st⟩

/-- The tile rows tr that the items of a phase reach (R117, R183). -/
def Phase.rows (cmd : Cmd) (p : Phase) : List Nat :=
  if aLt cmd.desc p.no then
    (cmd.lt.flatMap fun e => (List.range (aNq cmd.desc (seqOf e))).map fun q => (seqOf e).qRow + q * aQb cmd.desc).eraseDups
  else
    let r := gridRows p.pe
    if p.limit - p.firstItem ≥ r then List.range r
    else (List.range (p.limit - p.firstItem)).map fun i => (p.firstItem + i) % r
/-- Whether some item of a phase has tr = GRID_ROWS − 1, and whether some has not (R121). -/
def Phase.reachesLast (p : Phase) : Bool × Bool :=
  let r := gridRows p.pe
  let n := p.limit / r - p.firstItem / r
  (n != 0, decide (n < p.limit - p.firstItem))
/-- Every item of a phase, as coordinates. -/
def Phase.items (cmd : Cmd) (p : Phase) : List At :=
  let (a, b) := if aLt cmd.desc p.no then (0, ltCount cmd.desc p.no cmd.lt) else (p.firstItem, p.limit)
  (List.range (b - a)).map fun i => p.at cmd (a + i)
/-- The places at which the addresses of an EXPAND entry are checked: every work item of its phase, at both parities (R173). -/
def Phase.stripes (cmd : Cmd) (p : Phase) : List Corner :=
  let l := p.corners cmd
  (p.items cmd).flatMap fun x => (distinct (l.map fun k => k.w)).flatMap fun w =>
    ((l.map fun k => k.step).eraseDups).map fun t => ⟨x.tr, x.tc, w, t⟩

/-- Rows M a TILE streams at a corner of a phase (R121, R183, R233). -/
def tRowsAt (d : Nat) (p : Phase) (e : Nat) (k : Corner) : Nat :=
  if aLt d p.no then (if isKeySide d then bits e 46 37 + 1 else aQb d)
  else if k.tr = gridRows p.pe - 1 then bits e 220 211 + 1 else bits e 46 37 + 1
/-- The column mask of a TILE at tile column tc. -/
def tMaskAt (d : Nat) (p : Phase) (e tc : Nat) : Nat :=
  if aLt d p.no then bits e 159 128
  else if tc = gridCols p.pe - 1 then bits e 191 160 else bits e 159 128

/-- The generator-relative range of an entry's operand at a corner. -/
def opRng (s : Mach) (cmd : Cmd) (c : Nat) (k : Corner) (g : Nat) (off : Int) (add len : Nat) (write : Bool)
    (align : Nat) : Rng :=
  let a := genAt s cmd c g off k.tr k.tc k.w k.step
  { space := a.1, at' := a.2 + add, len := len, write := write, align := align }

/-- The width in bytes and the operand length of a runner stage over `m` rows of `n` columns. -/
def stageLen (st n m : Nat) : Nat :=
  let arg := st >>> 31
  match bits st 3 0 with
  | 1 => 4
  | 2 => 4 * n
  | 3 => if bits arg 3 0 = 7 then 4 else 0
  | 4 => (m - 1) * bits arg 16 1 * 16 + n * (if arg.testBit 0 then 2 else 4)
  | 5 => 4 * n
  | 6 => 8
  | 7 => 32
  | 8 => 4
  | _ => 0
/-- The output format of a runner program: that of its QUANT stage, FP32 without one. -/
def runOut (sts : List Nat) : Format :=
  match sts.find? fun st => bits st 3 0 == 7 with
  | some st => quantTarget (st >>> 31)
  | none => .fp32

/-- The ranges a TILE entry touches at a corner. -/
def tileRngs (s : Mach) (cmd : Cmd) (c : Nat) (p : Phase) (e : Nat) (k : Corner) : List Rng :=
  let d := cmd.desc
  let n := tSide e
  let m := tRowsAt d p e k
  let pf := (tFmt e).1.getD .bf16
  let sf := (tFmt e).2.getD .bf16
  let pats := max 1 (tPats e (tDepth e) pf)
  let mask := tMaskAt d p e k.tc
  let img := if bit e 16 then 512 else 2048
  let run := bits e 239 230
  let sts := if run = 0 ∨ !bit e 23 then [] else runStages (s.planEntry c run)
  let f := runOut sts
  let rowLen := if f.width < 8 then ceilDiv (n * f.width) 8 else (if mask = 0 then 0 else (mask.log2 + 1) * (f.width / 8))
  let skip := if f.width < 8 then 0
    else (((List.range n).find? fun j => mask.testBit j).getD 0) * (f.width / 8)
  [opRng s cmd c k (bits e 223 221) (signed 24 (bits e 263 240)) 0
      ((m - 1) * bits e 327 312 * 64 + (pats - 1) * bits e 343 328 * 64 + ceilDiv (n * planesOf pf * sf.width) 8) false 64] ++
  ((List.range (tEngines e).length).flatMap fun r =>
    [opRng s cmd c k (bits e 226 224) (signed 24 (bits e 287 264)) (r * bits e 375 360 * 64) (pats * img) false 64] ++
    (if bit e 23 && !(dOp d == 3 && aLt d p.no) then
      [opRng s cmd c k (bits e 229 227) (signed 24 (bits e 311 288)) (r * bits e 391 376 * 16) 0 true 16,
       opRng s cmd c k (bits e 229 227) (signed 24 (bits e 311 288)) (r * bits e 391 376 * 16 + skip)
        (if rowLen = 0 then 0 else (m - 1) * bits e 359 344 * 16 + rowLen - skip) true 1]
    else []) ++
    ((sts.filter fun st => stageLen st n m > 0).map fun st =>
      opRng s cmd c k (bits st 6 4) (signed 24 (bits st 30 7))
        (r * stageRank (bits st 3 0) n (if (st >>> 31).testBit 0 then 2 else 4)) (stageLen st n m) false
        (if bits st 3 0 = 7 then 32 else 1)))

/-- Whether generator g is a page generator of the command (R181, R197). -/
def isPageGen (d g : Nat) : Bool := isAttn (dOp d) && (bits d 456 449).testBit g

/-- The ranges a DMA entry touches at a corner, page-generator sides apart. -/
def dmaRngs (s : Mach) (cmd : Cmd) (c : Nat) (e : Nat) (k : Corner) : List Rng :=
  let rows := bits e 91 80 + 1
  let len := (bits e 103 92 + 1) * 64
  let side := fun (g : Nat) (off : Int) (stride : Nat) (wr : Bool) =>
    if isPageGen cmd.desc g then [] else [opRng s cmd c k g off 0 ((rows - 1) * stride * 64 + len) wr 64]
  side (bits e 14 12) (signed 24 (bits e 55 32)) (bits e 127 104) false ++
    side (bits e 17 15) (signed 24 (bits e 79 56)) (bits e 151 128) true

/-- The ranges a VECTOR entry touches at a corner. -/
def vecRngs (s : Mach) (cmd : Cmd) (c : Nat) (e : Nat) (k : Corner) : List Rng :=
  let op := bits e 17 12
  let n := bits e 127 112 + 1
  let rng := fun (g : Nat) (off : Int) (len : Nat) (wr : Bool) => opRng s cmd c k g off 0 len wr 1
  [rng (bits e 20 18) (signed 24 (bits e 63 40)) (n * 64 * vWidth (bits e 28 27)) false,
   rng (bits e 26 24) (signed 24 (bits e 111 88)) (n * (if op = 0xB then 1 else 64) * vWidth (bits e 32 31)) true] ++
    (if vReadsB op then [rng (bits e 23 21) (signed 24 (bits e 87 64)) (n * 64 * vWidth (bits e 30 29)) false] else [])

/-- The ranges an EXPAND entry touches at a corner. -/
def expRngs (s : Mach) (cmd : Cmd) (c : Nat) (e : Nat) (k : Corner) : List Rng :=
  let g := geoOf e
  let rows := (g.rows k.tr).2 * g.outW
  let t := g.touched k.tr
  let lines := match t with
    | [] => none
    | a :: _ => some (g.f * a, min (g.f * ((t.getLast?).getD a) + g.f) g.inH)
  [opRng s cmd c k (bits e 17 15) (signed 24 (bits e 79 56)) 0
    (if rows = 0 then 0 else (rows - 1) * g.dst + g.rowElems * g.w) true 64] ++
  (match lines with
    | none => [opRng s cmd c k (bits e 14 12) (signed 24 (bits e 55 32)) 0 0 false g.w]
    | some (a, b) => [opRng s cmd c k (bits e 14 12) (signed 24 (bits e 55 32)) (a * g.line)
        ((b - 1 - a) * g.line + (g.inW - 1) * g.pix + g.c * g.w) false g.w])

/-- The ranges an entry touches at a corner. -/
def entryRngs (s : Mach) (cmd : Cmd) (c : Nat) (p : Phase) (e : Nat) (k : Corner) : List Rng :=
  match eKind e with
  | 1 => tileRngs s cmd c p e k
  | 3 => dmaRngs s cmd c e k
  | 4 => vecRngs s cmd c e k
  | 5 => expRngs s cmd c e k
  | _ => []
/-- Rows 7 to 9 of R125 on one range: `part` bytes of the reservation are open to generators. -/
def rngOk (part : Nat) (r : Rng) : Bool :=
  decide (r.at' % r.align = 0) &&
    (r.len == 0 || (match r.space with
      | 0 => true
      | 1 => decide (0 ≤ r.at') && decide (r.at' + r.len ≤ 0x100000) &&
          (!r.write || decide (r.at' + r.len ≤ 0xF0000))
      | _ => decide (0 ≤ r.at') && decide (r.at' + r.len ≤ part)))

/-! ## Checks of entries -/

/-- Row 1 of R125 for a stage of a runner program, and R129's codes. -/
def stageOk (st : Nat) : Bool :=
  let arg := st >>> 31
  match bits st 3 0 with
  | 1 => arg == 0
  | 2 => arg == 0
  | 3 => arg < 8
  | 4 => arg < 2 ^ 17
  | 5 => arg == 0
  | 6 => arg == 0
  | 7 => arg < 32 && (bits arg 3 0 < 7 || bits arg 3 0 == 15)
  | 8 => arg == 0
  | _ => false
/-- R129: at most one QUANT, after it DISCARD stages only. -/
def quantLast : List Nat → Bool
  | [] => true
  | st :: l => (if bits st 3 0 = 7 then l.all fun x => bits x 3 0 == 8 else true) && quantLast l
/-- A RUNNER entry's own fields. -/
def runnerOk (e : Nat) : Bool :=
  let n := bits e 7 4
  bits e 511 488 == 0 && n ≤ 8 && (e >>> (60 * n + 8)) == 0 && (runStages e).all stageOk && quantLast (runStages e)
/-- R129 for the runner program of a draining tile: `int` where the accumulator is I32. -/
def runnerFits (sts : List Nat) (int : Bool) : Bool :=
  let q := sts.find? fun st => bits st 3 0 == 7
  (!int || q.isSome) &&
    (if int && intProgram sts then sts.all intStage
     else match q with
      | some st => quantTarget (st >>> 31) != .i32
      | none => true)

/-- Rows 1 to 5, 10 to 12 of R125, R183, R185 and R215 for a TILE entry. -/
def tileOk (s : Mach) (cmd : Cmd) (c : Nat) (p : Phase) (e : Nat) : Bool :=
  let d := cmd.desc
  let lt := aLt d p.no
  let q := bit e 16
  let side := tSide e
  let ends := p.reachesLast
  let maxM := if lt then (if isKeySide d then bits e 46 37 + 1 else aQb d)
    else max (if ends.2 then bits e 46 37 + 1 else 0) (if ends.1 then bits e 220 211 + 1 else 0)
  let k := tDepth e
  let run := bits e 239 230
  let re := s.planEntry c run
  match tFmt e with
  | (some pf, some sf) =>
    let path := pairPath pf sf
    let int := path == some true
    let sts := if run = 0 then [] else runStages re
    let onDie := fun (g : Nat) => genSpace (s.planGen c g) != 0
    zeroFields e [(511, 488), (210, 192), (95, 81), (47, 47)] && path.isSome && bits e 15 12 != 0 &&
    decide (maxM ≤ (if q then 512 else 1024)) && k != 0 && k % side == 0 &&
    (!q || zeroFields e [(127, 112), (159, 144), (191, 176)]) &&
    decide (bits e 36 32 + ceilDiv maxM side ≤ 32) &&
    (!bit e 21 || (decide (4096 ≤ 256 * bits e 63 48) && !int && dOp d != 6 && dOp d != 7)) &&
    (!(lt && q) || decide (aQb d ≤ 512)) &&
    (lt || decide ((p.limit - 1) / gridRows p.pe * (tEngines e).length + (tEngines e).length - 1 < 32768)) &&
    -- rows and patterns come from on-die memory (R109, R110; log entry 42), and so do the operands of the five stages that R130
    -- names; DESIGN CHOICE (log entry 65): those of SCALE, LEAKY and QUANT may be in any space
    onDie (bits e 223 221) && onDie (bits e 226 224) &&
    (!bit e 23 || sts.all fun st => !([2, 4, 5, 6, 8].contains (bits st 3 0)) || onDie (bits st 6 4)) &&
    (run = 0 || (decide (3 ≤ run) && decide (run < s.planCount c) && eKind re == 2)) &&
    (!bit e 23 || runnerFits sts int) &&
    (bit e 22 == lt) &&
    (!(lt && dOp d == 3) || (bit e 23 && (sts.all fun st => bits st 3 0 != 7))) &&
    (!(lt && dOp d == 5) || (cmd.lt.all fun x =>
      decide ((if isKeySide d then (seqOf x).qLen else (seqOf x).kLen) ≤ 16 * bits e 80 64)))
  | _ => false

/-- Generators an entry names (R197). -/
def namedGens (s : Mach) (cmd : Cmd) (c : Nat) (p : Phase) (e : Nat) : List Nat :=
  match eKind e with
  | 1 =>
    let run := bits e 239 230
    let sts := if run = 0 ∨ !bit e 23 then [] else runStages (s.planEntry c run)
    [bits e 223 221, bits e 226 224] ++
      (if bit e 23 && !(dOp cmd.desc == 3 && aLt cmd.desc p.no) then [bits e 229 227] else []) ++
      ((sts.filter fun st => !(bits st 3 0 == 3 && bits (st >>> 31) 3 0 != 7)).map fun st => bits st 6 4)
  | 3 => [bits e 14 12, bits e 17 15]
  | 4 => [bits e 20 18, bits e 26 24] ++ (if vReadsB (bits e 17 12) then [bits e 23 21] else [])
  | 5 => [bits e 14 12, bits e 17 15]
  | _ => []
/-- R197 for an entry: page generators only in DMA entries of length-table phases, on one side. -/
def pageUseOk (s : Mach) (cmd : Cmd) (c : Nat) (p : Phase) (e : Nat) : Bool :=
  let d := cmd.desc
  let page := (namedGens s cmd c p e).filter fun g => isPageGen d g
  if page.isEmpty then true
  else if eKind e != 3 || !aLt d p.no || page.length != 1 then false
  else
    let src := isPageGen d (bits e 14 12)
    let off := signed 24 (if src then bits e 55 32 else bits e 79 56)
    let len := (bits e 103 92 + 1) * 64
    let stride := bits d 426 416 * 64
    decide (0 ≤ off) && decide (off % 64 = 0) &&
      (cmd.walkers.all fun w => decide (((2 ^ w.tpp - 1) * stride : Nat) + off + (len : Nat) ≤ 65536))
/-- R197 for the page generators themselves. -/
def pageGensOk (s : Mach) (cmd : Cmd) (c : Nat) : Bool :=
  let d := cmd.desc
  (List.range 8).all fun g => !isPageGen d g ||
    (let x := s.planGen c g
     bits d 426 416 != 0 && genSpace x == 0 && bits x 63 50 == 0 && (bits x 95 64 == 0 || bits x 95 64 == 1))

/-- R173 for an EXPAND entry at the tile rows of its phase. -/
def expandOk (s : Mach) (cmd : Cmd) (c : Nat) (p : Phase) (e : Nat) : Bool :=
  let g := geoOf e
  let trs := p.rows cmd
  let cbExp := (s.planRes c).2
  zeroFields e [(511, 344), (127, 124), (31, 25)] && bits e 23 22 < 2 &&
  genSpace (s.planGen c (bits e 17 15)) == 1 &&
  g.c != 0 && g.inW != 0 && g.inH != 0 && g.outW != 0 && g.outH != 0 && g.stripe != 0 &&
  decide (g.c * g.w ≤ g.pix) && (g.pix % g.w == 0 || g.inW == 1) &&
  g.rowElems % g.width == 0 && decide (g.rowElems ≤ 2097152) && decide (g.placed ≤ g.rowElems) &&
  decide (g.rowElems * g.w ≤ g.dst) &&
  (g.slice == 0 || (g.chMajor && decide (g.slice * g.kh * g.kw ≤ g.width))) &&
  decide (g.ch ≤ 65535) && (trs.all fun t => decide (g.stripe * t < g.outH)) &&
  (trs.all fun t => decide ((g.touched t).length * g.rowBytes ≤ 32768 + cbExp * 256))

/-- Row 1 of R125: the WAIT field of entry i names entries of its phase that issue work. -/
def waitOk (s : Mach) (c : Nat) (p : Phase) (i e : Nat) : Bool :=
  (List.range 8).all fun b => !(bits e 11 4).testBit b ||
    (decide (p.first + b + 1 < i) && eKind (s.planEntry c (i - (b + 1))) != 2)

/-- The checks of one body entry but for its addresses. DESIGN CHOICE (log entry 66): a DMA entry with the hint LAST and LAST_COUNT 0
is refused by row 1. -/
def entryOk (s : Mach) (cmd : Cmd) (c : Nat) (p : Phase) (i : Nat) : Bool :=
  let e := s.planEntry c i
  pageUseOk s cmd c p e &&
  (match eKind e with
    | 1 => waitOk s c p i e && tileOk s cmd c p e
    | 2 => runnerOk e
    | 3 => waitOk s c p i e && zeroFields e [(511, 152), (31, 28)] && bits e 19 18 != 3 &&
        (bits e 19 18 != 2 || bits e 27 20 != 0) &&
        !(genSpace (s.planGen c (bits e 14 12)) == 0 && genSpace (s.planGen c (bits e 17 15)) == 0)
    | 4 => waitOk s c p i e && zeroFields e [(511, 160), (39, 33)] && decide (1 ≤ bits e 17 12) &&
        decide (bits e 17 12 ≤ 0xB) && decide (bits e 32 31 < 2)
    | 5 => waitOk s c p i e && expandOk s cmd c p e
    | _ => false)

/-- Rows 1 and 6 of R125 and R182 for a PHASE entry. -/
def phaseOk (cmd : Cmd) (p : Phase) : Bool :=
  if aLt cmd.desc p.no then
    zeroFields p.pe [(511, 136), (39, 39), (7, 7), (135, 8), (6, 4)] && decide (ltCount cmd.desc p.no cmd.lt < 65536)
  else zeroFields p.pe [(511, 136), (39, 39), (7, 5)] && decide (p.limit ≤ gridRows p.pe * gridCols p.pe) &&
    decide (p.firstItem < p.limit) && !(bit p.pe 4 && p.span == 0)

/-- What R115 checks of the header before anything else is loaded: COUNT, CONST_LEN, the alignment of TUND_VA and
CONST_VA. -/
def headerFits (h : Nat) : Bool :=
  decide (4 ≤ bits h 13 4) && decide (bits h 13 4 ≤ 512) && decide (bits h 73 64 ≤ 512) && bits h 175 128 % 256 == 0 &&
    bits h 63 16 % 64 == 0
/-- The header by row 1 of R125. -/
def headerOk (h : Nat) : Bool :=
  zeroFields h [(511, 176), (127, 108), (95, 92), (79, 74), (15, 14), (3, 0)] && headerFits h

/-- The regions of a GATED_STEP in its reservation (R213): gates, state image, copies of h. -/
def gRegions (d : Nat) : List (Nat × Nat) :=
  let n := gStr d * gH d
  [(bits d 439 429 * 4096, cellGates (bits d 409 406) * n * 4), (bits d 450 440 * 4096, cellVecs (bits d 409 406) * n * 4),
   (bits d 461 451 * 4096, 2 * n * 2)]
/-- Whether byte ranges do not overlap. -/
def disjointRngs : List (Nat × Nat) → Bool
  | [] => true
  | (a, n) :: l => (l.all fun x => decide (a + n ≤ x.1) || decide (x.1 + x.2 ≤ a)) && disjointRngs l

/-- Rows 1 to 12 of R125 with R173, R182, R183, R185, R197, R215 and R233: whether the loaded plan passes every check
whose code is ST_SHAPE, quantise blocks and records apart. -/
def planShape (s : Mach) (cmd : Cmd) (c : Nat) : Bool :=
  let n := s.planCount c
  let ps := s.phases c
  let (res, exp) := s.planRes c
  let part := (res - exp) * 4096
  headerOk (s.planEntry c 0) &&
  ((List.range 8).all fun g =>
    let x := s.planGen c g
    genSpace x != 3 && (genSpace x == 0 || bits x 47 23 == 0)) &&
  eKind (s.planEntry c 3) == 6 && decide (ps.length ≤ 16) && decide (n ≤ 512) &&
  pageGensOk s cmd c &&
  (ps.all fun p => phaseOk cmd p && p.body.all fun i => entryOk s cmd c p i) &&
  decide (res ≤ 2048) && decide (exp ≤ res) &&
  (ps.all fun p =>
    p.body.all fun i =>
      let e := s.planEntry c i
      (if eKind e = 5 then p.stripes cmd else p.corners cmd).all fun k => (entryRngs s cmd c p e k).all (rngOk part)) &&
  (dOp cmd.desc != 6 || (decide (gPro cmd.desc < ps.length) && disjointRngs (gRegions cmd.desc) &&
    (gRegions cmd.desc).all fun r => decide (r.1 + r.2 ≤ part)))

/-! ## Quantise blocks and records (rows 11 and 13) -/

/-- The addresses of the quantise blocks of a QUANT stage over every item, parity and step of its phase. -/
def blockAddrs (s : Mach) (cmd : Cmd) (c : Nat) (p : Phase) (st : Nat) : List (Nat × Nat) :=
  let steps : List (Option Nat) :=
    if dOp cmd.desc = 6 ∧ p.no ≥ gPro cmd.desc then (List.range (gSteps cmd.desc)).map some else [none]
  ((p.items cmd).flatMap fun x => (if (p.items cmd).length ≤ 1 then [0] else [0, 1]).flatMap fun w => steps.map fun t =>
    let a := genAt s cmd c (bits st 6 4) (signed 24 (bits st 30 7)) x.tr x.tc w t
    inSpace a.1 a.2).eraseDups

/-- A tensor a plan names a record for: the record's address and the format. -/
abbrev Named := Nat × Format

/-- The tensors of one TILE entry, quantise blocks read: reserved bits or a misaligned block are ST_SHAPE. -/
def tileRecords (cmd : Cmd) (c : Nat) (p : Phase) (e : Nat) (s : Mach) : Res (List Named) :=
  let own := match tFmt e with
    | (some pf, some sf) => [(bits e 487 440, sf), (bits e 439 392, pf)]
    | _ => []
  let run := bits e 239 230
  let qs := if run = 0 ∨ !bit e 23 then [] else (runStages (s.planEntry c run)).filter fun st => bits st 3 0 == 7
  foldRes (fun (acc : List Named) (x : Nat × (Nat × Nat)) s =>
    if x.2.2 % 32 ≠ 0 then .err (.fatal stShape) s
    else (s.coreRead c cmd.ctx cmd.id x.2 32).bind fun l s =>
      let b := ofBytes l
      if zeroFields b [(255, 144), (127, 102), (63, 48)] then .ok (acc ++ [(bits b 47 0, quantTarget (x.1 >>> 31))]) s
      else .err (.fatal stShape) s)
    own (qs.flatMap fun st => (blockAddrs s cmd c p st).map fun a => (st, a)) s

/-- A step of core c that reads the record of a tensor, with the translations of its cache (R112). -/
def viaRecord {α : Type} (cmd : Cmd) (c va : Nat) (f : Format) (g : Mach → Res α) (s : Mach) : Res α :=
  if va = 0 ∨ va % 128 ≠ 0 ∨ !f.mayRecord ∨ cmd.scales.any (fun x => x.1 == va) then g s
  else s.viaCache c cmd.ctx va 128 .read g
/-- Row 13 of R125 with R75: the scales each record gives, read once (R72). -/
def planRecords (cmd : Cmd) (c : Nat) (s : Mach) : Res (List (Nat × Word)) :=
  let tiles := (s.phases c).flatMap fun p => (p.body.filter fun i => eKind (s.planEntry c i) == 1).map fun i => (p, i)
  (foldRes (fun (acc : List Named) (x : Phase × Nat) s =>
    (tileRecords cmd c x.1 (s.planEntry c x.2) s).bind fun l s => .ok (acc ++ l) s) [] tiles s).bind fun named s =>
  let named := named.eraseDups
  (eachRes (fun (x : Named) s => viaRecord cmd c x.1 x.2 (cmd.recordClass x.1 x.2) s) named s).bind fun _ s =>
  (foldRes (fun (acc : List (Nat × Word)) (x : Named) s => (viaRecord cmd c x.1 x.2 (cmd.record x.1 x.2) s).bind fun w s =>
    .ok (if x.1 = 0 ∨ acc.any (fun y => y.1 == x.1) then acc else acc ++ [(x.1, w)]) s) cmd.scales named s).bind fun scales s =>
  let cmd' := { cmd with scales := scales }
  let factorsOk := tiles.all fun x =>
    let e := s.planEntry c x.2
    match tFmt e with
    | (some pf, some sf) => f32Normal (combinedFactor pf sf (cmd'.scaleOf (bits e 487 440)) (cmd'.scaleOf (bits e 439 392)))
    | _ => true
  if factorsOk then .ok scales s else .err (.fatal stScale) s

/-- The checks of R125 on the plan a core has loaded: the scales of the records it names. -/
def checkPlan (cmd : Cmd) (c : Nat) (s : Mach) : Res (List (Nat × Word)) :=
  if planShape s cmd c then planRecords cmd c s else .err (.fatal stShape) s

end Sys2Proof.Machine
end

