-- ==== Sys2Proof/Machine/CoreUnits.lean ====
section
/-! DEFINITION. Machine/CoreUnits.lean: cores at work: joining, claiming, the entries of a work item, transactions,
retiring and barriers (05_core_tiles_and_fusion.md R111, R112, R115 to R124, R132 to R137; 07 R166 to R174;
08 R183 to R185, R197, R198; 09 R214). -/

namespace Sys2Proof.Machine

/-! ## Joining -/

/-- The command a core works on. -/
def Mach.coreCmd (s : Mach) (c : Nat) : Option Cmd := ((s.core c).cmd).bind fun id => s.cmd? id
/-- Whether a core can join a command. -/
def Mach.coreFree (s : Mach) (c : Nat) : Bool :=
  !(s.core c).fenced && !(s.core c).closing && (s.core c).cmd.isNone && !(s.cluster (c / 16)).fenced
/-- A slot of a command that a core of a cluster may join: admitted there, with room for a core (R335), one without a core
where `first`; a GATED_STEP takes no core once its state load has begun (09 R214). -/
def joinable (cl : Nat) (first : Bool) (x : Cmd) : Option (Nat × Slot) :=
  if x.st = .running ∧ (dOp x.desc ≠ 6 ∨ !x.loaded) then
    (x.slots.zipIdx.find? fun p => p.1.cluster == cl && p.1.admitted && p.1.cores.length < dCores x.desc &&
      (!first || p.1.cores.isEmpty)).map fun p => (p.2, p.1)
  else none
/-- Slots granted on a cluster that no core has joined yet. -/
def Mach.coreless (s : Mach) (cl : Nat) : Nat :=
  (s.cmds.flatMap fun x => if x.st = .running then x.slots.filter fun p => p.cluster == cl && p.cores.isEmpty else []).length
/-- Cores of a cluster that are free. -/
def Mach.freeCores (s : Mach) (cl : Nat) : Nat := ((List.range 16).filter fun i => s.coreFree (16 * cl + i)).length
/-- Replaces slot i of a command. -/
def Cmd.setSlot (c : Cmd) (i : Nat) (x : Slot) : Cmd := { c with slots := c.slots.set i x }

/-- Writes the tundish of one phase and slot (R134, R137): NEXT, LIMIT, RETIRED, TOTAL, RET_COUNT. -/
def initTundish (cmd : Cmd) (tund : Nat) (p : Phase) (slot : Nat) (s : Mach) : Res Unit :=
  let (a, b) := p.range cmd slot
  s.writeVa cmd.ctx (tund + (32 * p.no + slot) * 256)
    (toBytes 4 a ++ toBytes 4 b ++ toBytes 4 0 ++ toBytes 4 (b - a) ++ [0#8])
/-- Writes every tundish of some phases of a command (R137). -/
def initTundishes (cmd : Cmd) (c : Nat) (ps : List Phase) (s : Mach) : Res Unit :=
  eachRes (fun p s =>
    eachRes (fun i s => initTundish cmd (s.planTund c) p i s)
      (if p.single cmd.desc then [0] else List.range cmd.slots.length) s) ps s

/-- Whether a phase's barrier lets a slot go on to the next phase (R118). -/
def gateOpen (cmd : Cmd) (ps : List Phase) (slot p : Nat) : Bool :=
  match p with
  | 0 => true
  | q + 1 =>
    let single := fun (i : Nat) => match ps[i]? with
      | some x => x.single cmd.desc
      | none => true
    if !single q && !single (q + 1) then
      match cmd.slots[slot]? with
      | some sl => decide (q + 1 ≤ sl.barriers)
      | none => false
    else cmd.slots.all fun sl => decide (q + 1 ≤ sl.barriers)
/-- Slots whose range of their phase is empty reach its barrier at once (R137). -/
def passEmpty : Nat → Cmd → List Phase → Cmd
  | 0, c, _ => c
  | fuel + 1, c, ps =>
    let next := { c with slots := (c.slots.zipIdx.map fun x => match ps[x.1.barriers]? with
      | some p =>
        let r := p.range c x.2
        if gateOpen c ps x.2 x.1.barriers && r.2 ≤ r.1 then { x.1 with barriers := x.1.barriers + 1 } else x.1
      | none => x.1) }
    if next.slots = c.slots then c else passEmpty fuel next ps
/-- The tundishes of some phases of a command are written (R137), and the slots with nothing to do pass their phases. -/
def startPhases (cmd : Cmd) (c : Nat) (ps : List Phase) (s : Mach) : Res Unit :=
  (initTundishes cmd c ps s).bind fun _ s =>
    .ok () (match s.cmd? cmd.id with
      | some x => s.setCmd (passEmpty 1024 x (s.phases c))
      | none => s)

/-- The load of a core's plan and constants (R115), its engines' slots emptied (04 R89), the check, and for the first core
the command's tundishes. -/
def loadPlan (cmd : Cmd) (c : Nat) (s : Mach) : Res Unit :=
  let read := fun (va n : Nat) (s : Mach) => s.coreRead c cmd.ctx cmd.id (0, va) n
  let va := bits (dPlan cmd.desc) 47 0
  if !zeroFields (dPlan cmd.desc) [(5, 0), (63, 48)] then .err (.fatal stShape) s
  else (read va 64 s).bind fun h s =>
    if !headerFits (ofBytes h) then .err (.fatal stShape) s
    else (read va (64 * bits (ofBytes h) 13 4) s).bind fun l s =>
      (read (bits (ofBytes h) 63 16) (64 * bits (ofBytes h) 73 64) s).bind fun k s =>
        let s := (s.scrPut c 0xF0000 l).scrPut c 0xF8000 k
        (checkPlan cmd c s).bind fun scales s =>
          let s := s.setCmd { cmd with planned := true, scales := scales }
          if cmd.planned then .ok () s
          else startPhases { cmd with planned := true, scales := scales } c (s.phases c) s

/-- An engine whose slots are empty (04 R89): no tags, no values, no sums of the checks. -/
def Engine.emptied (en : Engine) : Engine :=
  { en with tags := [], q := tabMap (fun _ => {}) (fun _ (q : Quarter) =>
      { q with intSlots := [], rowY := [], rowG := [], rowS := [], rowN := [], colY := [], colG := [], strSum := [], strAbs := [] }) en.q }
/-- The slots of the engines of core c become empty: they read as +0 (04 R89). -/
def Mach.emptySlots (s : Mach) (c : Nat) : Mach :=
  let s := { s with acc := s.acc.filter fun p => p.1 / 32768 / 4 != c,
                    accAdds := s.accAdds.filter fun p => p.1 / 32768 / 4 != c }
  each (fun e s => s.setEng (4 * c + e) (s.eng (4 * c + e)).emptied) (List.range 4) s
/-- Core c takes its place in slot i of a command (R115, R335): it starts afresh, its engines' slots emptied (04 R89), and the
slot counts it. -/
def joinAs (s : Mach) (c : Nat) (cmd : Cmd) (i : Nat) (sl : Slot) : Cmd × Mach :=
  let old := s.core c
  let s := s.setCore c { old with cmd := some cmd.id, slot := i, place := sl.place, phase := 0, items := [],
                                  claimed := 0, empty := false, returned := false, report := false, trans := [],
                                  slotsFree := old.slotsFree + old.slotsHeld, xctx := cmd.ctx, xlate := if old.xctx = cmd.ctx then old.xlate else [],
                                  idleCycles := 0 }
  let s := s.emptySlots c
  let cmd := cmd.setSlot i { sl with cores := sl.cores ++ [c] }
  (cmd, s.setCmd cmd)
/-- The slot a free core joins (R335): the oldest without a core, so that every slot has at least one; else, where a free core
is left for each of those still to be admitted, the oldest with room (log entry 44). -/
def Mach.joinSlot (s : Mach) (cl : Nat) : Option (Cmd × Nat × Slot) :=
  let pick := fun (first : Bool) => s.cmds.findSome? fun x => (joinable cl first x).map fun p => (x, p)
  match pick true with
  | some p => some p
  | none => if s.coreless cl < s.freeCores cl then pick false else none
/-- A core that falls free joins a command with room (R115, R335), no freeze lasting (17 R416). -/
def joinCore (s : Mach) (c : Nat) : Mach :=
  if !s.coreFree c || s.frozen then s
  else
    match s.joinSlot (c / 16) with
    | none => s
    | some (cmd, i, sl) =>
      let (cmd, s1) := joinAs s c cmd i sl
      s.settle cmd.id c 3 (loadPlan cmd c s1)
/-- CORE_JOIN (R115). -/
def execCoreJoin (c : CoreNo) (s : State) : Host.Outcome State Fault Refusal := .next { s with m := joinCore s.m c.toNat }

/-! ## Claims -/

/-- The phase a slot works on: the first whose barrier it has not reached, once its gate is open. -/
def slotPhase (cmd : Cmd) (ps : List Phase) (slot : Nat) : Option Phase :=
  match cmd.slots[slot]? with
  | none => none
  | some sl => match ps[sl.barriers]? with
    | some p => if gateOpen cmd ps slot sl.barriers then some p else none
    | none => none

/-- The tundish of a slot in a phase. -/
def tundVa (s : Mach) (c : Nat) (cmd : Cmd) (p : Phase) (slot : Nat) : Nat :=
  s.planTund c + (32 * p.no + (if p.single cmd.desc then 0 else slot)) * 256

/-- CLAIM on a tundish granule (R135): the new granule and the index, none for EMPTY. -/
def tundClaim (g : Nat) : Nat × Option Nat :=
  let rc := bits g 135 128
  if rc > 0 then (setBits g 135 128 (rc - 1), some (bits g (32 * (rc - 1) + 287) (32 * (rc - 1) + 256)))
  else
    let n := bits g 31 0
    if n < bits g 63 32 then (setBits g 31 0 (n + 1), some n) else (g, none)
/-- RETURN(i) (R135): the new granule, none where it is refused. -/
def tundReturn (g i : Nat) : Option Nat :=
  let rc := bits g 135 128
  if rc < 56 then some (setBits (setBits g (32 * rc + 287) (32 * rc + 256) i) 135 128 (rc + 1)) else none
/-- RETIRE (R135): the new granule and DONE. -/
def tundRetire (g : Nat) : Nat × Bool :=
  let r := (bits g 95 64 + 1) % 2 ^ 32
  (setBits g 95 64 r, r == bits g 127 96)

/-- A tundish operation made for core c, executed by its slice's atomic unit under a credit (R135; 06 R162, R164). -/
def tundAtomic (s : Mach) (c ctx va : Nat) (f : Nat → Nat) : Res Nat :=
  s.viaCache c ctx va 1 .write fun s => s.atomic c ctx va 256 f true false

/-- The rank of a core among the joined cores of a GATED_STEP. -/
def coreRank (cmd : Cmd) (c : Nat) : Nat := (cmd.fixed.findIdx? fun x => x == c).getD 0

/-- A core claims a work item (R118, R119, R135, R136; a GATED_STEP's items are handed out by rank, 09 R214); a freeze allows no
claim (17 R416). -/
def claimItem (s : Mach) (c : Nat) : Mach :=
  match s.coreCmd c with
  | none => s
  | some cmd =>
    let k := s.core c
    let ps := s.phases c
    if s.frozen ∨ cmd.st ≠ .running ∨ !cmd.planned ∨ k.fenced ∨ k.items.length ≥ 2 ∨ (dOp cmd.desc = 6 ∧ !cmd.loaded) then s
    else match slotPhase cmd ps k.slot with
      | none => s
      | some p =>
        let k := if k.phase = p.no then k
          else { k with phase := p.no, claimed := 0, empty := false, returned := false }
        if k.empty && !k.returned then s
        else
          let take := fun (k : CoreSt) (i : Nat) (s : Mach) =>
            let skip := match (p.at cmd i).lt with
              | some x => (bits cmd.desc 504 489).testBit p.no && x.masked cmd.desc
              | none => false
            let s := if skip then s.bump (clReg (c / 16) 0x20) 1 else s
            s.setCore c { k with items := k.items ++ [({ index := i, parity := k.claimed % 2, skip := skip } : Item)],
                                 claimed := k.claimed + 1, empty := false, returned := false }
          if dOp cmd.desc = 6 then
            let (a, b) := p.range cmd k.slot
            let j := cmd.fixed.length
            let i := roundUp (a - coreRank cmd c) j + coreRank cmd c + k.claimed * j
            if i < b then take k i s else s.setCore c { k with empty := true }
          else
            s.settle cmd.id c 0 <| (tundAtomic s c cmd.ctx (tundVa s c cmd p k.slot) fun g => (tundClaim g).1).bind fun g s =>
              let k := { k with xlate := (s.core c).xlate }
              match (tundClaim g).2 with
              | some i => .ok () (take k i s)
              | none => .ok () (s.setCore c { k with empty := true, returned := false })
/-- CLAIM (R135). -/
def execClaim (c : CoreNo) (s : State) : Host.Outcome State Fault Refusal := .next { s with m := claimItem s.m c.toNat }
/-- RECLAIM_AFTER_RETURN (R136): a core that received EMPTY claims again once a RETURN was made to its tundish. -/
def reclaim (s : Mach) (c : Nat) : Mach := if (s.core c).empty && (s.core c).returned then claimItem s c else s
/-- RECLAIM_AFTER_RETURN. -/
def execReclaimAfterReturn (c : CoreNo) (s : State) : Host.Outcome State Fault Refusal :=
  .next { s with m := reclaim s.m c.toNat }

/-- The cores of a command that wait after EMPTY on the tundish of a phase and slot may claim again (R136). -/
def wakeCores (s : Mach) (cmd : Cmd) (p : Phase) (slot : Nat) : Mach :=
  { s with cores := tabMap (fun _ => {}) (fun _ (x : CoreSt) =>
    if x.cmd == some cmd.id && x.empty && x.phase == p.no && (p.single cmd.desc || x.slot == slot) then { x with returned := true }
    else x) s.cores }
/-- RETURN of an index that a core claimed, by its cluster's command processor (R135, R136), no freeze lasting (17 R416). -/
def returnIndex (s : Mach) (c i : Nat) : Mach :=
  match s.coreCmd c with
  | none => s
  | some cmd =>
    let k := s.core c
    match (s.phases c)[k.phase]? with
    | none => s
    | some p =>
      if s.frozen ∨ dOp cmd.desc = 6 ∨ !(k.items.any fun x => x.index == i) then s
      else s.settle cmd.id (512 + c / 16) (16 + c % 16) <|
        (s.atomic (512 + c / 16) cmd.ctx (tundVa s c cmd p k.slot) 256 (fun g => (tundReturn g i).getD g) true false).bind
        fun g s => match tundReturn g i with
          | none => .ok () s
          | some _ =>
            let k := s.core c
            let s := s.setCore c { k with items := k.items.filter fun x => x.index != i }
            .ok () (wakeCores (s.bump (clReg (c / 16) 0x1C) 1) cmd p k.slot)
/-- A fenced core whose gate has closed leaves its command once its claims are returned (R136); a GATED_STEP's are not
(09 R214). A stopped command whose last entries in flight it had ends its execution (13 R320). -/
def leaveFenced (s : Mach) (c : Nat) : Mach :=
  let k := s.core c
  if !k.shut || (!k.items.isEmpty && (s.coreCmd c).any fun x => dOp x.desc != 6) then s
  else
    let s := match s.coreCmd c with
      | some x =>
        let slots' := x.slots.map fun (y : Slot) => ({ y with cores := y.cores.filter fun z => z != c } : Slot)
        s.setCmd { x with slots := slots' }
      | none => s
    let s := s.setCore c { s.core c with
      shut := false, cmd := none, slot := 0, place := 0, phase := 0, items := [], claimed := 0, empty := false, returned := false,
      report := false, trans := [], slotsFree := k.slotsFree + k.slotsHeld }
    match k.cmd with
    | some id => s.endStop id
    | none => s
/-- RETURN (R135, R136): the cluster's command processor returns an index a fenced core held, once the fence gate has
closed. -/
def execTundishReturn (c : CoreNo) (i : Word) (s : State) : Host.Outcome State Fault Refusal :=
  .next { s with m := if (s.m.core c.toNat).shut then leaveFenced (returnIndex s.m c.toNat i.toNat) c.toNat else s.m }

/-! ## Retiring and barriers -/

/-- Whether every entry of a work item has completed (R120). -/
def itemDone (s : Mach) (c : Nat) (p : Phase) (x : Item) : Bool :=
  x.skip || (p.body.filter fun i => eKind (s.planEntry c i) != 2).all fun i =>
    x.entries.any fun e => e.no == i && e.done
/-- The retirement of an item: RETIRE on its tundish; DONE is kept until it is reported (R135, R136). -/
def retireItem (s : Mach) (c n : Nat) : Mach :=
  match s.coreCmd c with
  | none => s
  | some cmd =>
    let k := s.core c
    match k.items[n]?, (s.phases c)[k.phase]? with
    | some x, some p =>
      if cmd.st ≠ .running ∨ k.fenced ∨ !itemDone s c p x then s
      else s.settle cmd.id c 0 <|
        (tundAtomic s c cmd.ctx (tundVa s c cmd p k.slot) fun g => (tundRetire g).1).bind fun g s =>
        let s := s.setCore c { s.core c with items := k.items.eraseIdx n, report := k.report || (tundRetire g).2,
                                             idleCycles := 0 }
        .ok () ((s.bump (coreReg c 0x18) 1))
    | _, _ => s
/-- WORK_ITEM_RETIRE (R120). -/
def execWorkItemRetire (c : CoreNo) (item : Bool) (s : State) : Host.Outcome State Fault Refusal :=
  .next { s with m := retireItem s.m c.toNat (b2n item) }
/-- RETIRE (R135) of the oldest item of a core whose entries have completed. -/
def execTundishRetire (c : CoreNo) (s : State) : Host.Outcome State Fault Refusal :=
  .next { s with m := retireItem s.m c.toNat 0 }

/-- The barrier of a phase is reached (R118, R136): for the slot, or for every slot where the phase has one tundish. -/
def reachBarrier (cmd : Cmd) (ps : List Phase) (p : Phase) (slot : Nat) : Cmd :=
  let up := fun (x : Slot) => if x.barriers = p.no then { x with barriers := p.no + 1 } else x
  let c := if p.single cmd.desc then { cmd with slots := cmd.slots.map up }
    else { cmd with slots := cmd.slots.zipIdx.map fun x => if x.2 = slot then up x.1 else x.1 }
  passEmpty 1024 c ps
/-- The report of DONE by a core, where it has one to make (R136). -/
def reportDone (s : Mach) (c : Nat) : Mach :=
  match s.coreCmd c with
  | none => s
  | some cmd => match (s.phases c)[(s.core c).phase]? with
    | some p =>
      if (s.core c).report then
        (s.setCore c { s.core c with report := false }).setCmd (reachBarrier cmd (s.phases c) p (s.core c).slot)
      else s
    | none => s
/-- PHASE_BARRIER (R136): the core whose RETIRE returned DONE reports the barrier. -/
def phaseBarrier (s : Mach) (c : Nat) : Mach :=
  match s.coreCmd c with
  | none => s
  | some cmd =>
    let k := s.core c
    let ps := s.phases c
    match ps[k.phase]? with
    | some _ =>
      if k.fenced then s
      else if k.report then reportDone s c
      else
        -- a slot with nothing to do in its phases passes them
        s.setCmd (passEmpty 1024 cmd ps)
    | none => s
/-- PHASE_BARRIER. -/
def execPhaseBarrier (c : CoreNo) (s : State) : Host.Outcome State Fault Refusal :=
  .next { s with m := phaseBarrier s.m c.toNat }

/-! ## Entries -/

/-- Whether the unit of an entry is free (R119): the DMA engine and the expander, which holds its stage till then (07 R174), have one
entry in hand at a time; the tile sequencer and the vector unit are through with theirs at their issue. -/
def unitFree (s : Mach) (k : CoreSt) (c e : Nat) : Bool :=
  eKind e == 1 || k.items.all fun y => y.entries.all fun z => z.done || eKind (s.planEntry c z.no) != eKind e
/-- Whether entry i of item n of a core may issue (R119): not yet issued, its unit free, the entries its WAIT names complete, its
unit's earlier entries issued in this item and its own in the older item. -/
def entryReady (s : Mach) (c : Nat) (p : Phase) (n i : Nat) : Bool :=
  let k := s.core c
  let e := s.planEntry c i
  match k.items[n]? with
  | none => false
  | some x =>
    let issued := fun (y : Item) (j : Nat) => y.entries.any fun e => e.no == j
    let same := p.body.filter fun j => eKind (s.planEntry c j) == eKind e
    p.body.contains i && !x.skip && !issued x i && unitFree s k c e &&
    ((List.range 8).all fun b => !(bits e 11 4).testBit b || x.entries.any fun y => y.no == i - (b + 1) && y.done) &&
    (same.all fun j => !decide (j < i) || issued x j) &&
    (n == 0 || (match k.items[0]? with
      | some y => y.skip || same.all fun j => issued y j
      | none => true))
/-- Records the issue of an entry with the work it has left. -/
def addEntry (s : Mach) (c n i tiles : Nat) (done : Bool) : Mach :=
  let k := s.core c
  match k.items[n]? with
  | none => s
  | some x =>
    let y : Item := { x with entries := x.entries ++ [⟨i, 0, tiles, done⟩] }
    s.setCore c { k with items := k.items.set n y, idleCycles := if done then 0 else k.idleCycles }
/-- Marks an entry complete where nothing of it is outstanding. -/
def finishEntry (s : Mach) (c n i : Nat) : Mach :=
  let k := s.core c
  match k.items[n]? with
  | none => s
  | some x =>
    let upd := fun (e : Entry) => if e.no == i then { e with done := e.left == 0 && e.tiles == 0 } else e
    let y : Item := { x with entries := x.entries.map upd }
    s.setCore c { k with items := k.items.set n y }

/-- Runs an entry of one KIND of item n, where it is that entry's turn. -/
def runEntry (s : Mach) (c n i kind : Nat) (f : Cmd → Phase → Item → Nat → Mach → Res Unit) : Mach :=
  match s.coreCmd c with
  | none => s
  | some cmd =>
    let k := s.core c
    match (s.phases c)[k.phase]?, k.items[n]? with
    | some p, some x =>
      let e := s.planEntry c i
      if cmd.st ≠ .running ∨ k.fenced ∨ eKind e ≠ kind ∨ !entryReady s c p n i then s
      else s.settle cmd.id c (256 + 512 * x.parity + i) (f cmd p x e s)
    | _, _ => s
/-- The step term of a command's addresses in a phase (09 R213). -/
def stepOf (cmd : Cmd) (p : Phase) : Option Nat :=
  if dOp cmd.desc = 6 ∧ p.no ≥ gPro cmd.desc then some cmd.step else none
/-- An operand address of an entry for a work item (R116). -/
def itemAddr (s : Mach) (cmd : Cmd) (c : Nat) (p : Phase) (x : Item) (g : Nat) (off : Int) : Nat × Int :=
  let a := p.at cmd x.index
  genAt s cmd c g off a.tr a.tc x.parity (stepOf cmd p)

/-! ### TILE -/

/-- The tile of one named engine (R121 to R123; 08 R183, R185, R188; 10 R233). -/
def makeTile (s : Mach) (cmd : Cmd) (c : Nat) (p : Phase) (x : Item) (i e rank : Nat) : EngTile :=
  let d := cmd.desc
  let a := p.at cmd x.index
  let n := tSide e
  let pf := (tFmt e).1.getD .bf16
  let sf := (tFmt e).2.getD .bf16
  let ne := (tEngines e).length
  let rows := match a.lt with
    | some y => y.rows d (bits e 46 37 + 1)
    | none => if a.tr = gridRows p.pe - 1 then bits e 220 211 + 1 else bits e 46 37 + 1
  let depth := match a.lt with
    | some y => if isKeySide d then y.seq.qLen else if dOp d = 5 then y.seq.kLen else tDepth e
    | none => tDepth e
  let mask0 := tMaskAt d p e a.tc
  let mask := match a.lt with
    | some y =>
      if dOp d = 3 ∨ isKeySide d then
        (List.range n).foldl (fun m j =>
          if mask0.testBit j && decide (y.cb * aKb d + n * rank + j < y.seq.kLen) then m + 2 ^ j else m) 0
      else mask0
    | none => mask0
  let st := itemAddr s cmd c p x (bits e 223 221) (signed 24 (bits e 263 240))
  let pt := itemAddr s cmd c p x (bits e 226 224) (signed 24 (bits e 287 264))
  let ou := itemAddr s cmd c p x (bits e 229 227) (signed 24 (bits e 311 288))
  let (out, stride) := match a.lt with
    | some y =>
      if dOp d = 3 then
        ((0, (bits d 335 288 + y.seq.scoreOff + y.qb * aQb d * y.seq.rs + 4 * (y.cb * aKb d + n * rank)) % 2 ^ 48),
         y.seq.rs / 16)
      else (inSpace ou.1 (ou.2 + ((rank * bits e 391 376 * 16 : Nat) : Int)), bits e 359 344)
    | none => (inSpace ou.1 (ou.2 + ((rank * bits e 391 376 * 16 : Nat) : Int)), bits e 359 344)
  let lse := match a.lt with
    | some y => if dOp d = 5 ∧ bits d 383 336 ≠ 0 then some (bits d 383 336 + 4 * (y.seq.qRow + y.qb * aQb d)) else none
    | none => none
  { cmd := cmd.id, core := c, item := x.index, entry := i, rank := rank, quarter := bit e 16, slot := bits e 36 32,
    rows := rows, pats := max 1 (tPats e depth pf), depth := depth, pat := bits e 27 24, str := bits e 31 28,
    accum := bit e 20, drain := bit e 23, transpose := bit e 19, rowMask := bits e 127 96, colMask := mask,
    stoch := bit e 21 && decide (depth > 256 * bits e 63 48),
    seedRow := if a.lt.isSome then x.index else a.tr,
    seedCol := if a.lt.isSome then rank else a.tc * ne + rank,
    tr := a.tr, tc := a.tc, parity := x.parity, step := stepOf cmd p, lse := lse,
    patAddr := inSpace pt.1 (pt.2 + ((rank * bits e 375 360 * 64 : Nat) : Int)),
    strAddr := inSpace st.1 st.2, rowStride := bits e 327 312, patStride := bits e 343 328,
    outAddr := out, outStride := stride, runEntry := if bit e 23 then bits e 239 230 else 0,
    factor := combinedFactor pf sf (cmd.scaleOf (bits e 487 440)) (cmd.scaleOf (bits e 439 392)) }

/-- The blocks of accumulator memory, 1 KiB each, that a tile of quarter q uses (04 R88): a slot of the whole array is four,
a slot of a quarter one. -/
def tileBlocks (q : Nat) (t : EngTile) : List Nat :=
  let n := ceilDiv t.rows t.side
  if t.quarter then (List.range n).map fun i => 32 * q + t.slot + i
  else (List.range (4 * n)).map fun i => 4 * t.slot + i
/-- The mode tag a tile leaves (04 R88). -/
def EngTile.tag (t : EngTile) : Nat := if t.quarter then 2 else 1
/-- The mode tag of a block: 0 for an empty one (04 R88, R89). -/
def Engine.tagAt (en : Engine) (b : Nat) : Nat := tabGet (fun _ => 0) en.tags b
/-- Whether an accumulating tile may add onto its slots (04 R89). -/
def tagsFit (en : Engine) (q : Nat) (t : EngTile) : Bool :=
  (tileBlocks q t).all fun b => en.tagAt b == 0 || en.tagAt b == t.tag
/-- The issue of a tile on an engine (04 R89, R92, R103): tags compared and written; an engine at level 0 with no grant asks
for one. -/
def issueTile (e q : Nat) (t : EngTile) (s : Mach) : Res Unit :=
  let en := s.eng e
  if t.accum && !tagsFit en q t then .err (.fatal stShape) s
  else
    let x := en.quarter q
    .ok () (s.setEng e ({ en with
      tags := (tileBlocks q t).foldl (fun g b => tabSet (fun _ => 0) g b t.tag) en.tags,
      rampReq := en.rampReq || (en.level == 0 && !en.granted && !en.stopped) }.setQuarter q { x with tiles := x.tiles ++ [t] }))
/-- A TILE entry: one tile per named engine (R121). -/
def tileEntry (c n i : Nat) (cmd : Cmd) (p : Phase) (x : Item) (e : Nat) (s : Mach) : Res Unit :=
  let engs := tEngines e
  let q := if bit e 16 then bits e 18 17 else 0
  (eachRes (fun (r : Nat × Nat) s =>
    issueTile (4 * c + r.1) q (makeTile s cmd c p x i e r.2) s) engs.zipIdx s).bind fun _ s =>
    .ok () (addEntry s c n i engs.length false)
/-- TILE (R121). -/
def execTile (c : CoreNo) (item : Bool) (entry : BitVec 9) (s : State) : Host.Outcome State Fault Refusal :=
  .next { s with m := runEntry s.m c.toNat (b2n item) entry.toNat 1 (tileEntry c.toNat (b2n item) entry.toNat) }

/-! ### DMA -/

/-- The address of row r of a DMA side that uses a page generator (08 R197): none for a row that is not transferred. -/
def pageRow (s : Mach) (cmd : Cmd) (c : Nat) (y : LtItem) (g : Nat) (off : Int) (r : Nat) : Res (Option (Nat × Nat)) :=
  let d := cmd.desc
  let gen := s.planGen c g
  let t : Int := signed 48 (bits gen 47 0) + (y.cb : Int) * signed 32 (bits gen 127 96) +
    (bits gen 95 64 : Nat) * (y.seq.qPos + (y.qb * aQb d : Nat)) + r
  if t < 0 ∨ (y.seq.kLen : Int) ≤ t then .ok none s
  else match cmd.walkers[y.no]? with
    | none => .ok none s
    | some w =>
      let t := t.toNat
      let ctrl := (s.pool w.pool).ctrlVa
      let rd := fun (va n : Nat) (s : Mach) =>
        (s.viaSlot c 0 fun s => s.coreRead c cmd.ctx cmd.id (0, va) n).bind fun l s => Res.ok (ofBytes l) s
      (rd (w.list + 64 + 8 * (t / 2 ^ w.tpp)) 8 s).bind fun en s =>
        (rd ctrl 64 s).bind fun h s =>
          let page := bits en 23 0
          .ok (some (((bits h 319 272 + 65536 * page + t % 2 ^ w.tpp * (bits d 426 416 * 64) + off.toNat) % 2 ^ 48),
            ctrl + 0x100 + 4 * page)) s
/-- One side's address of row r: the space and address, and the ledger entry of a page. -/
def dmaRow (s : Mach) (cmd : Cmd) (c : Nat) (p : Phase) (x : Item) (g : Nat) (off : Int) (stride r : Nat) :
    Res (Option ((Nat × Nat) × Option Nat)) :=
  if isPageGen cmd.desc g then
    match (p.at cmd x.index).lt with
    | none => .ok none s
    | some y => (pageRow s cmd c y g off r).bind fun a s => .ok (a.map fun b => ((0, b.1), some b.2)) s
  else
    let a := itemAddr s cmd c p x g off
    .ok (some (inSpace a.1 (a.2 + (r * stride * 64 : Nat)), none)) s
/-- The retention hint of a DMA entry (R123). -/
def dmaHint (e : Nat) : Hint :=
  match bits e 19 18 with
  | 1 => .keep
  | 2 => .last (BitVec.ofNat 8 (bits e 27 20))
  | _ => .stream
/-- The one atomic READ of a page's ledger entry before the first write into the page (08 R198): pages read so far. -/
def ledgerRead (c ctx : Nat) (seen : List Nat) (led : Option Nat) (s : Mach) : Res (List Nat) :=
  match led with
  | none => .ok seen s
  | some va =>
    if seen.contains va then .ok seen s
    else (s.viaSlot c 0 fun s => s.viaCache c ctx va 4 .read fun s => s.atomic c ctx va 4 id false false).bind fun v s =>
      if (w32 v).toInt > 1 then .err (.fatal stPageShared) s else .ok (va :: seen) s
/-- The move of one row of a DMA entry: on-die bytes go at once, a side in device virtual space by transactions. -/
def dmaMove (c : Nat) (cmd : Cmd) (h : Hint) (a b : Nat × Nat) (len : Nat) (s : Mach) : Res (List Move) :=
  if a.1 = 0 then .ok (fetchMoves a.2 len b h) s
  else (s.coreRead c cmd.ctx cmd.id a len).bind fun l s =>
    if b.1 = 0 then .ok (putMoves b.2 l h) s
    else (s.coreWrite c cmd.ctx cmd.id b l).bind fun _ s => .ok [] s
/-- A DMA entry (R111; 08 R197, R198): its transactions move its rows as their responses come. -/
def dmaEntry (c n i : Nat) (cmd : Cmd) (p : Phase) (x : Item) (e : Nat) (s : Mach) : Res Unit :=
  let len := (bits e 103 92 + 1) * 64
  (foldRes (fun (acc : List Move × List Nat) r s =>
    (dmaRow s cmd c p x (bits e 14 12) (signed 24 (bits e 55 32)) (bits e 127 104) r).bind fun src s =>
    (dmaRow s cmd c p x (bits e 17 15) (signed 24 (bits e 79 56)) (bits e 151 128) r).bind fun dst s =>
    match src, dst with
    | some (a, _), some (b, led) =>
      (ledgerRead c cmd.ctx acc.2 led s).bind fun seen s =>
      (dmaMove c cmd (dmaHint e) a b len s).bind fun ms s => .ok (acc.1 ++ ms, seen) s
    | _, _ => .ok acc s) ([], []) (List.range (bits e 91 80 + 1)) s).bind fun acc s =>
    .ok () (finishEntry (addTrans (addEntry s c n i 0 false) c x.index i 5 acc.1) c n i)
/-- DMA (R111). -/
def execDma (c : CoreNo) (item : Bool) (entry : BitVec 9) (s : State) : Host.Outcome State Fault Refusal :=
  .next { s with m := runEntry s.m c.toNat (b2n item) entry.toNat 3 (dmaEntry c.toNat (b2n item) entry.toNat) }

/-! ### VECTOR -/

/-- The FP32 value of element i of bytes in a VECTOR format (R124). -/
def vecElem (fmt : Nat) (l : List Byte) (i : Nat) : Word :=
  let w := vWidth fmt
  let c := ofBytes ((l.drop (w * i)).take w)
  match fmt with
  | 0 => w32 c
  | 1 => codeF32 .bf16 c
  | 2 => codeF32 .e4m3 c
  | _ => codeF32 .e5m2 c
/-- Elements of a group. -/
def vecElems (fmt : Nat) (l : List Byte) : List Word := (List.range 64).map (vecElem fmt l)
/-- The bytes of results in FMT_D: FP32, or BF16 by the saturating conversion of R50. -/
def vecBytes (fmt : Nat) (l : List Word) : List Byte :=
  l.flatMap fun w => if fmt = 0 then toBytes 4 w.toNat else toBytes 2 (toBf16 w)
/-- GSUM: the binary tree of R124 over 64 elements; `vecOp` gives an exact zero the sign of R52. -/
def gsumTree : Nat → List Word → Word
  | 0, l => l.headD 0#32
  | fuel + 1, l =>
    let rec pair : List Word → List Word
      | a :: b :: l => f32Add a b :: pair l
      | l => l
    gsumTree fuel (pair l)
/-- A VECTOR operation on one group. -/
def vecOp (op : Nat) (imm : Word) (a b d : List Word) : List Word :=
  let z := fun (f : Word → Word → Word) => (a.zip b).map fun p => f p.1 p.2
  match op with
  | 1 => z f32Add
  | 2 => z f32Mul
  | 3 => ((a.zip b).zip d).map fun p => f32Fma p.1.1 p.1.2 p.2
  | 4 => z f32Max
  | 5 => z f32Min
  | 6 => a.map fun x => f32Mul x imm
  | 7 => a.map f32Exp2
  | 8 => a.map f32Recip
  | 9 => a.map f32Rsqrt
  | 10 => a.map f32Canon
  | _ => [f32PosZero (gsumTree 6 a)]
/-- A VECTOR entry (R124): group after group. DESIGN CHOICE (log entry 64): operands and results in device virtual space are accepted,
and are read and written as the entry runs, by no transaction; a freeze keeps such an entry back (17 R416). -/
def vecEntry (c n i : Nat) (cmd : Cmd) (p : Phase) (x : Item) (e : Nat) (s : Mach) : Res Unit :=
  let op := bits e 17 12
  let ad := fun (g : Nat) (off : Int) (k : Nat) (w : Nat) (s : Mach) =>
    let a := itemAddr s cmd c p x g off
    inSpace a.1 (a.2 + ((k * w : Nat) : Int))
  let fa := bits e 28 27
  let fb := bits e 30 29
  let fd := bits e 32 31
  if s.frozen && ([bits e 20 18, bits e 26 24] ++ (if vReadsB op then [bits e 23 21] else [])).any fun g =>
      genSpace (s.planGen c g) == 0 then .err (.slot c) s
  else (eachRes (fun k s =>
    (s.coreRead c cmd.ctx cmd.id (ad (bits e 20 18) (signed 24 (bits e 63 40)) k (64 * vWidth fa) s) (64 * vWidth fa)).bind
      fun la s =>
    (if vReadsB op then s.coreRead c cmd.ctx cmd.id (ad (bits e 23 21) (signed 24 (bits e 87 64)) k (64 * vWidth fb) s)
        (64 * vWidth fb) else .ok [] s).bind fun lb s =>
    let dst := ad (bits e 26 24) (signed 24 (bits e 111 88)) k ((if op = 0xB then 1 else 64) * vWidth fd) s
    (if op = 3 then s.coreRead c cmd.ctx cmd.id dst (64 * vWidth fd) else .ok [] s).bind fun ld s =>
      s.coreWrite c cmd.ctx cmd.id dst
        (vecBytes fd (vecOp op (w32 (bits e 159 128)) (vecElems fa la) (vecElems fb lb) (vecElems fd ld))))
    (List.range (bits e 127 112 + 1)) s).bind fun _ s => .ok () (addEntry s c n i 0 true)
/-- VECTOR (R124). -/
def execVector (c : CoreNo) (item : Bool) (entry : BitVec 9) (s : State) : Host.Outcome State Fault Refusal :=
  .next { s with m := runEntry s.m c.toNat (b2n item) entry.toNat 4 (vecEntry c.toNat (b2n item) entry.toNat) }

/-! ### EXPAND -/

/-- The format of the elements an EXPAND entry writes: BF16 for two bytes, else that of the first entry of the phase that
streams the buffer's generator, or reads it as A; none where no entry does (log entry 9). -/
def expFormat (s : Mach) (c : Nat) (p : Phase) (e : Nat) : Option Format :=
  if bit e 18 then some .bf16
  else p.body.findSome? fun i =>
    let x := s.planEntry c i
    if eKind x = 1 ∧ bits x 223 221 = bits e 17 15 then (tFmt x).2
    else if eKind x = 4 ∧ bits x 20 18 = bits e 17 15 then
      (if bits x 28 27 = 2 then some .e4m3 else if bits x 28 27 = 3 then some .e5m2 else none)
    else none
/-- The pad code (R167). -/
def padCode (mode : Nat) (f : Option Format) (free : Nat) : Nat :=
  if mode = 0 then 0
  else match f with
    | some .bf16 => 0xFF80
    | some .e4m3 => 0xFE
    | some .e5m2 => 0xFC
    | some .i8 => 0x80
    | _ => free % 256
/-- The tap and channel of element k of an expanded row (R168): none for a zero position. -/
def expElem (g : Geo) (k : Nat) : Option (Nat × Nat × Nat) :=
  let kk := g.kh * g.kw
  if !g.chMajor then (if k < kk * g.ch then some (k / g.ch / g.kw, k / g.ch % g.kw, k % g.ch) else none)
  else if g.slice = 0 then (if k < kk * g.ch then some (k % kk / g.kw, k % kk % g.kw, k / kk) else none)
  else
    let sl := k / g.width
    let pos := k % g.width
    let ch := sl * g.slice + pos / kk
    if pos / kk < g.slice ∧ ch < g.ch then some (pos % kk / g.kw, pos % kk % g.kw, ch) else none
/-- The regrouped pixel of a tap of an output pixel (R167). -/
def expTap (g : Geo) (oy ox i j : Nat) : Int × Int :=
  (((oy * g.sh + i * g.dh : Nat) : Int) - g.padT, ((ox * g.sw + j * g.dw : Nat) : Int) - g.padL)
/-- Whether a tap lies in padding. -/
def expOutside (g : Geo) (t : Int × Int) : Bool :=
  decide (t.1 < 0) || decide ((g.h : Int) ≤ t.1) || decide (t.2 < 0) || decide ((g.wd : Int) ≤ t.2)
/-- The code of one element of an expanded row, from the source lines `ys` in the stage (R167 to R169). -/
def expCode (g : Geo) (ys : List Nat) (staged : List Byte) (pad : Nat) (oy ox k : Nat) : Nat :=
  match expElem g k with
  | none => 0
  | some (i, j, ch) =>
    let t := expTap g oy ox i j
    if expOutside g t then pad
    else
      let dy := ch / g.c / g.f
      let dx := ch / g.c % g.f
      let y := g.f * t.1.toNat + dy
      let x := g.f * t.2.toNat + dx
      if y ≥ g.inH ∨ x ≥ g.inW then pad
      else match ys.findIdx? fun l => l == y with
        | some i => ofBytes ((staged.drop (((i * g.inW + x) * g.c + ch % g.c) * g.w)).take g.w)
        | none => pad
/-- The source lines a stripe of an EXPAND entry reads, and their length (R172). DESIGN CHOICE (log entry 68): a line's whole span is
read, the bytes between its pixels too. -/
def expLines (g : Geo) (tr : Nat) : List Nat × Nat :=
  let ys := (g.touched tr).flatMap fun r => (List.range g.f).map fun k => g.f * r + k
  (ys.filter fun y => y < g.inH, (g.inW - 1) * g.pix + g.c * g.w)
/-- Where core c's part of the expander area begins in its cluster's buffer (R172). -/
def Mach.stagePart (s : Mach) (c cmd : Nat) : Nat :=
  s.coreBase c cmd + ((s.planRes c).1 - (s.planRes c).2) * 4096 + c % 16 * ((s.planRes c).2 * 256)
/-- Writes byte i of core c's line stage: 32 KiB of its own, then its part of the expander area (R172). -/
def Mach.stageSet (s : Mach) (c cmd i : Nat) (b : Byte) : Mach :=
  if i < 32768 then { s with stage := tabSet (fun _ => 0#8) s.stage (32768 * c + i) b }
  else s.cbPut (c / 16) (s.stagePart c cmd + (i - 32768)) [b]
/-- The first n bytes of core c's line stage. -/
def Mach.stageBytes (s : Mach) (c cmd n : Nat) : List Byte :=
  tabRead (fun _ => 0#8) s.stage (32768 * c) (min n 32768) ++ s.cbBytes (c / 16) (s.stagePart c cmd) (n - 32768)
/-- Bytes of the line of a stripe with a number, from an offset of it on, enter the stage: its pixels, compacted (R172). -/
def stageLine (c cmd : Nat) (g : Geo) (line off : Nat) (l : List Byte) (s : Mach) : Mach :=
  each (fun (p : Byte × Nat) s =>
    let o := off + p.2
    if o % g.pix < g.c * g.w then s.stageSet c cmd ((line * g.inW + o / g.pix) * (g.c * g.w) + o % g.pix) p.1 else s) l.zipIdx s
/-- The rows of an EXPAND entry, written in ascending order from its line stage (R166 to R174). DESIGN CHOICE (log entry 67): the
bytes beyond the stage's 32 KiB are counted once a stripe, a part of 64 as 64. -/
def expBody (c : Nat) (cmd : Cmd) (p : Phase) (x : Item) (e : Nat) (s : Mach) : Res Unit :=
  let g := geoOf e
  let tr := (p.at cmd x.index).tr
  let dst := itemAddr s cmd c p x (bits e 17 15) (signed 24 (bits e 79 56))
  let ys := (expLines g tr).1
  let foot := (g.touched tr).length * g.rowBytes
  let staged := s.stageBytes c cmd.id foot
  let s := s.bump (coreReg c 0x28) (ceilDiv (foot - 32768) 64)
  let mode := bits e 23 22
  let fmt := expFormat s c p e
  let (fr, s) := if mode = 1 ∧ fmt.isNone then s.fresh else (0, s)
  let pad := padCode mode fmt fr
  let (o, rows) := g.rows tr
  let taps := (List.range g.kh).flatMap fun i => (List.range g.kw).map fun j => (i, j)
  eachRes (fun m s =>
    let oy := o + m / g.outW
    let ox := m % g.outW
    let row := (List.range g.rowElems).flatMap fun k => toBytes g.w (expCode g ys staged pad oy ox k)
    let pads := (taps.filter fun t => expOutside g (expTap g oy ox t.1 t.2)).length
    (s.coreWrite c cmd.ctx cmd.id (inSpace dst.1 (dst.2 + (m * g.dst : Nat))) row).bind fun _ s =>
      .ok () ((s.bump (coreReg c 0x20) 1).bump (coreReg c 0x24) pads)) (List.range (rows * g.outW)) s
/-- An EXPAND entry (R172): the stripe's lines are staged, on-die ones at once and those in device virtual space by transactions
(R111), and the rows are written when the last has come. -/
def expEntry (c n i : Nat) (cmd : Cmd) (p : Phase) (x : Item) (e : Nat) (s : Mach) : Res Unit :=
  let g := geoOf e
  let src := itemAddr s cmd c p x (bits e 14 12) (signed 24 (bits e 55 32))
  let (ys, len) := expLines g (p.at cmd x.index).tr
  let lines := ys.zipIdx.map fun y => (y.2, inSpace src.1 (src.2 + (y.1 * g.line : Nat)))
  if src.1 = 0 ∧ ys ≠ [] then
    let ms := lines.flatMap fun y => (granuleParts y.2.2 len).map fun q => Move.stage q.1 q.2 y.1 (q.1 - y.2.2)
    .ok () (addTrans (addEntry s c n i 0 false) c x.index i 4 ms)
  else
    (eachRes (fun (y : Nat × (Nat × Nat)) s =>
      (s.coreRead c cmd.ctx cmd.id y.2 len).bind fun l s => .ok () (stageLine c cmd.id g y.1 0 l s)) lines s).bind fun _ s =>
    (expBody c cmd p x e s).bind fun _ s => .ok () (addEntry s c n i 0 true)
/-- EXPAND (R166). -/
def execExpand (c : CoreNo) (item : Bool) (entry : BitVec 9) (s : State) : Host.Outcome State Fault Refusal :=
  .next { s with m := runEntry s.m c.toNat (b2n item) entry.toNat 5 (expEntry c.toNat (b2n item) entry.toNat) }

/-! ## Transactions and translation -/

/-- The unit whose waiting transaction takes the next free slot: the first in the order of R109 after the unit served last,
wrapping (14 R349). -/
def CoreSt.slotNext (k : CoreSt) : Option Nat :=
  ((List.range 6).map fun i => (k.slotLast + 1 + i) % 6).find? fun u => k.trans.any fun t => !t.slot && t.unit == u
/-- A freed slot goes to the oldest waiting transaction of the next unit (R111; 14 R349), no freeze lasting (17 R416). -/
def slotGrant (s : Mach) (c : Nat) : Mach :=
  let k := s.core c
  if s.frozen ∨ k.slotsFree = 0 then s
  else match k.slotNext with
    | some u => match k.trans.findIdx? fun t => !t.slot && t.unit == u with
      | some i => s.setCore c { k with slotLast := u, slotsFree := k.slotsFree - 1, trans := k.trans.modify i fun t => { t with slot := true } }
      | none => s
    | none => s
/-- TRANSACTION_SLOT_GRANT (R111). -/
def execTransactionSlotGrant (c : CoreNo) (s : State) : Host.Outcome State Fault Refusal :=
  .next { s with m := slotGrant s.m c.toNat }
/-- What a transaction of entry e moves when its response comes (R111). -/
def runMove (c : Nat) (cmd : Cmd) (e : Nat) (m : Move) (s : Mach) : Res Unit :=
  match m with
  | .fetch va n dst h => (s.coreReadH c cmd.ctx cmd.id (0, va) n h).bind fun l s => s.coreWrite c cmd.ctx cmd.id dst l
  | .put va l h => s.coreWriteH c cmd.ctx cmd.id (0, va) l h
  | .stage va n line off => (s.coreRead c cmd.ctx cmd.id (0, va) n).bind fun l s => .ok () (stageLine c cmd.id (geoOf e) line off l s)
/-- The end of the i-th transaction t of core c: its slot is free, its entry has one less to wait for; an EXPAND entry whose
lines have all come writes its rows. -/
def endTrans (c i : Nat) (t : Trans) (cmd : Cmd) (s : Mach) : Res Unit :=
  let k := s.core c
  let last := k.items.any fun x => x.index == t.item && x.entries.any fun e => e.no == t.entry && e.left == 1
  let e := s.planEntry c t.entry
  let upd := fun (e : Entry) => if e.no == t.entry then
      { e with left := e.left - 1, done := e.left - 1 == 0 && e.tiles == 0 } else e
  let drop := fun (s : Mach) =>
    let k := s.core c
    let items := k.items.map fun x => if x.index == t.item then ({ x with entries := x.entries.map upd } : Item) else x
    s.setCore c { k with trans := k.trans.eraseIdx i, slotsFree := k.slotsFree + 1, idleCycles := 0, items := items }
  match (s.phases c)[k.phase]?, k.items.find? fun x => x.index == t.item with
  | some p, some x =>
    if last && eKind e == 5 then (expBody c cmd p x e s).bind fun _ s => .ok () (drop s) else .ok () (drop s)
  | _, _ => .ok () (drop s)
/-- The number of a core's transaction among those of its requester (12 R274). -/
def Trans.key (t : Trans) : Nat := 65536 + t.no
/-- Whether a transaction of a requester for a command waits on a channel that is still held (12 R274). -/
def Mach.waitsHeld (s : Mach) (cmd : Cmd) (unit no : Nat) : Bool := cmd.heldOn.any fun w => w.is unit no && (s.pc w.pc).state == 1#2
/-- The response to the oldest transaction that holds a slot and does not wait on a held channel (R111, R120; 12 R274): its bytes
move, its slot is free, an entry with nothing outstanding is complete; a restartable fault drops its entry (13 R320). No response
reaches a core whose fence gate closes (14 R347). -/
def transResponse (s : Mach) (c : Nat) : Mach :=
  let k := s.core c
  match s.coreCmd c with
  | none => s
  | some cmd => match k.trans.findIdx? fun t => t.slot && !s.waitsHeld cmd c t.key with
    | none => s
    | some i => match k.trans[i]? with
      | some t =>
        if k.fenced then s
        else (s.settleEntry cmd.id c t.key t.item t.entry
          ((runMove c cmd (s.planEntry c t.entry) t.move s).bind fun _ s => endTrans c i t cmd s)).endStop cmd.id
      | none => s
/-- TRANSACTION_RESPONSE (R111). -/
def execTransactionResponse (c : CoreNo) (s : State) : Host.Outcome State Fault Refusal :=
  .next { s with m := transResponse s.m c.toNat }

/-- A table walk of a core (R112; 13 R297): the leaf enters the translation cache, or the command faults. None leaves a fenced core
(14 R347), or any core in a freeze (17 R416). -/
def tableWalk (s : Mach) (c va : Nat) (a : Access) : Mach :=
  match s.coreCmd c with
  | none => s
  | some cmd => if (s.core c).fenced || s.frozen then s else s.settle cmd.id c 4 (s.coreWalk c cmd.ctx va a)
/-- TABLE_WALK (R112, 13 R297). -/
def execTableWalk (c : CoreNo) (va : VA) (a : Access) (s : State) : Host.Outcome State Fault Refusal :=
  .next { s with m := tableWalk s.m c.toNat va.toNat a }

end Sys2Proof.Machine
end

