-- ==== Sys2Proof/Machine/Recurrent.lean ====
section
/-! DEFINITION. Machine/Recurrent.lean: state objects, stream tables and reset marks; the state load, cell phase and
state store of GATED_STEP; the scan phase of SCAN_CHUNK (09_recurrent_streams.md R207 to R218). -/

namespace Sys2Proof.Machine

/-! ## State objects (R207, R208) and stream tables (R209) -/

/-- A state object: its address, slots, vectors per state, width, tag. -/
structure StObj where
  va : Nat
  slots : Nat
  nvec : Nat
  h : Nat
  tag : Nat
  deriving DecidableEq, Repr
/-- Address of vector v of bank b of slot k; bank 2 stands for INIT. -/
def StObj.vec (o : StObj) (k b v : Nat) : Nat := o.va + 256 + k * (12 * o.nvec * o.h) + (b * o.nvec + v) * o.h * 4
/-- Whether the header's reserved fields and NVEC are as R207 has them. -/
def stateHeaderOk (h : Nat) : Bool :=
  zeroFields h [(2047, 256), (127, 96), (63, 18), (15, 10)] && (bits h 17 16 == 1 || bits h 17 16 == 2)
/-- Reads the header of the state object at an address of a context; an address in no object, a misaligned one and a
header that breaks R207 are refused with ST_SHAPE (R215). -/
def readState (ctx va : Nat) (s : Mach) : Res StObj :=
  if (s.leafAt ctx va).isNone || va % 256 ≠ 0 then .err (.fatal stShape) s
  else (s.readWord ctx va 256).bind fun h s =>
    if !stateHeaderOk h then .err (.fatal stShape) s
    else .ok { va := va, slots := bits h 95 64, nvec := bits h 17 16, h := 64 * (bits h 9 0 + 1), tag := bits h 255 128 } s
/-- The SLOT of a stream entry. -/
def streamSlot (e : Nat) : Nat := bits e 21 0
/-- The NTOK of a stream entry. -/
def streamTok (e : Nat) : Nat := bits e 42 32
/-- Whether a list of numbers has no repeats. -/
def allDistinct : List Nat → Bool
  | [] => true
  | a :: l => !l.contains a && allDistinct l
/-- Reads a stream table of n entries and checks it: no reserved bit, slots below NSLOT and distinct, NTOK at most `tok`. -/
def readStreams (ctx va n tok : Nat) (o : StObj) (s : Mach) : Res (List Nat) :=
  (s.readVa ctx va (8 * n)).bind fun l s =>
    let es := wordsOf 8 l
    if (es.all fun e => zeroFields e [(63, 43), (31, 22)] && decide (streamSlot e < o.slots) && decide (streamTok e ≤ tok)) &&
        allDistinct (es.map streamSlot) then .ok es s
    else .err (.fatal stShape) s
/-- Reset mark t of stream i of a bitmap over T tokens (R209). -/
def readMark (ctx va T i t : Nat) (s : Mach) : Res Bool :=
  if va = 0 ∨ T ≤ t then .ok false s
  else (s.readWord ctx (va + i * (8 * ceilDiv T 64) + t / 8) 1).bind fun b s => .ok (b.testBit (t % 8)) s
/-- The FP32 values of a vector of h elements. -/
def readVec (ctx va h : Nat) (s : Mach) : Res (List Word) :=
  (s.readVa ctx va (4 * h)).bind fun l s => .ok ((wordsOf 4 l).map w32) s
/-- Writes a vector of FP32 values. -/
def writeVec (ctx va : Nat) (ws : List Word) (s : Mach) : Res Unit := s.writeVa ctx va (ws.flatMap fun w => toBytes 4 w.toNat)
/-- Output bytes of values: FP32, or BF16 by the saturating conversion of 02 R50. -/
def outBytes (bf16 : Bool) (ws : List Word) : List Byte :=
  ws.flatMap fun w => if bf16 then toBytes 2 (toBf16 w) else toBytes 4 w.toNat

/-- The checks of GATED_STEP and SCAN_CHUNK on their state object and streams at issue (R215, R217): the streams. -/
def recurrentCheck (cmd : Cmd) (s : Mach) : Res (List Nat) :=
  let d := cmd.desc
  let ctx := cmd.ctx
  if dOp d = 6 then
    if bits d 511 510 ≠ 0 ∨ cellGates (bits d 409 406) = 0 ∨ bits d 427 427 = bits d 426 426 then .err (.fatal stShape) s
    else (readState ctx (bits d 239 192) s).bind fun o s =>
      if o.h ≠ gH d ∨ o.nvec ≠ cellVecs (bits d 409 406) then .err (.fatal stShape) s
      else readStreams ctx (bits d 287 240) (gStr d) 0 o s
  else
    if bit d 511 || bits d 509 509 == bits d 508 508 then .err (.fatal stShape) s
    else (readState ctx (bits d 239 192) s).bind fun o s =>
      if o.h ≠ 64 * (bits d 501 492 + 1) ∨ o.nvec ≠ 1 then .err (.fatal stShape) s
      else readStreams ctx (bits d 287 240) (bits d 491 480 + 1) (16 * (bits d 507 502 + 1)) o s

/-! ## Step mode (R212 to R214) -/

/-- The next state of one element from its gates and state (R212). -/
def cellNext (cell : Nat) (g st : List Word) : List Word :=
  let x := fun i => g.getD i 0#32
  let h := st.getD 0 0#32
  let c := st.getD 1 0#32
  match cell with
  | 0 =>
    let c' := f32Fma (x 0) (x 2) (f32Mul (x 1) c)
    [f32Mul (x 3) (actF32 .tanh f32Zero c'), c']
  | 1 =>
    let c' := f32Fma (f32Sub f32One (x 0)) (x 1) (f32Mul (x 0) c)
    [f32Mul (x 2) (actF32 .tanh f32Zero c'), c']
  | 2 => [f32Fma (x 0) (f32Sub (x 1) h) h]
  | 3 => [f32Canon (x 0)]
  | _ => [f32Fma (x 0) h (x 1)]

/-- Offset in the reservation of vector k of stream i of a region of FP32 vectors. -/
def regionAt (d base k i : Nat) : Nat := base * 4096 + (k * gStr d + i) * gH d * 4
/-- FP32 values at an offset of a command's reservation. -/
def cbWords (s : Mach) (k cmd off n : Nat) : List Word := (wordsOf 4 (s.cbBytes k (s.cbBase k cmd 0 + off) (4 * n))).map w32
/-- Writes one stream's state image and its BF16 copy of h for a parity. -/
def putImage (k : Nat) (cmd : Cmd) (i par : Nat) (vs : List (List Word)) (s : Mach) : Mach :=
  let d := cmd.desc
  let b := s.cbBase k cmd.id 0
  let s := each (fun (x : List Word × Nat) s =>
    s.cbPut k (b + regionAt d (bits d 450 440) x.2 i) (x.1.flatMap fun w => toBytes 4 w.toNat)) vs.zipIdx s
  s.cbPut k (b + bits d 461 451 * 4096 + (par * gStr d + i) * gH d * 2) (outBytes true (vs.headD []))
/-- The state vectors of a stream in a bank. -/
def readBank (ctx : Nat) (o : StObj) (k b : Nat) (s : Mach) : Res (List (List Word)) :=
  foldRes (fun (acc : List (List Word)) v s => (readVec ctx (o.vec k b v) o.h s).bind fun w s => .ok (acc ++ [w]) s) []
    (List.range o.nvec) s
/-- The state load of R213. -/
def stateLoad (cmd : Cmd) (k : Nat) (s : Mach) : Res Unit :=
  let d := cmd.desc
  (readState cmd.ctx (bits d 239 192) s).bind fun o s =>
  eachRes (fun (x : Nat × Nat) s =>
    (readMark cmd.ctx (bits d 335 288) (gSteps d) x.2 0 s).bind fun m s =>
    (readBank cmd.ctx o (streamSlot x.1) (if m then 2 else bits d 426 426) s).bind fun vs s =>
      .ok () ((putImage k cmd x.2 0 vs s).bump (clReg k 0x30) (b2n m))) cmd.lt.zipIdx s
/-- The elements' next states of a stream in a cell phase: h′ and the state carried on, per vector. -/
def cellStream (d : Nat) (gates st : List (List Word)) : List (List Word) :=
  let els := (List.range (gH d)).map fun j =>
    cellNext (bits d 409 406) (gates.map fun g => g.getD j 0#32) (st.map fun v => v.getD j 0#32)
  (List.range (cellVecs (bits d 409 406))).map fun v => els.map fun e => e.getD v 0#32
/-- The cell phase of step t on every stream (R213). -/
def cellStep (cmd : Cmd) (k t : Nat) (s : Mach) : Res Unit :=
  let d := cmd.desc
  (readState cmd.ctx (bits d 239 192) s).bind fun o s =>
  eachRes (fun (x : Nat × Nat) s =>
    let i := x.2
    let gates := (List.range (cellGates (bits d 409 406))).map fun g => cbWords s k cmd.id (regionAt d (bits d 439 429) g i) (gH d)
    let st := (List.range o.nvec).map fun v => cbWords s k cmd.id (regionAt d (bits d 450 440) v i) (gH d)
    let next := cellStream d gates st
    let w := if bit d 428 then 2 else 4
    (s.writeVa cmd.ctx (bits d 383 336 + (t * gStr d + i) * gH d * w) (outBytes (bit d 428) (next.headD []))).bind fun _ s =>
    (readMark cmd.ctx (bits d 335 288) (gSteps d) i (t + 1) s).bind fun m s =>
    (if m then readBank cmd.ctx o (streamSlot x.1) 2 s else .ok next s).bind fun vs s =>
      .ok () ((putImage k cmd i ((t + 1) % 2) vs s).bump (clReg k 0x30) (b2n m))) cmd.lt.zipIdx s
/-- The state store of R213. -/
def stateStore (cmd : Cmd) (k : Nat) (s : Mach) : Res Unit :=
  let d := cmd.desc
  (readState cmd.ctx (bits d 239 192) s).bind fun o s =>
  eachRes (fun (x : Nat × Nat) s => eachRes (fun v s =>
    writeVec cmd.ctx (o.vec (streamSlot x.1) (bits d 427 427) v)
      (cbWords s k cmd.id (regionAt d (bits d 450 440) v x.2) (gH d)) s) (List.range o.nvec) s) cmd.lt.zipIdx s

/-- Whether every slot of a command has reached the barriers of all phases of its plan. -/
def allBarriers (s : Mach) (cmd : Cmd) : Bool :=
  match cmd.slots.findSome? fun x => x.cores.head? with
  | some c => cmd.planned && cmd.slots.all fun x => x.barriers == (s.phases c).length
  | none => false

/-- GATED_STEP_STATE_LOAD (R213, R214): once the slot has joined all the cores it can, they stay, and the state is read. -/
def gatedLoad (s : Mach) (id : Nat) : Mach :=
  match s.cmd? id with
  | none => s
  | some cmd =>
    match cmd.slots with
    | [x] =>
      let open' := (List.range 16).filter fun c => !(s.core (16 * x.cluster + c)).fenced
      if dOp cmd.desc ≠ 6 ∨ cmd.st ≠ .running ∨ cmd.loaded ∨ !cmd.planned ∨ x.cores.length < min (dCores cmd.desc) open'.length
      then s
      else
        let fixed := (List.range 512).filter fun c => x.cores.contains c
        s.settle id (512 + x.cluster) 32 (stateLoad cmd x.cluster (s.setCmd { cmd with loaded := true, fixed := fixed }))
    | _ => s
/-- GATED_STEP_STATE_LOAD. -/
def execGatedStepStateLoad (cmd : Nat) (s : State) : Host.Outcome State Fault Refusal :=
  .next { s with m := gatedLoad s.m cmd }

/-- The cores of a command start a phase anew. -/
def freshPhase (s : Mach) (id : Nat) : Mach :=
  { s with cores := tabMap (fun _ => {}) (fun _ (x : CoreSt) =>
    if x.cmd == some id then { x with claimed := 0, empty := false, returned := false } else x) s.cores }
/-- CELL_PHASE (R213): after the last phase's barrier of a step; the next step's tundishes are written afresh, or the
state is stored after the last. -/
def cellPhase (s : Mach) (id : Nat) : Mach :=
  match s.cmd? id with
  | none => s
  | some cmd =>
    match cmd.slots with
    | [x] =>
      let c := cmd.fixed.headD 0
      if dOp cmd.desc ≠ 6 ∨ cmd.st ≠ .running ∨ !cmd.loaded ∨ cmd.step ≥ gSteps cmd.desc ∨ !allBarriers s cmd then s
      else
        let t := cmd.step
        s.settle id (512 + x.cluster) 33 ((cellStep cmd x.cluster t s).bind fun _ s =>
          let s := s.bump (clReg x.cluster 0x2C) 1
          if t + 1 < gSteps cmd.desc then
            let cmd := { cmd with step := t + 1, slots := [{ x with barriers := gPro cmd.desc }] }
            startPhases cmd c ((s.phases c).drop (gPro cmd.desc)) ((freshPhase s id).setCmd cmd)
          else stateStore cmd x.cluster (s.setCmd { cmd with step := t + 1 }))
    | _ => s
/-- CELL_PHASE. -/
def execCellPhase (cmd : Nat) (s : State) : Host.Outcome State Fault Refusal := .next { s with m := cellPhase s.m cmd }

/-! ## Chunk mode (R218) -/

/-- The state of R218's loop for one element: carry, block values A and B, cut, the last output. -/
structure ScanSt where
  carry : Word
  a : Word := 0#32
  b : Word := 0#32
  cut : Bool := false
  y : Word
  deriving DecidableEq, Repr
/-- One token of R218's loop. -/
def scanTok (mark : Bool) (init : Word) (x : ScanSt) (t : Nat) (a b : Word) : ScanSt :=
  let x := if t % 16 = 0 then { x with carry := x.y, cut := false } else x
  let x :=
    if t > 0 && mark then { x with cut := true, b := f32Fma a init b }
    else if t % 16 = 0 then { x with a := a, b := b }
    else { x with a := if x.cut then x.a else f32Mul a x.a, b := f32Fma a x.b b }
  { x with y := if x.cut then x.b else f32Fma x.a x.carry x.b }
/-- The outputs of one element over its tokens, each (mark, a, b), and the state it leaves. -/
def scanElem (init : Word) : ScanSt → Nat → List (Bool × Word × Word) → List Word × Word
  | x, _, [] => ([], x.y)
  | x, t, (m, a, b) :: l =>
    let x := scanTok m init x t a b
    let (ys, e) := scanElem init x (t + 1) l
    (x.y :: ys, e)
/-- The scan of one stream (R218). -/
def scanStream (cmd : Cmd) (k : Nat) (o : StObj) (e i : Nat) (s : Mach) : Res Unit :=
  let d := cmd.desc
  let ctx := cmd.ctx
  let L := 16 * (bits d 507 502 + 1)
  let n := streamTok e
  let nstr := bits d 491 480 + 1
  let w := if bit d 510 then 2 else 4
  let at' := fun base t => base + (t * nstr + i) * o.h * 4
  (foldRes (fun (acc : List Bool) t s => (readMark ctx (bits d 335 288) L i t s).bind fun m s => .ok (acc ++ [m]) s) []
    (List.range n) s).bind fun marks s =>
  (foldRes (fun (acc : List (List Word × List Word)) t s =>
    (readVec ctx (at' (bits d 431 384) t) o.h s).bind fun a s => (readVec ctx (at' (bits d 479 432) t) o.h s).bind fun b s =>
      .ok (acc ++ [(a, b)]) s) [] (List.range n) s).bind fun ab s =>
  (readVec ctx (o.vec (streamSlot e) 2 0) o.h s).bind fun init s =>
  (if marks.headD false then .ok init s else readVec ctx (o.vec (streamSlot e) (bits d 508 508) 0) o.h s).bind fun st s =>
  let els := (List.range o.h).map fun j =>
    scanElem (init.getD j 0#32) { carry := st.getD j 0#32, y := st.getD j 0#32 } 0
      ((marks.zip ab).map fun x => (x.1, x.2.1.getD j 0#32, x.2.2.getD j 0#32))
  (eachRes (fun t s => s.writeVa ctx (bits d 383 336 + (t * nstr + i) * o.h * w)
    (outBytes (bit d 510) (els.map fun x => x.1.getD t 0#32))) (List.range n) s).bind fun _ s =>
  (writeVec ctx (o.vec (streamSlot e) (bits d 509 509) 0) (els.map fun x => x.2) s).bind fun _ s =>
    .ok () ((s.bump (clReg k 0x34) n).bump (clReg k 0x30) (marks.filter id).length)
/-- SCAN_PHASE (R218): after the plan's last barrier. -/
def scanPhase (s : Mach) (id : Nat) : Mach :=
  match s.cmd? id with
  | none => s
  | some cmd =>
    match cmd.slots with
    | [x] =>
      if dOp cmd.desc ≠ 7 ∨ cmd.st ≠ .running ∨ cmd.step ≠ 0 ∨ !allBarriers s cmd then s
      else s.settle id (512 + x.cluster) 34 ((readState cmd.ctx (bits cmd.desc 239 192) s).bind fun o s =>
        (eachRes (fun (y : Nat × Nat) s => scanStream cmd x.cluster o y.1 y.2 s) cmd.lt.zipIdx s).bind fun _ s =>
          .ok () (s.setCmd { cmd with step := 1 }))
    | _ => s
/-- SCAN_PHASE. -/
def execScanPhase (cmd : Nat) (s : State) : Host.Outcome State Fault Refusal := .next { s with m := scanPhase s.m cmd }

end Sys2Proof.Machine
end

