-- ==== Sys2Proof/Machine/Blob.lean ====
section
/-! DEFINITION. Machine/Blob.lean: export and import of stream state as blobs (09_recurrent_streams.md R221, R224 to R226),
for the commands and for the messages of the same names. -/

namespace Sys2Proof.Machine

/-- NSTR of a body. -/
def blobStr (d : Nat) : Nat := bits d 139 128 + 1
/-- The blob length of R225. -/
def blobLen (nrec nvec h : Nat) : Nat := 128 + nrec * (64 + 8 * nvec * h)
/-- The checks of R224 at issue, STATUS_VA apart: the state object and the streams. -/
def blobCheck (ctx d : Nat) (s : Mach) : Res (StObj × List Nat) :=
  if !zeroFields d [(511, 400), (271, 257), (159, 140)] then .err (.fatal stShape) s
  else (readState ctx (bits d 207 160) s).bind fun o s =>
    (readStreams ctx (bits d 255 208) (blobStr d) 0 o s).bind fun es s =>
      if bits d 351 320 * 256 < blobLen (blobStr d) o.nvec o.h then .err (.fatal stShape) s else .ok (o, es) s
/-- The header of a blob, DIGEST zero (R225). -/
def blobHead (o : StObj) (n : Nat) : Nat :=
  0x54535753 + 0x01 <<< 40 + blobLen n o.nvec o.h <<< 64 + n <<< 128 + o.h <<< 160 + o.nvec <<< 192 + o.tag <<< 640
/-- Reads the vectors of a bank of a slot as bytes, in the order of R208. -/
def bankBytes (ctx : Nat) (o : StObj) (k b : Nat) (s : Mach) : Res (List Byte) :=
  s.readVa ctx (o.vec k b 0) (4 * o.nvec * o.h)
/-- The work of an export (R226): every record, then the digest. -/
def blobExport (ctx d : Nat) (o : StObj) (es : List Nat) (s : Mach) : Res Unit :=
  (foldRes (fun (acc : List Byte) e s =>
    (bankBytes ctx o (streamSlot e) (bits d 256 256) s).bind fun a s => (bankBytes ctx o (streamSlot e) 2 s).bind fun b s =>
      .ok (acc ++ toBytes 64 (streamSlot e) ++ a ++ b) s) (toBytes 128 (blobHead o es.length)) es s).bind fun l s =>
  (s.writeVa ctx (bits d 319 272) l).bind fun _ s => s.writeVa ctx (bits d 319 272 + 96) (sha256 l)
/-- Whether the records of a blob, as its own header lays them out, have no reserved bit set. -/
def recordsOk (nvec h : Nat) : Nat → List Byte → Bool
  | 0, _ => true
  | _, [] => true
  | n + 1, l => ofBytes (l.take 64) < 2 ^ 22 && recordsOk nvec h n (l.drop (64 + 8 * nvec * h))
/-- The checks of R226 on a blob of the given bytes at the buffer's length, in order: the code of the first that fails. -/
def blobJudge (o : StObj) (n cap : Nat) (head : Nat) (l : List Byte) : Nat :=
  let nrec := bits head 159 128
  let h := bits head 191 160
  let nvec := bits head 199 192
  if bits head 31 0 ≠ 0x54535753 ∨ bits head 47 40 ≠ 1 ∨ bits head 39 32 ≠ 0 ∨
      !zeroFields head [(639, 200), (63, 48)] ∨ !recordsOk nvec h nrec (l.drop 128) then stVersion
  else if bits head 127 64 ≠ blobLen nrec nvec h ∨ bits head 127 64 > cap then stShape
  else if h ≠ o.h ∨ nvec ≠ o.nvec ∨ bits head 767 640 ≠ o.tag ∨ nrec ≠ n then stShape
  else if l.take 96 ++ List.replicate 32 0#8 ++ l.drop 128 |> sha256 |> (· == toBytes 32 (bits head 1023 768)) then stOk
  else stDigest
/-- The work of an import (R226): the status code, with the slots written where it is ST_OK. -/
def blobImport (ctx d : Nat) (o : StObj) (es : List Nat) (s : Mach) : Res Nat :=
  let cap := bits d 351 320 * 256
  let va := bits d 319 272
  (s.readVa ctx va 128).bind fun hb s =>
    let head := ofBytes hb
    -- what the blob's own header names, no further than the buffer
    let len := min cap (max 128 (blobLen (bits head 159 128) (bits head 199 192) (bits head 191 160)))
    (s.readVa ctx va len).bind fun l s =>
      let st := blobJudge o es.length cap head l
      if st ≠ stOk then .ok st s
      else
        let n := 4 * o.nvec * o.h
        (eachRes (fun (x : Nat × Nat) s =>
          let r := l.drop (128 + x.2 * (64 + 2 * n) + 64)
          (s.writeVa ctx (o.vec (streamSlot x.1) (bits d 256 256) 0) (r.take n)).bind fun _ s =>
            s.writeVa ctx (o.vec (streamSlot x.1) 2 0) ((r.drop n).take n)) es.zipIdx s).bind fun _ s => .ok stOk s
/-- STATE_EXPORT or STATE_IMPORT as a command, check and work together (R224, R226). -/
def flaskWork (cmd : Cmd) (s : Mach) : Res Unit :=
  let d := cmd.desc
  let imp := dOp d == 12
  let status := bits d 399 352
  if imp == (status == 0) then .err (.fatal stShape) s
  else (blobCheck cmd.ctx d s).bind fun x s =>
    if imp then (blobImport cmd.ctx d x.1 x.2 s).bind fun st s => s.writeWord cmd.ctx status 8 st
    else blobExport cmd.ctx d x.1 x.2 s

end Sys2Proof.Machine
end

