-- ==== Sys2Proof/Machine/Alarm.lean ====
section
/-! DEFINITION. Machine/Alarm.lean: FAULT_N, dangerous failures and lost conditions (17_functional_safety.md R404, R411,
R412, R420, R421), and the readings of the temperature sensors (19_clocks_power_startup.md R453). -/

namespace Sys2Proof.Machine

/-- An event asserts FAULT_N (R411): the first one's MECH and uptime are kept. -/
def Mach.assertFault (s : Mach) (mech : Byte) : Mach :=
  if s.faultN then s
  else ((s.setField (safReg 0) 15 8 mech.toNat).setField (safReg 0) 31 31 1).setReg (safReg 4) (w32 s.uptime)
/-- A dangerous failure (R404, R411): its record becomes due and FAULT_N is asserted. -/
def Mach.dangerous (s : Mach) (r : RecordReq) : Mach :=
  ({ s.recordDueAs r (!s.faultN) with danger := true } : Mach).assertFault r.mech
/-- A condition of R420 stops holding (R421): GUARANTEE falls for good, FAULT_N is asserted, a record becomes due. -/
def Mach.conditionLost (s : Mach) (n : Nat) : Mach :=
  let r : RecordReq := { mech := 0x30#8, unit := w32 n, die := 0#2, source := 0x3FF#10, status := 0#16, detail := [] }
  ((s.setField (safReg 0) 29 29 0).recordDueAs r (!s.faultN)).assertFault 0x30#8

/-! ## Sensors (19 R442, R453) -/

/-- Whether an island is clocked: island 19 of dies 1 to 3 never is. -/
def islandClocked (g : Nat) : Bool := g < 80 && !([39, 59, 79].contains g)
/-- A sensor's number in records (17 R483): kind · 2^28 + number. -/
def sensorUnit : Sensor → Nat
  | .island i => i.val
  | .stack g => 2 ^ 28 + g.toNat
  | .package p => 2 * 2 ^ 28 + p.toNat
  | .regulator r => 3 * 2 ^ 28 + r.val
/-- The thresholds of a sensor, by its number in records, in 1/16 °C: throttle, alert, rating limit. -/
def sensorLimits (k : Nat) : Int × Int × Int :=
  if k / 2 ^ 28 = 0 then (16 * 95, 16 * 100, 16 * 105)
  else if k / 2 ^ 28 = 3 then (16 * 110, 16 * 115, 16 * 125)
  else (16 * 85, 16 * 90, 16 * 95)
/-- The last reading of a sensor, by its number in records, in 1/16 °C: an island's is in CLK_TEMP. -/
def Mach.reading (s : Mach) (k : Nat) : Int :=
  if k < 2 ^ 28 then ((s.reg (clkReg k 0x20)).setWidth 16).toInt else (tabGet (fun _ => 0#16) s.readings k).toInt
/-- Whether every sensor is 5 °C or more below its alert threshold. -/
def Mach.allCool (s : Mach) : Bool :=
  ((List.range 80).all fun g => decide (s.reading g ≤ (sensorLimits g).2.1 - 80)) &&
    s.readings.all fun p => decide (p.2.toInt ≤ (sensorLimits p.1).2.1 - 80)
/-- A sensor is read. THERM_ALERT_N is asserted from the sensor's alert threshold and released once every sensor is 5 °C or more
below its own. -/
def Mach.sense (s : Mach) (x : Sensor) (t : BitVec 16) : Mach :=
  let k := sensorUnit x
  let s := if k < 2 ^ 28 then (if islandClocked k then s.setReg (clkReg k 0x20) (t.setWidth 32) else s)
    else { s with readings := tabSet (fun _ => 0#16) s.readings k t }
  if decide (t.toInt ≥ (sensorLimits k).2.1) then s.setField (devReg 0x80) 29 29 1
  else if s.allCool then s.setField (devReg 0x80) 29 29 0
  else s
/-- A reading in whole degrees. -/
def degrees (c : Nat) : BitVec 16 := BitVec.ofNat 16 (16 * c)

end Sys2Proof.Machine
end

