-- ==== Sys2Proof/Machine/Pages.lean ====
section
/-! DEFINITION. Machine/Pages.lean: page pools, lists and the ledger: registration of walkers and the page-class commands
(08_attention_and_rollout_tree.md R191 to R206; 06_ladle_units.md R144, R147). Every access to a control object goes
through the owning context's translation. -/

namespace Sys2Proof.Machine

/-! ## Control objects (R191, R192) -/

/-- A page pool as its control object describes it. -/
structure PoolView where
  pool : Nat
  ctrl : Nat
  npages : Nat
  nlists : Nat
  cap : Nat
  area : Nat
  deriving DecidableEq, Repr
/-- Whether a number is a page pool of a context. -/
def Mach.ownsPool (s : Mach) (ctx p : Nat) : Bool := (s.pool p).live && !(s.pool p).stash && (s.pool p).ctx == ctx
/-- The view of a pool whose control object's header begins with the given 512 bits. -/
def Mach.viewOf (s : Mach) (p h : Nat) : PoolView :=
  { pool := p, ctrl := (s.pool p).ctrlVa, npages := bits h 63 32, nlists := bits h 207 176, cap := bits h 175 160,
    area := bits h 319 272 }
/-- The header of a pool of a context. -/
def Mach.poolHead (s : Mach) (ctx p : Nat) : Res Nat :=
  if !s.ownsPool ctx p then .err (.fatal stPerm) s else s.readWord ctx (s.pool p).ctrlVa 64
/-- The view of a pool of a context. -/
def Mach.poolView (s : Mach) (ctx p : Nat) : Res PoolView := (s.poolHead ctx p).bind fun h s => .ok (s.viewOf p h) s
/-- Address of ledger entry i. -/
def PoolView.ledger (v : PoolView) (i : Nat) : Nat := v.ctrl + 0x100 + 4 * i
/-- Address of free-stack entry j. -/
def PoolView.stack (v : PoolView) (j : Nat) : Nat := v.ctrl + 0x100 + roundUp (4 * v.npages) 256 + 4 * j
/-- Address of list slot k. -/
def PoolView.slot (v : PoolView) (k : Nat) : Nat :=
  v.ctrl + 0x100 + 2 * roundUp (4 * v.npages) 256 + k * roundUp (64 + 8 * v.cap) 256
/-- Address of page i. -/
def PoolView.page (v : PoolView) (i : Nat) : Nat := (v.area + 65536 * i) % 2 ^ 48

/-- A list header. -/
structure ListView where
  va : Nat
  word : Nat
  count : Nat
  copyAll : Bool
  tpp : Nat
  deriving DecidableEq, Repr
/-- The list whose header, at an address, holds the given bits. -/
def listOf (va h : Nat) : ListView :=
  { va := va, word := bits h 31 0, count := bits h 63 32, copyAll := bit h 67, tpp := bits h 71 68 }
/-- Reads a list header. -/
def readList (ctx va : Nat) (s : Mach) : Res ListView := (s.readWord ctx va 64).bind fun h s => .ok (listOf va h) s
/-- LIVE and not PEND. -/
def ListView.open' (l : ListView) : Bool := l.word.testBit 29 && !l.word.testBit 30
/-- Whether the slot is free (R192). -/
def ListView.free (l : ListView) : Bool := bits l.word 30 0 == 0
/-- The first n page indices of a list. -/
def readEntries (ctx : Nat) (l : ListView) (n : Nat) (s : Mach) : Res (List Nat) :=
  (s.readVa ctx (l.va + 64) (8 * n)).bind fun b s => .ok ((wordsOf 8 b).map fun e => bits e 23 0) s
/-- Writes page indices as entries i onward of the list at an address. -/
def writeEntries (ctx va i : Nat) (ps : List Nat) (s : Mach) : Res Unit :=
  s.writeVaAs ctx (va + 64 + 8 * i) (ps.flatMap fun p => toBytes 8 p) true
/-- ADD.I32 by requester r on a word of a control object; the old value. -/
def ctrlAdd (r ctx va : Nat) (i : Int) (s : Mach) : Res Nat :=
  s.atomic r ctx va 4 (fun o => wrap 32 ((o : Int) + i)) true true
/-- Adds a command's net changes to REFS and ENTRIES (R200); their words stand at bytes 26 and 30 of the header. -/
def addNet (ctx : Nat) (v : PoolView) (n : Int) (s : Mach) : Res Unit :=
  (s.readWord ctx (v.ctrl + 26) 4).bind fun r s =>
  (s.ownWord ctx (v.ctrl + 26) 4 (wrap 32 ((r : Int) + n))).bind fun _ s =>
  (s.readWord ctx (v.ctrl + 30) 4).bind fun e s => s.ownWord ctx (v.ctrl + 30) 4 (wrap 32 ((e : Int) + n))

/-! ## Roots and walkers (R194 to R196) -/

/-- A root word names a list slot of a pool of the context (R194). -/
def checkRoot (ctx r : Nat) (s : Mach) : Res (PoolView × Nat) :=
  (s.poolView ctx (bits r 45 32)).bind fun v s =>
    if !zeroFields r [(31, 22), (63, 46)] || bits r 21 0 ≥ v.nlists then .err (.fatal stShape) s
    else .ok (v, bits r 21 0) s
/-- A deferred free is requested (R205), counted by a cluster's command processor. -/
def requestFree (cluster pool va : Nat) (s : Mach) : Mach :=
  ({ s with deferred := s.deferred ++ [(pool, va)] } : Mach).bump (clReg cluster 0x28) 1
/-- The cluster of a command's slot 0, the lowest of its die where it has none. -/
def Cmd.cluster0 (c : Cmd) : Nat := match c.slots with
  | x :: _ => x.cluster
  | [] => 8 * c.die
/-- Registers a walker on the list that a root names and answers its snapshot (R195). A registration is one step, so the
root reads the same twice and no attempt is repeated. -/
def registerOne (ctx cluster root : Nat) (s : Mach) : Res Walker :=
  let me := 512 + cluster
  (s.atomic me ctx root 8 id false false).bind fun r s =>
  (checkRoot ctx r s).bind fun x s =>
    let va := x.1.slot x.2
    (ctrlAdd me ctx va 1 s).bind fun old s =>
    (s.atomic me ctx root 8 id false false).bind fun _ s =>
      if old.testBit 29 && !old.testBit 30 then
        (readList ctx va s).bind fun l s => .ok { pool := x.1.pool, list := va, count := l.count, tpp := l.tpp } s
      else (ctrlAdd me ctx va (-1) s).bind fun old2 s =>
        .err (.fatal stListState) (if old2 = 0x60000001 then requestFree cluster x.1.pool va s else s)
/-- The 128 bits of a snapshot. -/
def Walker.word (w : Walker) : Nat := w.list % 2 ^ 48 + (w.count % 2 ^ 32) <<< 64 + (w.tpp % 16) <<< 96
/-- Registers a command for every sequence it is not yet registered for, writes the snapshots still to write and makes the
check that ends registration (R195). The registrations stand in the command, whose teardown or retirement releases them. -/
def registerWalkers (id : Nat) (s : Mach) : Res Unit :=
  match s.cmd? id with
  | none => .ok () s
  | some cmd =>
    let d := cmd.desc
    if !isAttn (dOp d) || bits d 456 449 = 0 then .ok () s
    else (eachRes (fun (x : Nat × Nat) s =>
      match s.cmd? id with
      | none => .ok () s
      | some c =>
        if x.2 < c.snaps then .ok () s
        else (match c.walkers[x.2]? with
          | some w => Res.ok w s
          | none => (registerOne cmd.ctx cmd.cluster0 ((seqOf x.1).roots + 8 * bits d 389 384) s).bind fun w s =>
              .ok w (s.setCmd { c with walkers := c.walkers ++ [w] })).bind fun w s =>
          (s.writeWord cmd.ctx (bits d 287 240 + 16 * x.2) 16 w.word).bind fun _ s =>
            .ok () (match s.cmd? id with
              | some c => s.setCmd { c with snaps := x.2 + 1 }
              | none => s)) cmd.lt.zipIdx s).bind fun _ s =>
      match s.cmd? id with
      | none => .ok () s
      | some c => Res.check ((cmd.lt.zip c.walkers).all fun x => (seqOf x.1).kLen ≤ x.2.count * 2 ^ x.2.tpp) stShape s
/-- A cluster's command processor deregisters a walker (R195); where it must wait, for a held channel, a credit or a promotion,
it does so later. -/
def releaseWalker (cluster ctx : Nat) (w : Walker) (s : Mach) : Mach :=
  let later := fun (s : Mach) => ({ s with walkDue := s.walkDue ++ [(cluster, ctx, w)] } : Mach)
  match ctrlAdd (512 + cluster) ctx w.list (-1) s with
  | .ok old s => if old = 0x60000001 then requestFree cluster w.pool w.list s else s
  | .err (.held _) _ => later s
  | .err (.credit r g) _ => later (s.awaitCredit r g)
  | .err (.restart _) s => later s
  | .err (.slot _) _ => later s
  | .err (.fatal _) s => s
/-- The release of a command's registrations at retirement, abort or teardown (R195). -/
def releaseWalkers (cmd : Cmd) (s : Mach) : Mach := each (releaseWalker cmd.cluster0 cmd.ctx) cmd.walkers s
/-- The deregistrations that wait are tried again. -/
def Mach.retryWalkers (s : Mach) : Mach :=
  if s.walkDue.isEmpty then s
  else each (fun (x : Nat × Nat × Walker) s => releaseWalker x.1 x.2.1 x.2.2 s) s.walkDue { s with walkDue := [] }

/-! ## Check phase (R201, R202) -/

/-- NFUT and NLIST. -/
def pFut (d : Nat) : Nat := bits d 351 336 + 1
/-- Lists per future. -/
def pList (d : Nat) : Nat := bits d 357 352 + 1
/-- NPG. -/
def pPg (d : Nat) : Nat := bits d 371 364 + 1
/-- Whether no reserved field, and no field of another command, is used (R201, R202). -/
def pageFieldsOk (d : Nat) : Bool :=
  zeroFields d [(511, 372), (335, 334), (175, 142)] &&
  (match dOp d with
    | 8 => zeroFields d [(371, 358)] && pList d ≤ bits d 287 272
    | 9 => bits d 223 176 == 0 && bits d 311 288 == 0 && pList d ≤ bits d 287 272 &&
        (if bit d 358 then bits d 363 360 ≤ 10 else zeroFields d [(363, 359), (333, 312)])
    | _ => zeroFields d [(371, 352), (333, 272), (223, 176)])
/-- The (future, list) pairs of a command in order f, then l. -/
def pagePairs (d : Nat) : List (Nat × Nat) :=
  (List.range (pFut d)).flatMap fun f => (List.range (pList d)).map fun l => (f, l)
/-- The slot a future's list is created in. -/
def newSlot (d : Nat) (x : Nat × Nat) : Nat := bits d 333 312 + x.1 * pList d + x.2
/-- Where a future's root stands. -/
def rootVa (d : Nat) (x : Nat × Nat) : Nat := bits d 271 224 + 8 * (x.1 * bits d 287 272 + x.2)
/-- Whether a list of numbers names one twice. -/
def repeats : List Nat → Bool
  | [] => false
  | a :: l => l.contains a || repeats l

/-- The slots that root words at addresses name, all in one pool. -/
def rootSlots (ctx : Nat) (v : PoolView) (vas : List Nat) (s : Mach) : Res (List Nat) :=
  foldRes (fun (acc : List Nat) va s => (s.readWord ctx va 8).bind fun r s => (checkRoot ctx r s).bind fun x s =>
    if x.1.pool ≠ v.pool then .err (.fatal stShape) s else .ok (acc ++ [x.2]) s) [] vas s
/-- Reads list headers. -/
def readHeads (ctx : Nat) (v : PoolView) (ks : List Nat) (s : Mach) : Res (List Nat) :=
  foldRes (fun (acc : List Nat) k s => (s.readWord ctx (v.slot k) 64).bind fun h s => .ok (acc ++ [h]) s) [] ks s
/-- The lists of slots with the given headers. -/
def listsOf (v : PoolView) (ks hs : List Nat) : List ListView := (ks.zip hs).map fun x => listOf (v.slot x.1) x.2
/-- Pages of a parent that a FORK copies for each future: the first and the number. -/
def forkCopies (tokens : Nat) (l : ListView) : Nat × Nat :=
  if l.copyAll then (0, l.count) else (tokens / 2 ^ l.tpp, b2n (tokens % 2 ^ l.tpp != 0))
/-- The take of n pages from the free stack, the last act of the check phase (R144, R200). -/
def takePages (ctx : Nat) (v : PoolView) (n : Nat) (s : Mach) : Res (List Nat) :=
  (s.readWord ctx v.ctrl 4).bind fun f s =>
    if f < n then .err (.fatal stPoolEmpty) s
    else if n = 0 then .ok [] s
    else (s.readVa ctx (v.stack (f - n)) (4 * n)).bind fun b s =>
      let ps := (wordsOf 4 b).reverse
      (eachRes (fun p s => s.checkRange ctx (v.page p) 65536 .write false) ps s).bind fun _ s =>
      let g := homeSlice s ctx v.ctrl
      (ctrlAdd (544 + g) ctx v.ctrl (-(n : Int)) s).bind fun _ s => .ok ps (s.bump (ldlReg g 0x30) n)

/-- The check phase of FORK, APPEND_PAGE and FREE_LIST (R202): the command with the pool's header and, by slot and header, the
lists it names (parents, or the lists it changes) in `lt`, and the pages it took in `aux`. A deferred free has nothing to
refuse (R205). -/
def pageCheck (cmd : Cmd) (s : Mach) : Res Cmd :=
  let d := cmd.desc
  let op := dOp d
  let ctx := cmd.ctx
  (s.poolHead ctx (bits d 141 128)).bind fun head s =>
  let v := s.viewOf (bits d 141 128) head
  if cmd.free.isSome then .ok { cmd with lt := [head], aux := [] } s
  else if !pageFieldsOk d then .err (.fatal stShape) s
  else
    let create := op == 8 || (op == 9 && bit d 358)
    let news := if create then (pagePairs d).map (newSlot d) else []
    if news.any fun k => k ≥ v.nlists then .err (.fatal stShape) s
    else (match op with
      | 8 => rootSlots ctx v ((List.range (pList d)).map fun l => bits d 223 176 + 8 * l) s
      | 9 => if create then .ok [] s else rootSlots ctx v ((pagePairs d).map (rootVa d)) s
      | _ => (s.readVa ctx (bits d 271 224) (4 * pFut d)).bind fun b s =>
          if (wordsOf 4 b).any fun k => k ≥ v.nlists then .err (.fatal stShape) s else .ok (wordsOf 4 b) s).bind
      fun slots s =>
    (readHeads ctx v slots s).bind fun hs s =>
    let ls := listsOf v slots hs
    let tokens := bits d 311 288
    let shape := match op with
      | 8 => ls.all fun l => l.copyAll || ceilDiv tokens (2 ^ l.tpp) ≤ l.count
      | 9 => (create || ls.all fun l => l.count + pPg d ≤ v.cap) && (!create || pPg d ≤ v.cap)
      | _ => true
    if !shape then .err (.fatal stShape) s
    else (readHeads ctx v news s).bind fun ns s =>
    if !(ls.all fun l => l.open') || !((listsOf v news ns).all fun l => l.free) || repeats (slots ++ news) then
      .err (.fatal stListState) s
    else (if op = 10 then Res.ok () s else eachRes (fun f s =>
        s.checkRange ctx (rootVa d (f, 0)) (8 * pList d) (if create then .write else .read) false)
        (List.range (pFut d)) s).bind fun _ s =>
    (if op = 8 then eachRes (fun l s => let k := forkCopies tokens l
        (readEntries ctx l (k.1 + k.2) s).bind fun es s =>
          eachRes (fun p s => s.checkRange ctx (v.page p) 65536 .read false) (es.drop k.1) s) ls s
      else .ok () s).bind fun _ s =>
    let need := match op with
      | 8 => pFut d * (ls.foldl (fun a l => a + (forkCopies tokens l).2) 0)
      | 9 => pFut d * pList d * pPg d
      | _ => 0
    (takePages ctx v need s).bind fun ps s =>
      let named := (slots.zip hs).flatMap fun (x : Nat × Nat) => [x.1, x.2]
      .ok { cmd with lt := head :: named, aux := ps } s

/-! ## Work (R203 to R205) -/

/-- The ledger entries of new pages become 1, from the 0 of a free page, by one ADD.I32 each of requester r (R193; 06 R158). -/
def ledgerOne (r ctx : Nat) (v : PoolView) (ps : List Nat) (s : Mach) : Res Unit :=
  eachRes (fun p s => (ctrlAdd r ctx (v.ledger p) 1 s).bind fun _ s => .ok () s) ps s
/-- The slots that a command's check phase read, with their headers. -/
def pairsOf : List Nat → List (Nat × Nat)
  | a :: b :: l => (a, b) :: pairsOf l
  | _ => []
/-- The lists that a page-class command names, as its check phase read them. -/
def Cmd.lists (cmd : Cmd) (v : PoolView) : List ListView := (pairsOf (cmd.lt.drop 1)).map fun x => listOf (v.slot x.1) x.2
/-- The entries i0 to i0 + n − 1 of the list at an address that are in unit g's share, as (first, number) (R145). -/
def entryPieces (s : Mach) (cmd : Cmd) (g va i0 n : Nat) : List (Nat × Nat) :=
  (sharePieces s cmd g (va + 64 + 8 * i0) (8 * n)).map fun p => ((p.1 - va - 64) / 8, p.2 / 8)
/-- Whether the share of unit g is the last that a list at an address waits for: those of its header and of entries i0 to
i0 + n − 1 (R145). -/
def lastPart (s : Mach) (cmd : Cmd) (g va i0 n : Nat) : Bool :=
  let us := s.unitOf cmd va :: (granuleParts (va + 64 + 8 * i0) (8 * n)).map fun p => s.unitOf cmd p.1
  us.contains g && cmd.shares.all fun x => x == g || !us.contains x
/-- A list of n entries is complete: its header with state word 0x2000_0000, then its root (R203, R204). -/
def createList (ctx : Nat) (v : PoolView) (k tpp : Nat) (copyAll : Bool) (n root : Nat) (s : Mach) : Res Unit :=
  (s.ownWord ctx (v.slot k) 64 (0x20000000 + (n % 2 ^ 32) <<< 32 + (b2n copyAll) <<< 67 + (tpp % 16) <<< 68)).bind
    fun _ s => s.writeWord ctx root 8 (k + v.pool <<< 32)
/-- Unit g's share of FORK (R203): it raises the counts of the shared pages whose parent entries it holds, once per parent, copies
and enters the pages whose entries in the future lists it holds, and of a list that waits for no other unit writes header and root. -/
def forkShare (cmd : Cmd) (v : PoolView) (g : Nat) (s : Mach) : Res Unit :=
  let d := cmd.desc
  let ctx := cmd.ctx
  let tokens := bits d 311 288
  let ls := cmd.lists v
  let counts := ls.map fun l => (forkCopies tokens l).2
  let total := counts.foldl (fun a n => a + n) 0
  (eachRes (fun l s => if l.copyAll then .ok () s
    else (readPieces ctx (sharePieces s cmd g (l.va + 64) (8 * (tokens / 2 ^ l.tpp))) s).bind fun b s =>
      eachRes (fun e s => (ctrlAdd (544 + g) ctx (v.ledger (bits e 23 0)) (pFut d : Nat) s).bind fun _ s => .ok () s)
        (wordsOf 8 b) s) ls s).bind fun _ s =>
  (eachRes (fun (x : Nat × Nat) s =>
    match ls[x.2]? with
    | none => .ok () s
    | some l =>
      let k := forkCopies tokens l
      let va := v.slot (newSlot d x)
      let mine := (cmd.aux.drop (x.1 * total + (counts.take x.2).foldl (fun a n => a + n) 0)).take k.2
      (eachRes (fun (p : Nat × Nat) s =>
        (s.readVa ctx (l.va + 64 + 8 * p.1) (8 * p.2)).bind fun b s =>
        let es := ((wordsOf 8 b).map fun e => bits e 23 0).zipIdx.map fun e => (p.1 + e.2, e.1)
        let new := (es.filter fun e => k.1 ≤ e.1).map fun e => (e.2, nth mine (e.1 - k.1))
        (eachRes (fun (y : Nat × Nat) s => (copyVa ctx (v.page y.1) (v.page y.2) 65536 .none s).bind fun _ s =>
          .ok () (s.bump (ldlReg (homeSlice s ctx v.ctrl) 0x38) 1)) new s).bind fun _ s =>
        (ledgerOne (544 + g) ctx v (new.map fun y => y.2) s).bind fun _ s =>
          writeEntries ctx va p.1 (es.map fun e => if e.1 < k.1 then e.2 else nth mine (e.1 - k.1)) s)
        (entryPieces s cmd g va 0 (k.1 + k.2)) s).bind fun _ s =>
      if lastPart s cmd g va 0 (k.1 + k.2) then createList ctx v (newSlot d x) l.tpp l.copyAll (k.1 + k.2) (rootVa d x) s
      else .ok () s) (pagePairs d) s)
/-- n bytes at an address take values that the spec leaves undefined, by no access of any unit. -/
def undefinedVa (ctx va n : Nat) (s : Mach) : Mach :=
  each (fun (p : Nat × Nat) s => match s.leafAt ctx p.1 with
    | some m => match (s.obj m.obj).pa (p.1 - m.va) with
      | some pa => let x := s.freshBytes (p.2 / 8); x.2.putBytes pa x.1
      | none => s
    | none => s) (rangePieces va n) s
/-- Unit g's share of APPEND_PAGE (R204): the entries it holds and their pages; of a list that waits for no other unit, header and
root, or the raised COUNT. -/
def appendShare (cmd : Cmd) (v : PoolView) (g : Nat) (s : Mach) : Res Unit :=
  let d := cmd.desc
  let ctx := cmd.ctx
  let n := pPg d
  let ls := cmd.lists v
  eachRes (fun (x : (Nat × Nat) × Nat) s =>
    let pages := (cmd.aux.drop (n * x.2)).take n
    let (va, i0) := if bit d 358 then (v.slot (newSlot d x.1), 0) else (ls[x.2]?.map fun l => (l.va, l.count)).getD (0, 0)
    (eachRes (fun (p : Nat × Nat) s =>
      let mine := (pages.drop (p.1 - i0)).take p.2
      let s := each (fun p s => undefinedVa ctx (v.page p) 65536 s) mine s
      (ledgerOne (544 + g) ctx v mine s).bind fun _ s => writeEntries ctx va p.1 mine s) (entryPieces s cmd g va i0 n) s).bind
        fun _ s =>
      if !lastPart s cmd g va i0 n then .ok () s
      else if bit d 358 then createList ctx v (newSlot d x.1) (bits d 363 360) (bit d 359) n (rootVa d x.1) s
      else s.ownWord ctx (va + 4) 4 (i0 + n)) (pagePairs d).zipIdx s
/-- Unit g, which holds a list's header, releases it (R205), each reference by the unit that holds its entry (R145; log entry 48): the
entries whose references are given up. -/
def releaseList (cmd : Cmd) (g : Nat) (v : PoolView) (va : Nat) (s : Mach) : Res Nat :=
  let me := 544 + g
  let ctx := cmd.ctx
  (s.atomic me ctx va 4 (fun o => o ||| 0x80000000) true true).bind fun old s =>
    if old.testBit 31 then .ok 0 s
    else (readList ctx va s).bind fun l s => (readEntries ctx l l.count s).bind fun es s =>
      (eachRes (fun (p : Nat × Nat) s =>
        let u := s.unitOf cmd (va + 64 + 8 * p.2)
        (ctrlAdd (544 + u) ctx (v.ledger p.1) (-1) s).bind fun c s =>
        let s := if (w32 c).toInt ≤ 0 then s.dangerous
            { mech := 0x05#8, unit := w32 (4 <<< 24 + v.pool), die := 0#2, source := 0x3FF#10, status := 0#16, detail := [] }
          else s
        if c = 1 then
          (ctrlAdd (544 + u) ctx v.ctrl 1 s).bind fun f s => (s.ownWord ctx (v.stack f) 4 p.1).bind fun _ s =>
            .ok () (s.bump (ldlReg (homeSlice s ctx v.ctrl) 0x34) 1)
        else .ok () s) es.zipIdx s).bind fun _ s =>
      (s.atomic me ctx va 4 (fun o => bits o 31 31 <<< 31 ||| bits o 28 0) true true).bind fun _ s => .ok es.length s
/-- Unit g's share of FREE_LIST (R205), of the lists whose headers it holds: the references given up. -/
def freeShare (cmd : Cmd) (v : PoolView) (g : Nat) (s : Mach) : Res Nat :=
  let ctx := cmd.ctx
  foldRes (fun (n : Nat) (l : ListView) s =>
    if s.unitOf cmd l.va ≠ g then .ok n s
    else (s.atomic (544 + g) ctx l.va 4 (fun o => o ||| 0x40000000) true true).bind fun old s =>
      if bits old 28 0 = 0 then (releaseList cmd g v l.va s).bind fun m s => .ok (n + m) s else .ok n s) 0 (cmd.lists v) s
/-- Unit g's share of a deferred free: the release, where it holds the list's header (R205). -/
def deferredShare (cmd : Cmd) (v : PoolView) (va g : Nat) (s : Mach) : Res Nat :=
  if s.unitOf cmd va ≠ g then .ok 0 s else releaseList cmd g v va s
/-- Unit g's share of a page-class command; poison is fatal in it (R147). The last share adds the net changes (R200); `aux` of
a FREE_LIST counts the references given up so far. -/
def pageShare (cmd : Cmd) (g : Nat) (s : Mach) : Res Unit :=
  let d := cmd.desc
  let v := s.viewOf (bits d 141 128) (cmd.lt.headD 0)
  let last := cmd.shares.all fun x => x == g
  let net := fun (n : Int) (s : Mach) => if last && n != 0 then addNet cmd.ctx v n s else .ok () s
  let freed := fun (n : Nat) (s : Mach) =>
    let m := nth cmd.aux 0 + n
    if last then net (-(m : Int)) s
    else match s.cmd? cmd.id with
      | some c => .ok () (s.setCmd { c with aux := [m] })
      | none => .ok () s
  inPlace (match cmd.free with
  | some (_, va) => (deferredShare cmd v va g s).bind freed
  | none => match dOp d with
    | 8 => (forkShare cmd v g s).bind fun _ s =>
        net (pFut d * (cmd.lists v).foldl (fun a l =>
          a + (forkCopies (bits d 311 288) l).1 + (forkCopies (bits d 311 288) l).2) 0 : Nat) s
    | 9 => (appendShare cmd v g s).bind fun _ s => net (pFut d * pList d * pPg d : Nat) s
    | _ => (freeShare cmd v g s).bind freed)

end Sys2Proof.Machine
end

