-- ==== Sys2Proof/Machine/Commands.lean ====
section
/-! DEFINITION. Machine/Commands.lean: what the dispatchers and command processors check of a command, its conditions,
branches and signals, and its completion (14_scheduling_and_preemption.md R324, R327 to R334, R336, R344;
05_core_tiles_and_fusion.md R138 to R140; 10_backward_pass.md R238, R239; 08 R180, R181, R186; 15 R367, R385). -/

namespace Sys2Proof.Machine

/-! ## Queues and clusters -/

/-- The home die of a die mask (R326). -/
def homeDie (mask : Nat) : Nat := ((List.range 4).find? fun d => mask.testBit d).getD 0
/-- Unfenced clusters of a die mask. -/
def Mach.openClusters (s : Mach) (mask : Nat) : List Nat :=
  (List.range 32).filter fun k => mask.testBit (k / 8) && !(s.cluster k).fenced
/-- The queue once entry p is behind RD_PTR: state active, and nothing kept for entries before p + 1. -/
def QueueSt.passed (x : QueueSt) (p : Nat) : QueueSt :=
  { x with rd := p + 1, state := 1#2, jobs := x.jobs.filter fun j => decide (p + 1 < j.1),
           pins := x.pins.filter (fun y => y.1 != p), pinDue := x.pinDue.filter (fun y => y != p), extents := x.extents.filter fun e => decide (p + 1 < e),
           skips := x.skips.filter fun k => decide (p + 1 < k.2) }
/-- The job that entry p of a queue belongs to (R324). -/
def QueueSt.jobOf (x : QueueSt) (p : Nat) : Option Nat := (x.jobs.find? fun j => decide (p < j.1)).map fun j => j.2
/-- Whether entry p lies on a skipped path (05 R140). -/
def QueueSt.skipping (x : QueueSt) (p : Nat) : Bool := x.skips.any fun k => decide (k.1 ≤ p) && decide (p < k.2)
/-- Changes the totals of a die's dispatcher (17 R417). -/
def Mach.tally (s : Mach) (die : Nat) (f : SchedSt → SchedSt) : Mach := s.setSched die (f (s.sched die))

/-! ## Header checks (R329) -/

/-- Opcodes with FORM 1 (R328). -/
def formOk (op : Nat) : Bool := 1 ≤ op && op ≤ 5
/-- Enabled conditions of a WAIT, each 64 bits (R333). -/
def waitConds (d : Nat) : List Nat :=
  ((List.range 4).map fun i => bits d (191 + 64 * i) (128 + 64 * i)).filter fun c => c.testBit 49
/-- Operations of a SIGNAL, each 64 bits (R334). -/
def signalOps (d : Nat) : List Nat := (List.range 4).map fun i => bits d (191 + 64 * i) (128 + 64 * i)
/-- Synchronisation objects a descriptor names that R329 checks. -/
def namedSyncs (d : Nat) : List Nat :=
  (if dSigOp d = 0 then [] else [dSigObj d]) ++
  (if dOp d = 0x11 then (waitConds d).map fun c => bits c 45 32 else []) ++
  (if dOp d = 0x12 then ((signalOps d).filter fun c => bits c 47 46 != 0).map fun c => bits c 45 32 else [])
/-- R329 in table order: the code of the first row that applies. -/
def headerCode (s : Mach) (q d : Nat) : Option Nat :=
  let x := s.queue q
  let op := dOp d
  if bits d 15 10 ≠ 0 ∨ op = 0 ∨ op > 0x13 ∨ (dForm d ∧ !formOk op) ∨ ((op = 6 ∨ op = 7) ∧ dSlots d ≠ 1) then some stShape
  else if isCoreOp op && dSlots d > 4 * (s.openClusters x.dieMask).length then some stShape
  else if (namedSyncs d).any fun o => !s.ownsSync o x.ctx then some stPerm
  else none

/-! ## Conditions and branches -/

/-- The comparisons of R138; 6 and 7 are reserved and never hold. -/
def cmpHolds (cmp v operand : Nat) : Bool :=
  match cmp with
  | 0 => operand ≤ v
  | 1 => v < operand
  | 2 => v == operand
  | 3 => v != operand
  | 4 => v &&& operand != 0
  | 5 => v &&& operand == 0
  | _ => false
/-- Whether the conditions of a WAIT make it complete, each a condition with the count read for it (R333). -/
def condsHold (d : Nat) (l : List (Nat × Nat)) : Bool :=
  let ok := fun (x : Nat × Nat) => cmpHolds (bits x.1 48 46) x.2 (bits x.1 31 0)
  l.isEmpty || (if bit d 384 then l.any ok else l.all ok)
/-- Whether a WAIT completes (R333): the dispatcher reads each named object with one atomic READ (R331). -/
def waitHolds (c : Cmd) (s : Mach) : Res Bool :=
  (foldRes (fun (acc : List (Nat × Nat)) x s => (s.readSync (flaskUnit c.die) (bits x 45 32)).bind fun v s => .ok (acc ++ [(x, v)]) s)
    [] (waitConds c.desc) s).bind fun l s => .ok (condsHold c.desc l) s
/-- Whether a WAIT body is refused (R333). -/
def waitBad (d : Nat) : Bool :=
  bits d 511 385 != 0 || ((List.range 4).any fun i => bits d (191 + 64 * i) (178 + 64 * i) != 0) ||
    (waitConds d).any fun c => bits c 48 46 ≥ 6
/-- Whether a SIGNAL body is refused (R334). -/
def signalBad (d : Nat) : Bool := bits d 511 384 != 0 || (signalOps d).any fun c => bits c 63 48 != 0

/-- LEN_A and LEN_B of a BRANCH. -/
def lenA (d : Nat) : Nat := bits d 271 264
/-- LEN_B. -/
def lenB (d : Nat) : Nat := bits d 279 272
/-- Whether a descriptor is a BRANCH on a stash pool (10 R239). -/
def isStash (s : Mach) (d : Nat) : Bool :=
  dOp d == 0x13 && bits d 193 192 == 1 && (s.pool (bits d 211 198)).live && (s.pool (bits d 211 198)).stash
/-- The code with which a BRANCH of a queue is refused at issue (05 R138, R140; 10 R239). -/
def branchCode (s : Mach) (q d : Nat) : Option Nat :=
  let x := s.queue q
  let src := bits d 193 192
  let obj := bits d 211 198
  let cmp := bits d 197 195
  let opens := x.extents.filter fun e => decide (x.rd < e)
  let past := x.rd + 1 + lenA d + lenB d
  if !zeroFields d [(511, 280), (263, 236)] || src ≥ 2 || cmp ≥ 6 || opens.length ≥ 8 ||
      (opens.head?.any fun e => decide (e < past)) then some stShape
  else if isStash s d && (cmp != 0 || bit d 194) then some stShape
  else if src = 0 then (if s.ownsSync obj x.ctx then none else some stPerm)
  else if isStash s d then (if (s.pool obj).ctx = x.ctx then none else some stPerm)
  else if s.ownsPool x.ctx obj then none else some stPerm

/-- ADD.I32 by requester r on a 32-bit field of a control object's header line, whose fields need not be aligned words
(log entry 49). -/
def lineAdd (r ctx va lo n : Nat) (s : Mach) : Res Unit :=
  (s.atomic r ctx va 64 (fun o => setBits o (lo + 31) lo ((bits o (lo + 31) lo + n) % 2 ^ 32)) true true).bind fun _ s => .ok () s
/-- A stash branch (10 R239): whether it takes path A. QUEUE is compared before anything is written. -/
def stashRun (cmd : Cmd) (s : Mach) : Res Bool :=
  let d := cmd.desc
  let ctx := cmd.ctx
  let va := (s.pool (bits d 211 198)).ctrlVa
  let need := bits d 159 128
  let k := cmd.decider
  let me := 512 + k
  let flag := fun (f : Nat → Nat) (s : Mach) => (s.atomic me ctx (va + 12) 4 f true true).bind fun _ s => Res.ok () s
  (s.readWord ctx va 64).bind fun h s =>
    if bits h 175 160 ≠ cmd.queue then .err (.fatal stPerm) s
    else (s.atomic me ctx va 8 id false true).bind fun w s =>
      let ncred := bits w 63 32
      let lvl := bits w 31 0
      let ret := if bits d 191 160 = 0xFFFFFFFF then ncred - lvl else bits d 191 160
      if lvl + ret > ncred then .err (.fatal stShape) s
      else (if ret = 0 then .ok () s else lineAdd me ctx va 0 ret s).bind fun _ s =>
        let lvl := lvl + ret
        (if lvl = ncred then flag (fun o => setBits o 17 17 0) s else .ok () s).bind fun _ s =>
          if need = 0 then .ok true s
          else if (lvl = ncred ∨ !bit h 113) ∧ need ≤ lvl then
            (lineAdd me ctx va 0 (2 ^ 32 - need) s).bind fun _ s => (lineAdd me ctx va 208 need s).bind fun _ s =>
              .ok true (s.bump (clReg k 0x38) 1)
          else
            (flag (fun o => setBits o 17 17 1) s).bind fun _ s => (lineAdd me ctx va 240 1 s).bind fun _ s =>
              let s := s.bump (clReg k 0x3C) 1
              .ok false (s.setCtx ctx { s.ctx ctx with recomputes := (s.ctx ctx).recomputes + 1 })
/-- The value a BRANCH reads (05 R138; 08 R193). -/
def branchValue (cmd : Cmd) (s : Mach) : Res Nat :=
  let obj := bits cmd.desc 211 198
  if bits cmd.desc 193 192 = 0 then s.readSync (512 + cmd.decider) obj
  else (s.atomic (512 + cmd.decider) cmd.ctx (s.pool obj).ctrlVa 8 id false false).bind fun v s => .ok (v % 2 ^ 32) s
/-- What a BRANCH decides now: path A or not, or, with a deadline running, nothing yet (05 R139). `final` is the read at
the deadline. -/
def branchRun (cmd : Cmd) (final : Bool) (s : Mach) : Res (Option Bool) :=
  let d := cmd.desc
  if isStash s d then (stashRun cmd s).bind fun a s => .ok (some a) s
  else (branchValue cmd s).bind fun v s =>
    if cmpHolds (bits d 197 195) v (bits d 191 128) then .ok (some true) s
    else .ok (if bit d 194 && !final then none else some false) s

/-! ## Checks of core commands at issue -/

/-- The checks of ATTN_SCORE and ATTN_APPLY bodies and their length table (08 R180, R181, R186; 10 R233). -/
def attnCheck (cmd : Cmd) (s : Mach) : Res (List Nat) :=
  let d := cmd.desc
  let back := dOp d == 5 && dForm d
  let lse := bits d 383 336
  if (if back then bits d 511 507 ≠ 0 ∨ bits d 506 505 ≥ 2 else bits d 511 505 ≠ 0) ∨ (dOp d = 3 ∧ lse ≠ 0) ∨
      bits d 391 390 = 3 ∨ (bits d 391 390 = 2 ∧ bits d 415 392 = 0) ∨ (isKeySide d ∧ lse ≠ 0) then .err (.fatal stShape) s
  else (readTable cmd.ctx (bits d 239 192) s).bind fun lt s =>
    if isKeySide d && lt.any (fun e => (seqOf e).qRow % 32 != 0) then .err (.fatal stShape) s else .ok lt s
/-- The body checks of a core command at issue, its streams or length table read once, its walkers registered. -/
def coreIssueCheck (id : Nat) (s : Mach) : Res Unit :=
  match s.cmd? id with
  | none => .ok () s
  | some cmd =>
    let op := dOp cmd.desc
    if op ≤ 2 then Res.check (bits cmd.desc 511 192 == 0) stShape s
    else if !cmd.lt.isEmpty then registerWalkers id s
    else (if op ≥ 6 then recurrentCheck cmd s else attnCheck cmd s).bind fun lt s =>
      registerWalkers id (s.setCmd { cmd with lt := lt })

/-! ## Completion -/

/-- Uptime milliseconds, rounded up (15 R367). -/
def Mach.uptimeUp (s : Mach) : Nat := s.uptime + (if s.upNs = 0 then 0 else 1)
/-- A command of a job has retired, been skipped or been discarded: the job ends with the last one (R324). -/
def Mach.jobDone (s : Mach) (j : Option Nat) : Mach :=
  match j with
  | none => s
  | some n => { s with jobs := (s.jobs.map fun x => if x.no == n then ({ x with left := x.left - 1 } : Job) else x).filter
                                 fun x => x.left != 0 }
/-- What TELEMETRY keeps of a command (15 R385). -/
def Mach.logCmd (s : Mach) (c : Cmd) (status : Nat) : Mach :=
  let x := s.ctx c.ctx
  let e : CmdLog := { cmdId := dCmdId c.desc, queue := c.queue, status := status, pos := c.pos % 2 ^ 32,
                      charged := c.charged + c.charge, cycles := c.lastCount, replays := c.replays, held := c.held,
                      ovf := c.ovf, nan := c.nan, cks := c.cks }
  s.setCtx c.ctx { x with log := (e :: x.log).take 256 }
/-- The body of a COMPLETION event (15 R367). -/
def completionBody (s : Mach) (c : Cmd) : Nat :=
  c.ctx ||| (c.queue <<< 16) ||| (dCmdId c.desc <<< 32) ||| ((c.pos % 2 ^ 32) <<< 64) ||| ((s.uptimeUp % 2 ^ 32) <<< 96)
/-- The header's completion signal (R327, R332), which the dispatcher of the command's die sends. DESIGN CHOICE (log entry 61): the
spec does not say which requester sends it. -/
def headerSignal (s : Mach) (die ctx d : Nat) : Mach := s.applySync (flaskUnit die) (dSigObj d) (dSigOp d) (dSigVal d) ctx
/-- What a command holds comes free: units, registrations, pins (05 R132; 08 R195; 09 R221). -/
def letGo (s : Mach) (c : Cmd) : Mach := each (fun o s => s.unpin o) c.pins (releaseWalkers c ((s.freeUnits c.id).freeSlots c.heldOn))
/-- Whether a command holds its queue at its entry: a WAIT or BRANCH (R333; 05 R139). -/
def Cmd.holds (c : Cmd) : Bool := dOp c.desc == 0x11 || dOp c.desc == 0x13
/-- The retirement of a command (R324, R332, R336, R337; 15 R367): what it holds comes free, its signal is applied once, a
COMPLETION is posted with NOTIFY, its charge is added, its job goes on. -/
def retire (s : Mach) (c : Cmd) : Mach :=
  let s := headerSignal (letGo s c) c.die c.ctx c.desc
  let s := if dNotify c.desc then (s.postAll (s.ctx c.ctx).sessions 0x0100 stOk (completionBody s c)).raise c.die 112 else s
  let s := (((s.charge c.ctx c.die c.charge).sliceEnd c.die).jobDone c.job).logCmd c stOk
  let s := s.tally c.die fun x => { x with retired := x.retired + 1 }
  (s.setCtx c.ctx { s.ctx c.ctx with retired := (s.ctx c.ctx).retired + 1 }).dropCmd c.id
/-- A WAIT or BRANCH that held its queue completes: RD_PTR moves past it, and it counts as issued (17 R417). -/
def retireHeld (s : Mach) (c : Cmd) : Mach :=
  retire ((s.setQueue c.queue ((s.queue c.queue).passed c.pos)).tally c.die fun x => { x with issued := x.issued + 1 }) c
/-- A BRANCH decides (05 R139, R140): its extent opens, the other path is skipped, the decision is counted. -/
def decideBranch (s : Mach) (c : Cmd) (a atDeadline : Bool) : Mach :=
  let d := c.desc
  let s := s.bump16 (clReg c.decider 0x14) (if a then 0 else 16)
  let s := s.bump (clReg c.decider 0x18) (b2n atDeadline)
  let x := s.queue c.queue
  let p := c.pos + 1
  let skip := if a then (p + lenA d, p + lenA d + lenB d) else (p, p + lenA d)
  retireHeld (s.setQueue c.queue { x with
    extents := (if lenA d + lenB d = 0 then [] else [p + lenA d + lenB d]) ++ x.extents,
    skips := x.skips ++ (if skip.1 < skip.2 then [skip] else []) }) c

/-- A WAIT or a BRANCH of an active context is tested, and goes on where its condition holds (R333; 05 R139); a BRANCH decides on
its final read at its deadline. -/
def testCmd (final : Bool) (c : Cmd) (s : Mach) : Mach :=
  if (s.ctx c.ctx).state != 1#2 then s
  else if c.st = .waiting then
    match waitHolds c s with
    | .ok true s => retireHeld s c
    | .ok false s => s
    | .err (.held _) _ => s
    | .err f s' => s'.cmdFault s c.id (flaskUnit c.die) 0 f
  else if c.st = .branching then
    match branchRun c final s with
    | .ok (some a) s => decideBranch s c a final
    | .ok none s => s.dropWaits c.id fun w => w.is (512 + c.decider) 0
    | .err f s' => s'.cmdFault s c.id (512 + c.decider) 0 f
  else s
/-- Whether a command that waits is to be tested after operations on objects: one of them is named, or it reads a pool's level. -/
def Cmd.namesAny (c : Cmd) (objs : List Nat) : Bool :=
  if c.st == .waiting then (waitConds c.desc).any fun x => objs.contains (bits x 45 32)
  else bits c.desc 193 192 != 0 || objs.contains (bits c.desc 211 198)
/-- One test of each command that waits and satisfies p, in order of issue. -/
def testRound (p : Cmd → Bool) (s : Mach) : Mach :=
  each (fun (x : Cmd) s => match s.cmd? x.id with
    | some c => if (c.st == .waiting || c.st == .branching) && p c then testCmd false c s else s
    | none => s) s.cmds { s with syncNews := [] }
/-- Rounds of tests as long as one brings further operations on objects. -/
def retestLoop : Nat → Mach → Mach
  | 0, s => s
  | n + 1, s => if s.syncNews.isEmpty then s else retestLoop n (testRound (fun c => c.namesAny s.syncNews) s)
/-- The tests after operations on synchronisation objects (R333). A module in the safe state retires nothing (17 R412). -/
def Mach.retest (s : Mach) : Mach :=
  if s.safe then s else retestLoop (s.cmds.length + 1) (testRound (fun c => c.namesAny s.syncNews) s)
/-- The tests when queues are considered: every WAIT is tested again (R342). -/
def Mach.retestAll (s : Mach) : Mach := if s.safe then s else retestLoop (s.cmds.length + 1) (testRound (fun _ => true) s)
/-- The operations on synchronisation objects that wait are tried again, and the commands that wait on them tested. -/
def Mach.resendSyncs (s : Mach) : Mach := if s.syncDue.isEmpty then s else s.resend.retest

/-! ## Channels of the mesh and the links (14 R349; 17 R482) -/

/-- Credits of a pool by its kind of R482: a data channel of a mesh input port, the gate class of a port or link, a data channel of a
link, the mailbox service. -/
def channelTotal (kind : Nat) : Nat := if kind = 3 then 16 else if kind = 4 then 4 else if kind = 5 then 64 else 1
/-- The number that the state lists a pool under. -/
def channelKey (kind d i : Nat) : Nat := kind * 2 ^ 22 + d * 2 ^ 20 + i
/-- A pool of which nothing is listed. -/
def channelIdle (k : Nat) : Channel := { free := channelTotal (k / 2 ^ 22) }
/-- A pool of credits. -/
def Mach.channel (s : Mach) (k : Nat) : Channel := tabGet channelIdle s.channels k
/-- Replaces a pool of credits. -/
def Mach.setChannel (s : Mach) (k : Nat) (x : Channel) : Mach := { s with channels := tabSet channelIdle s.channels k x }
/-- The source served next: the first that waits after the one served last, in ascending order, wrapping. -/
def Channel.next (x : Channel) : Option Nat :=
  let least := fun (l : List Nat) => l.foldl (fun (a : Option Nat) n => match a with
    | none => some n
    | some m => some (min m n)) none
  least (x.wait.filter fun n => decide (x.last < n)) <|> least x.wait
/-- A freed credit of a channel goes to the next waiting source; none in a freeze (17 R416). -/
def channelGrant (s : Mach) (k : Nat) : Mach :=
  let x := s.channel k
  if s.frozen || x.free = 0 then s
  else match x.next with
  | some r => s.setChannel k { free := x.free - 1, held := x.held ++ [r], wait := x.wait.erase r, last := r }
  | none => s

end Sys2Proof.Machine
end

