-- ==== Sys2Proof/Machine/Scheduler.lean ====
section
/-! DEFINITION. Machine/Scheduler.lean: dispatch: ring reads, places, issue, skipping, replay, selection by stride, slices
and pre-emption, admission, retirement (14_scheduling_and_preemption.md R326, R330, R332, R335 to R343;
05_core_tiles_and_fusion.md R132, R139, R140; 13_tiers_and_residency.md R320). -/

namespace Sys2Proof.Machine

/-- Whether dispatchers issue and places are granted: not in the safe state (17 R412), not in a freeze (17 R416). -/
def Mach.issues (s : Mach) : Bool := !s.safe && !s.frozen
/-- Whether a context's commands run: it is active. -/
def Mach.runs (s : Mach) (ctx : Nat) : Bool := (s.ctx ctx).state == 1#2

/-! ## Places (R335) -/

/-- Places of cluster k that no command holds. -/
def Mach.roomAt (s : Mach) (k : Nat) : Nat := if (s.cluster k).fenced then 0 else (s.cluster k).placesFree
/-- The clusters that take a command's n slots, in the order of the slots; none where it must wait. A place of each cluster
listed in `avoid`, as often as it is listed, is kept for another command (R338, R339). -/
def Mach.choosePlaces (s : Mach) (mask n : Nat) (avoid : List Nat) : Option (List Nat) :=
  let opens := s.openClusters mask
  let room := fun (k : Nat) => s.roomAt k - avoid.count k
  if n ≤ opens.length then
    let ks := (opens.filter fun k => room k ≥ 1).take n
    if ks.length = n then some ks else none
  else if !(opens.all fun k => room k ≥ 1) then none
  else
    let ks := ((List.range 4).flatMap fun r => opens.filter fun k => room k > r).take n
    if ks.length = n then some ks else none
/-- The lowest place of a cluster that no command holds. -/
def lowPlace (k : ClusterSt) : Nat := ((List.range 4).find? fun p => k.places.all fun x => x.1 != p).getD 0
/-- Grants the places: each slot waits for admission at its cluster (R132, R335). -/
def grantPlaces (s : Mach) (id : Nat) (ks : List Nat) : Mach :=
  each (fun (x : Nat × Nat) s =>
    match s.cmd? id with
    | none => s
    | some c =>
      let k := s.cluster x.1
      let p := lowPlace k
      (s.setCluster x.1 { k with places := k.places ++ [(p, id)], placesFree := k.placesFree - 1, waiting := k.waiting ++ [(id, x.2)] }).setCmd
        { c with slots := c.slots ++ [{ cluster := x.1, place := p }] }) ks.zipIdx s

/-! ## Issue (R329, R330, R340) -/

/-- Whether earlier commands of a queue are still to retire. -/
def Mach.outstanding (s : Mach) (q : Nat) : Bool := s.cmds.any fun c => c.queue == q
/-- The lowest unfenced cluster of a die (05 R139). -/
def Mach.decider (s : Mach) (die : Nat) : Option Nat := ((List.range 8).map fun i => 8 * die + i).find? fun k => !(s.cluster k).fenced
/-- Whether the ring's next entry, with descriptor d, is ready to issue (R330; 05 R140). -/
def Mach.readyAt (s : Mach) (q d : Nat) : Bool :=
  let x := s.queue q
  x.state == 1#2 && decide (x.rd < x.wr) && (!(dSerial d || dOp d == 0x12) || !s.outstanding q) &&
    (dOp d != 0x13 || decide (x.rd + 1 + lenA d + lenB d ≤ x.wr))

/-- STATE_VA of a command that holds a pin from its DOORBELL on (09 R211, R217, R221, R224). -/
def pinnedVa (d : Nat) : Option Nat :=
  if dOp d = 6 ∨ dOp d = 7 then some (bits d 239 192) else if isFlaskOp (dOp d) then some (bits d 207 160) else none
/-- The state object of a descriptor that holds a pin: the one its STATE_VA lies in (09 R221). -/
def Mach.stateObj (s : Mach) (ctx d : Nat) : Option Nat :=
  (pinnedVa d).bind fun va => (s.leafAt ctx va).map fun m => m.obj
/-- The pin of ring entry p of a queue, with descriptor d (09 R221). -/
def Mach.pinEntry (s : Mach) (q p d : Nat) : Mach :=
  match s.stateObj (s.queue q).ctx d with
  | none => s
  | some o => (s.pin o).setQueue q { s.queue q with pins := (s.queue q).pins ++ [(p, o)] }
/-- The command that entry RD_PTR of a queue becomes, in the state that holds it: RD_PTR moves past it, but stays at a WAIT
or BRANCH, which stops the queue (R333, R342; 05 R139). -/
def enterCmd (s : Mach) (q d : Nat) (st : CmdSt) : Cmd × Mach :=
  -- a pin that the doorbell could not take (09 R221)
  let s := if (s.queue q).pinDue.contains (s.queue q).rd then s.pinEntry q (s.queue q).rd d else s
  let x := s.queue q
  let die := homeDie x.dieMask
  let c : Cmd := { id := s.nextCmd, ctx := x.ctx, queue := q, pos := x.rd, die := die, desc := d, st := st, job := x.jobOf x.rd,
                   pins := (x.pins.filter fun y => y.1 == x.rd).map fun y => y.2 }
  let x' := if c.holds then { x with state := 2#2, pins := x.pins.filter fun y => y.1 != x.rd }
    else x.passed x.rd
  let s := { s with nextCmd := s.nextCmd + 1, cmds := s.cmds ++ [c] }
  let s := s.setQueue q x'
  -- an entry RD_PTR has not passed is not yet one of the issued (17 R417)
  let s := if c.holds then s else s.tally die fun y => { y with issued := y.issued + 1 }
  (c, s.bump (schReg die 0x10) 1)

/-- How the issue of command `id` from s0 goes: none while it waits for a held channel or for a credit, for which its requester is
in line (06 R164). -/
def issued (s0 : Mach) (id : Nat) (r : Res Unit) : Option Mach :=
  match r with
  | .ok _ s => some s
  | .err (.held _) _ | .err (.slot _) _ => none
  | .err (.credit r g) _ => if (s0.slice g).atomWait.contains r then none else some (s0.awaitCredit r g)
  | .err f s => some (s.cmdFault s0 id 0 0 f)
/-- The checks at issue from s0 of a core command whose places have come. -/
def startCore (s0 s : Mach) (id : Nat) : Option Mach := issued s0 id (coreIssueCheck id s)
/-- What is refused and read at issue of a ladle command (06 R155, R157; 08 R187; 11 R250); a page-class command is judged in its
check phase (08 R202). -/
def ladleIssue (c : Cmd) (s : Mach) : Res Cmd :=
  match dOp c.desc with
  | 4 => normIssue c s
  | 13 => optIssue c s
  | 14 => redIssue c s
  | 15 | 16 => copyIssue c s
  | _ => .ok c s
/-- The checks at issue from s0 of a ladle command that is offered. -/
def startLadle (s0 s : Mach) (c : Cmd) : Option Mach := issued s0 c.id ((ladleIssue c s).bind fun c s => .ok () (s.setCmd c))
/-- A flask command runs on the flask of the home die (R340): its work is one step, and it counts cycles against its budget until
it retires (R341). -/
def startFlask (s0 s : Mach) (c : Cmd) : Option Mach :=
  issued s0 c.id ((flaskWork c s).bind fun _ s => .ok () (s.setCmd { c with step := 1 }))
/-- A BRANCH reaches its command processor (05 R139): it decides, or waits for its deadline. -/
def startBranch (s : Mach) (c : Cmd) : Mach := testCmd false c s

/-- Issues the entry at RD_PTR of a queue, read as descriptor d, unless it must wait. -/
def tryIssue (s : Mach) (q d : Nat) (avoid : List Nat) : Option Mach :=
  let x := s.queue q
  let op := dOp d
  let die := homeDie x.dieMask
  -- a command refused at issue is the one torn down: TELEMETRY keeps its record (15 R385; log entry 20)
  let fault := fun (st : Nat) =>
    let c : Cmd := { id := s.nextCmd, ctx := x.ctx, queue := q, pos := x.rd, die := die, desc := d, st := .complete }
    some ((s.fatalOn die x.ctx st (dCmdId d)).logCmd c st)
  if !s.issues || !s.runs x.ctx || !s.readyAt q d then none
  else match headerCode s q d with
  | some st => fault st
  | none =>
    if isCoreOp op then
      match s.choosePlaces x.dieMask (dSlots d) avoid with
      | none => none
      | some ks =>
        let (c, t) := enterCmd s q d .running
        startCore s (grantPlaces t c.id ks) c.id
    else if isLadleOp op then
      let (c, t) := enterCmd s q d .offered
      startLadle s t c
    else if isFlaskOp op then
      let (c, t) := enterCmd s q d .running
      startFlask s t c
    else if op = 0x11 then
      if waitBad d then fault stShape
      else
        let (c, s) := enterCmd s q d .waiting
        some (testCmd false c s).retest
    else if op = 0x12 then
      if signalBad d then fault stShape
      else
        let (c, s) := enterCmd s q d .complete
        -- a WAIT is tested again after each operation (R333)
        let s := each (fun o s => (s.applySync (flaskUnit die) (bits o 45 32) (bits o 47 46) (bits o 31 0) c.ctx).retest) (signalOps d) s
        some (retire s c).retest
    else
      match branchCode s q d, s.decider die with
      | some st, _ => fault st
      | none, none => none
      | none, some k =>
        let (c, s) := enterCmd s q d .branching
        let c := { c with decider := k }
        some (startBranch (s.setCmd c) c).retest

/-- A command on a skipped path completes: its header signal alone is applied (05 R139, R140; R332). -/
def skipEntry (s : Mach) (q d : Nat) : Option Mach :=
  let x := s.queue q
  if !s.issues || !s.runs x.ctx || x.state != 1#2 || x.rd ≥ x.wr then none
  else
    let pins := (x.pins.filter fun y => y.1 == x.rd).map fun y => y.2
    let s := headerSignal (each (fun o s => s.unpin o) pins s) (homeDie x.dieMask) x.ctx d
    let s := (s.jobDone (x.jobOf x.rd)).setQueue q (x.passed x.rd)
    some (s.tally (homeDie x.dieMask) fun y => { y with issued := y.issued + 1, skipped := y.skipped + 1 }).retest
/-- The ring's next entry, read as descriptor d, issues or is skipped. -/
def advance (s : Mach) (q d : Nat) (avoid : List Nat) : Option Mach :=
  if (s.queue q).skipping (s.queue q).rd then skipEntry s q d else tryIssue s q d avoid

/-! ## Replay (R320, R342, R343) -/

/-- Whether what stopped a command is resolved (13 R320). -/
def Mach.resolved (s : Mach) (c : Cmd) : Bool :=
  match c.cause with
  | some (.residency o) =>
    let x := s.obj o.toNat
    x.present || (x.state != 2#3 && x.state != 3#3)
  | some .heldWait => c.heldOn.all fun w => (s.pc w.pc).state != 1#2
  | some (.slag o) => !(s.obj o.toNat).poison || !(s.obj o.toNat).refetch
  | none => true
/-- Whether a command awaits its replay now: nothing of the execution it stopped in is in flight. -/
def Mach.replayable (s : Mach) (c : Cmd) : Bool :=
  c.st == .replay || (c.st == .stopped && c.slots.isEmpty && s.resolved c)
/-- The command of a queue that must replay before anything else of the queue issues. -/
def Mach.toReplay (s : Mach) (q : Nat) : Option Cmd :=
  (s.cmds.filter fun c => c.queue == q && (c.st == .replay || c.st == .stopped)).foldl (fun (b : Option Cmd) c =>
    match b with
    | some y => if c.pos < y.pos then some c else b
    | none => some c) none
/-- A command's replay issues (R343): with the descriptor copy it has, on new places where it runs on cores. -/
def tryReplay (s : Mach) (c : Cmd) (avoid : List Nat) : Option Mach :=
  let op := dOp c.desc
  if !s.issues || !s.runs c.ctx || !s.replayable c then none
  else
    let go := fun (st : CmdSt) (s : Mach) =>
      let c' := { c with st := st, replays := c.replays + 1, cause := none, heldOn := [],
                           -- what was read once at issue stays, what the check phase took does not (11 R249)
                           aux := if op = 13 then c.aux.take 1 else [] }
      let s := (s.setCmd c').setCtx c.ctx { s.ctx c.ctx with replays := (s.ctx c.ctx).replays + 1 }
      (c', s.bump (schReg c.die 0x1C) 1)
    if isCoreOp op then
      match s.choosePlaces (s.queue c.queue).dieMask (dSlots c.desc) avoid with
      | none => none
      | some ks => startCore s (grantPlaces (go .running s).2 c.id ks) c.id
    else if isLadleOp op then
      let (c, t) := go .offered s
      startLadle s t c
    else if isFlaskOp op then
      let (c, t) := go .running s
      startFlask s t c
    else
      let (c, s) := go .branching s
      some (startBranch s c).retest

/-! ## Candidates -/

/-- What a queue has to issue. -/
inductive Cand where
  | replay (c : Cmd)
  | entry (d : Nat)
  deriving DecidableEq, Repr

/-- The read of a ring entry (R326): the descriptor, none while it waits for a promotion, a refetch or a hold, or after a
fault fatal to the context. -/
def readRing (s : Mach) (q : Nat) : Mach × Option Nat :=
  let x := s.queue q
  let va := x.ringVa + 64 * (x.rd % 2 ^ x.sizeLog2)
  let waits := match s.leafAt x.ctx va with
    | some m => !(s.obj m.obj).present && (s.obj m.obj).state == 2#3
    | none => false
  if waits then (s, none)
  else match s.readVa x.ctx va 64 with
  | .ok l s => (s, some (ofBytes l))
  | .err (.fatal st) s => (s.fatalOn (homeDie x.dieMask) x.ctx st 0, none)
  | .err (.restart _) s => (s, none)
  | .err _ _ => (s, none)
/-- What a queue has ready to issue. -/
def candidate (s : Mach) (q : Nat) : Mach × Option Cand :=
  let x := s.queue q
  if !s.runs x.ctx then (s, none)
  else match s.toReplay q with
  | some c => (s, if s.replayable c then some (.replay c) else none)
  | none =>
    if x.state != 1#2 || x.rd ≥ x.wr then (s, none)
    else match readRing s q with
      | (s, some d) => (s, if x.skipping x.rd || s.readyAt q d then some (.entry d) else none)
      | (s, none) => (s, none)
/-- The ready commands of the queues homed on a die, in ascending queue number. -/
def candidates (s : Mach) (die : Nat) : Mach × List (Nat × Cand) :=
  (s.queues.filter fun p => p.2.state != 0#2 && homeDie p.2.dieMask == die).foldl
    (fun (r : Mach × List (Nat × Cand)) p =>
      match candidate r.1 p.1 with
      | (s, some c) => (s, r.2 ++ [(p.1, c)])
      | (s, none) => (s, r.2)) (s, [])
/-- Tries to issue what a queue has ready. -/
def issueCand (s : Mach) (q : Nat) (x : Cand) (avoid : List Nat) : Option Mach :=
  match x with
  | .replay c => tryReplay s c avoid
  | .entry d => advance s q d avoid

/-! ## Selection (R337 to R339) -/

/-- Whether pass value a is smaller than b, by signed 64-bit difference. -/
def passLess (a b : Nat) : Bool := decide (signed 64 (a + 2 ^ 64 - b) < 0)
/-- The PASS of a context on a die. -/
def Mach.passOf (s : Mach) (die c : Nat) : Nat := (s.ctx c).passAt die
/-- Whether context a is selected before context b. -/
def selectBefore (s : Mach) (die a b : Nat) : Bool :=
  let x := s.ctx a
  let y := s.ctx b
  if x.priority != y.priority then x.priority
  else if s.passOf die a = s.passOf die b then decide (a < b)
  else passLess (s.passOf die a) (s.passOf die b)
/-- Inserts a context in selection order. -/
def insertSel (s : Mach) (die c : Nat) : List Nat → List Nat
  | [] => [c]
  | b :: l => if selectBefore s die c b then c :: b :: l else b :: insertSel s die c l
/-- Contexts in selection order. -/
def selectOrder (s : Mach) (die : Nat) (cs : List Nat) : List Nat := cs.foldl (fun l c => insertSel s die c l) []

/-- Marks which contexts are eligible on a die; one that becomes so raises its PASS to the least of the others (R337). -/
def markEligible (s : Mach) (die : Nat) (es : List Nat) : Mach :=
  let s := { s with ctxs := tabMap (fun _ => {}) (fun c (x : CtxSt) =>
    if x.eligibleAt die && !es.contains c then x.setEligible die false else x) s.ctxs }
  each (fun c s =>
    let x := s.ctx c
    if x.eligibleAt die then s
    else
      let v := (es.filter fun o => o != c && (s.ctx o).priority == x.priority && (s.ctx o).eligibleAt die).foldl
        (fun (b : Option Nat) o => match b with
          | none => some (s.passOf die o)
          | some p => if passLess (s.passOf die o) p then some (s.passOf die o) else b) none
      let p := match v with
        | some v => if passLess (s.passOf die c) v then v else s.passOf die c
        | none => s.passOf die c
      s.setCtx c ((x.setEligible die true).setPass die p)) es s
/-- An urgent context that has become eligible ends the slice of an ordinary one, which keeps its REMAIN (R339). `new`: the
contexts that have become eligible. -/
def preempt (s : Mach) (die : Nat) (new : List Nat) : Mach :=
  match (s.sched die).holder with
  | some h =>
    if !(s.ctx h).priority && new.any fun c => (s.ctx c).priority then
      (s.setSched die { s.sched die with holder := none }).bump (schReg die 0x14) 1
    else s
  | none => s
/-- The contexts `es` are those eligible on a die. -/
def noteEligible (s : Mach) (die : Nat) (es : List Nat) : Mach :=
  preempt (markEligible s die es) die (es.filter fun c => !(s.ctx c).eligibleAt die)
/-- The contexts of candidates. -/
def candCtxs (s : Mach) (cs : List (Nat × Cand)) : List Nat := (cs.map fun p => (s.queue p.1).ctx).eraseDups
/-- The eligible contexts and the state after one pass over the queues of a die. -/
def survey (s : Mach) (die : Nat) : Mach × List (Nat × Cand) × List Nat :=
  let (s, cs) := candidates s.retestAll die
  (noteEligible s die (candCtxs s cs), cs, candCtxs s cs)
/-- A command of a context that the dispatcher of a die considers is ready: the context is eligible with the others (R337). -/
def noteReady (s : Mach) (die ctx : Nat) : Mach := noteEligible s die (candCtxs s (candidates s die).2 ++ [ctx]).eraseDups

/-- SLICE in ticks (R338, R350). -/
def Mach.sliceTicks (s : Mach) (die : Nat) : Int := (bits (s.reg (schReg die 0)).toNat 23 0 * 1024000 : Nat)
/-- One round of selection in order (R338): REMAIN is refilled, a context still in debt is passed over. -/
def pickRound (die : Nat) : List Nat → Mach → Mach
  | [], s => s
  | c :: l, s =>
    let x := s.ctx c
    let r := x.remainAt die
    let r := if r ≤ 0 then r + s.sliceTicks die else r
    let s := s.setCtx c (x.setRemain die r)
    if r ≤ 0 then pickRound die l (s.bump (schReg die 0x18) 1)
    else s.setSched die { s.sched die with holder := some c }
/-- Rounds of selection until a context holds the slice. -/
def pickHolder (die : Nat) (order : List Nat) : Nat → Mach → Mach
  | 0, s => s
  | n + 1, s => if (s.sched die).holder.isSome then s else pickHolder die order n (pickRound die order s)
/-- Rounds that are enough for some context to have REMAIN above 0. -/
def pickFuel (s : Mach) (die : Nat) (order : List Nat) : Nat :=
  if s.sliceTicks die ≤ 0 then 0
  else order.foldl (fun a c => max a ((-((s.ctx c).remainAt die)) / s.sliceTicks die).toNat) 0 + 2

/-- The places that a core command with descriptor d of queue q can use (R335): one of each open cluster, or more where it has
more slots than there are clusters. -/
def usablePlaces (s : Mach) (q d : Nat) : List Nat :=
  let opens := s.openClusters (s.queue q).dieMask
  if isCoreOp (dOp d) then (List.replicate (ceilDiv (dSlots d) (max 1 opens.length)) opens).flatten else []
/-- The descriptor of what a queue has to issue. -/
def Cand.desc (x : Cand) : Nat :=
  match x with
  | .replay c => c.desc
  | .entry d => d
/-- Whether freed places that a command of context c can use are kept from those of context d (R338, R339): c holds the slice, or it is
urgent and d is not; an ordinary holder's are not kept from an urgent context. -/
def Mach.comesBefore (s : Mach) (die c d : Nat) : Bool :=
  if (s.ctx d).priority then (s.sched die).holder == some c && (s.ctx c).priority
  else (s.sched die).holder == some c || (s.ctx c).priority
/-- The places kept from a context's commands on a die for ready commands of other contexts (R338, R339). -/
def keptPlaces (s : Mach) (die ctx : Nat) : List Nat :=
  ((candidates s die).2.filter fun p =>
    (s.queue p.1).ctx != ctx && s.comesBefore die (s.queue p.1).ctx ctx).flatMap fun p => usablePlaces s p.1 p.2.desc
/-- A context with nothing ready on a die is eligible there no more (R337). -/
def noteIdle (s : Mach) (die ctx : Nat) : Mach :=
  if (candidates s die).2.any fun p => (s.queue p.1).ctx == ctx then s
  else s.setCtx ctx ((s.ctx ctx).setEligible die false)

/-- Issues one command: contexts in order, each one's queues in order. Places that a holder's or an urgent context's core
command waits for are kept from those after it (R338, R339). -/
def issueFirst (s : Mach) (die : Nat) (h : Option Nat) : List (Nat × Nat × Cand) → List Nat → Option Mach
  | [], _ => none
  | (c, q, x) :: l, avoid =>
    match issueCand s q x avoid with
    | some s => some s
    | none =>
      let keep := if h = some c ∨ (s.ctx c).priority then usablePlaces s q x.desc else []
      issueFirst s die h l (avoid ++ keep)

/-- The order in which contexts are offered places: the holder comes first, but an ordinary one after the urgent ones (R338, R339). -/
def holderFirst (s : Mach) (c : Nat) (order : List Nat) : List Nat :=
  let rest := order.filter fun x => x != c
  if (s.ctx c).priority then c :: rest else (rest.filter fun x => (s.ctx x).priority) ++ c :: rest.filter fun x => !(s.ctx x).priority
/-- SELECT_CONTEXT: the dispatcher of a die selects and issues at most one command (R335, R337 to R339, R342). -/
def selectContext (s : Mach) (die : Nat) : Mach :=
  if !s.issues then s
  else
    let (s, cs, es) := survey s die
    let order := selectOrder s die es
    let s := if es.isEmpty then s else pickHolder die order (pickFuel s die order) s
    let h := (s.sched die).holder
    let order := match h with
      | some c => if order.contains c then holderFirst s c order else order
      | none => order
    let todo := order.flatMap fun c => (cs.filter fun p => (s.queue p.1).ctx == c).map fun p => (c, p.1, p.2)
    each (fun c s => noteIdle s die c) es ((issueFirst s die h todo []).getD s)
/-- SELECT_CONTEXT. -/
def execSelectContext (die : DieNo) (s : State) : Host.Outcome State Fault Refusal :=
  .next { s with m := selectContext s.m die.toNat }
/-- URGENT_PREEMPT (R339): the queues of a die are considered, and an urgent context ends an ordinary holder's slice. -/
def urgentPreempt (s : Mach) (die : Nat) : Mach := if !s.issues then s else (survey s die).1
/-- URGENT_PREEMPT. -/
def execUrgentPreempt (die : DieNo) (s : State) : Host.Outcome State Fault Refusal :=
  .next { s with m := urgentPreempt s.m die.toNat }

/-! ## Admission (05 R132) -/

/-- The lowest base at which n units fit in a buffer of 2,048 beside the reservations. -/
def lowBase (rs : List (Nat × Nat)) (n : Nat) : Option Nat :=
  let fits := fun (b : Nat) => decide (b + n ≤ 2048) && rs.all fun r => decide (b + n ≤ r.1) || decide (r.1 + r.2 ≤ b)
  ((0 :: rs.map fun r => r.1 + r.2).filter fits).foldl (fun (m : Option Nat) b => match m with
    | some x => if b < x then some b else m
    | none => some b) none
/-- CB_RES of the cast plan of a command (05 R113): 0 where it is more than the buffer has, which row 9 of 05 R125 refuses,
and where the plan's address is refused before anything is read. -/
def readRes (c : Cmd) (s : Mach) : Res Nat :=
  if !zeroFields (dPlan c.desc) [(5, 0), (63, 48)] then .ok 0 s
  else (s.readWord c.ctx (bits (dPlan c.desc) 47 0) 64).bind fun h s =>
    .ok (if bits h 91 80 ≤ 2048 then bits h 91 80 else 0) s
/-- The command processor of a cluster admits the slot that has waited longest, once its reservation fits. -/
def admitSlot (s : Mach) (k : Nat) : Mach :=
  match (s.cluster k).waiting with
  | [] => s
  | (id, i) :: l =>
    match s.cmd? id with
    | none => s
    | some c =>
      if (s.cluster k).fenced || !s.runs c.ctx || s.safe || s.frozen then s
      else s.settle id (512 + k) 35 ((readRes c s).bind fun n s =>
        let x := s.cluster k
        match lowBase (x.res.map fun r => r.2) n, s.cmd? id with
        | some b, some c => match c.slots[i]? with
          | some sl =>
            let s := s.setCluster k { x with res := x.res ++ [((id, i), b, n)], resFree := x.resFree - n, waiting := l }
            .ok () (s.setCmd (c.setSlot i { sl with admitted := true }))
          | none => .ok () s
        | _, _ => .ok () s)
/-- ADMISSION. -/
def execAdmission (k : ClusterNo) (s : State) : Host.Outcome State Fault Refusal := .next { s with m := admitSlot s.m k.toNat }

/-! ## Retirement (R332) -/

/-- Whether the last work of a command is complete. -/
def workDone (s : Mach) (c : Cmd) : Bool :=
  c.st == .complete || (c.st == .running && isFlaskOp (dOp c.desc) && c.step == 1) ||
  (c.st == .running && isCoreOp (dOp c.desc) && allBarriers s c && c.heldOn.isEmpty &&
    (match dOp c.desc with
      | 6 => c.step == gSteps c.desc
      | 7 => c.step == 1
      | _ => true))
/-- COMMAND_RETIRE. -/
def commandRetire (s : Mach) (id : Nat) : Mach :=
  match s.cmd? id with
  | none => s
  | some c => if s.safe || !s.runs c.ctx || !workDone s c then s else (retire s c).retest
/-- COMMAND_RETIRE. -/
def execCommandRetire (cmd : Nat) (s : State) : Host.Outcome State Fault Refusal := .next { s with m := commandRetire s.m cmd }

/-- BRANCH_DEADLINE (05 R139): the deadline of the BRANCH that holds a queue passes; it decides on a final read. -/
def branchDeadline (s : Mach) (q : Nat) : Mach :=
  match s.cmds.find? fun c => c.queue == q && c.st == .branching && bit c.desc 194 with
  | none => s
  | some c =>
    -- the deadline is DEADLINE cycles after the issue
    if s.safe || !s.runs c.ctx || c.waited < bits c.desc 235 212 then s
    else (testCmd true c s).retest
/-- BRANCH_DEADLINE. -/
def execBranchDeadline (q : QueueNo) (s : State) : Host.Outcome State Fault Refusal :=
  .next { s with m := branchDeadline s.m q.toNat }

/-! ## Drained rows -/

/-- DRAIN_ROW (04 R91): a row that sets an overflow object lets the WAITs on it be tested again (R333). -/
def execDrainRow (e : EngineNo) (q : BitVec 2) (flip : Word) (s : State) : Host.Outcome State Fault Refusal :=
  .next { s with m := (drainRow s.m e.toNat q.toNat flip).retest }

end Sys2Proof.Machine
end

