-- ==== Sys2Proof/Machine/LadleUnits.lean ====
section
/-! DEFINITION. Machine/LadleUnits.lean: delivery of ladle commands, their phases, barriers and shares
(06_ladle_units.md R143, R144, R147, R165; 14_scheduling_and_preemption.md R340; 08 R205). -/

namespace Sys2Proof.Machine

/-- The command of a class that the units have, oldest in delivery order (R143). -/
def classHead (s : Mach) (page : Bool) : Option Cmd :=
  s.cmds.find? fun c => isLadleOp (dOp c.desc) && isPageOp (dOp c.desc) == page &&
    (c.st == .check || c.st == .checked || c.st == .work) && s.runs c.ctx
/-- The check phase of a command, all units' shares together: what it fixes for the work. -/
def ladleCheck (c : Cmd) (s : Mach) : Res Cmd :=
  match dOp c.desc with
  | 4 => normCheck c s
  | 13 => optCheck c s
  | 14 => redCheck c s
  | 15 | 16 => copyCheck c s
  | _ => pageCheck c s
/-- Passes after the check phase: each but the last ends at a barrier (06 R152, R159; 10 R234). -/
def passes (d : Nat) : Nat :=
  if dOp d = 4 then (if dForm d then 2 else 3)
  else if dOp d = 14 ∧ redFunc d < 6 ∧ redShape d ≠ 2 then 2
  else 1
/-- Unit g's share of the current pass of a command (01 R22; 06 R145). -/
def ladleShare (c : Cmd) (g : Nat) (s : Mach) : Res Unit :=
  match dOp c.desc with
  | 4 => normShare c g s
  | 13 => optShare c g s
  | 14 => redShare c g s
  | 15 | 16 => copyShare c g s
  | _ => pageShare c g s
/-- The objects that a step's check phase has translated. -/
def LeafUse.noted (u : LeafUse) : List Nat :=
  match u with
  | .check l => l
  | _ => []
/-- A deferred free that meets an object that is not resident is charged and delivered again later (08 R205; 14 R336). -/
def deferAgain (s : Mach) (c : Cmd) : Mach :=
  match c.free with
  | some x => { (((s.freeSlots c.heldOn).charge c.ctx c.die c.charge).sliceEnd c.die).dropCmd c.id with deferred := x :: s.deferred }
  | none => s
/-- How transaction `no` of a unit for a phase of a ladle command fails; the state before the phase is s0. -/
def ladleFault (s s0 : Mach) (c : Cmd) (unit no : Nat) (f : Flt) : Mach :=
  match f with
  | .restart _ => if c.free.isSome then deferAgain s c else s.cmdFault s0 c.id unit no f
  | _ => s.cmdFault s0 c.id unit no f
/-- The map generation of a command whose check phase begins is the one then in force (R144). -/
def Cmd.begin (c : Cmd) (gen : Nat) : Cmd := if c.begun then c else { c with begun := true, mapGen := gen }
/-- The unit that waits in a check phase: the one of the held channel's slice. -/
def checkUnit (f : Flt) : Nat :=
  match f with
  | .held n => 544 + n / 32
  | _ => 544
/-- The next delivered command of a class takes its check phase (R144): it keeps the map generation from its beginning on, waits
included, and the leaves it translates (13 R298). -/
def takeNext (s : Mach) (page : Bool) : Mach :=
  if !s.issues then s
  else match classHead s page with
  | some c =>
    if c.st = .check then
      let c := c.begin (s.reg (memReg 0)).toNat
      let s := s.setCmd c
      match ladleCheck c { s with leafUse := .check [] } with
      | .ok c s => ({ s with leafUse := .walk }.setCmd { c with st := .checked, leaves := s.leafUse.noted }).dropWaits c.id
          fun w => w.no == 1
      | .err f s' => ladleFault { s' with leafUse := .walk } s c (checkUnit f) 1 f
    else s
  | none => s
/-- A command goes to all 32 units: it takes its place in the module-wide order (R143). -/
def deliver (s : Mach) (c : Cmd) : Mach :=
  let s := s.dropCmd c.id
  takeNext { s with cmds := s.cmds ++ [{ c with st := .check }] } (isPageOp (dOp c.desc))
/-- The oldest command a die offers. -/
def offeredOf (s : Mach) (die : Nat) : Option Cmd :=
  s.cmds.find? fun c => c.st == .offered && c.die == die && s.runs c.ctx
/-- LADLE_DELIVERY (14 R340): the control flask takes the offered commands of the dies round-robin. -/
def ladleDelivery (s : Mach) : Mach :=
  if !s.issues then s
  else match ([0, 1, 2, 3].map fun i => (s.ladleDie + i) % 4).findSome? fun d => (offeredOf s d) with
  | some c => deliver { s with ladleDie := (c.die + 1) % 4 } c
  | none => s
/-- LADLE_DELIVERY. -/
def execLadleDelivery (s : State) : Host.Outcome State Fault Refusal := .next { s with m := ladleDelivery s.m }
/-- Unit g does its share of the current pass, on the translations of the check phase; what it waits for is its own (12 R274). -/
def unitShare (s : Mach) (c : Cmd) (g : Nat) : Mach :=
  match ladleShare c g { s with leafUse := .kept c.leaves } with
  | .ok _ s' =>
    let s' := { s' with leafUse := .walk }.dropWaits c.id fun w => w.is (544 + g) 2
    match s'.cmd? c.id with
    | some c => s'.setCmd { c with shares := c.shares.filter fun x => x != g }
    | none => s'
  | .err f s' => ladleFault { s' with leafUse := .walk } s c (544 + g) 2 f
/-- A barrier of a class's command (R144): all 32 units have reached it, those still at work by doing their share of the pass, and
the next pass begins. A unit that waits keeps the barrier from completing. -/
def ladleBarrier (s : Mach) (page : Bool) : Mach :=
  if !s.issues then s
  else match classHead s page with
  | some c =>
    if c.st = .checked then s.setCmd { c with st := .work, pass := 0, shares := List.range 32 }
    else if c.st = .work ∧ c.pass + 1 < passes c.desc then
      let s := each (fun g s => match s.cmd? c.id with
        | some c => if c.st = .work ∧ s.runs c.ctx then unitShare s c g else s
        | none => s) c.shares s
      match s.cmd? c.id with
      | some c => if c.st = .work ∧ c.shares.isEmpty then s.setCmd { c with pass := c.pass + 1, shares := List.range 32 } else s
      | none => s
    else takeNext s page
  | none => s
/-- LADLE_BARRIER. -/
def execLadleBarrier (page : Bool) (s : State) : Host.Outcome State Fault Refusal := .next { s with m := ladleBarrier s.m page }
/-- The last share of a command completes: it awaits retirement, or, a deferred free, is charged and done (08 R205; 14 R336). -/
def ladleDone (s : Mach) (c : Cmd) : Mach :=
  if c.free.isSome then ((s.charge c.ctx c.die c.charge).sliceEnd c.die).dropCmd c.id
  else s.setCmd { c with st := .complete }
/-- Unit g completes its share of the running command of a class, counted in LDL_CMD_CNT (R165). A count set by its results lets
WAITs be tested again (14 R333). -/
def shareComplete (s : Mach) (g : Nat) (page : Bool) : Mach :=
  match classHead s page with
  | some c =>
    if c.st ≠ .work ∨ c.pass + 1 < passes c.desc ∨ !c.shares.contains g ∨ !s.issues then s
    else
      let s := unitShare s c g
      match s.cmd? c.id with
      | some c =>
        if c.st ≠ .work ∨ c.shares.contains g ∨ !s.runs c.ctx then s
        else
          let s := s.bump (ldlReg g 0x10) 1
          (if c.shares.isEmpty then takeNext (ladleDone s c) page else s).retest
      | none => s
  | none => s
/-- LADLE_SHARE_COMPLETE. -/
def execLadleShareComplete (g : SliceNo) (page : Bool) (s : State) : Host.Outcome State Fault Refusal :=
  .next { s with m := shareComplete s.m g.toNat page }

/-- The number that stands for no queue. -/
def noQueue : Nat := 65536
/-- DEFERRED_FREE (08 R205): the oldest deferred free is delivered to all units as a page-class command of the list's context, by
the control flask of die 0 (14 R336); it takes its turn in the class (08 R200). -/
def deferredFree (s : Mach) : Mach :=
  match s.deferred with
  | [] => s
  | (p, va) :: l =>
    if !s.issues then s
    else
      let c : Cmd := { id := s.nextCmd, ctx := (s.pool p).ctx, queue := noQueue, pos := 0, die := 0,
                       desc := dSet (p <<< 128) 10 false, st := .check, free := some (p, va) }
      takeNext { s with deferred := l, nextCmd := s.nextCmd + 1, cmds := s.cmds ++ [c] } true
/-- DEFERRED_FREE. -/
def execDeferredFree (s : State) : Host.Outcome State Fault Refusal := .next { s with m := deferredFree s.m }

/-! ## The rows of the queue commands -/

/-- The next entry of a queue, read as descriptor d, issues or is skipped, where it may (R330). -/
def issueEntry (s : Mach) (q d : Nat) : Mach :=
  let c := (s.queue q).ctx
  let die := homeDie (s.queue q).dieMask
  let t := noteReady s die c
  if (s.toReplay q).isSome then s
  else match advance t q d (keptPlaces t die c) with
    | some s => noteIdle s die c
    | none => s
/-- A ladle command issues and, where no other ladle command waits and its class is free, is delivered and passes its check
barrier; its units' shares are left to complete. -/
def issueLadle (s : Mach) (q d : Nat) : Mach :=
  let id := s.nextCmd
  let alone := s.cmds.all fun c => c.st != .offered
  let s := issueEntry s q d
  match s.cmd? id with
  | some c =>
    let page := isPageOp (dOp d)
    if c.st = .offered ∧ alone ∧ (classHead s page).isNone then ladleBarrier (ladleDelivery s) page else s
  | none => s
/-- The machine with a core, flask or dispatcher command issued from a queue. -/
def State.issue (s : State) (q : QueueNo) (d : Nat) : State := { s with m := issueEntry s.m q.toNat d }
/-- The machine with a ladle command issued from a queue. -/
def State.issueL (s : State) (q : QueueNo) (d : Nat) : State := { s with m := issueLadle s.m q.toNat d }

/-- MATMUL (14 R328): issue; its cores do the work. -/
def execMatmul (q : QueueNo) (d : Desc) (s : State) : Host.Outcome State Fault Refusal :=
  .next (s.issue q (dSet d.toNat 1 (dForm d.toNat)))
/-- CONV (14 R328; 07 R166): issue. -/
def execConv (q : QueueNo) (d : Desc) (s : State) : Host.Outcome State Fault Refusal :=
  .next (s.issue q (dSet d.toNat 2 (dForm d.toNat)))
/-- ATTN_SCORE (08 R185): issue. -/
def execAttnScore (q : QueueNo) (d : Desc) (s : State) : Host.Outcome State Fault Refusal :=
  .next (s.issue q (dSet d.toNat 3 (dForm d.toNat)))
/-- ATTN_NORM, forward (08 R187). -/
def execAttnNorm (q : QueueNo) (d : Desc) (s : State) : Host.Outcome State Fault Refusal :=
  .next (s.issueL q (dSet d.toNat 4 false))
/-- ATTN_NORM, backward (10 R234). -/
def execAttnNormBackward (q : QueueNo) (d : Desc) (s : State) : Host.Outcome State Fault Refusal :=
  .next (s.issueL q (dSet d.toNat 4 true))
/-- ATTN_APPLY, forward (08 R186, R188): issue. -/
def execAttnApply (q : QueueNo) (d : Desc) (s : State) : Host.Outcome State Fault Refusal :=
  .next (s.issue q (dSet d.toNat 5 false))
/-- ATTN_APPLY, backward (10 R233): issue. -/
def execAttnApplyBackward (q : QueueNo) (d : Desc) (s : State) : Host.Outcome State Fault Refusal :=
  .next (s.issue q (dSet d.toNat 5 true))
/-- GATED_STEP (09 R213): issue. -/
def execGatedStep (q : QueueNo) (d : Desc) (s : State) : Host.Outcome State Fault Refusal :=
  .next (s.issue q (dSet d.toNat 6 (dForm d.toNat)))
/-- SCAN_CHUNK (09 R218): issue. -/
def execScanChunk (q : QueueNo) (d : Desc) (s : State) : Host.Outcome State Fault Refusal :=
  .next (s.issue q (dSet d.toNat 7 (dForm d.toNat)))
/-- FORK (08 R203). -/
def execFork (q : QueueNo) (d : Desc) (s : State) : Host.Outcome State Fault Refusal :=
  .next (s.issueL q (dSet d.toNat 8 (dForm d.toNat)))
/-- APPEND_PAGE (08 R204). -/
def execAppendPage (q : QueueNo) (d : Desc) (s : State) : Host.Outcome State Fault Refusal :=
  .next (s.issueL q (dSet d.toNat 9 (dForm d.toNat)))
/-- FREE_LIST (08 R205). -/
def execFreeList (q : QueueNo) (d : Desc) (s : State) : Host.Outcome State Fault Refusal :=
  .next (s.issueL q (dSet d.toNat 10 (dForm d.toNat)))
/-- STATE_EXPORT as a command (09 R224, R226). -/
def execStateExport (q : QueueNo) (d : Desc) (s : State) : Host.Outcome State Fault Refusal :=
  .next (s.issue q (dSet d.toNat 11 (dForm d.toNat)))
/-- STATE_IMPORT as a command (09 R224, R226). -/
def execStateImport (q : QueueNo) (d : Desc) (s : State) : Host.Outcome State Fault Refusal :=
  .next (s.issue q (dSet d.toNat 12 (dForm d.toNat)))
/-- OPT_UPDATE (11 R251). -/
def execOptUpdate (q : QueueNo) (d : Desc) (s : State) : Host.Outcome State Fault Refusal :=
  .next (s.issueL q (dSet d.toNat 13 (dForm d.toNat)))
/-- REDUCE (06 R154): every function but ADAPT and HIST has its code in the body. -/
def execReduce (q : QueueNo) (d : Desc) (s : State) : Host.Outcome State Fault Refusal :=
  .next (s.issueL q (dSet d.toNat 14 (dForm d.toNat)))
/-- REDUCE with FUNC ADAPT (06 R156). -/
def execReduceAdapt (q : QueueNo) (d : Desc) (s : State) : Host.Outcome State Fault Refusal :=
  .next (s.issueL q (setBits (dSet d.toNat 14 (dForm d.toNat)) 131 128 6))
/-- REDUCE with FUNC HIST (06 R156). -/
def execReduceHist (q : QueueNo) (d : Desc) (s : State) : Host.Outcome State Fault Refusal :=
  .next (s.issueL q (setBits (dSet d.toNat 14 (dForm d.toNat)) 131 128 7))
/-- COPY (06 R157). -/
def execCopy (q : QueueNo) (d : Desc) (s : State) : Host.Outcome State Fault Refusal :=
  .next (s.issueL q (dSet d.toNat 15 (dForm d.toNat)))
/-- ZERO (06 R157). -/
def execZero (q : QueueNo) (d : Desc) (s : State) : Host.Outcome State Fault Refusal :=
  .next (s.issueL q (dSet d.toNat 16 (dForm d.toNat)))
/-- WAIT (14 R333). -/
def execWait (q : QueueNo) (d : Desc) (s : State) : Host.Outcome State Fault Refusal :=
  .next (s.issue q (dSet d.toNat 17 (dForm d.toNat)))
/-- SIGNAL (14 R334). -/
def execSignal (q : QueueNo) (d : Desc) (s : State) : Host.Outcome State Fault Refusal :=
  .next (s.issue q (dSet d.toNat 18 (dForm d.toNat)))
/-- BRANCH (05 R138 to R140). -/
def execBranch (q : QueueNo) (d : Desc) (s : State) : Host.Outcome State Fault Refusal :=
  .next (s.issue q (dSet d.toNat 19 (dForm d.toNat)))
/-- STASH_BRANCH (10 R239): a BRANCH whose SRC is a pool. -/
def execStashBranch (q : QueueNo) (d : Desc) (s : State) : Host.Outcome State Fault Refusal :=
  .next (s.issue q (setBits (dSet d.toNat 19 (dForm d.toNat)) 193 192 1))

end Sys2Proof.Machine
end

