-- ==== Sys2Proof/Machine/Faults.lean ====
section
/-! DEFINITION. Machine/Faults.lean: restartable faults, replays, budgets, teardown and fencing
(13_tiers_and_residency.md R319, R320; 14_scheduling_and_preemption.md R341, R343 to R348; 12 R275; 05 R136). -/

namespace Sys2Proof.Machine

/-! ## Restartable faults and budgets -/

/-- Whether a command has work that a fault can stop. -/
def Cmd.working (c : Cmd) : Bool :=
  c.st == .running || c.st == .check || c.st == .checked || c.st == .work || c.st == .branching
/-- Whether a command modifies its operands in place (06 R147). -/
def isInPlace (d : Nat) : Bool :=
  let op := dOp d
  op == 4 || op == 13 || isPageOp op || (op == 14 && (bits d 131 128 == 6 || bits d 131 128 == 7))
/-- A command's wait on a held channel ends by its deadline (12 R275): only commands of cores and command processors
declare one. -/
def heldDeadline (s : Mach) (id : Nat) : Mach :=
  match s.cmd? id with
  | none => s
  | some c =>
    if !c.working || !s.runs c.ctx || !(c.heldOn.any fun w => w.over (dHoldDl c.desc)) ||
        !(isCoreOp (dOp c.desc) || dOp c.desc == 0x13) then s
    else (s.stopCmd c (some .heldWait) .stopped).raise c.die 114
/-- HELD_WAIT_DEADLINE. -/
def execHeldWaitDeadline (cmd : Nat) (s : State) : Host.Outcome State Fault Refusal := .next { s with m := heldDeadline s.m cmd }
/-- A restartable fault of a command (13 R319, R320): a residency miss, slag of a clean object with an origin, a wait beyond
its deadline; where the object makes the fault a fatal one, that. -/
def restartable (s : Mach) (id : Nat) (cause : RestartCause) : Mach :=
  match s.cmd? id with
  | none => s
  | some c =>
    if !c.working || !s.runs c.ctx then s
    else match cause with
    | .heldWait => heldDeadline s id
    | .residency n =>
      let o := s.obj n.toNat
      if o.present then s
      else if o.poison && !o.clean then s.cmdFault s id 0 0 (.fatal stFaultPoison)
      else
        let s := s.setCtx c.ctx { s.ctx c.ctx with misses := (s.ctx c.ctx).misses + 1 }
        let (f, s) := s.residencyMiss n.toNat
        s.cmdFault s id 0 0 f
    | .slag n =>
      let o := s.obj n.toNat
      let s := s.poisonObj n.toNat
      if o.clean && o.origin && !(c.st == .work && isInPlace c.desc) then s.cmdFault s id 0 0 (.restart (.slag n))
      else s.cmdFault s id 0 0 (.fatal stFaultPoison)
/-- RESTARTABLE_FAULT. -/
def execRestartableFault (cmd : Nat) (cause : RestartCause) (s : State) : Host.Outcome State Fault Refusal :=
  .next { s with m := restartable s.m cmd cause }
/-- REPLAY (14 R343): the next command of its queue to replay issues, where its cause is resolved and its places are free. -/
def replayCmd (s : Mach) (id : Nat) : Mach :=
  match s.cmd? id with
  | none => s
  | some c => match s.toReplay c.queue with
    | some y =>
      let t := noteReady s c.die c.ctx
      if y.id = id ∧ s.replayable c then (tryReplay t c (keptPlaces t c.die c.ctx)).getD s else s
    | none => s
/-- REPLAY. -/
def execReplay (cmd : Nat) (s : State) : Host.Outcome State Fault Refusal := .next { s with m := replayCmd s.m cmd }
/-- A count of a command has passed its budget (14 R341): of a slot, of the ladle units or of a flask. A WAIT, SIGNAL or BRANCH
has none. -/
def budgetOverrun (s : Mach) (id : Nat) : Mach :=
  match s.cmd? id with
  | none => s
  | some c =>
    if !c.working || !s.runs c.ctx || c.maxCycles ≤ dBudget c.desc then s
    else (s.raise c.die 117).fatalOn c.die c.ctx stBudget (dCmdId c.desc)
/-- BUDGET_OVERRUN. -/
def execBudgetOverrun (cmd : Nat) (s : State) : Host.Outcome State Fault Refusal := .next { s with m := budgetOverrun s.m cmd }

/-! ## Teardown (R344) -/

/-- The claims of a stopped command's cores go back to their tundishes. -/
def giveClaims (s : Mach) (cmd : Cmd) : Mach :=
  each (fun (c : Nat) s =>
    let k := s.core c
    if k.cmd != some cmd.id || dOp cmd.desc = 6 then s
    else match (s.phases c)[k.phase]? with
    | none => s
    | some p => each (fun (x : Item) s =>
        (s.atomic (512 + c / 16) cmd.ctx (tundVa s c cmd p k.slot) 256 (fun g => (tundReturn g x.index).getD g) true false).state) k.items s)
    (cmd.slots.flatMap fun x => x.cores) s
/-- Step 1 on one queue: the unissued commands are discarded. -/
def tearQueue (s : Mach) (q : Nat) : Mach :=
  let x := s.queue q
  let n := x.wr - x.rd
  let s := each (fun (p : Nat × Nat) s => s.unpin p.2) x.pins s
  (s.setQueue q { x with state := 3#2, rd := x.wr, extents := [], skips := [], jobs := [], pins := [],
                              pinDue := [] }).tally
    (homeDie x.dieMask) fun y => { y with discarded := y.discarded + n }
/-- Steps 2, 3 and 6 on one command: it stops, what it holds comes free, its charge is added. -/
def tearCmd (s : Mach) (c : Cmd) : Mach :=
  let x := s.ctx c.ctx
  let st := if x.faultCmd = dCmdId c.desc ∧ x.lastSt ≠ stAborted then x.lastSt else stAborted
  let s := ((letGo (giveClaims s c) c).charge c.ctx c.die c.charge).sliceEnd c.die
  let s := if c.free.isSome then s else s.logCmd c st
  let s := if c.holds || c.free.isSome then s else s.tally c.die fun y => { y with torn := y.torn + 1 }
  s.dropCmd c.id
/-- The dispatcher that reports a context's teardown: the lowest home die of its queues. -/
def Mach.tearDie (s : Mach) (ctx : Nat) : Nat :=
  ((s.queues.filter fun p => p.2.ctx == ctx && p.2.state != 0#2).map fun p => homeDie p.2.dieMask).foldl min 4 % 4
/-- The teardown of a context whose fault or ABORT has begun it, in the order of R344. -/
def teardown (s : Mach) (ctx : Nat) : Mach :=
  let x := s.ctx ctx
  if x.state != 2#2 then s
  else
    let die := s.tearDie ctx
    let mine := s.queues.filter fun p => p.2.ctx == ctx && (p.2.state == 1#2 || p.2.state == 2#2)
    let s := each (fun (p : Nat × QueueSt) s => tearQueue s p.1) mine s
    let s := each (fun c s => tearCmd s c) (s.cmds.filter fun c => c.ctx == ctx) s
    let abort := fun (_ : Nat) (y : SyncSt) =>
      if y.live && y.owner.toNat == ctx then ({ y with status := BitVec.ofNat 16 stAborted } : SyncSt) else y
    let s := { s with syncs := tabMap (fun _ => {}) abort s.syncs }
    let gone := (s.pools.filter fun p => p.2.live && p.2.ctx == ctx).map fun p => p.1
    let s := { s with
      pools := tabMap (fun _ => {}) (fun n (y : PoolSt) => if gone.contains n then ({} : PoolSt) else y) s.pools,
      deferred := s.deferred.filter fun d => !gone.contains d.1,
      walkDue := s.walkDue.filter fun x => x.2.1 != ctx,
      jobs := s.jobs.filter fun j => j.ctx != ctx }
    let release := fun (_ : Nat) (y : SchedSt) => if y.holder == some ctx then ({ y with holder := none } : SchedSt) else y
    let s := { s with scheds := tabMap (fun _ => {}) release s.scheds }
    -- an accepted STATE_EXPORT or STATE_IMPORT message of the context ends (15 R383)
    let s := each (fun (b : BlobJob) s => (s.unpin b.obj).postEvent b.session 0x0102 stAborted b.seq true)
      (s.blobs.filter fun b => b.ctx == ctx) s
    let s := { s with blobs := s.blobs.filter fun b => b.ctx != ctx }
    let s := s.postAll x.sessions 0x0101 x.lastSt (ctx ||| (x.faultCmd <<< 32))
    let s := s.setCtx ctx { s.ctx ctx with state := 3#2, eligible := [] }
    s.bump (schReg die 0x20) 1
/-- TEARDOWN. -/
def execTeardown (ctx : CtxNo) (s : State) : Host.Outcome State Fault Refusal := .next { s with m := teardown s.m ctx.toNat }
/-- An ABORT begins a context's teardown (R344, R345); one that has begun is left alone. -/
def Mach.abort (s : Mach) (ctx : Nat) : Mach := s.fatal ctx stAborted 0

/-! ## Fencing (R346 to R348) -/

/-- Fenced cores of a cluster, as a mask. -/
def Mach.fencedMask (s : Mach) (k : Nat) : Nat := sumTo 16 fun i => if (s.core (16 * k + i)).fenced then 2 ^ i else 0
/-- Number of fenced cores of a cluster. -/
def Mach.fencedCount (s : Mach) (k : Nat) : Nat := ((List.range 16).filter fun i => (s.core (16 * k + i)).fenced).length
/-- A cluster is fenced whole (R348): by core count, or for its buffer or command processor. Its places are withdrawn, its
commands are replayed, and a BRANCH it held is evaluated again on the next decider. -/
def fenceCluster (s : Mach) (k : Nat) (byCount : Bool) : Mach :=
  if (s.cluster k).fenced then s
  else
    let die := k / 8
    let src := 16 + 4 * (k % 8) + 3
    let s := s.setCluster k { s.cluster k with fenced := true }
    let s := if byCount then s else s.raise die src
    let s := s.recordDue { mech := 0x13#8, unit := w32 k, die := BitVec.ofNat 2 die,
                           source := if byCount then 0x3FF#10 else BitVec.ofNat 10 src, status := 0#16,
                           detail := if byCount then [w32 (s.fencedMask k)] else [] }
    let s := each (fun (c : Cmd) s =>
      if (c.st == .running || c.st == .stopped) && c.slots.any fun x => x.cluster == k then
        (s.stopCmd c c.cause (if c.st == .stopped then .stopped else .replay)).raise c.die 114
      else s) s.cmds s
    each (fun (c : Cmd) s =>
      if c.st == .branching && c.decider == k && s.runs c.ctx then
        match s.decider c.die with
        | some n =>
          let c := { c with decider := n, heldOn := [] }
          (startBranch (s.setCmd c) c).retest
        | none => s
      else s) s.cmds s
/-- CLUSTER_FENCE (R348): an uncorrectable error in the cluster buffer or command processor, unless the count of fenced
cores calls for it. -/
def clusterFence (s : Mach) (k : Nat) : Mach :=
  if (s.cluster k).fenced then s
  else if s.fencedCount k > 4 then fenceCluster s k true
  else fenceCluster (s.bump (safReg 0x20) 1) k false
/-- CLUSTER_FENCE. -/
def execClusterFence (k : ClusterNo) (s : State) : Host.Outcome State Fault Refusal :=
  .next { s with m := clusterFence s.m k.toNat }

/-- The tiles of a core's engines stop, their rows in flight are discarded (04 R105). DESIGN CHOICE (log entry 62): as at a release of a
command's units, VALID, a swap and a commit that wait, drain-pending rows and a limiter request are cleared. -/
def stopEngines (s : Mach) (c : Nat) : Mach :=
  each (fun e s =>
    let x := s.eng (4 * c + e)
    let clear := fun (_ : Nat) (q : Quarter) =>
      ({ q with tiles := [], flight := [], swapWait := false, accWait := false, valid := false, pendingRows := [] } : Quarter)
    let q' := tabMap (fun _ => {}) clear x.q
    s.setEng (4 * c + e) { x with stopped := true, rampReq := false, q := q' }) (List.range 4) s
/-- A core is fenced and its fence gate begins to close (R346, R347). `replayed`: its command is replayed without it. `report`: the
record's MECH, interrupt and unit. -/
def fenceCore (s : Mach) (c : Nat) (replayed : Bool) (report : Option (Nat × Nat × Nat)) : Mach :=
  let k := c / 16
  let die := c / 128
  let cmd := s.coreCmd c
  let s := (stopEngines s c).setCore c { s.core c with fenced := true, closing := true }
  let s := s.bump (schReg die 0x24) 1
  let s : Mach := match report with
    | some (mech, i, unit) =>
      let src := 16 + 4 * (k % 8) + i
      let r : RecordReq := { mech := BitVec.ofNat 8 mech, unit := w32 unit,
                             die := BitVec.ofNat 2 die, source := BitVec.ofNat 10 src, status := 0#16, detail := [] }
      (s.raise die src).recordDue r
    | none => s
  let s : Mach := match cmd with
    | some x => if (replayed || dOp x.desc == 6) && x.working then (s.stopCmd x none .replay).raise x.die 114 else s
    | none => s
  if s.fencedCount k > 4 then fenceCluster s k true else s
/-- Mismatches of a core in the 10 s before now (R346). -/
def Mach.recentMismatches (s : Mach) (c : Nat) : Nat :=
  ((s.core c).mismatches.filter fun t => decide (s.uptime ≤ t + 10000)).length
/-- Whether a quarter of engine e of a core holds work that waits on none of R346's waits: rows to stream that wait for no start-limiter
token, no hold and no drain-pending row, or rows to drain that wait for no hold and no transaction slot. -/
def Mach.quarterWorks (s : Mach) (cmd : Cmd) (c e : Nat) (q : Nat × Quarter) : Bool :=
  let en := s.eng (4 * c + e)
  (!q.2.tiles.isEmpty && !q.2.accWait && !(en.rampReq && !en.granted) && !s.waitsHeld cmd c 1 && !s.waitsHeld cmd c 2) ||
  (!q.2.pendingRows.isEmpty && !s.waitsHeld cmd c (16 + 4 * e + q.1) && (s.core c).slotsFree != 0)
/-- Whether a unit of a core holds work that waits on none of R346's waits: a transaction with a slot and no hold, a quarter with such
work, an entry whose turn has come, a retirement with its credit. A hold or a wait of another core is none of its. -/
def Mach.holdsWork (s : Mach) (c : Nat) : Bool :=
  match s.coreCmd c with
  | none => false
  | some cmd =>
    let k := s.core c
    (cmd.st == .running || cmd.st == .stopped) &&
      ((k.trans.any fun t => t.slot && !s.waitsHeld cmd c t.key) ||
       ((List.range 4).any fun e => (s.eng (4 * c + e)).q.any fun q => s.quarterWorks cmd c e q) ||
       (cmd.st == .running && match (s.phases c)[k.phase]? with
        | some p => ((List.range k.items.length).any fun n => p.body.any fun i => entryReady s c p n i &&
              !s.waitsHeld cmd c (256 + 512 * ((k.items[n]?.map fun x => x.parity).getD 0) + i)) ||
            ((k.items.any fun x => itemDone s c p x) && s.slices.all fun g => !g.2.atomWait.contains c)
        | none => false))
/-- A core is fenced for one of the causes of R346 (a second mismatch within 10 s, an uncorrectable SRAM error, a hang) or
for a failed self-test (21 R476). -/
def coreFence (s : Mach) (c : Nat) (why : FenceCause) : Mach :=
  if (s.core c).fenced then s
  else match why with
  -- the record of the second mismatch reports the fence
  | .mismatch => if s.recentMismatches c ≥ 2 then fenceCore s c true none else s
  | .sram => fenceCore (s.bump (safReg 0x20) 1) c true (some (0x12, 1, c))
  | .hang => if s.holdsWork c && decide (2 ^ 22 ≤ (s.core c).idleCycles) then fenceCore s c false (some (0x15, 2, c)) else s
  | .selfTest => fenceCore s c true (some (0x10, 0, 4 * c))
/-- CORE_FENCE. -/
def execCoreFence (c : CoreNo) (cause : FenceCause) (s : State) : Host.Outcome State Fault Refusal :=
  .next { s with m := coreFence s.m c.toNat cause }
/-- CORE_HANG (R346): 2^22 cluster-island cycles pass with no progress while a unit holds work that waits on nothing. -/
def execCoreHang (c : CoreNo) (s : State) : Host.Outcome State Fault Refusal :=
  .next { s with m := coreFence s.m c.toNat .hang }
/-- The fence gate of a core has closed (R347): writes that had not passed it and responses to the core are gone, DONE is
reported, the claims are returned, and the core leaves its command (05 R136). An index a full tundish refuses, or whose
return waits for a credit, is returned later. -/
def gateClose (s : Mach) (c : Nat) : Mach :=
  let k := s.core c
  if !(k.closing || k.shut) || s.frozen then s
  else
    let s := reportDone (s.setCore c { k with closing := false, shut := true, trans := [], slotsFree := k.slotsFree + k.slotsHeld }) c
    leaveFenced (each (fun (x : Item) s => returnIndex s c x.index) k.items s) c
/-- FENCE_GATE_CLOSE. -/
def execFenceGateClose (c : CoreNo) (s : State) : Host.Outcome State Fault Refusal := .next { s with m := gateClose s.m c.toNat }

end Sys2Proof.Machine
end

