-- ==== Sys2Proof/Machine/Atomics.lean ====
section
/-! DEFINITION. Machine/Atomics.lean: the atomic units, their credits, and the shared caches
(06_ladle_units.md R160 to R165). -/

namespace Sys2Proof.Machine

/-! ## Credits of an atomic unit (R164) -/

/-- The requester of a command that waits to be tested: the dispatcher of a WAIT, the command processor of a BRANCH. -/
def Cmd.tester (c : Cmd) : Nat := if c.st == .waiting then flaskUnit c.die else 512 + c.decider
/-- A requester that has been granted a credit sends what waits for it: operations on synchronisation objects, tests of its commands
(14 R333; 05 R139). -/
def Mach.useCredit (s : Mach) (r : Nat) : Mach :=
  if s.safe then s.resend else (testRound (fun c => c.tester == r) s.resend).retest
/-- A freed credit goes to the next waiting requester. -/
def atomicGrant (s : Mach) (g : Nat) : Mach :=
  let x := s.slice g
  if s.frozen || x.free = 0 then s
  else match x.nextWaiting with
  | some r => s.setSlice g { x with free := x.free - 1, credits := x.credits ++ [r], atomWait := x.atomWait.erase r, atomLast := r }
      |>.useCredit r
  | none => s
/-- ATOMIC_CREDIT_GRANT. -/
def execAtomicCreditGrant (g : SliceNo) (s : State) : Host.Outcome State Fault Refusal :=
  .next { s with m := atomicGrant s.m g.toNat }

/-! ## The operations (R162) -/

/-- The command that an atomic request is made for: that of the core that makes it. -/
def Mach.atomOwner (s : Mach) (r : AtomReq) : Option Nat :=
  if r.requester.val < 512 then (s.core r.requester.val).cmd else none
/-- What an atomic request that fails does: a command's core fails with its command, any other requester's context takes
the fault. A request to a held channel, or without a credit, waits. -/
def atomFault (s s0 : Mach) (r : AtomReq) (f : Flt) : Mach :=
  let other := match f with
    | .fatal st => s.fatal r.ctx.toNat st 0
    | .restart _ => s
    | .held _ | .slot _ => s0
    | .credit a g => s0.awaitCredit a g
  match (s0.atomOwner r).bind fun id => s0.cmd? id with
  | some c => if c.ctx = r.ctx.toNat then s.cmdFault s0 c.id r.requester.val 5 f else other
  | none => other
/-- An atomic request on an n-byte word aligned to `al` bytes, under a credit of its unit; the old value is the unit's answer. -/
def atomicRun (s : Mach) (r : AtomReq) (al n : Nat) (wr : Bool) (f : Nat → Nat) : Res Unit :=
  let va := r.va.toNat
  let me := r.requester.val
  if va % al ≠ 0 then .err (.fatal stShape) s
  else (s.piece r.ctx.toNat (if wr then .write else .read) false (va, n)).bind fun pa s =>
    let g := s.sliceOf pa
    if !(s.slice g).admits me s.frozen then .err (.credit me g) s
    else if (sectorsOf pa n).any fun x => s.isSlag x then .err (.fatal stFaultPoison) s
    else
      let old := ofBytes (s.nearBytes pa n)
      let s := (s.bump (ldlReg g 0x1C) 1).setSlice g { s.slice g with atomOld := old }
      .ok () (if wr then s.putBytes pa (toBytes n (f old)) else s)
/-- An atomic request executes, waits or is refused; done or refused, it holds its credit no more (R162, R164). None of a fenced core
passes its gate (14 R347). -/
def atomicOp (s : Mach) (r : AtomReq) (al n : Nat) (wr : Bool) (f : Nat → Nat) : Mach :=
  if decide (r.requester.val < 512) && (s.core r.requester.val).fenced then s
  else match underCredit r.requester.val (homeSlice s r.ctx.toNat r.va.toNat) (atomicRun s r al n wr f) with
  | .ok _ s' => match (s.atomOwner r) with
    | some id => s'.dropWaits id fun w => w.is r.requester.val 5
    | none => s'
  | .err e s' => atomFault s' s r e

/-- Two 32-bit words as an operation on numbers. -/
def onWords (f : Word → Word → Word) (b : Word) (o : Nat) : Nat := (f (w32 o) b).toNat
/-- ADD.BF16: exact, rounded once, ties to even, an exact zero as +0. -/
def bf16Add (a b : Nat) : Nat :=
  match fvAdd (fpDecode fmtBf16 a) (fpDecode fmtBf16 b) with
  | .nan => 0x7FC0
  | .inf n => withSign fmtBf16 n 0x7F80
  | .fin n m e =>
    if m = 0 then 0
    else
      let mag := roundMag fmtBf16 m e false
      withSign fmtBf16 n (if mag > 0x7F7F then 0x7F80 else mag)
/-- The larger of two signed words. -/
def i32Max (a b : Word) : Word := if a.toInt < b.toInt then b else a
/-- The smaller of two signed words. -/
def i32Min (a b : Word) : Word := if b.toInt < a.toInt then b else a

/-- ADD.F32. -/
def execAddF32 (r : AtomReq) (b : Word) (s : State) : Host.Outcome State Fault Refusal :=
  .next { s with m := atomicOp s.m r 4 4 true (onWords (fun x y => f32PosZero (f32Add x y)) b) }
/-- ADD.BF16. -/
def execAddBf16 (r : AtomReq) (b : BitVec 16) (s : State) : Host.Outcome State Fault Refusal :=
  .next { s with m := atomicOp s.m r 2 2 true (fun o => bf16Add o b.toNat) }
/-- ADD.I32. -/
def execAddI32 (r : AtomReq) (b : Word) (s : State) : Host.Outcome State Fault Refusal :=
  .next { s with m := atomicOp s.m r 4 4 true (onWords (fun x y => x + y) b) }
/-- ADD.WIDE: issued by ladle units only, requesters 544 to 575. -/
def atomicWide (s : Mach) (r : AtomReq) (b : Nat) : Mach :=
  if 544 ≤ r.requester.val ∧ r.requester.val < 576 then atomicOp s r 64 48 true (fun o => (o + b) % 2 ^ 384) else s
/-- ADD.WIDE. -/
def execAddWide (r : AtomReq) (b : BitVec 384) (s : State) : Host.Outcome State Fault Refusal :=
  .next { s with m := atomicWide s.m r b.toNat }
/-- MAX.F32. -/
def execMaxF32 (r : AtomReq) (b : Word) (s : State) : Host.Outcome State Fault Refusal :=
  .next { s with m := atomicOp s.m r 4 4 true (onWords f32Max b) }
/-- MIN.F32. -/
def execMinF32 (r : AtomReq) (b : Word) (s : State) : Host.Outcome State Fault Refusal :=
  .next { s with m := atomicOp s.m r 4 4 true (onWords f32Min b) }
/-- MAX.I32. -/
def execMaxI32 (r : AtomReq) (b : Word) (s : State) : Host.Outcome State Fault Refusal :=
  .next { s with m := atomicOp s.m r 4 4 true (onWords i32Max b) }
/-- MIN.I32. -/
def execMinI32 (r : AtomReq) (b : Word) (s : State) : Host.Outcome State Fault Refusal :=
  .next { s with m := atomicOp s.m r 4 4 true (onWords i32Min b) }
/-- Bytes of a word of 32 or 64 bits. -/
def wideBytes (wide : Bool) : Nat := if wide then 8 else 4
/-- AND, on 32 or 64 bits. -/
def execAtomicAnd (r : AtomReq) (wide : Bool) (b : DWord) (s : State) : Host.Outcome State Fault Refusal :=
  .next { s with m := atomicOp s.m r (wideBytes wide) (wideBytes wide) true (fun o => o &&& b.toNat) }
/-- OR, on 32 or 64 bits. -/
def execAtomicOr (r : AtomReq) (wide : Bool) (b : DWord) (s : State) : Host.Outcome State Fault Refusal :=
  let f := fun (o : Nat) => (o ||| b.toNat) % 2 ^ (8 * wideBytes wide)
  .next { s with m := atomicOp s.m r (wideBytes wide) (wideBytes wide) true f }
/-- FETCH_INC. -/
def execFetchInc (r : AtomReq) (s : State) : Host.Outcome State Fault Refusal :=
  .next { s with m := atomicOp s.m r 4 4 true (fun o => (o + 1) % 2 ^ 32) }
/-- READ: one indivisible read of 64 bits. -/
def execAtomicRead (r : AtomReq) (s : State) : Host.Outcome State Fault Refusal :=
  .next { s with m := atomicOp s.m r 8 8 false id }

/-! ## The shared cache (R160, R161) -/

/-- An access arrives at its slice's cache; one to a held target waits (12 R274). -/
def cacheAccess (s : Mach) (a : CacheAcc) : Mach :=
  let pa := a.pa.toNat
  if pa ≥ s.nt || (s.heldAt pa).isSome then s else s.touchLine pa a.write a.hint
/-- CACHE_ACCESS. -/
def execCacheAccess (a : CacheAcc) (s : State) : Host.Outcome State Fault Refusal := .next { s with m := cacheAccess s.m a }

end Sys2Proof.Machine
end

