-- ==== Sys2Proof/Machine/MemSys.lean ====
section
/-! DEFINITION. Machine/MemSys.lean: sectors, patrol, holds, retraining, retirement and migration, margining
(12_memory_system.md R268 to R291; 21_bring_up_and_test.md R475). -/

namespace Sys2Proof.Machine

/-! ## Channel states -/

/-- The layout of HBM_PC_STATE (12 R294). -/
def chanState (state reason : BitVec 2) (temp : Byte) (ce : BitVec 16) : Nat :=
  state.toNat <<< 30 + (if state == 1#2 then reason.toNat else 0) <<< 28 + temp.toNat <<< 16 + ce.toNat
/-- HBM_PC_STATE of pseudo-channel n. -/
def Mach.pcState (s : Mach) (n : Nat) : Word :=
  let x := s.pc n
  w32 (chanState x.state x.reason x.temp x.cePass)
/-- LPD_STATE of package p. -/
def Mach.pkgState (s : Mach) (p : Nat) : Word :=
  let x := s.pkg p
  w32 (chanState x.state x.reason x.temp x.cePass)

/-! ## Stored sectors -/

/-- Package and offset of a module-tier physical address (R285). -/
def lpPlace (m : Nat) : Nat × Nat :=
  (bits m 15 12 ^^^ bits m 19 16 ^^^ bits m 23 20 ^^^ bits m 27 24 ^^^ bits m 31 28 ^^^ bits m 35 32 ^^^ bits m 38 36,
   bits m 38 16 <<< 12 ||| bits m 11 0)
/-- The module-tier physical address at an offset of a package: the inverse of R285. -/
def lpAddr (p off : Nat) : Nat :=
  let hi := off >>> 12
  let k := p ^^^ bits hi 3 0 ^^^ bits hi 7 4 ^^^ bits hi 11 8 ^^^ bits hi 15 12 ^^^ bits hi 19 16 ^^^ bits hi 22 20
  hi <<< 16 ||| (k % 16) <<< 12 ||| off % 4096
/-- n bytes of the module tier from an address. -/
def Mach.lpBytes (s : Mach) (m n : Nat) : List Byte := tabRead (fun _ => 0#8) s.lp m n
/-- Stores bytes in the module tier from an address on. -/
def Mach.lpPut (s : Mach) (m : Nat) (l : List Byte) : Mach :=
  { s with lp := tabPut (fun _ => 0#8) s.lp m l }
/-- The object one of whose bars holds a module-tier address. -/
def Mach.lpObj (s : Mach) (m : Nat) : Option Nat :=
  let f := m / 4096
  (s.objs.find? fun p => p.2.bars.any fun b => b.2.1 ≤ f && f < b.2.1 + b.2.2).map fun p => p.1
/-- Writes the slag mark of a module-tier sector; an object that gains slag is poisoned (13 R314). -/
def Mach.lpSetSlag (s : Mach) (m : Nat) (v : Bool) : Mach :=
  let s := { s with lpSlag := tabSet (fun _ => false) s.lpSlag (m / 64) v }
  if v then match s.lpObj m with
    | some n => s.poisonObj n
    | none => s
  else s
/-- The slag mark of a module-tier sector. -/
def Mach.lpIsSlag (s : Mach) (m : Nat) : Bool := tabGet (fun _ => false) s.lpSlag (m / 64)
/-- Whether a read of a module-tier sector delivers slag: by its mark, or since its package is FAILED (R277, R288). -/
def Mach.lpReadsSlag (s : Mach) (m : Nat) : Bool := s.lpIsSlag m || (s.pkg (lpPlace m).1).state == 2#2

/-- A stored sector: its 64 bytes and its mark. -/
structure Stored where
  bytes : List Byte
  slag : Bool
  deriving DecidableEq, Repr
/-- The sector of a stack that the map does not reach, as data with the mark above it. -/
def ofSpare (w : BitVec 513) : Stored := { bytes := toBytes 64 (w.toNat % 2 ^ 512), slag := w.toNat.testBit 512 }
/-- The same, as stored. -/
def toSpare (x : Stored) : BitVec 513 := BitVec.ofNat 513 (ofBytes x.bytes + b2n x.slag * 2 ^ 512)
/-- The first sector of a package's test area, from 31.875 GiB on (R286). -/
def testArea : Nat := 534773760
/-- A sector of a package beyond its data: as written last, else the training pattern of a test area. -/
def Mach.lpBeyond (s : Mach) (p k : Nat) : BitVec 513 :=
  let n := p * pkgSectors + k
  (tabGet (fun _ => none) s.lpSpare n).getD (if s.lpPatterns && decide (testArea ≤ k) then (Config.testPattern n).setWidth 513 else 0#513)
/-- What a sector holds. -/
def Mach.stored (s : Mach) (a : SectorAt) : Stored :=
  match a with
  | .hbm n k => match s.sectorAddr n.toNat k.toNat with
    | some pa => { bytes := s.nearBytes pa 64, slag := s.slagBit pa || tabGet (fun _ => false) s.under (pa / 64) }
    | none => ofSpare (tabGet (fun _ => 0#513) s.spare (n.toNat * pcSectors + k.toNat))
  | .lpddr p k =>
    if pkgData ≤ k.toNat then ofSpare (s.lpBeyond p.toNat k.toNat)
    else
      let m := lpAddr p.toNat (64 * k.toNat)
      { bytes := s.lpBytes m 64, slag := s.lpIsSlag m }
/-- Replaces what a sector holds. -/
def Mach.store (s : Mach) (a : SectorAt) (x : Stored) : Mach :=
  match a with
  | .hbm n k => match s.sectorAddr n.toNat k.toNat with
    | some pa =>
      let s := { s.putBytes pa x.bytes with under := tabSet (fun _ => false) s.under (pa / 64) false }
      if s.slagBit pa || x.slag then s.setSlag pa x.slag else s
    | none => { s with spare := tabSet (fun _ => 0#513) s.spare (n.toNat * pcSectors + k.toNat) (toSpare x) }
  | .lpddr p k =>
    if pkgData ≤ k.toNat then
      { s with lpSpare := tabSet (fun _ => none) s.lpSpare (p.toNat * pkgSectors + k.toNat) (some (toSpare x)) }
    else
      let m := lpAddr p.toNat (64 * k.toNat)
      let s := s.lpPut m x.bytes
      if s.lpIsSlag m || x.slag then s.lpSetSlag m x.slag else s
/-- Rewrites what a read of a sector has found uncorrectable: beneath a valid line of a shared cache only the stored copy is marked (06
R160). -/
def Mach.storeBad (s : Mach) (a : SectorAt) (x : Stored) : Mach :=
  match a with
  | .hbm n k => match s.sectorAddr n.toNat k.toNat with
    | some pa => if s.cached pa then s.stackSlag pa else s.store a x
    | none => s.store a x
  | .lpddr _ _ => s.store a x

/-- The 68 symbols of a sector (R268). -/
def symbolsOf (x : Stored) : List Nat :=
  let info := (x.bytes.map fun b => b.toNat) ++ [b2n x.slag]
  info ++ rsCheck info
/-- Symbols with errors laid over them. -/
def withErrors (w : List Nat) (errs : SymbolErrors) : List Nat :=
  errs.foldl (fun w e => w.set e.1.val (w.getD e.1.val 0 ^^^ e.2.toNat)) w
/-- The sector that 68 symbols spell. -/
def spelled (w : List Nat) : Stored :=
  { bytes := (w.take 64).map fun n => BitVec.ofNat 8 n, slag := (w.getD 64 0).testBit 0 }

/-- A counter of a sector's stack or package: CE, UE or SLAG (0, 1, 2). -/
def sectorCnt (a : SectorAt) (i : Nat) : Nat :=
  match a with
  | .hbm n _ => ldlReg (n.toNat / 32) (0x100 + 4 * i)
  | .lpddr p _ => lpdReg p.toNat (4 + 4 * i)
/-- The die of a sector and its controller's first interrupt source (16 R396). -/
def sectorSrc (a : SectorAt) : Nat × Nat :=
  match a with
  | .hbm n _ => (n.toNat / 256, 48 + 4 * (n.toNat / 32 % 8))
  | .lpddr p _ => (p.toNat / 4, 80 + 4 * (p.toNat % 4))
/-- State of a sector's channel: 1 held, 2 FAILED. A migration step holds the sectors of its own granules only (R273). -/
def Mach.sectorState (s : Mach) (a : SectorAt) : BitVec 2 :=
  match a with
  | .hbm n k =>
    let x := s.pc n.toNat
    if x.state == 1#2 && x.reason == 2#2 then
      match s.sectorAddr n.toNat k.toNat with
      | some pa => if (s.heldAt pa).isSome then 1#2 else 0#2
      | none => 0#2
    else x.state
  | .lpddr p _ => (s.pkg p.toNat).state
/-- The record of errors of a sector's channel with a MECH and an interrupt source, its state copied (17 R406, R413, R483). -/
def sectorRecord (s : Mach) (a : SectorAt) (mech : Byte) (src : Nat) : RecordReq :=
  let u := match a with
    | .hbm n _ => (w32 n.toNat, s.pcState n.toNat)
    | .lpddr p _ => (w32 (2 ^ 28 + p.toNat), s.pkgState p.toNat)
  { mech := mech, unit := u.1, die := BitVec.ofNat 2 (sectorSrc a).1, source := BitVec.ofNat 10 src, status := 0#16, detail := [u.2] }
/-- CE_PASS has reached 4,096 within a pass: the finding of accumulating errors is raised and recorded (16 R396; 17 R406). -/
def manyCe (s : Mach) (a : SectorAt) : Mach :=
  (s.raise (sectorSrc a).1 ((sectorSrc a).2 + 3)).recordDue (sectorRecord s a 0x21#8 ((sectorSrc a).2 + 3))
/-- A corrected sector counts in CE_PASS, which stops at 0xFFFF; 4,096 in one pass call for retirement (R278). -/
def countCe (s : Mach) (a : SectorAt) : Mach :=
  match a with
  | .hbm n _ =>
    let x := s.pc n.toNat
    let c := if x.cePass == 0xFFFF#16 then x.cePass else x.cePass + 1#16
    let s := s.setPc n.toNat { x with cePass := c, retireDue := x.retireDue || c == 4096#16 }
    if c == 4096#16 ∧ x.cePass ≠ c then manyCe s a else s
  | .lpddr p _ =>
    let x := s.pkg p.toNat
    let c := if x.cePass == 0xFFFF#16 then x.cePass else x.cePass + 1#16
    let s := s.setPkg p.toNat { x with cePass := c }
    if c == 4096#16 ∧ x.cePass ≠ c then manyCe s a else s
/-- An uncorrectable read of a pseudo-channel; two within 24 h call for retirement (R278). -/
def countUe (s : Mach) (a : SectorAt) : Mach :=
  match a with
  | .hbm n _ =>
    let x := s.pc n.toNat
    let recent := x.ueTimes.filter fun t => decide (s.uptime < t + 86400000)
    s.setPc n.toNat { x with ueTimes := s.uptime :: recent.take 1, retireDue := x.retireDue || !recent.isEmpty }
  | .lpddr _ _ => s
/-- A read of a sector under R269: what it delivers, and the state with the rewrite and the counts. -/
def readSector (s : Mach) (a : SectorAt) (errs : SymbolErrors) : Stored × Mach :=
  let x := s.stored a
  let w := withErrors (symbolsOf x) errs
  match rsDecode w with
  | .clean => (spelled w, s)
  | .corrected w' => (spelled w', 
    let s := s.bump (sectorCnt a 0) 1
    countCe (if spelled w' = x then s else s.store a (spelled w')) a)
  | .uncorrectable =>
    let y : Stored := { spelled w with slag := true }
    let s := ((s.bump (sectorCnt a 1) 1).raise (sectorSrc a).1 (sectorSrc a).2).recordDue (sectorRecord s a 0x20#8 (sectorSrc a).2)
    (y, countUe (s.storeBad a y) a)
/-- SECTOR_READ: a held channel makes it wait (R274), a FAILED one delivers slag (R277); each delivery of slag is counted
(R271). -/
def sectorRead (s : Mach) (a : SectorAt) (errs : SymbolErrors) : Mach :=
  if s.sectorState a == 1#2 then s
  else if s.sectorState a == 2#2 then s.bump (sectorCnt a 2) 1
  else
    let (x, s) := readSector s a errs
    if x.slag then s.bump (sectorCnt a 2) 1 else s
/-- SECTOR_READ. -/
def execSectorRead (a : SectorAt) (errs : SymbolErrors) (s : State) : Host.Outcome State Fault Refusal :=
  if !(Instr.sectorRead a errs).wf then .fault (.illFormed "sector")
  else .next { s with m := sectorRead s.m a errs }
/-- The bytes that a merge gives: enabled bytes of the write over the stored ones. -/
def mergeBytes (data : Nat) (mask : BitVec 64) (old : List Byte) : List Byte :=
  (toBytes 64 data).zipIdx.map fun x => if mask.getLsbD x.2 then x.1 else old.getD x.2 0#8
/-- SECTOR_WRITE (R270): a whole sector takes the writer's mark, a part is merged and keeps a set one; a FAILED channel
discards it (R277). -/
def sectorWrite (s : Mach) (a : SectorAt) (data : Nat) (mask : BitVec 64) (slag : Bool) (errs : SymbolErrors) : Mach :=
  if s.sectorState a == 1#2 then s
  else if s.sectorState a == 2#2 then (match a with
    | .hbm n _ => s.bump (ldlReg (n.toNat / 32) 0x11C) 1
    | .lpddr _ _ => s)
  else if mask == BitVec.allOnes 64 then s.store a { bytes := toBytes 64 data, slag := slag }
  else
    let (x, s) := readSector s a errs
    s.store a { bytes := mergeBytes data mask x.bytes, slag := x.slag || slag }
/-- SECTOR_WRITE. -/
def execSectorWrite (a : SectorAt) (data : BitVec 512) (mask : BitVec 64) (slag : Bool) (errs : SymbolErrors) (s : State) :
    Host.Outcome State Fault Refusal :=
  if !(Instr.sectorWrite a data mask slag errs).wf then .fault (.illFormed "sector")
  else .next { s with m := sectorWrite s.m a data.toNat mask slag errs }

/-! ## Patrol (R272) -/

/-- Sectors of a stack. -/
def stackSectors : Nat := 32 * pcSectors
/-- Sector k of a stack's physical order. -/
def patrolAt (g k : Nat) : SectorAt := .hbm (BitVec.ofNat 10 (32 * g + k / pcSectors)) (BitVec.ofNat 24 (k % pcSectors))
/-- The end of a pass: counted, and every CE_PASS of the stack cleared. -/
def patrolEnd (s : Mach) (g : Nat) : Mach :=
  let x := s.slice g
  if x.patrol < stackSectors ∨ !x.skipped.isEmpty then s
  else
    let s := (s.setSlice g { x with patrol := 0 }).bump (ldlReg g 0x114) 1
    each (fun i s => s.setPc (32 * g + i) { s.pc (32 * g + i) with cePass := 0#16 }) (List.range 32) s
/-- PATROL_READ: the next sector of the pass is read, one that a held channel keeps is come back to after the hold. -/
def patrolRead (s : Mach) (g : Nat) (errs : SymbolErrors) : Mach :=
  let x := s.slice g
  let held := fun (k : Nat) => s.sectorState (patrolAt g k) == 1#2
  let next : Option Nat := match x.skipped.find? fun k => !held k with
    | some k => some k
    | none => if x.patrol < stackSectors then some x.patrol else none
  match next with
  | none => s
  | some k =>
    let first := x.skipped.contains k
    if held k then s.setSlice g { x with patrol := k + 1, skipped := x.skipped ++ [k] }
    else
      let s := s.setSlice g (if first then { x with skipped := x.skipped.erase k } else { x with patrol := k + 1 })
      let s := if s.sectorState (patrolAt g k) == 2#2 then s else (readSector s (patrolAt g k) errs).2
      patrolEnd s g
/-- Sectors of a package's pass: its data, then its test area (R286, R287). -/
def pkgPass : Nat := pkgData + (pkgSectors - pkgTest)
/-- Sector k of a package's pass. -/
def pkgPatrolAt (p k : Nat) : SectorAt :=
  .lpddr (BitVec.ofNat 4 p) (BitVec.ofNat 29 (if k < pkgData then k else pkgTest + (k - pkgData)))
/-- The patrol of a package's channel (R287): the next sector of the pass, none while the channel is held; a pass ends as a
stack's does. -/
def pkgPatrol (s : Mach) (p : Nat) (errs : SymbolErrors) : Mach :=
  let x := s.pkg p
  if x.state == 1#2 then s
  else
    let s := s.setPkg p { x with patrol := x.patrol + 1 }
    let s := if x.state == 2#2 then s else (readSector s (pkgPatrolAt p x.patrol) errs).2
    if x.patrol + 1 < pkgPass then s
    else (s.setPkg p { s.pkg p with patrol := 0, cePass := 0#16 }).bump (lpdReg p 0x14) 1
/-- PATROL_READ. -/
def execPatrolRead (g : Scrubbed) (errs : SymbolErrors) (s : State) : Host.Outcome State Fault Refusal :=
  if !errorsWf errs then .fault (.illFormed "symbol errors")
  else match g with
  | .stack g => .next { s with m := patrolRead s.m g.toNat errs }
  | .package p => .next { s with m := pkgPatrol s.m p.toNat errs }

/-! ## Holds (R273, R274) -/

/-- First interrupt source of a pseudo-channel's slice, with its die. -/
def pcSrc (n : Nat) : Nat × Nat := (n / 256, 48 + 4 * (n / 32 % 8))
/-- Whether another pseudo-channel of the stack is held for retraining or margining. -/
def Mach.stackHeld (s : Mach) (n : Nat) : Bool :=
  (List.range 32).any fun i =>
    let x := s.pc (32 * (n / 32) + i)
    32 * (n / 32) + i != n && x.state == 1#2 && x.reason != 2#2
/-- Whether R273 allows a hold for retraining or margining now. -/
def Mach.mayHold (s : Mach) (n : Nat) (retrain : Bool) : Bool :=
  (s.pc n).state == 0#2 && !s.stackHeld n &&
    (!retrain || (match (s.pc n).lastHoldEnd with
      | some t => decide (t + 100 ≤ s.uptime)
      | none => true))
/-- Whether the migration of its die copies from pseudo-channel n next. -/
def Mach.migrates (s : Mach) (n : Nat) : Bool :=
  match (s.repairOf (n / 256)).mig with
  | some m => match m.regions with
    | .lane j k _ :: _ => 256 * (n / 256) + s.spread (n / 256) j k == n
    | .logical _ :: _ => m.target == n
    | [] => false
  | none => false
/-- Whether a lower pseudo-channel of the stack is due for retraining too. -/
def Mach.lowerDue (s : Mach) (n : Nat) : Bool :=
  (List.range (n % 32)).any fun i => (s.pc (n - n % 32 + i)).trainDue && (s.pc (n - n % 32 + i)).state == 0#2
/-- The code of a hold's reason (R294). -/
def reasonCode : HoldReason → BitVec 2
  | .retraining => 0#2
  | .margining => 1#2
  | .migration => 2#2
/-- A hold begins, once the requests already accepted have completed. -/
def holdBegin (s : Mach) (n : Nat) (why : HoldReason) : Mach :=
  let x := s.pc n
  let may := match why with
    | .retraining => s.mayHold n true && x.trainDue && !s.lowerDue n
    | .margining => s.mayHold n false
    | .migration => x.state == 0#2 && s.migrates n
  if s.safe || !may then s
  else (s.setPc n { x with state := 1#2, reason := reasonCode why }).bump (ldlReg (n / 32) 0x10C) 1
/-- HOLD_BEGIN. -/
def execHoldBegin (pc : PcNo) (why : HoldReason) (s : State) : Host.Outcome State Fault Refusal :=
  .next { s with m := holdBegin s.m pc.toNat why }
/-- Transactions that wait on a pseudo-channel proceed. -/
def Mach.unwait (s : Mach) (n : Nat) : Mach :=
  { s.freeSlots (s.cmds.flatMap fun c => c.heldOn.filter fun w => w.pc == n) with
    cmds := s.cmds.map fun c => { c with heldOn := c.heldOn.filter fun w => w.pc != n } }
/-- A hold is released, leaving the pseudo-channel in a state; operations on synchronisation objects that waited on it are sent. -/
def endHold (s : Mach) (n : Nat) (st : BitVec 2) : Mach :=
  (((s.setPc n { s.pc n with state := st, reason := 0#2, lastHoldEnd := some s.uptime }).unwait n).raise (pcSrc n).1 ((pcSrc n).2 + 2)).resendSyncs
/-- HOLD_RELEASE. -/
def execHoldRelease (pc : PcNo) (s : State) : Host.Outcome State Fault Refusal :=
  .next { s with m := if (s.m.pc pc.toNat).state == 1#2 then endHold s.m pc.toNat 0#2 else s.m }

/-! ## Retraining (R276, R277) -/

/-- The outcome of a RETRAIN request (21 R480): its action is done with a status. -/
def Mach.bringUpDone (s : Mach) (holds st : Nat) : Mach :=
  ((s.setField (devReg 0x200) 31 30 2).setField (devReg 0x200) 23 16 (min holds 255)).setField (devReg 0x200) 15 0 st
/-- A trigger of R276. -/
def retrainTrigger (s : Mach) (n : Nat) (why : RetrainCause) : Mach :=
  let x := s.pc n
  let due := fun (s : Mach) (x : PcSt) => (s.setPc n { x with trainDue := true }).raise (pcSrc n).1 ((pcSrc n).2 + 1)
  if x.state == 2#2 || x.state == 3#2 then s
  else match why with
  | .temperature t =>
    let s := s.sense (.stack (BitVec.ofNat 5 (n / 32))) (degrees t.toNat)
    if t.toNat ≥ x.temp.toNat + 10 ∨ x.temp.toNat ≥ t.toNat + 10 then due s x else s
  | .parity =>
    let s := s.bump (ldlReg (n / 32) 0x110) 1
    let recent := s.uptime :: x.parityErrs.filter fun t => decide (s.uptime < t + 1000)
    if recent.length ≥ 16 then
      due s { x with parityErrs := [], trainParity := true }
    else s.setPc n { x with parityErrs := recent }
  | .age => if x.lastTrain + 86400000 ≤ s.uptime then due s x else s
  | .request => due s x
/-- RETRAIN_TRIGGER. -/
def execRetrainTrigger (pc : PcNo) (why : RetrainCause) (s : State) : Host.Outcome State Fault Refusal :=
  .next { s with m := retrainTrigger s.m pc.toNat why }
/-- Whether a pseudo-channel is held for retraining. -/
def Mach.retraining (s : Mach) (n : Nat) : Bool := (s.pc n).state == 1#2 && (s.pc n).reason == 0#2
/-- A pseudo-channel trained at a temperature; eight retrainings for interface errors within 1 h call for retirement (R278). -/
def PcSt.trained (x : PcSt) (now t : Nat) : PcSt :=
  let times := if x.trainParity then now :: x.parityTimes.filter fun t => decide (now < t + 3600000) else x.parityTimes
  { x with temp := BitVec.ofNat 8 t, lastTrain := now, trainDue := false, trainParity := false, parityTimes := times,
           retireDue := x.retireDue || (x.trainParity && decide (times.length ≥ 8)) }
/-- RETRAIN_COMPLETE: the pseudo-channel is trained at a temperature; its hold lasts until its release. -/
def retrainComplete (s : Mach) (n t : Nat) : Mach :=
  if !s.retraining n then s
  else
    let s := s.setPc n ((s.pc n).trained s.uptime t)
    let s := s.sense (.stack (BitVec.ofNat 5 (n / 32))) (degrees t)
    if s.retrainReq = some (false, n) then ({ s with retrainReq := none } : Mach).bringUpDone 1 stOk else s
/-- RETRAIN_COMPLETE. -/
def execRetrainComplete (pc : PcNo) (celsius : Byte) (s : State) : Host.Outcome State Fault Refusal :=
  .next { s with m := retrainComplete s.m pc.toNat celsius.toNat }

/-- Whether the near copy of an object has a granule on logical channel c: where it is spread, at position k of its lane and below
an offset. -/
def Obj.onChannel (o : Obj) (c : Nat) (k : Option (Nat × Nat)) : Bool :=
  o.near.any fun e => (List.range (e.2 / 65536)).any fun i =>
    let a := e.1 + 65536 * i
    let l := c ^^^ hashF (a / 2 ^ 18)
    (k.all fun k => a / 2 ^ 18 % 248 == k.1 && a / 2 ^ 18 < k.2) && bits a 17 8 ≤ l && l < bits a 17 8 + 256
/-- Where the map places granules on pseudo-channel n: logical channels that name it, and positions of lanes, up to the watermark
where one migrates (R265, R266, R280). -/
def Mach.mappedOn (s : Mach) (n : Nat) : List (Nat × Option (Nat × Nat)) :=
  (List.range 1024).flatMap fun c =>
    let (mode, lane, phys) := s.remap c
    if mode = 0 then (if phys = n then [(c, none)] else [])
    else if mode = 3 ∨ phys / 256 ≠ n / 256 then []
    else
      let below := match (s.repairOf (n / 256)).mig with
        | some m => match m.regions with
          | .logical c' :: _ => if c' = c then m.w else 0
          | _ => 0
        | none => 0
      ((List.range 248).filter fun k => s.spread (n / 256) lane k == n % 256).map fun k =>
        (c, some (k, if mode = 2 then below else spareBase))
/-- A FAILED pseudo-channel that cannot be retired (R283): its logical entries become FAILED, objects with granules there
are poisoned, the event is recorded. -/
def failUnrepaired (s : Mach) (n : Nat) : Mach :=
  let on := s.mappedOn n
  let cs := (on.filter fun x => x.2.isNone).map fun x => x.1
  let s := each (fun c s => s.setRemap c 3 0 n) cs s
  let s := s.setReg (memReg 0) (s.reg (memReg 0) + 1#32)
  let s := s.recordDue { mech := 0x23#8, unit := w32 n, die := BitVec.ofNat 2 (n / 256), source := 0x3FF#10,
                         status := 0#16, detail := [s.pcState n] }
  each (fun (p : Nat × Obj) s => if on.any fun x => p.2.onChannel x.1 x.2 then s.poisonObj p.1 else s) s.objs s
/-- Whether a die can retire one more pseudo-channel (R278, R279, R283). -/
def Mach.canRetire (s : Mach) (d : Nat) : Bool := s.repair && decide ((s.repairOf d).lanesTaken.length < 8)
/-- Die-local pseudo-channels that are retired or on their way out. -/
def Mach.goneOn (s : Mach) (d : Nat) : List Nat :=
  let r := s.repairOf d
  let moving := (r.mig.toList ++ r.waiting).map fun m => m.target % 256
  (List.range 256).filter fun i => (s.pc (256 * d + i)).state == 3#2 || moving.contains i
/-- The FAILED pseudo-channels of a die that has no lane left are left in FAILED mode (R283). -/
def failAll (s : Mach) (d : Nat) : Mach :=
  if s.canRetire d then s
  else
    let left := (List.range 256).filter fun i => (s.pc (256 * d + i)).state == 2#2 && !(s.goneOn d).contains i &&
      (s.mappedOn (256 * d + i)).any fun x => x.2.isNone
    each (fun i s => failUnrepaired s (256 * d + i)) left s
/-- RETRAIN_FAIL (R277): the pseudo-channel becomes FAILED and its hold is released. -/
def retrainFail (s : Mach) (n : Nat) : Mach :=
  if !s.retraining n then s
  else
    let s := endHold s n 2#2
    let s := s.setPc n { s.pc n with trainDue := false, trainParity := false, retireDue := true }
    let s := if s.retrainReq = some (false, n) then
        -- the status of a failed retraining is not stated
        let (v, s) := s.fresh
        ({ s with retrainReq := none } : Mach).bringUpDone 1 (v % 2 ^ 16)
      else s
    if s.canRetire (n / 256) || (s.goneOn (n / 256)).contains (n % 256) then s else failUnrepaired s n
/-- RETRAIN_FAIL. -/
def execRetrainFail (pc : PcNo) (s : State) : Host.Outcome State Fault Refusal := .next { s with m := retrainFail s.m pc.toNat }

/-! ## Retirement and migration (R278 to R281) -/

/-- The spread list of a lane of a die once the replacements that wait are made (R279). -/
def Mach.spreadDue (s : Mach) (d j : Nat) : List Nat :=
  let r := s.repairOf d
  ((r.mig.toList ++ r.waiting).flatMap fun m => m.regions).foldl (fun (l : List Nat) x => match x with
    | .lane j' k new => if j' = j then l.set k new else l
    | .logical _ => l) ((List.range 248).map fun k => s.spread d j k)
/-- The start of a retirement: the lowest free lane, its spread list, the regions to migrate in order (R279, R280), and the
record of R278. -/
def startRetire (s : Mach) (n : Nat) : Mach :=
  let d := n / 256
  let t := n % 256
  let r := s.repairOf d
  let gone := s.goneOn d
  let lane := ((List.range 8).find? fun j => !r.lanesTaken.contains j).getD 0
  let list := ((List.range 256).filter fun i => i != t && !gone.contains i).take 248
  -- lanes whose lists hold t
  let lanes := (List.range 8).flatMap fun j =>
    if !r.lanesTaken.contains j then [] else
      let used := s.spreadDue d j
      match used.findIdx? fun c => c == t with
      | some k =>
        [Region.lane j k (((List.range 256).find? fun i => i != t && !gone.contains i && !used.contains i).getD 0)]
      | none => []
  let logical := (List.range 1024).filter fun c => let e := s.remap c; e.1 == 0 && e.2.2 == n
  let m : Migration := { target := n, lane := lane, regions := lanes ++ logical.map Region.logical }
  let s := each (fun (x : Nat × Nat) s => s.setSpread d lane x.2 x.1) list.zipIdx s
  let s := each (fun c s => s.setRemap c 2 lane n) logical s
  let r := { r with lanesTaken := r.lanesTaken ++ [lane] }
  let s := s.setRepair d (match r.mig with
    | none => { r with mig := some m }
    | some _ => { r with waiting := r.waiting ++ [m] })
  let s := s.setPc n { s.pc n with retireDue := false }
  let s := failAll s d
  s.recordDue { mech := 0x22#8, unit := w32 n, die := BitVec.ofNat 2 d, source := 0x3FF#10, status := 0#16,
                detail := [s.pcState n] }
/-- PSEUDO_CHANNEL_RETIRE (R278): under production firmware, with repair enabled and a lane free, one that is due. -/
def pcRetire (s : Mach) (n : Nat) : Mach :=
  let x := s.pc n
  let due := x.retireDue || x.state == 2#2
  if s.safe || !s.canRetire (n / 256) || !bit (s.reg (safReg 0)).toNat 26 || !due || (s.goneOn (n / 256)).contains (n % 256)
  then s else startRetire s n
/-- PSEUDO_CHANNEL_RETIRE. -/
def execPseudoChannelRetire (pc : PcNo) (s : State) : Host.Outcome State Fault Refusal :=
  .next { s with m := pcRetire s.m pc.toNat }

/-- The source of a region: the physical pseudo-channel its granules leave. -/
def Mach.regionSrc (s : Mach) (d : Nat) (m : Migration) : Nat :=
  match m.regions with
  | .lane j k _ :: _ => 256 * d + s.spread d j k
  | _ => m.target
/-- The granules (logical channel, offset) of the next step of a migration. -/
def Mach.stepGranules (s : Mach) (d : Nat) (m : Migration) : List (Nat × Nat) :=
  match m.regions with
  | .logical c :: _ => (List.range 4096).map fun i => (c, m.w + i)
  | .lane j k _ :: _ =>
    let cs := (List.range 1024).filter fun c => let e := s.remap c; (e.1 == 1 || e.1 == 2) && e.2.1 == j && e.2.2 / 256 == d
    cs.flatMap fun c => (List.range 4096).map fun i => (c, (m.w + i) * 248 + k)
  | [] => []
/-- Granules of a region. -/
def regionSize : Region → Nat
  | .lane _ _ _ => 12288
  | .logical _ => spareBase
/-- The copy of a step: what the old places held stays in them, unreadable sectors are written with slag set. -/
def copyStep (s : Mach) (failed : Bool) (gs : List (Nat × Nat)) : Mach :=
  if failed then
    each (fun (x : Nat × Nat) s => each (fun i s => s.setSlag (addrOf x.1 x.2 + 64 * i) true) (List.range 4) s) gs s
  else
    let secs := ((s.near.map fun (p : Nat × Byte) => p.1 / 64) ++ s.slag.map fun (p : Nat × Bool) => p.1).eraseDups.filter fun k =>
      gs.contains (logicalOf (64 * k))
    each (fun k s => match s.placeOf (64 * k) with
      | some (n, off) =>
        let x : Stored := { bytes := s.nearBytes (64 * k) 64, slag := s.slagBit (64 * k) }
        { s with spare := tabSet (fun _ => 0#513) s.spare (n * pcSectors + 4 * off + k % 4) (toSpare x) }
      | none => s) secs s
/-- Lines of a step's granules are written back and leave the caches. -/
def dropLines (s : Mach) (gs : List (Nat × Nat)) : Mach :=
  let mine := fun (x : Line) => gs.contains (logicalOf (128 * x.tag))
  let gone := s.cache.flatMap fun p => p.2.filter mine
  each (fun l s => s.dropLine l) gone { s with cache := tabMap (fun _ => []) (fun _ l => l.filter fun x => !mine x) s.cache }
/-- The copies of a step's granules to a FAILED pseudo-channel are discarded, four sectors each, and the objects that hold them have
slag there (R277, R283; 13 R314). -/
def dropMoved (s : Mach) (gs : List (Nat × Nat)) : Mach :=
  if s.pcs.all fun p => p.2.state != 2#2 then s
  else each (fun (x : Nat × Nat) s =>
    let a := addrOf x.1 x.2
    if !s.isFailed a then s
    else
      let s := s.bump (ldlReg (s.sliceOf a) 0x11C) 4
      match s.objAt a with
      | some n => s.poisonObj n
      | none => s) gs s
/-- The step's watermark, and the end of its region and of the migration. -/
def publishStep (s : Mach) (d : Nat) (m : Migration) : Mach :=
  let r := s.repairOf d
  let gen := fun (s : Mach) => s.setReg (memReg 0) (s.reg (memReg 0) + 1#32)
  match m.regions with
  | [] => s
  | x :: l =>
    let w := m.w + 4096
    let s := gen s
    if w < regionSize x then s.setRepair d { r with mig := some { m with w := w } }
    else
      let s := match x with
        | .lane j k new => s.setSpread d j k new
        | .logical c => s.setRemap c 1 m.lane m.target
      if l.isEmpty then
        let s := gen (s.setPc m.target { s.pc m.target with state := 3#2, reason := 0#2 })
        s.setRepair d { r with mig := r.waiting.head?, waiting := r.waiting.tail }
      else s.setRepair d { r with mig := some { m with regions := l, w := 0 } }
/-- MIGRATION_STEP: one step of the migration of a die, held, copied, published and released (R280). -/
def migrationStep (s : Mach) (d : Nat) : Mach :=
  match (s.repairOf d).mig with
  | none => s
  | some m =>
    let src := s.regionSrc d m
    let gs := s.stepGranules d m
    let old := s.cmds.any fun c => isLadleOp (dOp c.desc) && (c.st == .check || c.st == .checked || c.st == .work) && c.begun &&
      c.mapGen != (s.reg (memReg 0)).toNat
    let mine := (s.pc src).state == 1#2 && (s.pc src).reason == 2#2
    let busy := fun (n : Nat) => (s.pc n).state == 1#2 && (s.pc n).reason != 2#2
    let targets : List Nat := match m.regions with
      | .lane _ _ new :: _ => [256 * d + new]
      | _ => (List.range 248).map fun k => 256 * d + s.spread d m.lane k
    if s.safe || m.regions.isEmpty || old || busy src || targets.any busy then s
    else
      let s := if mine then s else s.bump (ldlReg (src / 32) 0x10C) 1
      let s := dropLines s gs
      let s := copyStep s ((s.pc src).state == 2#2) gs
      let s := dropMoved (publishStep s d m) gs
      -- the shares of a command checked before the step stay with the slice the granules have left (R281)
      let s := match m.regions with
        | x :: _ => { s with lastStep := some { gen := (s.reg (memReg 0)).toNat, die := d, region := x, w := m.w, slice := src / 32 } }
        | [] => s
      let fresh := s.spare.filter fun p => (s.sectorAddr (p.1 / pcSectors) (p.1 % pcSectors)).isNone
      let s := { s with spare := fresh }
      if mine then endHold s src (if (s.pc src).state == 3#2 then 3#2 else 0#2)
      else s.raise (pcSrc src).1 ((pcSrc src).2 + 2)
/-- MIGRATION_STEP. -/
def execMigrationStep (die : DieNo) (s : State) : Host.Outcome State Fault Refusal :=
  .next { s with m := migrationStep s.m die.toNat }

/-! ## Margining (R289, R290; 21 R475) -/

/-- Write margining overwrites sectors with its test patterns, whose values the spec does not give (R290; log entry 1). -/
def overwrite (s : Mach) (l : List SectorAt) : Mach :=
  each (fun a s => let (b, s) := s.freshBytes 8; s.store a { bytes := b, slag := false }) l s
/-- The sectors that write margining of a sweep's target writes: the pseudo-channel, or the package's test area (R290). -/
def Sweep.written (x : Sweep) : List SectorAt :=
  if x.kind < 2 then []
  else if x.lpddr then (List.range (pkgSectors - pkgTest)).map fun k => .lpddr (BitVec.ofNat 4 x.unit) (BitVec.ofNat 29 (pkgTest + k))
  else (List.range pcSectors).map fun k => .hbm (BitVec.ofNat 10 x.unit) (BitVec.ofNat 24 k)
/-- MARGIN_RES of a sweep that is complete. -/
def marginRes (x : Sweep) : Word :=
  w32 (2 ^ 31 + x.kind * 2 ^ 29 + (if x.lpddr then x.chan else x.unit % 32) * 2 ^ 24 + min x.neg 32 * 2 ^ 14 + min x.pos 32 * 2 ^ 8)
/-- A margining hold: up to 16 steps of one direction, until one that is not clean or until 32 are; holds of one target are
10 ms apart. After both directions the result is written, and the observation path returns. -/
def marginHold (s : Mach) (h : MarginHold) : Mach :=
  match s.sweep with
  | none => s
  | some x =>
    let had := if h.up then x.pos else x.neg
    let done := if h.up then x.posDone else x.negDone
    let n := h.clean.toNat
    let stops := h.failed || decide (had + n ≥ 32)
    let apart := match x.lastHold with
      | some t => decide (t + 10 ≤ s.uptime)
      | none => true
    let blocked := if x.lpddr then (s.pkg x.unit).state != 0#2 else !s.mayHold x.unit false
    if s.safe || done || !apart || blocked || n + b2n h.failed > 16 || had + n > 32 || (n < 16 && !stops) then s
    else
      let s := s.bump (if x.lpddr then lpdReg x.unit 0x10 else ldlReg (x.unit / 32) 0x10C) 1
      let s := s.raise (if x.lpddr then x.unit / 4 else x.unit / 256)
        ((if x.lpddr then 80 + 4 * (x.unit % 4) else 48 + 4 * (x.unit / 32 % 8)) + 2)
      let s := if x.lpddr then s else s.setPc x.unit { s.pc x.unit with
        lastHoldEnd := some s.uptime, writeMargined := (s.pc x.unit).writeMargined || decide (x.kind ≥ 2) }
      let s := overwrite s x.written
      let holds := min 255 (bits (s.reg (devReg 0x200)).toNat 23 16 + 1)
      let s := s.setField (devReg 0x200) 23 16 holds
      let x := if h.up then { x with pos := had + n, posDone := stops } else { x with neg := had + n, negDone := stops }
      let x := { x with lastHold := some s.uptime }
      if x.posDone && x.negDone then
        let s := s.setReg (if x.lpddr then lpdReg x.unit 0x18 else ldlReg (x.unit / 32) 0x118) (marginRes x)
        -- a suspended CLKOBS selection goes on
        let s := s.setField (devReg 0x40) 30 30 0
        ({ s with sweep := none, obsPath := if s.obsPath = 3 then 1 else 0 } : Mach).bringUpDone holds stOk
      else { s with sweep := some x }
/-- MARGIN_STEP_HOLD. -/
def execMarginStepHold (h : MarginHold) (s : State) : Host.Outcome State Fault Refusal := .next { s with m := marginHold s.m h }

/-! ## LPDDR5X retraining (R287) -/

/-- A channel of a package is held and retrained: on an oscillator reading, a temperature change or a request. -/
def lpRetrain (s : Mach) (p t : Nat) : Mach :=
  let x := s.pkg p
  if s.safe || x.state != 0#2 then s
  else
    let s := (s.setPkg p { x with temp := BitVec.ofNat 8 t }).bump (lpdReg p 0x10) 1
    let s := s.sense (.package (BitVec.ofNat 4 p)) (degrees t)
    let s := (s.raise (p / 4) (80 + 4 * (p % 4) + 1)).raise (p / 4) (80 + 4 * (p % 4) + 2)
    if s.retrainReq = some (true, p) then ({ s with retrainReq := none } : Mach).bringUpDone 1 stOk else s
/-- LPDDR_RETRAIN. -/
def execLpddrRetrain (p : PkgNo) (celsius : Byte) (s : State) : Host.Outcome State Fault Refusal :=
  .next { s with m := lpRetrain s.m p.toNat celsius.toNat }

end Sys2Proof.Machine
end

