-- ==== Sys2Proof/Machine/Ingot.lean ====
section
/-! DEFINITION. Machine/Ingot.lean: the ingot format: bars, their encoding and expansion (13_tiers_and_residency.md R309 to
R311). -/

namespace Sys2Proof.Machine

/-- A sector of native data with its slag mark. -/
abbrev Sector := List Byte × Bool

/-- The element width in bytes of an EW code (R302). -/
def ewBytes (ew : Nat) : Nat := match ew with | 0 => 1 | 1 => 2 | _ => 4
/-- The high lane of a sector (R310). -/
def highLane (w : Nat) (l : List Byte) : List Nat :=
  (l.zipIdx.filter fun x => x.2 % w == w - 1).map fun x => x.1.toNat
/-- The bytes of a sector outside its high lane, in ascending position. -/
def lowBytes (w : Nat) (l : List Byte) : List Byte := (l.zipIdx.filter fun x => x.2 % w != w - 1).map fun x => x.1
/-- How often each byte value occurs. -/
def histogram (vs : List Nat) : List Nat := (List.range 256).map fun v => (vs.filter fun x => x == v).length
/-- The most frequent values among candidates, at most n, ties to the smaller (R310). -/
def topValues : Nat → List (Nat × Nat) → List Nat
  | 0, _ => []
  | n + 1, l =>
    match l.foldl (fun (b : Option (Nat × Nat)) x => match b with
        | some y => if x.2 > y.2 then some x else b
        | none => if x.2 > 0 then some x else none) none with
    | some x => x.1 :: topValues n (l.filter fun y => y.1 != x.1)
    | none => []
/-- The dictionary of a bar's sectors: the up to 16 most frequent high-lane values of clean sectors, ascending. -/
def dictOf (w : Nat) (ss : List Sector) : List Nat :=
  let h := histogram ((ss.filter fun x => !x.2).flatMap fun x => highLane w x.1)
  let top := topValues 16 (h.zipIdx.map fun x => (x.2, x.1))
  (List.range 256).filter fun v => top.contains v
/-- The mode of a sector (R310): 0 ZERO, 1 FILL, 2 DICT, 3 RAW. -/
def modeOf (w : Nat) (dict : List Nat) (x : Sector) : Nat :=
  if x.2 then 3
  else if x.1.all fun b => b == 0#8 then 0
  else if (wordsOf 4 x.1).all fun v => v == ofBytes (x.1.take 4) then 1
  else if (highLane w x.1).all fun b => dict.contains b then 2
  else 3
/-- Bytes of a payload of a mode. -/
def payLen (w mode : Nat) : Nat :=
  match mode with
  | 0 => 0
  | 1 => 4
  | 2 => 32 / w + 64 - 64 / w
  | _ => 64
/-- Pairs of 4-bit indices as bytes, the first in the low bits. -/
def nibbles : List Nat → List Byte
  | a :: b :: l => BitVec.ofNat 8 (a + 16 * b) :: nibbles l
  | [a] => [BitVec.ofNat 8 a]
  | [] => []
/-- The payload of a sector. -/
def payload (w : Nat) (dict : List Nat) (x : Sector) : List Byte :=
  match modeOf w dict x with
  | 0 => []
  | 1 => x.1.take 4
  | 2 => nibbles ((highLane w x.1).map fun b => (dict.findIdx? fun v => v == b).getD 0) ++ lowBytes w x.1
  | _ => x.1
/-- The bar of 1,024 sectors (R309, R310). -/
def encodeBar (ew : Nat) (ss : List Sector) : List Byte :=
  let w := ewBytes ew
  let dict := dictOf w ss
  let pays := ss.flatMap fun x => payload w dict x
  let tags := ss.zipIdx.foldl (fun a x => a + (modeOf w dict x.1 + 4 * b2n x.1.2) * 2 ^ (3 * x.2)) 0
  let len := 448 + pays.length
  let head := 0x54474E49 + 0x01 <<< 32 + ew <<< 40 + len <<< 48 + (crc32c (ss.flatMap fun x => x.1)) <<< 96 +
    (dict.zipIdx.foldl (fun a x => a + x.1 * 2 ^ (8 * x.2)) 0) <<< 128 + dict.length <<< 256
  toBytes 64 head ++ toBytes 384 tags ++ pays

/-- The high lane's values put between the low bytes. -/
def weave (w : Nat) : Nat → List Byte → List Byte → List Byte
  | 0, _, _ => []
  | n + 1, hi, lo =>
    lo.take (w - 1) ++ hi.take 1 ++ weave w n (hi.drop 1) (lo.drop (w - 1))
/-- A sector rebuilt from its mode and payload. -/
def rebuild (w dictWord mode : Nat) (p : List Byte) : List Byte :=
  match mode with
  | 0 => List.replicate 64 0#8
  | 1 => (List.replicate 16 (p.take 4)).flatten
  | 2 =>
    let n := 64 / w
    let idx := (p.take (n / 2)).flatMap fun b => [b.toNat % 16, b.toNat / 16]
    weave w n (idx.map fun i => BitVec.ofNat 8 (bits dictWord (8 * i + 7) (8 * i))) (p.drop (n / 2))
  | _ => p.take 64
/-- The sectors a bar's tags and payloads spell, and whether every DICT index is below DICT_N; none where the payloads end
too early. -/
def rebuildAll (w dictWord dictN tags : Nat) : Nat → Nat → List Byte → Option (List Sector × Bool)
  | 0, _, _ => some ([], true)
  | n + 1, s, p =>
    let mode := bits tags (3 * s + 1) (3 * s)
    let k := payLen w mode
    if p.length < k then none
    else
      let ok := mode != 2 || ((p.take (32 / w)).all fun b => decide (b.toNat % 16 < dictN) && decide (b.toNat / 16 < dictN))
      (rebuildAll w dictWord dictN tags n (s + 1) (p.drop k)).map fun r =>
        ((rebuild w dictWord mode (p.take k), tags.testBit (3 * s + 2)) :: r.1, ok && r.2)
/-- Expansion of a bar for an object of an element width (R311): its sectors, all with slag where a check fails; none where
the bytes do not reach as far as the tags say. -/
def expandBar (ew : Nat) (l : List Byte) : Option (List Sector) :=
  let head := ofBytes (l.take 64)
  let tags := ofBytes ((l.drop 64).take 384)
  let w := ewBytes ew
  if l.length < 448 then none
  else
    let dictN := bits head 260 256
    match rebuildAll w (bits head 255 128) dictN tags 1024 0 (l.drop 448) with
    | none => none
    | some (ss, idxOk) =>
      let len := 448 + (List.range 1024).foldl (fun a s => a + payLen w (bits tags (3 * s + 1) (3 * s))) 0
      let ok := idxOk && bits head 31 0 == 0x54474E49 && bits head 39 32 == 1 && bits head 41 40 == ew &&
        zeroFields head [(511, 261), (95, 65), (47, 42)] && bits head 64 48 == len &&
        bits head 127 96 == crc32c (ss.flatMap fun x => x.1)
      some (if ok then ss else ss.map fun x => (x.1, true))

end Sys2Proof.Machine
end

