-- ==== Sys2Proof/Machine/Tiers.lean ====
section
/-! DEFINITION. Machine/Tiers.lean: moves between the tiers, their commits, timeouts and refetches, and the loss of the
module tier (13_tiers_and_residency.md R298, R303 to R318). -/

namespace Sys2Proof.Machine

/-! ## Reports of a move -/

/-- Steps of a move (R303). -/
def Obj.steps (o : Obj) : Nat := ceilDiv o.nbars 32
/-- The last report on an accepted request (15 R367, R376). -/
def finalReport (s : Mach) (k seq st done total : Nat) : Mach :=
  s.postEvent k 0x0102 st (seq + done <<< 32 + total <<< 64) true
/-- The last reports on the OBJECT_PLACE requests of an object whose tier satisfies p. -/
def reportPlaces (s : Mach) (n : Nat) (p : Nat → Bool) (st : Nat) : Mach :=
  let o := s.obj n
  let s := s.setObj n { o with places := o.places.filter fun x => !p x.2.2 }
  each (fun (x : Nat × Nat × Nat) s => finalReport s x.1 x.2.1 st o.wmark.toNat o.steps) (o.places.filter fun x => p x.2.2) s
/-- The residency signal (R301, R332): as SIGNAL signals, for the object's owner. It is an ADD of 1 (log entry 10). -/
def signalPlaced (s : Mach) (n : Nat) : Mach :=
  let o := s.obj n
  if !o.syncEn then s
  else
    let s := s.applySync (flaskUnit 0) o.sync.toNat 1 1 o.owner.toNat
    (s.setObj n { s.obj n with syncEn := false }).retest
/-- Commands that wait for an object's promotion. -/
def Mach.waitersOf (s : Mach) (n : Nat) : List Cmd :=
  s.cmds.filter fun c => c.st == .stopped && c.cause == some (.residency (BitVec.ofNat 19 n))
/-- Contexts of queues whose next ring entry lies in an object that is not resident (14 R326). -/
def Mach.ringWaiters (s : Mach) (n : Nat) : List (Nat × Nat) :=
  (s.queues.filter fun p => p.2.state == 1#2 && decide (p.2.rd < p.2.wr) &&
    (match s.leafAt p.2.ctx (p.2.ringVa + 64 * (p.2.rd % 2 ^ p.2.sizeLog2)) with
      | some m => m.obj == n && !(s.obj n).present
      | none => false)).map fun p => (homeDie p.2.dieMask, p.2.ctx)

/-! ## Bars and sectors -/

/-- The sectors of bar b of an object's near copy. -/
def nearSectors (s : Mach) (o : Obj) (b : Nat) : List Sector :=
  (List.range 1024).map fun i => match o.pa (65536 * b + 64 * i) with
    | some pa => (s.nearBytes pa 64, s.isSlag pa)
    | none => (List.replicate 64 0#8, true)
/-- A bar's access to its object's near copy passes through the caches (06 R160, R161). -/
def touchBar (s : Mach) (o : Obj) (b : Nat) (write : Bool) : Mach :=
  match o.pa (65536 * b) with
  | some pa => s.touch pa 65536 write .none
  | none => s
/-- Bar b of an object's near copy is read for its encoding: each slag sector delivered is counted (12 R271). -/
def nearDelivered (s : Mach) (o : Obj) (b : Nat) : Mach :=
  each (fun i s => match o.pa (65536 * b + 64 * i) with
    | some pa => if s.isSlag pa then s.bump (ldlReg (s.sliceOf pa) 0x108) 1 else s
    | none => s) (List.range 1024) (touchBar s o b false)
/-- The channel that keeps bar b of an object's near copy held, if any. -/
def barHeld (s : Mach) (o : Obj) (b : Nat) : Bool :=
  (List.range 256).any fun i => match o.pa (65536 * b + 256 * i) with
    | some pa => (s.heldAt pa).isSome
    | none => false
/-- Writes the sectors of bar b of an object's near copy, marks included (R311, 12 R270). -/
def putNearBar (s : Mach) (n b : Nat) (ss : List Sector) : Mach :=
  each (fun (x : Sector × Nat) s => match (s.obj n).pa (65536 * b + 64 * x.2) with
    | some pa => s.writeNear pa x.1.1 x.1.2
    | none => s) ss.zipIdx (touchBar s (s.obj n) b true)
/-- The module-tier addresses of the frames of a bar. -/
def barAddr (first : Nat) : Nat := first * 4096
/-- BAR_LEN of a stored bar, as its header gives it. -/
def storedLen (s : Mach) (first : Nat) : Nat :=
  bits (ofBytes (s.lpBytes (barAddr first) 16)) 64 48
/-- The bytes of a bar in the module tier; none where one of its sectors is slag, or its package FAILED (12 R277). -/
def moduleBar (s : Mach) (o : Obj) (b : Nat) : Option (List Byte) :=
  let (first, k) := tabGet (fun _ => (0, 0)) o.bars b
  let len := min (k * 4096) (max 448 (storedLen s first))
  if k = 0 ∨ ((List.range (ceilDiv len 64)).any fun i => s.lpReadsSlag (barAddr first + 64 * i)) then none
  else some (s.lpBytes (barAddr first) len)
/-- Bar b of an object's module-tier copy is read: each slag sector delivered is counted (12 R271, R286). -/
def moduleDelivered (s : Mach) (o : Obj) (b : Nat) : Mach :=
  let (first, k) := tabGet (fun _ => (0, 0)) o.bars b
  let len := min (k * 4096) (max 448 (storedLen s first))
  each (fun i s =>
    let m := barAddr first + 64 * i
    if s.lpReadsSlag m then s.bump (lpdReg (lpPlace m).1 0xC) 1 else s) (List.range (ceilDiv len 64)) s
/-- A write within one sector of the module tier: a whole sector takes the mark 0, a partial write keeps a set mark (12 R270, R286); one
to a FAILED package is discarded (12 R277). -/
def Mach.lpSector (s : Mach) (m : Nat) (l : List Byte) : Mach :=
  if (s.pkg (lpPlace m).1).state == 2#2 then s
  else
    let s := s.lpPut m l
    if m % 64 == 0 && l.length == 64 && s.lpIsSlag m then s.lpSetSlag m false else s
/-- Writes bytes in the module tier from an address on. -/
def Mach.lpWrite (s : Mach) (m : Nat) (l : List Byte) : Mach :=
  each (fun (p : Nat × List Byte) s => s.lpSector p.1 p.2) (sectorPieces (l.length + 1) m l) s
/-- The frames of bar b, wide enough for n bytes: its own, or the first gap that holds them; none where there is none (R309). -/
def Mach.barPlace (s : Mach) (o : Obj) (b n : Nat) : Option (Nat × Nat) :=
  let x := tabGet (fun _ => (0, 0)) o.bars b
  if n ≤ 4096 * x.2 then some x
  else (s.modGaps.find? fun g => decide (n ≤ 4096 * g.2)).map fun g => (g.1, ceilDiv n 4096)
/-- Writes a bar's bytes into its module-tier frames. -/
def putModuleBar (s : Mach) (n b : Nat) (l : List Byte) : Mach :=
  let o := s.obj n
  if (tabGet (fun _ => (0, 0)) o.bars b).2 = 0 then s
  else match s.barPlace o b l.length with
    | some x => (s.setObj n { o with bars := tabSet (fun _ => (0, 0)) o.bars b x }).lpWrite (barAddr x.1) l
    | none => s
/-- A bar of the module tier that could not be read: every sector of its frames is slag. -/
def slagModuleBar (s : Mach) (n b : Nat) : Mach :=
  let (first, k) := tabGet (fun _ => (0, 0)) (s.obj n).bars b
  each (fun i s => s.lpSetSlag (barAddr first + 64 * i) true) (List.range (64 * k)) s
/-- 64 KiB whose values the spec leaves open, all slag. -/
def openBar (s : Mach) : List Sector × Mach :=
  let (l, s) := s.freshBytes 8192
  ((List.range 1024).map fun i => ((l.drop (64 * i)).take 64, true), s)
/-- Expands a bar into the near copy (R311, R312); an unreadable one leaves every sector slag. -/
def expandNear (s : Mach) (n b : Nat) (l : Option (List Byte)) : Mach :=
  match l.bind fun l => expandBar (s.obj n).ew.toNat l with
  | some ss => putNearBar s n b ss
  | none =>
    let (ss, s) := openBar s
    putNearBar s n b ss
/-- Whether bar b has been written by the steps of the move in progress. -/
def Obj.moved (o : Obj) (b : Nat) : Bool := decide (b < 32 * o.wmark.toNat)
/-- Whether an object's near copy has bar b: in T1, before the commit of a move down from there, and as far as a move up has come. -/
def Obj.nearHas (o : Obj) (b : Nat) : Bool :=
  !o.near.isEmpty && (o.state == 1#3 || (o.state == 3#3 && o.src == 1#2) || (o.state == 2#3 && o.moved b))
/-- The same of its module-tier copy. -/
def Obj.modHas (o : Obj) (b : Nat) : Bool :=
  !o.bars.isEmpty && (o.state == 4#3 || ((o.state == 2#3 || o.state == 3#3) && (o.src == 2#2 || (o.dst == 2#2 && o.moved b))))
/-- The same of a remote copy that is not the origin image. -/
def Obj.remHas (o : Obj) (b : Nat) : Bool :=
  !o.image && (o.state == 5#3 || (o.state == 2#3 && o.src == 3#2)) || (o.state == 3#3 && o.dst == 3#2 && o.moved b)
/-- Whether a bar's bytes hold a slag sector. -/
def slagIn (ew : Nat) (l : Option (List Byte)) : Bool :=
  match l.bind fun l => expandBar ew l with
  | some ss => ss.any fun x => x.2
  | none => true
/-- Whether bar b of an object holds a slag sector in a tier. -/
def barSlag (s : Mach) (o : Obj) (b : Nat) : Bool :=
  (o.nearHas b && (nearSectors s o b).any fun x => x.2) || (o.modHas b && slagIn o.ew.toNat (moduleBar s o b)) ||
    (o.remHas b && o.remSlag.contains b)
/-- An object's fetching again from the origin image ends once no slag remains (R315). -/
def healed (s : Mach) (n : Nat) : Mach :=
  let o := s.obj n
  if !o.refetch || (List.range o.nbars).any fun b => barSlag s o b then s
  else s.setObj n { o with poison := false, refetch := false }
/-- A promotion fails: every context that waits for it takes a fault, the object returns to its source (R303, R304, R307). -/
def failPromotion (s : Mach) (n st : Nat) : Mach :=
  let o := s.obj n
  let ws := s.waitersOf n
  let rs := s.ringWaiters n
  let s := healed (s.setObj n { o with state := if o.src == 3#2 then 5#3 else 4#3, near := [], wmark := 0#20, syncEn := false,
                                       bars := if o.dst == 2#2 then [] else o.bars, reMove := false }) n
  let s := each (fun (c : Cmd) s => s.fatalOn c.die c.ctx st (dCmdId c.desc)) ws s
  let s := each (fun (x : Nat × Nat) s => s.fatalOn x.1 x.2 st 0) rs s
  reportPlaces s n (fun _ => true) st
/-- A move up that could not start for want of a victim leaves the same way. -/
def startUpOr (s : Mach) (n dst : Nat) : Mach :=
  match s.startUp n dst with
  | some s => s
  | none => failPromotion s n stTierFull
/-- The bars of step w of a move (R303). -/
def stepBars (o : Obj) : List Nat :=
  let w := o.wmark.toNat
  (List.range (min 32 (o.nbars - 32 * w))).map fun i => 32 * w + i

/-- Requests of an endpoint's queue pair are answered: its retries start anew, and die 0 is told of the completion
(15 R359; 16 R396, source 108). -/
def Mach.requesterDone (s : Mach) (e : Nat) : Mach :=
  (if (s.ep e).retries = 0 then s else s.setEp e { s.ep e with retries := 0 }).raise 0 108

/-- An object whose near copy has a granule on a FAILED channel is poisoned (R314). -/
def poisonFailed (s : Mach) (n : Nat) : Mach :=
  let onFailed := fun (e : Nat × Nat) => (List.range (ceilDiv e.2 256)).any fun i => s.isFailed (e.1 + 256 * i)
  if (s.pcs.any fun p => p.2.state == 2#2) && (s.obj n).near.any onFailed then s.poisonObj n else s

/-! ## Moves down (R305, R306) -/

/-- Bar b of an object is written to its remote copy (R312); whether it holds slag is kept. -/
def putRemoteBar (s : Mach) (n b : Nat) (l : List Byte) (slag : Bool) : Mach :=
  let o := s.obj n
  let marks := o.remSlag.filter fun x => x != b
  (s.setObj n { o with remSlag := if slag then marks ++ [b] else marks }).sendEp o.ep.toNat (.remoteBar o.ep.toNat n b l)
/-- The frames that a bar written by a move down uses in the remote tier (R305). -/
def useFrames (s : Mach) (n : Nat) (l : List Byte) : Mach :=
  let o := s.obj n
  s.setObj n { o with remUsed := o.remUsed + ceilDiv l.length 4096 }
/-- Bar b goes to the tier below: compressed from the near copy, or as the module tier has it. -/
def lowerBar (s : Mach) (n b : Nat) : Mach :=
  let o := s.obj n
  let bar : Option (List Byte) := if o.src == 1#2 then some (encodeBar o.ew.toNat (nearSectors s o b)) else moduleBar s o b
  let s := if o.src == 1#2 then nearDelivered s o b else moduleDelivered s o b
  match bar with
  | some l => if o.dst == 2#2 then putModuleBar s n b l else putRemoteBar (useFrames s n l) n b l (slagIn o.ew.toNat bar)
  | none =>
    -- a bar the module tier cannot read is slag in every sector; as a bar it keeps no data
    let (ss, s) := openBar s
    let l := encodeBar o.ew.toNat ss
    putRemoteBar (useFrames s n l) n b l true
/-- Whether the requester of the remote endpoint an object's move reads or writes is in error (15 R359). -/
def Mach.epFailed (s : Mach) (o : Obj) : Bool := (s.ep o.ep.toNat).error
/-- Whether a move waits for its remote endpoint: the transport's retries go on while the link is down (15 R354), and what the move
has to write there cannot be sent once they have ended (15 R359). -/
def Mach.remoteWaits (s : Mach) (o : Obj) (write : Bool) : Bool := !s.linkUp || (write && s.epFailed o)
/-- MOVE_DOWN_STEP: one 2 MiB chunk; none once an abandon request has come (R306), and the first one once the leaves' invalidation
is complete (R298, R305). -/
def moveDownStep (s : Mach) (n : Nat) : Mach :=
  let o := s.obj n
  if s.safe || o.state != 3#3 || o.abandon || o.wmark.toNat ≥ o.steps || (o.src == 1#2 && (stepBars o).any (barHeld s o)) ||
      (o.src == 1#2 && o.wmark == 0#20 && s.ladleHolds none n) || (o.dst == 3#2 && s.remoteWaits o true) then s
  else
    let s := each (fun b s => lowerBar s n b) (stepBars o) s
    let s := if o.dst == 3#2 then s.requesterDone (s.obj n).ep.toNat else s
    s.setObj n { s.obj n with wmark := o.wmark + 1#20 }
/-- MOVE_DOWN_STEP. -/
def execMoveDownStep (o : ObjNo) (s : State) : Host.Outcome State Fault Refusal := .next { s with m := moveDownStep s.m o.toNat }
/-- Frames that the bars of a module-tier copy use (R309). -/
def trimBars (s : Mach) (t : Tab (Nat × Nat)) : Tab (Nat × Nat) :=
  t.map fun p => (p.1, (p.2.1, min p.2.2 (ceilDiv (storedLen s p.2.1) 4096)))
/-- Whether an object's leaves may be PRESENT where its data is in the near tier (R316). -/
def Obj.sound (o : Obj) : Bool := !o.poison || (o.clean && o.origin)
/-- A move down ends by its abandon (R303, R306); the leaves of an object poisoned without a clean origin stay absent (R316). -/
def abandonMove (s : Mach) (n : Nat) : Mach :=
  let o := s.obj n
  let s := s.bump (tierReg 0x1C) 1
  -- the destination's reservation is released
  let o := { o with abandon := false, watch := false, wmark := 0#20, remUsed := 0,
                    bars := if o.dst == 2#2 then [] else o.bars,
                    remFrames := if o.dst == 3#2 then o.remFrames - 17 * o.nbars else o.remFrames,
                    remSlag := if o.dst == 3#2 then [] else o.remSlag }
  if o.src == 1#2 then
    let s := (s.setObj n { o with state := 1#3, present := o.sound }).invalidateObj n
    -- a placement to the near tier is complete; one to the tier below is not (R376)
    let near := o.places.any fun x => x.2.2 == 1
    let s := if near || o.pref == 1#2 then signalPlaced s n else s.setObj n { s.obj n with syncEn := false }
    reportPlaces (reportPlaces s n (fun t => t == 1) stOk) n (fun _ => true) stBusy
  else
    let s := reportPlaces (s.setObj n { o with state := 4#3 }) n (fun t => t != 1) stBusy
    startUpOr s n 1
/-- A move down commits after its last step, once the invalidation of its leaves is complete, or is abandoned (R298, R303, R305,
R306). -/
def moveDownCommit (s : Mach) (n : Nat) : Mach :=
  let o := s.obj n
  if o.state != 3#3 then s
  else if o.abandon then (if s.safe && o.src == 2#2 then s else abandonMove s n)
  else if s.safe || o.wmark.toNat < o.steps || (o.src == 1#2 && s.ladleHolds none n) then s
  else
    let s := if o.src == 1#2 then (s.setObj n { o with present := false }).invalidateObj n else s
    let o := s.obj n
    let o := { o with state := if o.dst == 2#2 then 4#3 else 5#3, near := [], watch := false, present := false, wmark := 0#20,
                      bars := if o.dst == 2#2 then trimBars s o.bars else [],
                      remFrames := if o.dst == 3#2 then o.remFrames - 17 * o.nbars + o.remUsed else o.remFrames, remUsed := 0,
                      image := o.image && o.dst != 3#2 }
    let s := (s.setObj n o).bump (tierReg 0x18) 1
    let steps := { o with wmark := BitVec.ofNat 20 o.steps }
    let s := reportPlaces (signalPlaced (s.setObj n steps) n) n (fun _ => true) stOk
    s.setObj n { s.obj n with wmark := 0#20 }
/-- MOVE_DOWN_COMMIT. -/
def execMoveDownCommit (o : ObjNo) (s : State) : Host.Outcome State Fault Refusal :=
  .next { s with m := moveDownCommit s.m o.toNat }
/-- ABANDON_REQUEST (R305): a write through a watched leaf or a pin, which stops a move down from the near tier only. A residency
miss and a placement ask in their own commands. -/
def abandonRequest (s : Mach) (n : Nat) : Mach := s.abandonReq n
/-- ABANDON_REQUEST. -/
def execAbandonRequest (o : ObjNo) (s : State) : Host.Outcome State Fault Refusal :=
  .next { s with m := abandonRequest s.m o.toNat }

/-! ## Moves up (R304) -/

/-- Bar b comes up: expanded into the near frames, and for a move to the module tier written there too (R304). -/
def raiseBar (s : Mach) (n b : Nat) (l : Option (List Byte)) : Mach :=
  let o := s.obj n
  let s := expandNear s n b l
  if o.dst == 1#2 then s
  else match l with
  | some l => (match expandBar o.ew.toNat l with
    | some ss => if ss.all fun x => x.2 then slagModuleBar (putModuleBar s n b l) n b else putModuleBar s n b l
    | none => slagModuleBar s n b)
  | none => slagModuleBar s n b
/-- The near frames of a move up that waits for its victims' commits. -/
def roomFor (s : Mach) (n : Nat) : Mach :=
  let o := s.obj n
  if !o.near.isEmpty then s
  else match s.allocNear o with
  | some e => s.setObj n { o with near := e }
  | none =>
    if s.fitsAfter o then s
    else if !s.victims.isEmpty then evictLoop o s.victims s
    else if s.objs.any fun p => p.2.leavingNear then s
    else failPromotion s n stTierFull
/-- Bar b of an object's origin image (R312): an RDMA read brings its directory entry, another the bar's frames, as the entry gives
them. An entry with reserved bits, or with no frame or more than 17, names no bar (DEDUCED, log entry 71). -/
def originBar (s : Mach) (o : Obj) (b : Nat) (l : BarRead) : Mach × Option (List Byte) :=
  let e := o.ep.toNat
  let frames := bits l.entry.toNat 40 36
  let s := s.sendEp e (.originRead e (4096 * o.originOff + 256 + 8 * b) 8)
  if s.epFailed o || bits l.entry.toNat 63 41 != 0 || frames == 0 || decide (17 < frames) then (s, none)
  else (s.sendEp e (.originRead e (4096 * (o.originOff + bits l.entry.toNat 35 0)) (4096 * frames)),
        l.data.map fun x => x.take (4096 * frames))
/-- Bar b is read from the tier a move up reads: from the remote one an RDMA read brings it, and a bar fetched again after the
loss of the module tier is counted (R312, R315, R318). An endpoint whose retries have ended brings none (15 R359). -/
def fetchBar (s : Mach) (n b : Nat) (l : BarRead) : Mach × Option (List Byte) :=
  let o := s.obj n
  if o.src == 2#2 then (moduleDelivered s o b, moduleBar s o b)
  else if o.image then
    let (s, x) := originBar s o b l
    (if o.reMove && (x.bind fun x => expandBar o.ew.toNat x).isSome then s.bump (tierReg 0x20) 1 else s, x)
  else (s.sendEp o.ep.toNat (.remoteRead o.ep.toNat n b), if s.epFailed o then none else l.data)
/-- MOVE_UP_STEP: one 2 MiB step, read from the module tier or, with the bytes its reads bring, from the remote one. -/
def moveUpStep (s : Mach) (n : Nat) (remote : List BarRead) : Mach :=
  if s.safe || (s.obj n).state != 2#3 then s
  else
    let s := roomFor s n
    let o := s.obj n
    if o.state != 2#3 || o.near.isEmpty || o.wmark.toNat ≥ o.steps || (stepBars o).any (barHeld s o) ||
        (o.src == 3#2 && s.remoteWaits o false) then s
    else
      let s := each (fun (x : Nat × Nat) s =>
        let r := fetchBar s n x.1 (remote.getD x.2 { data := none })
        raiseBar r.1 n x.1 r.2) (stepBars o).zipIdx s
      let s := if o.src == 3#2 && !s.epFailed o then s.requesterDone o.ep.toNat else s
      s.setObj n { s.obj n with wmark := o.wmark + 1#20 }
/-- MOVE_UP_STEP. -/
def execMoveUpStep (o : ObjNo) (remote : List BarRead) (s : State) : Host.Outcome State Fault Refusal :=
  .next { s with m := moveUpStep s.m o.toNat remote }
/-- An object without a clean origin that holds slag: its leaves lose PRESENT (R316). -/
def loseObject (s : Mach) (n : Nat) : Mach :=
  let o := s.obj n
  (s.setObj n { o with clean := false, refetch := false, present := false }).invalidateObj n
/-- A move up commits (R304): leaves PRESENT, the source copy released, SYNC signalled, the waiting commands pinned for
their replay (R308). An object with granules on a FAILED channel is poisoned (R314). -/
def moveUpCommit (s : Mach) (n : Nat) : Mach :=
  if s.safe || (s.obj n).state != 2#3 || (s.obj n).wmark.toNat < (s.obj n).steps then s
  else
    let s := poisonFailed s n
    let o := s.obj n
    let near := o.dst == 1#2
    let o' := { o with state := if near then 1#3 else 4#3, present := near && o.sound, watch := false,
                       near := if near then o.near else [], bars := if near then [] else trimBars s o.bars,
                       remFrames := if o.src == 3#2 then 0 else o.remFrames, remSlag := if o.src == 3#2 then [] else o.remSlag,
                       reMove := false }
    let ws := s.waitersOf n
    let s := healed ((s.setObj n o').bump (tierReg 0x14) 1) n
    -- a fetch again from the origin image that left slag has failed (R315, R316, R318)
    let s := if o.reMove && (s.obj n).refetch then loseObject s n else s
    let s := if near then each (fun (c : Cmd) s => match s.cmd? c.id with
        | some c => (s.pin n).setCmd { c with pins := c.pins ++ [n] }
        | none => s) ws s
      else s
    let s := reportPlaces (signalPlaced s n) n (fun _ => true) stOk
    s.setObj n { s.obj n with wmark := 0#20 }
/-- MOVE_UP_COMMIT. -/
def execMoveUpCommit (o : ObjNo) (s : State) : Host.Outcome State Fault Refusal := .next { s with m := moveUpCommit s.m o.toNat }
/-- PROMOTION_TIMEOUT (R304). -/
def promotionTimeout (s : Mach) (n : Nat) : Mach := if (s.obj n).state == 2#3 then failPromotion s n stTierTimeout else s
/-- PROMOTION_TIMEOUT. -/
def execPromotionTimeout (o : ObjNo) (s : State) : Host.Outcome State Fault Refusal :=
  .next { s with m := promotionTimeout s.m o.toNat }
/-- ACCESSED_SWEEP (R307). -/
def accessedSweep (s : Mach) : Mach :=
  { s with objs := tabMap (fun _ => {}) (fun _ (o : Obj) => { o with accessed := false }) s.objs }
/-- ACCESSED_SWEEP. -/
def execAccessedSweep (s : State) : Host.Outcome State Fault Refusal := .next { s with m := accessedSweep s.m }

/-! ## Refetch (R315, R316) and the loss of the module tier (R318) -/

/-- A bar fetched again goes over the object's copy in every tier that has it (R315). -/
def putRefetched (s : Mach) (n b : Nat) (l : List Byte) (ss : List Sector) : Mach :=
  let o := s.obj n
  let s := if o.nearHas b then putNearBar s n b ss else s
  let s := if o.modHas b then putModuleBar s n b l else s
  if o.remHas b then putRemoteBar s n b l false else s
/-- REFETCH of one bar from the origin image, which RDMA reads bring. It waits for a held channel of the near copy (12 R274). -/
def refetchBar (s : Mach) (n b : Nat) (l : BarRead) : Mach :=
  let o := s.obj n
  if !o.refetch || b ≥ o.nbars || o.state == 0#3 || !barSlag s o b || (o.nearHas b && barHeld s o b) || !s.linkUp then s
  else
    let (s, x) := originBar s o b l
    let s := if s.epFailed o then s else s.requesterDone o.ep.toNat
    match x, x.bind fun l => expandBar o.ew.toNat l with
    | some l, some ss =>
      if ss.any fun x => x.2 then loseObject s n else healed ((putRefetched s n b l ss).bump (tierReg 0x20) 1) n
    | _, _ => loseObject s n
/-- REFETCH. -/
def execRefetch (o : ObjNo) (bar : BitVec 24) (data : BarRead) (s : State) : Host.Outcome State Fault Refusal :=
  .next { s with m := refetchBar s.m o.toNat bar.toNat data }

/-- An object on its way up to the module tier when that goes out of use comes up to the near tier in its place; the placements that
asked for the module tier have failed (DESIGN CHOICE, log entry 70). -/
def leaveModule (s : Mach) (n : Nat) : Mach :=
  let o := s.obj n
  let asked := o.places.any fun x => x.2.2 == 2
  reportPlaces (s.setObj n { o with dst := 1#2, bars := [], syncEn := o.syncEn && !asked }) n (fun t => t == 2) stTierFull
/-- The module tier goes out of use (R318): every object in it, or moving from it, is poisoned; moves down to it are
abandoned; objects with a clean origin come back from the remote tier. -/
def loseModule (s : Mach) : Mach :=
  if s.moduleOut then s
  else
    let s := { s with moduleOut := true }
    each (fun (p : Nat × Obj) s =>
      let n := p.1
      let o := s.obj n
      if o.state == 4#3 || ((o.state == 2#3 || o.state == 3#3) && o.src == 2#2) then
        let s := s.poisonObj n
        let o := s.obj n
        if o.clean && o.origin then
          -- from now on its copy is the origin image
          let s := s.setObj n { o with state := 5#3, src := 3#2, bars := [], near := [], wmark := 0#20, refetch := true,
                                       abandon := false, image := true, reMove := true, remFrames := 0, remUsed := 0,
                                       remSlag := [] }
          startUpOr s n 1
        else s
      else if o.state == 3#3 && o.dst == 2#2 then abandonMove s n
      else if o.state == 2#3 && o.src == 3#2 && o.dst == 2#2 then leaveModule s n
      else s) s.objs s
/-- LPDDR_PACKAGE_FAIL (12 R288): the package is FAILED, the event recorded, the module tier lost. -/
def packageFail (s : Mach) (p : Nat) : Mach :=
  let x := s.pkg p
  if x.state == 2#2 then s
  else
    let s := s.setPkg p { x with state := 2#2 }
    let s := s.recordDue { mech := 0x24#8, unit := w32 p, die := BitVec.ofNat 2 (p / 4), source := 0x3FF#10, status := 0#16,
                           detail := [s.pkgState p] }
    let s := if s.retrainReq = some (true, p) then
        let (v, s) := s.fresh
        ({ s with retrainReq := none } : Mach).bringUpDone 1 (v % 2 ^ 16)
      else s
    loseModule s
/-- LPDDR_PACKAGE_FAIL. -/
def execLpddrPackageFail (p : PkgNo) (s : State) : Host.Outcome State Fault Refusal :=
  .next { s with m := packageFail s.m p.toNat }

/-! ## The rows of the ingot units and invalidations -/

/-- INGOT_COMPRESS: bar b of an object that moves down is written to its destination. -/
def ingotCompress (s : Mach) (n b : Nat) : Mach :=
  let o := s.obj n
  if o.state != 3#3 || o.src != 1#2 || b ≥ o.nbars || barHeld s o b || (o.dst == 3#2 && s.remoteWaits o true) then s
  else
    let l := encodeBar o.ew.toNat (nearSectors s o b)
    let s := nearDelivered s o b
    if o.dst == 2#2 then putModuleBar s n b l else s.sendEp o.ep.toNat (.remoteBar o.ep.toNat n b l)
/-- INGOT_COMPRESS. -/
def execIngotCompress (o : ObjNo) (bar : BitVec 24) (s : State) : Host.Outcome State Fault Refusal :=
  .next { s with m := ingotCompress s.m o.toNat bar.toNat }
/-- INGOT_EXPAND: bar b of an object that moves up from the module tier is expanded into its near frames. -/
def ingotExpand (s : Mach) (n b : Nat) : Mach :=
  let o := s.obj n
  if o.state != 2#3 || o.src != 2#2 || o.near.isEmpty || b ≥ o.nbars || barHeld s o b then s
  else expandNear (moduleDelivered s o b) n b (moduleBar s o b)
/-- INGOT_EXPAND. -/
def execIngotExpand (o : ObjNo) (bar : BitVec 24) (s : State) : Host.Outcome State Fault Refusal :=
  .next { s with m := ingotExpand s.m o.toNat bar.toNat }
/-- INVALIDATION (R298): every translation cache drops the entries of a range of a context. -/
def invalidation (s : Mach) (ctx va len : Nat) : Mach :=
  let meets := fun (l : Nat) =>
    let size := match s.leafAt ctx l with
      | some m => (s.obj m.obj).leaf
      | none => 65536
    decide (l < va + len) && decide (va < l + size)
  let drop := fun (_ : Nat) (x : CoreSt) =>
    if x.xctx = ctx then ({ x with xlate := x.xlate.filter fun l => !meets l } : CoreSt) else x
  (({ s with cores := tabMap (fun _ => {}) drop s.cores } : Mach).bump (tierReg 0x2C) 1).raise 0 116
/-- INVALIDATION. -/
def execInvalidation (ctx : CtxNo) (va : VA) (len : BitVec 49) (s : State) : Host.Outcome State Fault Refusal :=
  .next { s with m := invalidation s.m ctx.toNat va.toNat len.toNat }

end Sys2Proof.Machine
end

