-- ==== Sys2Proof/Machine/Tables.lean ====
section
/-! DEFINITION. Machine/Tables.lean: the creation and release of contexts, queues, synchronisation objects, objects and
pools (13_tiers_and_residency.md R299 to R303, R312; 15_host_interface.md R368, R372 to R380; 08 R191; 10 R238; 14 R323).
Which free number is given is the model's choice: the lowest (DESIGN CHOICE, log entry 7), released synchronisation
objects last (R379). -/

namespace Sys2Proof.Machine

/-- The first number from k on that an ascending list does not hold. -/
def firstGap : List Nat → Nat → Nat
  | [], k => k
  | j :: l, k => if j = k then firstGap l (k + 1) else if j < k then firstGap l k else k
/-- The lowest free number below n, given the numbers in use in ascending order. -/
def lowestFree (used : List Nat) (n : Nat) : Option Nat := let k := firstGap used 0; if k < n then some k else none

/-! ## Synchronisation objects (14 R331; 15 R378, R379) -/

/-- A free number of a die: one never used, else the one free longest (R379). -/
def Mach.newSync (s : Mach) (die : Nat) : Option (Nat × Mach) :=
  let n := tabGet (fun _ => 0) s.syncNext die
  if n < 4096 then some (4096 * die + n, { s with syncNext := tabSet (fun _ => 0) s.syncNext die (n + 1) })
  else match tabGet (fun _ => []) s.syncFreed die with
    | [] => none
    | g :: l => some (g, { s with syncFreed := tabSet (fun _ => []) s.syncFreed die l })
/-- The release of a synchronisation object: LIVE 0 and STATUS ST_ABORTED (R379). -/
def Mach.freeSync (s : Mach) (g : Nat) : Mach :=
  let d := g / 4096
  let s := s.setSync g { s.sync g with live := false, status := BitVec.ofNat 16 stAborted }
  { s with syncFreed := tabSet (fun _ => []) s.syncFreed d (tabGet (fun _ => []) s.syncFreed d ++ [g]) }
/-- The records that a command names, before its scales are read: as its issue or the load of its plan will find them; none where that
fails or has to wait. -/
def Mach.recordsOf (s : Mach) (c : Cmd) : Option (List Nat) :=
  let found := fun (r : Res (List (Nat × Word))) => match r with
    | .ok l _ => some (l.map fun x => x.1)
    | .err _ _ => none
  let op := dOp c.desc
  if !c.scales.isEmpty || c.planned then some (c.scales.map fun x => x.1)
  else if isCoreOp op then
    found ((s.readVa c.ctx (bits (dPlan c.desc) 47 0) 64).bind fun h s =>
      (s.readVa c.ctx (bits (dPlan c.desc) 47 0) (64 * bits (ofBytes h) 13 4)).bind fun l s =>
        (s.readVa c.ctx (bits (ofBytes h) 63 16) (64 * bits (ofBytes h) 73 64)).bind fun k s =>
          planRecords c 0 ((s.scrPut 0 0xF0000 l).scrPut 0 0xF8000 k))
  else if op == 13 || op == 14 then found ((ladleIssue c s).bind fun c s => .ok c.scales s)
  else some []
/-- Whether an issued command that has not retired names a synchronisation object (R379), the gradient records it names included from
its issue on; what a record that cannot be read now names is unknown, and counts. -/
def Cmd.namesSync (s : Mach) (c : Cmd) (g : Nat) : Bool :=
  (namedSyncs c.desc).contains g || (dOp c.desc == 0x13 && bits c.desc 193 192 == 0 && bits c.desc 211 198 == g) ||
  (match s.recordsOf c with
    | none => true
    | some l => l.any fun a => match s.readWord c.ctx (a + 20) 4 with
      | .ok w _ => bits w 5 4 == 2 && bits w 29 16 == g
      | .err _ _ => true)
/-- Whether a release of a synchronisation object is refused with ST_BUSY (R379). -/
def Mach.syncBusy (s : Mach) (g : Nat) : Bool :=
  (s.cmds.any fun c => c.namesSync s g) || s.objs.any fun p => p.2.syncEn && p.2.sync.toNat == g && !p.2.places.isEmpty

/-! ## Mappings (13 R298, R300) -/

/-- Whether a range of a context meets a mapping. -/
def Mach.overlaps (s : Mach) (ctx va n : Nat) : Bool :=
  s.maps.any fun m => m.ctx == ctx && decide (va < m.va + (s.obj m.obj).bytes) && decide (m.va < va + n)
/-- Firmware's area for translation tables (DESIGN CHOICE, log entry 51). -/
def tableArea : Nat × Nat := (0x100000, 0x1000000)
/-- A place for a table of a level: the lowest aligned one in firmware's area for tables, or else in the near tier's free gaps. -/
def Mach.tablePlace (s : Mach) (level : Nat) : Option Nat :=
  let n := tableBytes level
  let own := gapsFrom (sortExt (s.tableExts.filter fun t => decide (t.1 < tableArea.2))) tableArea.1 tableArea.2
  ((alignGaps n own ++ alignGaps n s.nearGaps).head?).map fun g => g.1
/-- A context has a table of a level for a span, a new one where it has none yet: zeros, with no slag mark. -/
def Mach.addTable (s : Mach) (ctx level span : Nat) : Option Mach :=
  if s.tables.any fun t => t.ctx == ctx && t.level == level && t.span == span then some s
  else (s.tablePlace level).map fun a =>
    { s with tables := s.tables ++ [⟨ctx, level, span, a⟩],
             slag := s.slag.filter fun p => !(decide (a ≤ 64 * p.1) && decide (64 * p.1 < a + tableBytes level)) }
/-- The tables that the leaves of a mapping need: their levels and spans. -/
def Mach.tablesFor (s : Mach) (m : Mapping) : List (Nat × Nat) :=
  let o := s.obj m.obj
  (List.range (o.leafLevel + 1)).flatMap fun l =>
    let a := tableSpan l m.va
    (List.range (tableSpan l (m.va + o.bytes - 1) - a + 1)).map fun i => (l, a + i)
/-- A mapping's tables are there; none where there is no room for one. -/
def Mach.addTables (s : Mach) (m : Mapping) : Option Mach :=
  (s.tablesFor m).foldl (fun (r : Option Mach) x => r.bind fun s => s.addTable m.ctx x.1 x.2) (some s)
/-- Tables below the root that no mapping of their context needs any more are released. -/
def Mach.pruneTables (s : Mach) (ctx : Nat) : Mach :=
  let need := (s.maps.filter fun m => m.ctx == ctx).flatMap fun m => s.tablesFor m
  { s with tables := s.tables.filter fun t => t.ctx != ctx || t.level == 0 || need.contains (t.level, t.span) }
/-- Enters an object's leaves into a context's tables (R295, R300); none where the near tier has no room for a table. An object that may
be written is CLEAN no more; where it holds slag it is fetched again no more, and its leaves lose PRESENT by an invalidation (R298,
R316). -/
def Mach.enterMap (s : Mach) (m : Mapping) : Option Mach :=
  (s.addTables m).map fun s =>
    let s := { s with maps := s.maps ++ [m] }
    let o := s.obj m.obj
    if m.write || m.rdmaW then
      let s := s.setObj m.obj { o with clean := false, refetch := false, present := o.present && !o.poison }
      if o.present && o.poison then s.invalidateObj m.obj else s
    else s
/-- Removes a mapping and invalidates its leaves (R298, R300). -/
def Mach.removeMap (s : Mach) (m : Mapping) : Mach :=
  let s := invalidation s m.ctx m.va (s.obj m.obj).bytes
  { s with maps := s.maps.filter fun x => x != m }.pruneTables m.ctx

/-! ## Objects (13 R299, R303) -/

/-- Objects in use, in ascending order. -/
def Mach.objNos (s : Mach) : List Nat := (s.objs.filter fun p => p.2.state != 0#3).map fun p => p.1
/-- Writes bytes at an offset of an object's near copy. -/
def putObj (s : Mach) (n off : Nat) (l : List Byte) : Mach :=
  ((rangePieces off l.length).foldl (fun (r : Mach × List Byte) p => match (r.1.obj n).pa p.1 with
    | some pa => ((r.1.touch pa p.2 true .none).writeNear pa (r.2.take p.2) false, r.2.drop p.2)
    | none => r) (s, l)).1
/-- A bar of 64 KiB of zeros (R299, R309). -/
def zeroBar (ew : Nat) : List Byte := encodeBar ew ((List.range 1024).map fun _ => (List.replicate 64 0#8, false))
/-- Creates an object in its starting tier, zero-filled or with its origin image as its remote copy; none where the tier
has no room (R299). A remote endpoint whose requester is in error takes no bars, and counts as one without room (DEDUCED, log entry
72). -/
def createObj (s : Mach) (n : Nat) (o : Obj) (tier : Nat) : Option Mach :=
  if tier = 1 then (s.allocNear o).map fun e =>
    poisonFailed ((e.foldl (fun (s : Mach) x => s.clearNear x.1 x.2) s).setObj n { o with state := 1#3, near := e, present := true }) n
  else if tier = 2 then (s.allocMod o).map fun b =>
    let s := s.setObj n { o with state := 4#3, bars := b }
    let z := zeroBar o.ew.toNat
    let s := each (fun b s => putModuleBar s n b z) (List.range o.nbars) s
    s.setObj n { s.obj n with bars := trimBars s b }
  else if o.origin then some (s.setObj n { o with state := 5#3, image := true })
  else if 17 * o.nbars ≤ s.remFree o.ep.toNat && !s.epFailed o then
    let z := zeroBar o.ew.toNat
    let s := s.setObj n { o with state := 5#3, remFrames := o.nbars * ceilDiv z.length 4096 }
    some (each (fun b s => putRemoteBar s n b z false) (List.range o.nbars) s)
  else none
/-- Whether an object may be released: in T1, T2 or T3 with no pin (R303), its mappings apart. -/
def Obj.idle (o : Obj) : Bool := (o.state == 1#3 || o.state == 4#3 || o.state == 5#3) && o.pins == 0#16
/-- The release of an object (R303). -/
def Mach.releaseObj (s : Mach) (n : Nat) : Mach := s.setObj n {}
/-- Mappings of an object. -/
def Mach.mapsOf (s : Mach) (n : Nat) : List Mapping := s.maps.filter fun m => m.obj == n

/-! ## Pools (08 R191; 10 R238; 15 R374, R375) -/

/-- Pools in use, in ascending order. -/
def Mach.poolNos (s : Mach) : List Nat := (s.pools.filter fun p => p.2.live).map fun p => p.1
/-- The pool whose page or stash area an object is. -/
def Mach.poolOfArea (s : Mach) (n : Nat) : Option Nat := (s.pools.find? fun p => p.2.live && p.2.obj == n).map fun p => p.1
/-- Whether the release of a pool is refused with ST_BUSY (R375). -/
def Mach.poolBusy (s : Mach) (p : Nat) : Bool :=
  (s.cmds.any fun c => (isPageOp (dOp c.desc) && bits c.desc 141 128 == p) || (c.walkers.any fun w => w.pool == p) ||
    (dOp c.desc == 0x13 && isStash s c.desc && bits c.desc 211 198 == p)) || s.deferred.any fun d => d.1 == p
/-- Bytes of a page pool's control object (R191). -/
def pagePoolBytes (npages nlists cap : Nat) : Nat :=
  0x100 + 2 * roundUp (4 * npages) 256 + nlists * roundUp (64 + 8 * cap) 256
/-- The first bytes of a page pool's control object: header, ledger of zeros, free stack (R191). -/
def pagePoolInit (npages nlists cap pool ctx va : Nat) : Nat × (Nat × List Byte) :=
  (npages + npages <<< 32 + ctx <<< 64 + pool <<< 96 + cap <<< 160 + nlists <<< 176 + va <<< 272,
   0x100 + roundUp (4 * npages) 256, (List.range npages).flatMap fun j => toBytes 4 (npages - 1 - j))
/-- The header of a stash pool's control object (10 R238). -/
def stashInit (ncred lg pool ctx queue va : Nat) : Nat :=
  ncred + ncred <<< 32 + lg <<< 64 + ctx <<< 80 + pool <<< 96 + queue <<< 160 + va <<< 272

/-! ## Contexts (14 R323; 15 R368, R372) -/

/-- Contexts in use, in ascending order. -/
def Mach.ctxNos (s : Mach) : List Nat := (s.ctxs.filter fun p => p.2.state != 0#2).map fun p => p.1
/-- A context is torn down at once, if it is not torn yet (R344). -/
def Mach.tearNow (s : Mach) (ctx : Nat) : Mach := teardown (s.abort ctx) ctx
/-- Objects whose owner is gone and that can be released now (R303, R368). -/
def Mach.reapOrphans (s : Mach) : Mach :=
  let os := (s.objs.filter fun p => p.2.orphan && p.2.idle && (s.mapsOf p.1).isEmpty).map fun p => p.1
  each (fun n s => s.releaseObj n) os s
/-- The release of a context with its queues, synchronisation objects and owned objects (R368, R372). An object that moves,
is pinned or is mapped by another context cannot be released yet (R303): it is released once it can be (DESIGN CHOICE, log entry
11). -/
def Mach.releaseCtx (s : Mach) (c : Nat) : Mach :=
  let s := s.tearNow c
  let qs := (s.queues.filter fun p => p.2.state != 0#2 && p.2.ctx == c).map fun p => p.1
  let s := each (fun q s => s.setQueue q {}) qs s
  let gs := (s.syncs.filter fun p => p.2.live && p.2.owner.toNat == c).map fun p => p.1
  let s := each (fun g s => s.freeSync g) gs s
  let s := each (fun m s => s.removeMap m) (s.maps.filter fun m => m.ctx == c) s
  let leave := fun (_ : Nat) (o : Obj) =>
    if o.state != 0#3 && o.owner.toNat == c then ({ o with orphan := true } : Obj) else o
  let s := { s with objs := tabMap (fun _ => {}) leave s.objs, tables := s.tables.filter fun t => t.ctx != c }
  s.reapOrphans.setCtx c { tag := (s.ctx c).tag }
/-- A free context number, one that no object left over names where there is one. -/
def Mach.newCtxNo (s : Mach) : Option Nat :=
  match (List.range 4096).find? fun c => (s.ctx c).state == 0#2 && s.objs.all fun p => p.2.state == 0#3 || p.2.owner.toNat != c with
  | some c => some c
  | none => lowestFree s.ctxNos 4096

/-! ## Sessions (15 R368) -/

/-- The close of a session (R368). -/
def Mach.closeSession (s : Mach) (k : Nat) : Mach :=
  let x := s.session k
  let mine := (s.ctxs.filter fun p => p.2.state != 0#2 && p.2.client == k).map fun p => p.1
  -- its pending requests and events are discarded, it leaves every context it has open
  let s := s.setSession k { x with ring := [], events := [], lost := 0 }
  let s := { s with ctxs := tabMap (fun _ => {}) (fun _ (c : CtxSt) =>
    { c with sessions := c.sessions.filter fun y => y != k }) s.ctxs }
  let s := each (fun (b : BlobJob) s => s.unpin b.obj) (s.blobs.filter fun b => b.session == k) s
  let s := { s with blobs := s.blobs.filter fun b => b.session != k }
  let s := { s with objs := tabMap (fun _ => {}) (fun _ (o : Obj) =>
    { o with places := o.places.filter fun y => y.1 != k }) s.objs }
  let s := each (fun c s => s.releaseCtx c) mine s
  s.setSession k {}

end Sys2Proof.Machine
end

