-- ==== Sys2Proof/Machine/RegView.lean ====
section
/-! DEFINITION. Machine/RegView.lean: what REG_READ sees at each address: views of the parts of the state, and plain
registers (04 R106; 05 R141; 06 R165; 12 R294; 13 R302, R322; 14 R331, R350 to R352; 15 R390; 16 R402; 17 R422; 18 R429,
R430, R441; 19 R462; 21 R480), with the clearing of read-to-clear fields (00_scope.md R14, R16; 04 R107). -/

namespace Sys2Proof.Machine

/-! ## Islands (19 R442, R450, R462) -/

/-- Whether an island is a cluster's. -/
def isClusterIsland (g : Nat) : Bool := g % 20 < 8
/-- The global cluster of a cluster island. -/
def islandCluster (g : Nat) : Nat := 8 * (g / 20) + g % 20
/-- The nominal root of an island, in kHz. -/
def nominalKhz (g : Nat) : Nat := if g % 20 = 18 then 1066667 else if g % 20 = 19 then 1562500 else 2000000
/-- Island g's clock control. -/
def Mach.island (s : Mach) (g : Nat) : IslandSt := tabGet (fun _ => {}) s.islands g
/-- Replaces island g's clock control. -/
def Mach.setIsland (s : Mach) (g : Nat) (x : IslandSt) : Mach := { s with islands := tabSet (fun _ => {}) s.islands g x }
/-- Whether a cluster island's root is set below nominal (R462); the roots count from start-up step 3 on, which sets them (DEDUCED, log
entry 73). -/
def Mach.throttled (s : Mach) (g : Nat) : Bool :=
  isClusterIsland g && decide (3 ≤ bits (s.reg (devReg 0)).toNat 27 24) && decide ((s.reg (clkReg g 4)).toNat < nominalKhz g)
/-- CLK_GATE of an island (R450). Of a flask's register the plain word keeps which of bits 0 and 1 firmware has cleared. -/
def Mach.gateBits (s : Mach) (g : Nat) : Nat :=
  let i := g % 20
  if i < 8 then
    let k := islandCluster g
    if (s.cluster k).fenced then 0 else sumTo 16 fun n => if (s.core (16 * k + n)).fenced then 0 else 2 ^ n
  else if i = 17 then 3 - (s.reg (clkReg g 0x10)).toNat % 4 + (if g = 17 && s.obsPath != 0 then 4 else 0)
  else if i = 18 then b2n !s.moduleOut
  else if i = 19 then b2n (g == 19)
  else 0

/-! ## Views of the blocks -/

/-- ENG_STATUS (04 R106). -/
def Mach.engStatus (s : Mach) (g : Nat) : Nat :=
  let e := s.eng g
  let valid := sumTo 4 fun q => if (tabGet (fun _ => {}) e.q q).valid then 2 ^ q else 0
  b2n (s.core (g / 4)).fenced <<< 24 + b2n (e.rampReq && !e.granted) <<< 23 + b2n (e.q.any fun q => q.2.swapWait) <<< 22 + valid <<< 18 +
    b2n e.mode <<< 17 + (e.level % 16) <<< 12 + e.patFmt.toNat <<< 8 + e.strFmt.toNat <<< 4
/-- The oldest incomplete entry of a core's work items (05 R141), RUNNER entries apart, which are part of a TILE entry; 0 where none
is. -/
def Mach.oldestEntry (s : Mach) (c : Nat) : Nat :=
  let k := s.core c
  match (s.phases c)[k.phase]? with
  | some p => (k.items.findSome? fun x =>
      if x.skip then none else p.body.find? fun i => eKind (s.planEntry c i) != 2 && !(x.entries.any fun e => e.no == i && e.done)).getD 0
  | none => 0
/-- CORE_STATUS (05 R141). -/
def Mach.coreStatus (s : Mach) (c : Nat) : Nat :=
  let x := s.core c
  let act := sumTo 4 fun e => if (s.eng (4 * c + e)).q.any fun q => !q.2.tiles.isEmpty then 2 ^ e else 0
  b2n x.fenced <<< 31 + act <<< 24 + (min 3 x.items.length) <<< 22 + (x.phase % 16) <<< 18 + (x.place % 4) <<< 16 +
    b2n x.cmd.isSome <<< 15 + s.oldestEntry c % 1024
/-- CL_STATUS (05 R141). -/
def Mach.clStatus (s : Mach) (k : Nat) : Nat :=
  let x := s.cluster k
  (sumTo 16 fun n => if (s.core (16 * k + n)).fenced then 2 ^ n else 0) <<< 16 + b2n x.fenced <<< 15 +
    (min 4 x.places.length) <<< 12 + (x.res.foldl (fun a r => a + r.2.2) 0) % 4096
/-- Whether unit g runs a ladle command: its class's, until its share is complete. -/
def Cmd.runsOn (c : Cmd) (g : Nat) : Bool := c.st != .work || c.shares.contains g || c.pass + 1 < passes c.desc
/-- LDL_STATUS (06 R165). -/
def Mach.ldlStatus (s : Mach) (g : Nat) : Nat :=
  let heads := [false, true].filterMap fun page => classHead s page
  let run := heads.filter fun c => c.runsOn g
  let now := (s.reg (memReg 0)).toNat
  let gen := fun (c : Cmd) => if c.begun then c.mapGen else now
  let old := match s.cmds.find? fun c => run.any fun y => y.id == c.id with
    | some c => gen c % 256
    | none => 0
  let held := run.any fun c => c.heldOn.any fun w => w.unit == 544 + g
  let waits := run.any fun c => c.st == .checked || (c.st == .work && !c.shares.contains g)
  (min 127 (s.slice g).credits.length) <<< 16 + old <<< 4 + b2n held <<< 3 + b2n waits <<< 2 +
    b2n (run.any fun c => isPageOp (dOp c.desc)) <<< 1 + b2n (run.any fun c => !isPageOp (dOp c.desc))
/-- HBM_MIGRATE of die d (12 R280, R294). -/
def Mach.migrateReg (s : Mach) (d : Nat) : Nat :=
  match (s.repairOf d).mig with
  | none => 0
  | some m => match m.regions with
    | [] => 0
    | .lane j k new :: _ => 2 ^ 31 + 2 ^ 30 + (j % 8) <<< 27 + (m.target % 1024) <<< 17 + (k % 256) <<< 9 + (new % 256) <<< 1
    | .logical c :: _ => 2 ^ 31 + (m.lane % 8) <<< 27 + (c % 1024) <<< 17
/-- A word of the module memory block. -/
def Mach.memView (s : Mach) (off : Nat) : Word :=
  if inBlock off 0x10 32 then
    let d := (off - 0x10) / 8
    if off % 8 = 0 then w32 (s.migrateReg d) else w32 (match (s.repairOf d).mig with | some m => m.w | none => 0)
  else s.reg (memReg off)
/-- A word of the residency block (13 R322). -/
def Mach.tierView (s : Mach) (off : Nat) : Word :=
  if off = 0 then w32 (b2n s.moduleOut <<< 31 + b2n s.anyEp <<< 30 + s.objNos.length % 2 ^ 20)
  else if off = 4 then w32 (s.nearFree / 65536 % 2 ^ 24)
  else if off = 8 then w32 (s.modFree % 2 ^ 27)
  else s.reg (tierReg off)
/-- SCH_STATUS of die d (14 R350). -/
def Mach.schStatus (s : Mach) (d : Nat) : Nat :=
  let urgent := (candCtxs s (candidates s d).2).any fun c => (s.ctx c).priority
  let h := (s.sched d).holder
  let free := sumTo 8 fun i => if (s.cluster (8 * d + i)).fenced then 0 else (s.cluster (8 * d + i)).placesFree
  b2n urgent <<< 31 + (h.getD 0 % 4096) <<< 12 + b2n h.isSome <<< 11 + free % 64
/-- Sessions whose next request is in their ring (15 R366). -/
def Mach.readySessions (s : Mach) : List Nat :=
  (s.sessions.filter fun p => p.2.isOpen && p.2.ring.any fun b => b.seq == p.2.expected).map fun p => p.1
/-- MBX_STATUS (15 R390). -/
def Mach.mbxStatus (s : Mach) : Nat := (s.readySessions.length % 2048) <<< 16 + s.openSessions.length % 2048
/-- SAF_LS_STATUS of die d (16 R402). -/
def Mach.lsStatus (s : Mach) (d : Nat) : Nat :=
  setBits (s.reg (flaskReg d 0)).toNat 3 0 (sumTo 4 fun p => if s.pairRuns d p then 0 else 2 ^ p)
/-- IRQ_STATUS of pair p of die d (16 R402). -/
def Mach.irqStatus (s : Mach) (d p : Nat) : Nat :=
  let ins := (s.pair d p).inService
  let line := (s.routing d).find? fun r => r.1 == p
  b2n ins.isSome <<< 31 + b2n line.isSome <<< 30 + (b2n !(s.pairRuns d p)) <<< 29 +
    (match line with | some r => r.2 % 1024 | none => 0) <<< 16 + ins.getD 0 % 1024
/-- A word of the security block (18 R430, R441). -/
def Mach.secView (s : Mach) (off : Nat) : Word :=
  if inBlock off 0x30 16 then w32 (tabGet (fun _ => []) s.attLog ((off - 0x30) / 4)).length
  else if inBlock off 0x800 1024 then wordOf Config.vendorCert.toNat ((off - 0x800) / 4)
  else s.reg (secReg off)
/-- DEV_STATUS (19 R462). -/
def Mach.devStatus (s : Mach) : Nat :=
  let n := ((List.range 80).filter fun g => s.throttled g).length
  setBits (setBits (s.reg (devReg 0)).toNat 15 15 (b2n s.repair)) 5 0 n
/-- A word of the device block. -/
def Mach.devView (s : Mach) (off : Nat) : Word :=
  if off = 0 then w32 s.devStatus
  else if off = 4 then w32 (0x4032 <<< 16 + Config.revision.toNat <<< 8)
  else s.reg (devReg off)
/-- A word of an island's clock block. -/
def Mach.clkView (s : Mach) (g off : Nat) : Word :=
  if !islandClocked g then 0#32
  else if off = 0 then w32 (setBits (s.reg (clkReg g 0)).toNat 26 26 (b2n (s.throttled g)))
  else if off = 0x10 then w32 (s.gateBits g)
  else s.reg (clkReg g off)

/-! ## Tables -/

/-- A synchronisation object's line (14 R331). -/
def Mach.syncEntry (s : Mach) (g : Nat) : Nat :=
  let x := s.sync g
  x.count.toNat + x.status.toNat <<< 64 + x.owner.toNat <<< 80 + b2n x.live <<< 92 + x.applied.toNat <<< 96
/-- A queue's entry (14 R351). -/
def Mach.queueEntry (s : Mach) (q : Nat) : Nat :=
  let x := s.queue q
  x.rd % 2 ^ 32 + (x.wr % 2 ^ 32) <<< 32 + (x.ctx % 4096) <<< 64 + (x.dieMask % 16) <<< 76 + (x.sizeLog2 % 32) <<< 80 +
    x.state.toNat <<< 85 + (x.ringVa % 2 ^ 48) <<< 88
/-- A context's entry (14 R352). -/
def Mach.ctxEntry (s : Mach) (c : Nat) : Nat :=
  let x := s.ctx c
  let die := fun (d : Nat) => x.passAt d % 2 ^ 64 + wrap 48 (x.remainAt d) <<< 64
  (sumTo 4 fun d => die d <<< (112 * d)) + (x.share % 2 ^ 16) <<< 449 + b2n x.priority <<< 481 + x.state.toNat <<< 482 +
    (x.client % 4096) <<< 484 + (x.lastSt % 2 ^ 16) <<< 496 + (x.charged % 2 ^ 64) <<< 512
/-- An entry of an attestation log (18 R429). -/
def LogEntry.word (e : LogEntry) (i : Nat) : Nat := i + (e.die % 256) <<< 32 + (e.kind % 256) <<< 40 + e.digest <<< 256

/-! ## REG_READ (15 R386) -/

/-- The word a reader sees at an aligned address; zero in no block (DEDUCED, log entry 12). -/
def Mach.view (s : Mach) (a : Nat) : Word :=
  let off := a % 0x1000
  let unit := fun (base : Nat) => (a - base) / 0x1000
  if inBlock a 0x04000000 0x800000 then
    (let g := unit 0x04000000
     if off = 0 then w32 g else if off = 4 then w32 (s.engStatus g) else s.reg a)
  else if inBlock a 0x05000000 0x200000 then
    (if off = 0 then w32 (s.coreStatus (unit 0x05000000)) else s.reg a)
  else if inBlock a 0x06000000 0x20000 then (if off = 0 then w32 (s.clStatus (unit 0x06000000)) else s.reg a)
  else if inBlock a 0x07000000 0x20000 then
    (let g := unit 0x07000000
     if off = 0 then w32 (s.ldlStatus g)
     else if inBlock off 0x200 128 then
       (let x := s.pc (32 * g + (off - 0x200) / 4)
        w32 (chanState x.state x.reason x.temp x.cePass))
     else s.reg a)
  else if inBlock a 0x07800000 0x4000 then s.memView (a - 0x07800000)
  else if inBlock a 0x07900000 0x10000 then
    (if off = 0 then (let x := s.pkg (unit 0x07900000)
      w32 (chanState x.state x.reason x.temp x.cePass)) else s.reg a)
  else if inBlock a 0x07A00000 0x1000 then s.tierView off
  else if inBlock a 0x07B00000 0x4000 then (if off = 4 then w32 (s.schStatus (unit 0x07B00000)) else s.reg a)
  else if inBlock a 0x07C00000 0x1000 then (if off = 4 then w32 s.mbxStatus else s.reg a)
  else if inBlock a 0x07D00000 0x4000 then
    (let d := unit 0x07D00000
     if off = 0 then w32 (s.lsStatus d)
     else if inBlock off 0x10 16 then w32 (s.irqStatus d ((off - 0x10) / 4))
     else s.reg a)
  else if inBlock a 0x07F00000 0x1000 then s.secView off
  else if inBlock a 0x08000000 0x1000 then s.devView off
  else if inBlock a 0x08100000 0x5000 then s.clkView ((a - 0x08100000) / 0x100) (a % 0x100)
  else if inBlock a 0x20000000 0x1000000 then wordOf (s.objEntry ((a - 0x20000000) / 32)) (a / 4 % 8)
  else if inBlock a 0x22000000 0x100000 then wordOf (s.syncEntry ((a - 0x22000000) / 64)) (a / 4 % 16)
  else if inBlock a 0x23000000 0x200000 then wordOf (s.queueEntry ((a - 0x23000000) / 32)) (a / 4 % 8)
  else if inBlock a 0x24000000 0x80000 then wordOf (s.ctxEntry ((a - 0x24000000) / 128)) (a / 4 % 32)
  else if inBlock a 0x26000000 0x4000 then
    (match (tabGet (fun _ => []) s.attLog ((a - 0x26000000) / 0x1000))[off / 64]? with
     | some e => wordOf (e.word (off / 64)) (a / 4 % 16)
     | none => 0#32)
  else s.reg a

/-- Whether an address holds read-to-clear fields (R14): the counters of the chapters' maps. -/
def isRc (a : Nat) : Bool :=
  let off := a % 0x1000
  if inBlock a 0x04000000 0x800000 then inBlock off 0x40 0x2C
  else if inBlock a 0x05000000 0x200000 then inBlock off 0x10 0x1C
  else if inBlock a 0x06000000 0x20000 then inBlock off 0x10 0x30
  else if inBlock a 0x07000000 0x20000 then inBlock off 0x10 0x2C || inBlock off 0x100 0x14 || off == 0x11C
  else if inBlock a 0x07900000 0x10000 then inBlock off 4 0x10
  else if inBlock a 0x07A00000 0x1000 then inBlock off 0x10 0x20
  else if inBlock a 0x07B00000 0x4000 then inBlock off 0x10 0x18
  else if inBlock a 0x07C00000 0x1000 then inBlock off 0x10 0x48
  else if inBlock a 0x07D00000 0x4000 then inBlock off 0x30 0xC
  else if inBlock a 0x07E00000 0x1000 then inBlock off 0x10 0x1C
  else if inBlock a 0x08000000 0x1000 then off == 0x88
  else if inBlock a 0x08100000 0x5000 then inBlock (a % 0x100) 0x14 0xC
  else false
/-- A read by REG_READ: the word, its read-to-clear fields cleared in the same access. -/
def Mach.readReg (s : Mach) (a : Nat) : Word × Mach := (s.view a, if isRc a then s.setReg a 0#32 else s)
/-- Reads n words from an address on, in ascending order, as one little-endian value. -/
def Mach.readRegs (s : Mach) (a n : Nat) : Nat × Mach :=
  (List.range n).foldl (fun (r : Nat × Mach) i =>
    let (w, s) := r.2.readReg (a + 4 * i)
    (r.1 + w.toNat <<< (32 * i), s)) (0, s)

end Sys2Proof.Machine
end

