-- ==== Sys2Proof/Machine/Messages.lean ====
section
/-! DEFINITION. Machine/Messages.lean: the effects and answers of the mailbox messages that act on the module's tables,
and their reads (15_host_interface.md R364, R370 to R386, R481; 13_tiers_and_residency.md R299 to R303, R312). A message
that breaks several of its own rules is refused by the first class of R481. -/

namespace Sys2Proof.Machine

/-- The state a message leaves, the status and the body of its answer. -/
abbrev Reply := Mach × Nat × Nat
/-- A refusal: nothing else is done. -/
def refuse (s : Mach) (st : Nat) : Reply := (s, st, 0)
/-- An acceptance with an answer body. -/
def accept (s : Mach) (body : Nat) : Reply := (s, stOk, body)
/-- The code of the first class of R481 that applies, in order; none where the message is accepted. -/
def firstCode : List (Bool × Nat) → Option Nat
  | [] => none
  | (b, st) :: l => if b then some st else firstCode l

/-- Whether a session may name a context: it created or attached it (R364). -/
def Mach.mayName (s : Mach) (k c : Nat) : Bool := (s.ctx c).state != 0#2 && (s.ctx c).sessions.contains k
/-- Whether a session may name a live synchronisation object, by its context. -/
def Mach.mayNameSync (s : Mach) (k g : Nat) : Bool := !(s.sync g).live || s.mayName k (s.sync g).owner.toNat
/-- The same of a queue. -/
def Mach.mayNameQueue (s : Mach) (k q : Nat) : Bool := (s.queue q).state == 0#2 || s.mayName k (s.queue q).ctx
/-- The same of an object. -/
def Mach.mayNameObj (s : Mach) (k n : Nat) : Bool := (s.obj n).state == 0#3 || s.mayName k (s.obj n).owner.toNat

/-! ## Contexts, queues, synchronisation objects (R372, R373, R378, R379) -/

/-- The answer of CONTEXT_CREATE: CONTEXT and the R_Key of R360. -/
def rkeyBody (s : Mach) (c : Nat) : Nat := c + (c + (s.ctx c).tag <<< 12) <<< 32
/-- A TAG that differs from the number's last one (R360). -/
def freshTag (s : Mach) (old : Nat) : Nat × Mach :=
  let (v, s) := s.fresh
  let t := v % 2 ^ 20
  (if t = old then (t + 1) % 2 ^ 20 else t, s)
/-- CONTEXT_CREATE (R372, 21 R474). A context's root table is created with it (13 R295); with no room for one it is refused with
ST_TIER_FULL (DESIGN CHOICE, log entry 51). -/
def msgContext (s : Mach) (k b : Nat) : Reply :=
  let form := bits b 1 0
  let c := bits b 43 32
  let x := s.ctx c
  let named := form == 1 || form == 2
  let foreign := s.objs.any fun p => p.2.state != 0#3 && p.2.owner.toNat == c && (s.mapsOf p.1).any fun m => m.ctx != c
  match firstCode [(form == 2 && x.state != 0#2 && x.client != k, stPerm),
      (form == 3 || (form == 0 && bits b 31 16 == 0) || (named && x.state == 0#2), stRefused),
      (form == 0 && s.ctxNos.length ≥ 4096, stNoCredit),
      (form == 0 && s.life == .test, stBusy), (form == 2 && foreign, stBusy)] with
  | some st => refuse s st
  | none =>
    if form = 0 then
      match s.newCtxNo with
      | none => refuse s stNoCredit
      | some n =>
        match s.addTable n 0 0 with
        | none => refuse s stTierFull
        | some s =>
          let (tag, s) := freshTag s (s.ctx n).tag
          let s := s.setCtx n { state := 1#2, client := k, share := bits b 31 16, priority := bit b 2, tag := tag, sessions := [k] }
          accept s (rkeyBody s n)
    else if form = 1 then
      let s := if x.sessions.contains k then s else s.setCtx c { x with sessions := x.sessions ++ [k] }
      accept s (rkeyBody s c)
    else
      let body := rkeyBody s c
      accept (s.releaseCtx c) body
/-- QUEUE_CREATE (R373). -/
def msgQueue (s : Mach) (k b : Nat) : Reply :=
  let form := bits b 1 0
  let c := bits b 27 16
  let q := bits b 47 32
  let lg := bits b 12 8
  let x := s.queue q
  match firstCode [(form != 1 && !s.mayName k c, stPerm), (form == 1 && !s.mayNameQueue k q, stPerm),
      (form ≥ 2, stRefused),
      (form == 0 && (lg < 6 || lg > 20 || bits b 7 4 == 0 || bits b 111 64 % (64 * 2 ^ lg) != 0), stRefused),
      (form == 1 && x.state == 0#2, stRefused),
      (form == 1 && x.wr != x.rd && (s.ctx x.ctx).state != 3#2, stBusy)] with
  | some st => refuse s st
  | none =>
    if form = 1 then accept (s.setQueue q {}) q
    else match lowestFree ((s.queues.filter fun p => p.2.state != 0#2).map fun p => p.1) 65536 with
      | none => refuse s stNoCredit
      | some n =>
        accept (s.setQueue n { state := 1#2, ctx := c, ringVa := bits b 111 64, sizeLog2 := lg, dieMask := bits b 7 4 }) n
/-- SYNC_CREATE (R378, R379). -/
def msgSync (s : Mach) (k b : Nat) : Reply :=
  let c := bits b 27 16
  let g := bits b 45 32
  if !bit b 0 then
    if !s.mayName k c then refuse s stPerm
    else match s.newSync (bits b 2 1) with
      | none => refuse s stNoCredit
      | some (n, s) =>
        accept (s.setSync n { count := BitVec.ofNat 32 (bits b 95 64), owner := BitVec.ofNat 12 c, live := true }) n
  else match firstCode [(!s.mayNameSync k g, stPerm), (!(s.sync g).live, stRefused), (s.syncBusy g, stBusy)] with
    | some st => refuse s st
    | none => accept (s.freeSync g) g

/-! ## Objects and pools (R374, R375) -/

/-- Whether an origin's header agrees with an object (13 R312); one that cannot be read does not. -/
def originOk (h : Option (BitVec 2048)) (o : Obj) : Bool :=
  match h with
  | none => false
  | some w =>
    let n := w.toNat
    bits n 31 0 == 0x49474E49 && bits n 39 32 == 1 && bits n 41 40 == o.ew.toNat && bits n 95 64 == o.nbars &&
      bits n 119 96 == o.size64k - 1 && zeroFields n [(63, 42), (2047, 120)]
/-- Whether a starting tier cannot be used (R299): the module tier out of use, the remote endpoint not configured. -/
def badTier (s : Mach) (tier ep : Nat) : Bool :=
  tier == 0 || (tier == 2 && s.moduleOut) || (tier == 3 && !(s.ep ep).configured)
/-- OBJECT_ALLOC of an object (FORM 0). -/
def allocObject (s : Mach) (k b : Nat) (env : Physical) : Reply :=
  let c := bits b 11 0
  let pref := bits b 19 18
  let org := bit b 64
  let ep := bits b 63 56
  let size := bits b 55 32 + 1
  let tier := if org then 3 else pref
  let o : Obj := { pref := BitVec.ofNat 2 pref, tierPin := bit b 20, leaf64k := bit b 15, origin := org, clean := org,
                   ew := BitVec.ofNat 2 (bits b 17 16), ep := BitVec.ofNat 8 (if tier = 3 then ep else 0), size64k := size,
                   owner := BitVec.ofNat 12 c, originOff := if org then bits b 119 80 else 0 }
  match firstCode [(!s.mayName k c, stPerm),
      (pref == 0 || bits b 17 16 == 3 || (!bit b 15 && size % 32 != 0) || badTier s tier ep ||
        (org && (bits b 119 80 ≥ s.epRegion ep)), stRefused)] with
  | some st => refuse s st
  | none =>
    -- the origin's header is read and checked (13 R312)
    let s := if org then s.sendEp ep (.originRead ep (4096 * o.originOff) 256) else s
    if org && !originOk env.remote o then refuse s stShape
    else match lowestFree s.objNos 524288 with
    | none => refuse s stNoCredit
    | some n => match createObj s n o tier with
      | none => refuse s stTierFull
      | some s => accept s n
/-- The two lowest free numbers below n, given the numbers in use in ascending order. -/
def twoFree (used : List Nat) (n : Nat) : Option (Nat × Nat) :=
  (lowestFree used n).bind fun a =>
    (lowestFree ((used.filter fun x => decide (x < a)) ++ [a] ++ used.filter fun x => decide (a < x)) n).map fun b => (a, b)
/-- OBJECT_ALLOC of a page pool (FORM 1) or a stash pool (FORM 2). -/
def allocPool (s : Mach) (k b : Nat) : Reply :=
  let stash := bits b 14 12 == 2
  let c := bits b 11 0
  let q := bits b 223 208
  let n := bits b 159 128
  let lists := bits b 191 160
  let cap := bits b 207 192
  let pref := bits b 19 18
  let ep := bits b 63 56
  let leaf := if bit b 15 then 65536 else 2097152
  let area := roundUp (n * 65536 * (if stash then 2 ^ (min cap 14) else 1)) leaf
  let ctrl := roundUp (if stash then 256 else pagePoolBytes n lists cap) leaf
  let ava := bits b 271 224
  let cva := bits b 319 272
  let fits := fun (va len : Nat) => va % leaf == 0 && va + len ≤ 2 ^ 48 && !s.overlaps c va len
  match firstCode [(!s.mayName k c || (stash && !s.mayNameQueue k q), stPerm),
      (n == 0 || n > 2 ^ 24 || pref == 0 || bits b 17 16 == 3 || area > 2 ^ 40 || ctrl > 2 ^ 40 || badTier s pref ep ||
        (if stash then cap > 14 || (s.queue q).state == 0#2 || (s.queue q).ctx != c || ava % (65536 * 2 ^ (min cap 14)) != 0
         else lists == 0 || lists > 2 ^ 22 || cap == 0 || ava % 65536 != 0) ||
        !fits ava area || !fits cva ctrl || (ava < cva + ctrl && cva < ava + area), stRefused)] with
  | some st => refuse s st
  | none =>
    let base : Obj := { leaf64k := bit b 15, ew := BitVec.ofNat 2 (bits b 17 16), owner := BitVec.ofNat 12 c }
    let ao : Obj := { base with pref := BitVec.ofNat 2 pref, tierPin := bit b 20, size64k := area / 65536,
                                ep := BitVec.ofNat 8 (if pref = 3 then ep else 0) }
    let co : Obj := { base with pref := 1#2, tierPin := true, size64k := ctrl / 65536 }
    match twoFree s.objNos 524288, lowestFree s.poolNos 16384 with
    | some (a, co'), some p =>
      (match (createObj s a ao pref).bind fun s => (createObj s co' co 1).bind fun s =>
          (s.enterMap { ctx := c, va := ava, obj := a, write := true, rdmaR := true, rdmaW := true }).bind fun s =>
            s.enterMap { ctx := c, va := cva, obj := co', write := false, rdmaR := true, rdmaW := false } with
      | none => refuse s stTierFull
      | some s3 =>
        let s4 := if stash then putObj s3 co' 0 (toBytes 256 (stashInit n cap p c q ava))
          else
            let i := pagePoolInit n lists cap p c ava
            putObj (putObj s3 co' 0 (toBytes 256 i.1)) co' i.2.1 i.2.2
        let s5 := s4.setPool p { live := true, stash := stash, ctx := c, control := co', ctrlVa := cva, pages := n, obj := a }
        accept s5 (a + co' <<< 32 + p <<< 64))
    | _, _ => refuse s stNoCredit
/-- OBJECT_ALLOC of FORM 3: the release of an object, or of the pool whose area it is (13 R303, R375). -/
def allocRelease (s : Mach) (k b : Nat) : Reply :=
  let n := bits b 338 320
  let o := s.obj n
  if !s.mayNameObj k n then refuse s stPerm
  else if o.state == 0#3 then refuse s stRefused
  else match s.poolOfArea n with
    | none =>
      if o.idle && (s.mapsOf n).isEmpty && !s.isControl n then accept (s.releaseObj n) n else refuse s stBusy
    | some p =>
      let x := s.pool p
      let mine := fun (m : Mapping) => m.ctx == x.ctx
      if s.poolBusy p || !o.idle || !(s.obj x.control).idle || !(s.mapsOf n).all mine || !(s.mapsOf x.control).all mine then
        refuse s stBusy
      else
        let s := s.setPool p {}
        let s := each (fun m s => s.removeMap m) (s.mapsOf n ++ s.mapsOf x.control) s
        accept ((s.releaseObj n).releaseObj x.control) n
/-- OBJECT_ALLOC (R374). -/
def msgAlloc (s : Mach) (k b : Nat) (env : Physical) : Reply :=
  match bits b 14 12 with
  | 0 => allocObject s k b env
  | 1 => allocPool s k b
  | 2 => allocPool s k b
  | 3 => allocRelease s k b
  | _ => if !s.mayName k (bits b 11 0) then refuse s stPerm else refuse s stRefused

/-- Whether a placement must move its object, and how (R301): none where it need not. -/
inductive Placing where
  | there | up (tier : Nat) | down (tier : Nat) | abandon | join | busy
  deriving DecidableEq, Repr
/-- What OBJECT_PLACE of an object to a tier asks for (R301, R303). -/
def placing (o : Obj) (tier : Nat) : Placing :=
  match o.state.toNat with
  | 1 => if tier = 1 then .there else if o.pins == 0#16 then .down tier else .busy
  | 2 => .busy
  | 3 => if tier = 1 then .abandon else if tier ≠ o.dst.toNat ∨ (o.src = 1#2 ∧ o.pins ≠ 0#16) then .busy else .join
  | 4 => if tier = 2 then .there else if tier = 1 then .up 1 else .down 3
  | _ => if tier = 3 then .there else .up tier
/-- Whether a placement's tier has room for its object (R301, R305, R307): one that the object is in, or that a move of it reads
or writes, has. -/
def roomIn (s : Mach) (n tier : Nat) : Bool :=
  let o := s.obj n
  match o.state.toNat with
  | 1 => tier = 1 || s.roomBelow o tier
  | 4 => tier = 2 || (if tier = 1 then (s.startUp n 1).isSome else s.roomBelow o 3)
  | 5 => tier = 3 || (s.startUp n tier).isSome
  | _ => tier = o.src.toNat || tier = o.dst.toNat ||
    (if tier = 1 then s.mayFit o else s.roomBelow o tier)
/-- OBJECT_PLACE (R301, R376). A refusal with ST_BUSY is counted. An object that is poisoned without a clean origin can only be
released (13 R316): its placement is refused with ST_REFUSED (log entry 52). -/
def msgPlace (s : Mach) (k b seq : Nat) : Reply :=
  let n := bits b 18 0
  let tier := bits b 21 20
  let en := bit b 22
  let g := bits b 45 32
  let o := s.obj n
  let live := o.state != 0#3
  let y := s.sync g
  let p := placing o tier
  match firstCode [(!s.mayNameObj k n || (en && y.live && (!s.mayNameSync k g || (live && y.owner != o.owner))), stPerm),
      (!live || tier == 0 || !o.sound || (o.tierPin && tier != s.prefOf o) || (tier == 2 && s.moduleOut) || (tier == 3 && !s.anyEp) ||
        (en && !y.live), stRefused),
      (!roomIn s n tier, stTierFull)] with
  | some st => refuse s st
  | none =>
    if p = .busy ∨ (en ∧ o.syncEn ∧ o.sync.toNat ≠ g) then refuse (s.bump (tierReg 0x28) 1) stBusy
    else
      let o' := { o with pref := BitVec.ofNat 2 tier, places := o.places ++ [(k, seq, tier)], syncEn := en || o.syncEn,
                         sync := if en then BitVec.ofNat 14 g else o.sync }
      let s := s.setObj n o'
      accept (match p with
        | .there => signalPlaced s n
        | .up t => startUpOr s n t
        | .down t => s.startDown n t
        | .abandon => s.setObj n { o' with abandon := true }
        | _ => s) 0
/-- Whether an object is in a tier. -/
def Obj.inTier (o : Obj) (tier : Nat) : Bool := o.state.toNat == [1, 4, 5].getD (tier - 1) 0
/-- After the answer of an OBJECT_PLACE whose object is in its tier already comes the FINAL report (R376). -/
def reportThere (s : Mach) (n : Nat) : Mach :=
  let o := s.obj n
  if o.places.any fun x => o.inTier x.2.2 then
    let s := reportPlaces (s.setObj n { o with wmark := BitVec.ofNat 20 o.steps }) n (fun t => o.inTier t) stOk
    s.setObj n { s.obj n with wmark := o.wmark }
  else s
/-- What follows an answer. -/
def Mach.afterAnswer (s : Mach) (op st b : Nat) : Mach := if op = 0x21 ∧ st = stOk then reportThere s (bits b 18 0) else s
/-- The mapping that an unmap names, by context, address and object (R377). -/
def mapNamed (s : Mach) (b : Nat) : Option Mapping :=
  s.maps.find? fun m => m.ctx == bits b 27 16 && m.va == bits b 111 64 && m.obj == bits b 50 32
/-- The refusal of a MAP, if any (13 R300; R377, R481). -/
def mapCode (s : Mach) (k b : Nat) : Option Nat :=
  let c := bits b 27 16
  let n := bits b 50 32
  let va := bits b 111 64
  let o := s.obj n
  let unmap := bit b 0
  firstCode [(!s.mayName k c || !s.mayNameObj k n, stPerm),
      (o.state == 0#3 || (unmap && (mapNamed s b).isNone) ||
        (!unmap && (va % o.leaf != 0 || va + o.bytes > 2 ^ 48 || s.overlaps c va o.bytes)), stRefused),
      (unmap && o.pins != 0#16, stBusy)]
/-- MAP (13 R298, R300; R377). One whose tables find no room is refused with ST_TIER_FULL (DESIGN CHOICE, log entry 51). -/
def msgMap (s : Mach) (k b : Nat) : Reply :=
  match mapCode s k b with
  | some st => refuse s st
  | none => match bit b 0, mapNamed s b with
    | true, some m => accept (s.removeMap m) 0
    | _, _ => match s.enterMap { ctx := bits b 27 16, va := bits b 111 64, obj := bits b 50 32, write := bit b 1,
                                 rdmaR := bit b 2, rdmaW := bit b 3 } with
      | some s => accept s 0
      | none => refuse s stTierFull
/-- Whether a request is an unmap that waits for a ladle command of its context, which keeps translations of the object until it
ends (13 R298). -/
def Mach.unmapWaits (s : Mach) (op k b : Nat) : Bool :=
  op == 0x22 && bit b 0 && (mapCode s k b).isNone && s.ladleHolds (some (bits b 27 16)) (bits b 50 32)

/-- Whether an object's REMOTE_EP is an endpoint (DEDUCED, log entry 28: the field alone counts, zero too). -/
def Obj.onEp (o : Obj) (e : Nat) : Bool := o.state != 0#3 && o.ep.toNat == e
/-- ENDPOINT_SET (R380). -/
def msgEndpoint (s : Mach) (b : Nat) : Reply :=
  let e := bits b 15 8
  let clear := bit b 0
  let pmtu := bits b 74 72
  match firstCode [(e == 255 || (!clear && (pmtu < 3 || pmtu > 5)) || (clear && !(s.ep e).configured), stRefused),
      (clear && s.objs.any fun p => p.2.onEp e, stBusy)] with
  | some st => refuse s st
  | none =>
    if clear then accept (s.setEp e {}) 0
    else
      let (q, s) := s.fresh
      let (p, s) := s.fresh
      let q := q % 2 ^ 24
      let p := p % 2 ^ 24
      accept (s.setEp e { configured := true, body := b, localQpn := q, localPsn := p, rate := 65536 }) (q + p <<< 32)

/-! ## DOORBELL (14 R324, R326; R381; 09 R221) -/

/-- The read of ring entry p of a queue for its pin. -/
def ringRead (s : Mach) (q p : Nat) : Res (List Byte) :=
  s.readVa (s.queue q).ctx ((s.queue q).ringVa + 64 * (p % 2 ^ (s.queue q).sizeLog2)) 64
/-- The pin of ring entry p of a queue: taken where the entry reads; where its read faults the entry will too, and a pin is due only
if it does not (R221; 14 R326). -/
def takePin (s : Mach) (q p : Nat) : Mach :=
  match ringRead s q p with
  | .err _ _ => s.setQueue q { s.queue q with pinDue := (s.queue q).pinDue ++ [p] }
  | .ok l s => s.pinEntry q p (ofBytes l)
/-- The positions that a DOORBELL covers. -/
def doorbellSpan (s : Mach) (b : Nat) : List Nat :=
  let x := s.queue (bits b 15 0)
  let n := wrap 32 ((bits b 63 32 : Int) - (x.rd : Int)) - (x.wr - x.rd)
  (List.range n).map fun i => x.wr + i
/-- The refusal of a DOORBELL, if any (R381). -/
def doorbellCode (s : Mach) (k b : Nat) : Option Nat :=
  let q := bits b 15 0
  let x := s.queue q
  let span := wrap 32 ((bits b 63 32 : Int) - (x.rd : Int))
  firstCode [(!s.mayNameQueue k q, stPerm),
      (x.state == 0#2 || span > 2 ^ x.sizeLog2 || span < x.wr - x.rd, stRefused),
      ((s.ctx x.ctx).state != 1#2, stAborted),
      (span != x.wr - x.rd && (s.jobs.filter fun j => j.client == k).length ≥ (s.session k).jobLimit, stNoCredit)]
/-- Where an accepted DOORBELL covers an entry that is not resident, or held, it waits, with the promotion requested: firmware reads the
covered descriptors, and takes their pins, before it answers (R221, R381; DEDUCED, log entry 76). -/
def doorbellWaits (s : Mach) (op k b : Nat) : Option Mach :=
  if op != 0x30 || (doorbellCode s k b).isSome then none
  else (doorbellSpan s b).findSome? fun p => match ringRead s (bits b 15 0) p with
    | .err (.restart _) s' => some s'
    | .err (.held _) _ => some s
    | _ => none
/-- DOORBELL (R381). -/
def msgDoorbell (s : Mach) (k b : Nat) : Reply :=
  let q := bits b 15 0
  let x := s.queue q
  let n := (doorbellSpan s b).length
  match doorbellCode s k b with
  | some st => refuse s st
  | none =>
    if n = 0 then accept s 0
    else
      let j := s.nextJob
      let job : Job := { no := j, client := k, ctx := x.ctx, left := n }
      let s := { s with nextJob := j + 1, jobs := s.jobs ++ [job] }
      let s := s.setQueue q { x with wr := x.wr + n, jobs := x.jobs ++ [(x.wr + n, j)] }
      let s := s.tally (homeDie x.dieMask) fun y => { y with accepted := y.accepted + n }
      accept (each (fun p s => takePin s q p) ((List.range n).map fun i => x.wr + i) s) 0

/-! ## STATE_EXPORT and STATE_IMPORT messages (R383) -/

/-- The checks of R224 on the body as a descriptor, and the pin of the state object. -/
def msgBlob (s : Mach) (k b seq : Nat) (imp : Bool) : Reply :=
  let c := bits b 11 0
  let d := (b >>> 128) <<< 128
  if !s.mayName k c then refuse s stPerm
  else if bits d 399 352 ≠ 0 then refuse s stShape
  else match blobCheck c d s with
    | .err (.fatal st) s' => refuse s' (if st = stFaultPoison then st else stShape)
    | .err _ s' | .ok _ s' =>
      -- a state object that is not resident, or held, is waited for by the work itself
      match s'.leafAt c (bits d 207 160) with
      | none => refuse s' stShape
      | some m =>
        let j : BlobJob := { session := k, seq := seq, ctx := c, imp := imp, desc := d, obj := m.obj }
        let s' := s'.pin m.obj
        let s' := { s' with blobs := s'.blobs ++ [j] }
        accept s' 0
/-- The work of an accepted message: its final status, or none while it waits on residency or a held channel. -/
def blobRun (s : Mach) (j : BlobJob) : Mach × Option Nat :=
  let r : Res Nat := (blobCheck j.ctx j.desc s).bind fun x s =>
    if j.imp then blobImport j.ctx j.desc x.1 x.2 s
    else (blobExport j.ctx j.desc x.1 x.2 s).bind fun _ s => .ok stOk s
  match r with
  | .ok st s => (s, some st)
  | .err (.fatal st) s' => (s', some st)
  | .err _ s' => (s', none)

/-! ## TELEMETRY, REG_READ, STATUS (R384 to R386) -/

/-- A context record (R385). -/
def ctxRecord (s : Mach) (c : Nat) : Nat :=
  let x := s.ctx c
  x.charged % 2 ^ 64 + (x.retired % 2 ^ 32) <<< 64 + (x.replays % 2 ^ 32) <<< 96 + (x.misses % 2 ^ 32) <<< 128 +
    (x.recomputes % 2 ^ 32) <<< 160 + (x.ovfSets % 2 ^ 32) <<< 192 + x.state.toNat <<< 224
/-- A command record (R385). -/
def cmdRecord (e : CmdLog) : Nat :=
  e.cmdId + (e.queue % 2 ^ 16) <<< 32 + (e.status % 2 ^ 16) <<< 48 + (e.pos % 2 ^ 32) <<< 64 + (e.charged % 2 ^ 64) <<< 96 +
    (min e.cycles (2 ^ 24 - 1)) <<< 160 + (min e.replays 255) <<< 184 + (min e.held (2 ^ 32 - 1)) <<< 192 +
    (min e.ovf (2 ^ 32 - 1)) <<< 224 + (min e.nan (2 ^ 32 - 1)) <<< 256 + (min e.cks 65535) <<< 288
/-- TELEMETRY of KIND 0 and 1. -/
def msgTelemetry (s : Mach) (k b : Nat) : Reply :=
  let c := bits b 27 16
  let recs := if bits b 1 0 = 0 then [ctxRecord s c] else ((s.ctx c).log.take (bits b 47 32)).map cmdRecord
  if !s.mayName k c then refuse s stPerm
  else if 64 * recs.length > (s.session k).maxBody then refuse s stRefused
  else accept s (recs.foldr (fun r a => r + a <<< 512) 0)
/-- REG_READ. -/
def msgRegRead (s : Mach) (k b : Nat) : Reply :=
  let a := bits b 31 0
  let n := bits b 39 32 + 1
  if a % 4 ≠ 0 ∨ 4 * n > (s.session k).maxBody then refuse s stRefused
  else
    let (v, s) := s.readRegs a n
    accept s v
/-- The body of a STATUS answer. -/
def statusBody (s : Mach) : Nat :=
  let sec := (s.reg (secReg 0)).toNat
  let retired := (s.pcs.filter fun p => p.2.state == 3#2).length
  let cores := (s.cores.filter fun p => p.2.fenced).length
  let clusters := (s.clusters.filter fun p => p.2.fenced).length
  s.devStatus + (s.boot.version % 2 ^ 32) <<< 32 + (s.uptime % 2 ^ 32) <<< 64 + (s.openSessions.length % 2 ^ 11) <<< 96 +
    (cores % 2 ^ 10) <<< 128 + (clusters % 2 ^ 6) <<< 138 + (retired % 2 ^ 16) <<< 144 + b2n s.moduleOut <<< 160 +
    bits sec 31 31 <<< 161 + bits sec 24 24 <<< 162 + b2n s.faultN <<< 163 + b2n s.isReady <<< 164 +
    bits (s.reg (devReg 0)).toNat 27 24 <<< 168

/-! ## Sessions (R370) -/

/-- Whether the fields of SESSION_OPEN are in range; a reconnect reads HOST_QPN, HOST_PSN, HOST_GID and PMTU alone. -/
def openFieldsOk (b : Nat) : Bool :=
  3 ≤ bits b 122 120 && bits b 122 120 ≤ 5 &&
    (bit b 48 || (1024 ≤ bits b 47 32 && bits b 47 32 ≤ 8192 && bits b 15 0 != 0))
/-- The answer of SESSION_OPEN. -/
def openBody (s : Mach) (k : Nat) : Nat :=
  let x := s.session k
  x.cookie % 2 ^ 64 + k <<< 64 + (x.devQpn % 2 ^ 24) <<< 96 + (x.devPsn % 2 ^ 24) <<< 128 + (s.boot.version % 2 ^ 32) <<< 160
/-- The host's side of a session's queue pair, bound by SESSION_OPEN. -/
def bindQp (s : Mach) (k b : Nat) : Mach :=
  s.setSession k { s.session k with hostQp := bits b 87 64, hostPsn := bits b 119 96, hostGid := bits b 255 128,
                                    pmtu := bits b 122 120, qpError := false }
/-- SESSION_OPEN (R370). A reconnect was checked for its session and cookie at R364's third row. -/
def msgOpen (s : Mach) (r : Req) : Reply :=
  let b := r.body
  let k := r.session.toNat
  if !openFieldsOk b then refuse s stRefused
  else if bit b 48 then
    if k < 1024 ∧ (s.session k).isOpen ∧ (s.session k).cookie = r.cookie.toNat then
      let s := bindQp s k b
      accept s (openBody s k)
    else refuse s stSession
  else match lowestFree s.openSessions 1024 with
    | none => refuse s stNoCredit
    | some k =>
      let (c, s) := s.fresh
      let (q, s) := s.fresh
      let (p, s) := s.fresh
      let x : Session := { isOpen := true, cookie := c % 2 ^ 64, source := r.source, jobLimit := bits b 15 0,
                           expiry := bits b 31 16, maxBody := bits b 47 32, devQpn := q % 2 ^ 24, devPsn := p % 2 ^ 24 }
      let s := bindQp (s.setSession k x) k b
      accept s (openBody s k)

end Sys2Proof.Machine
end

