-- ==== Sys2Proof/Machine/SafetyMech.lean ====
section
/-! DEFINITION. Machine/SafetyMech.lean: the mechanisms of functional safety: SRAM, residue and link checks, clock monitors,
the safe state, safety records, conservation audits, conditions of the guarantees (17_functional_safety.md R404 to R422,
R482, R483; 19 R448). -/

namespace Sys2Proof.Machine

/-! ## SRAM, residue and link checks (R407 to R409) -/

/-- A core's SRAM is uncorrectable: the core is fenced (R346); one fenced already is only counted. -/
def coreUe (s : Mach) (c : Nat) : Mach := if (s.core c).fenced then s.bump (safReg 0x20) 1 else coreFence s c .sram
/-- The same of a cluster's buffer or command processor (R348). -/
def clusterUe (s : Mach) (k : Nat) : Mach := if (s.cluster k).fenced then s.bump (safReg 0x20) 1 else clusterFence s k
/-- An uncorrectable line of a shared cache: a clean one is dropped and refilled from the stack, a dirty one written back
with slag in each affected sector. -/
def cacheUe (s : Mach) (g set way sectors : Nat) : Mach :=
  let ls := tabGet (fun _ => []) s.cache (2048 * g + set)
  let s := (s.bump (safReg 0x20) 1).recordDue
    { mech := 0x14#8, unit := w32 g, die := BitVec.ofNat 2 (g / 8), source := 0x3FF#10, status := 0#16, detail := [] }
  match ls[way]? with
  | none => s
  | some l =>
    let s := s.replaceSet g set (ls.eraseIdx way)
    if l.dirty then each (fun i s => if sectors.testBit i then s.setSlag (128 * l.tag + 64 * i) true else s) [0, 1] s else s
/-- An uncorrectable error of an accumulator row, named as full mode names it (04 R88, R100): a checksum mismatch of the row's
drain check, which replays the command whose tile has the row still to drain; INTEGER is 1 where the row's slot is one of a tile that
accumulates in I32 (R99). -/
def accumulatorUe (s : Mach) (e slot row : Nat) : Mach :=
  let en := s.eng e
  let block := 4 * slot + row / 8
  let (q, sl, rows) := if en.mode then (block / 32, block % 32, [2 * (row % 8), 2 * (row % 8) + 1]) else (0, slot, [row])
  let x := en.quarter q
  let int := tabGet (fun _ => false) x.intSlots sl
  match rows.find? fun r => x.pendingRows.contains (sl * 32 + r) with
  | none => reportMismatch s e 2 q sl (rows.headD 0) int
  | some r =>
    match x.tiles.find? fun t => t.drain && decide (t.slot ≤ sl) && decide (sl < t.slot + ceilDiv t.rows t.side) with
    | none => reportMismatch s e 2 q sl r int
    | some t => (mismatch s e 2 q sl r t.isInt t.cmd).endTile e q t
/-- SRAM_SCRUB: the outcome of one decode, by a scrubber or an access (R407). -/
def sramScrub (s : Mach) (a : SramArray) (found : Secded) : Mach :=
  match found with
  | .clean => s
  | .corrected => s.bump (safReg 0x1C) 1
  | .uncorrectable =>
    match a with
    | .scratchpad c | .castPlan c | .translation c => coreUe s c.toNat
    | .accumulator e slot row => coreUe (accumulatorUe s e.toNat slot.toNat row.toNat) (e.toNat / 4)
    | .clusterBuffer k | .commandProcessor k => clusterUe s k.toNat
    | .sharedCache g set way sectors => cacheUe s g.toNat set.toNat way.toNat sectors.toNat
    | .flask d p => (s.bump (safReg 0x20) 1).dangerous
        { mech := 0x0A#8, unit := w32 (4 * d.toNat + p.toNat), die := d, source := 0x3FF#10, status := 0#16, detail := [] }
/-- SRAM_SCRUB. -/
def execSramScrub (a : SramArray) (found : Secded) (s : State) : Host.Outcome State Fault Refusal :=
  .next { s with m := sramScrub s.m a found }

/-- A residue or parity mismatch in a core's unit (R408): as a checksum mismatch of the core (04 R99; 14 R346). -/
def coreResidue (s : Mach) (c : Nat) : Mach :=
  let k := s.core c
  let src := 16 + 4 * (c / 16 % 8)
  let s := s.setCore c { k with mismatches := s.uptime :: k.mismatches.take 1 }
  let s := (s.raise (c / 128) src).recordDue
    { mech := 0x11#8, unit := w32 c, die := BitVec.ofNat 2 (c / 128), source := BitVec.ofNat 10 src, status := 0#16, detail := [] }
  match s.coreCmd c with
  | some x => if x.working then (s.stopCmd { x with cks := x.cks + 1 } none .replay).raise x.die 114 else s
  | none => s
/-- A mismatch in a ladle unit (R408): the command that it checks, or whose share it works on, is replayed, or, in place and past its
check barrier, is fatal to its context. -/
def ladleResidue (s : Mach) (g : Nat) (page : Bool) : Mach :=
  let on := s.cmds.find? fun c => (c.st == .check || c.st == .checked || (c.st == .work && c.shares.contains g)) &&
    isPageOp (dOp c.desc) == page
  let kill : Bool := match on with
    | some c => c.st == .work && isInPlace c.desc
    | none => false
  let s := s.recordDue { mech := 0x16#8, unit := w32 g, die := BitVec.ofNat 2 (g / 8), source := 0x3FF#10,
                         status := if kill then 0x0009#16 else 0#16, detail := [] }
  match on with
  | none => s
  | some c => if kill then s.fatalOn c.die c.ctx stAborted (dCmdId c.desc) else (s.stopCmd c none .replay).raise c.die 114
/-- RESIDUE_MISMATCH. -/
def residueMismatch (s : Mach) (u : ResidueUnit) : Mach :=
  let s := s.bump (safReg 0x28) 1
  match u with
  | .core c => coreResidue s c.toNat
  | .ladle g page => ladleResidue s g.toNat page
/-- RESIDUE_MISMATCH. -/
def execResidueMismatch (u : ResidueUnit) (s : State) : Host.Outcome State Fault Refusal :=
  .next { s with m := residueMismatch s.m u }
/-- FLIT_RETRY (R409). -/
def execFlitRetry (h : Hop) (s : State) : Host.Outcome State Fault Refusal :=
  if !h.wf then .fault (.illFormed "link") else .next { s with m := s.m.bump (safReg 0x24) 1 }
/-- RETRY_EXHAUSTION (R409, R483). -/
def retryExhaustion (s : Mach) (h : Hop) : Mach :=
  let (d, unit, detail) := match h with
    | .link a b => (a.toNat, 4 * min a.toNat b.toNat + max a.toNat b.toNat, [])
    | .mesh d hop => (d.toNat, 2 ^ 28, [w32 hop.toNat])
  (s.raise d 15).dangerous
    { mech := 0x09#8, unit := w32 unit, die := BitVec.ofNat 2 d, source := 15#10, status := 0#16, detail := detail }
/-- RETRY_EXHAUSTION. -/
def execRetryExhaustion (h : Hop) (s : State) : Host.Outcome State Fault Refusal :=
  if !h.wf then .fault (.illFormed "link") else .next { s with m := retryExhaustion s.m h }

/-! ## Clock monitors (R410; 19 R448) -/

/-- The island that watches an island. -/
def watcherOf (g : Nat) : Nat :=
  let d := g / 20
  let i := g % 20
  20 * d + (if i < 8 then 8 + i else if i < 16 then (i - 8 + 1) % 8 else if i = 16 then 17 else if i = 17 then 16
    else if i = 18 then 17 else 16)
/-- The islands an island watches. -/
def watchedBy (w : Nat) : List Nat := ((List.range 20).map fun i => 20 * (w / 20) + i).filter fun g =>
  islandClocked g && watcherOf g == w
/-- Whether an island's watcher has reported it. -/
def Mach.monFault (s : Mach) (g : Nat) : Bool := (s.reg (clkReg g 0)).toNat.testBit 27
/-- The island that a report of island g is attributed to, and the island named in DETAIL where both are left (R448). -/
def attributed (s : Mach) (g : Nat) : Nat × List Word :=
  let w := watcherOf g
  if !s.monFault w then (g, [])
  else if g % 20 = 16 ∨ g % 20 = 17 then
    let all := fun (x : Nat) => (watchedBy x).all fun y => s.monFault y
    let fabric := 20 * (g / 20) + 16
    let flask := fabric + 1
    if all fabric && !all flask then (fabric, [])
    else if all flask && !all fabric then (flask, [])
    else (flask, [w32 fabric])
  else (w, [])
/-- A clock failure (R406): source 12, the record, FAULT_N. -/
def clockFail (s : Mach) (d unit : Nat) (detail : List Word) : Mach :=
  (s.raise d 12).dangerous
    { mech := 0x06#8, unit := w32 unit, die := BitVec.ofNat 2 d, source := 12#10, status := 0#16, detail := detail }
/-- CLOCK_MONITOR_WINDOW: a window that measured an island at a frequency; a report after two windows in a row more than 5 %
off the set frequency, or one that saw no edge. The window of an announced switch is disregarded. -/
def clockWindow (s : Mach) (g khz : Nat) : Mach :=
  let x := s.island g
  if !islandClocked g then s
  else if x.announced.isSome then s.setIsland g { x with announced := none }
  else
    let set := (s.reg (clkReg g 4)).toNat
    let off := if khz ≥ set then khz - set else set - khz
    if 20 * off ≤ set && khz ≠ 0 then (if x.bad = 0 then s else s.setIsland g { x with bad := 0 })
    else
      let s := s.setIsland g { x with bad := x.bad + 1 }
      if s.monFault g || (x.bad = 0 && khz ≠ 0) then s
      else
        let s := s.setField (clkReg g 0) 27 27 1
        let a := attributed s g
        clockFail s (g / 20) a.1 a.2
/-- CLOCK_MONITOR_WINDOW. -/
def execClockMonitorWindow (i : IslandNo) (khz : Word) (s : State) : Host.Outcome State Fault Refusal :=
  .next { s with m := clockWindow s.m i.val khz.toNat }

/-! ## The safe state (R412) -/

/-- SAFE_STATE_ENTRY: after a dangerous failure. Every context is torn down with ST_ABORTED; a bring-up action stops. -/
def safeStateEntry (s : Mach) : Mach :=
  if s.safe || !s.danger then s
  else
    let s := s.setField (safReg 0) 30 30 1
    let s := each (fun c s => s.tearNow c)
      ((s.ctxs.filter fun p => p.2.state == 1#2 || p.2.state == 2#2).map fun p => p.1) s
    let s := if s.sweep.isSome then
        ({ s with sweep := none, obsPath := if s.obsPath = 3 then 1 else 0 } : Mach).setField (devReg 0x40) 30 30 0
      else s
    let s := { s with retrainReq := none }
    if bits (s.reg (devReg 0x200)).toNat 31 30 = 1 then s.setField (devReg 0x200) 31 30 3 else s
/-- SAFE_STATE_ENTRY. -/
def execSafeStateEntry (s : State) : Host.Outcome State Fault Refusal := .next { s with m := safeStateEntry s.m }

/-! ## Safety records (R413, R414, R483) -/

/-- BOUND_US of a mechanism; the bound of MECH 0x26 is 10 ms for each page pool live at detection. -/
def boundUs (mech pools : Nat) : Nat :=
  match mech with
  | 0x01 => 1 | 0x02 => 100000 | 0x03 => 2000 | 0x04 => 100 | 0x05 => 1600 | 0x06 => 10 | 0x07 => 10 | 0x08 => 1000
  | 0x09 => 5 | 0x10 => 3 | 0x15 => 4195 | 0x21 => 0xFFFFFFFF | 0x23 => 2000 | 0x24 => 1000
  | 0x26 => min 0xFFFFFFFF (10000 * pools)
  | _ => 0
/-- CLASS of a mechanism: 0 controlled, 1 dangerous, 2 latent, 3 condition. -/
def mechClass (mech : Nat) : Nat :=
  if mech = 0x02 ∨ mech = 0x21 ∨ mech = 0x26 then 2 else if mech = 0x30 then 3 else if mech ≤ 0x0A then 1 else 0
/-- The 2,048 bits of record number `seq`. -/
def recordBits (x : Due) (seq : Nat) : Nat :=
  let m := x.req.mech.toNat
  0x53465452 + 1 <<< 32 + m <<< 40 + mechClass m <<< 48 + b2n x.asserted <<< 50 + (x.flags % 16) <<< 56 +
    (seq % 2 ^ 32) <<< 64 + (x.ms % 2 ^ 32) <<< 96 + boundUs m x.pools <<< 128 + x.req.source.toNat <<< 160 +
    x.req.die.toNat <<< 170 + x.req.unit.toNat <<< 176 + x.req.status.toNat <<< 208 +
    ((x.req.detail.take 48).foldr (fun (w : Word) a => w.toNat + a <<< 32) 0) <<< 512
/-- Whether a due record waits for an earlier one: that of a lost condition for that of a dangerous failure (R421). -/
def recordWaits (l : List Due) (r : RecordReq) : Bool := r.mech == 0x30#8 && l.any fun x => mechClass x.req.mech.toNat == 1
/-- SAFETY_RECORD: the due record of an event is written by a running pair of its die and sent on the gate class to the control flask,
which keeps the 256 latest and sends it to every open session. -/
def safetyRecord (s : Mach) (r : RecordReq) : Mach :=
  match s.recordsDue.findIdx? fun x => x.req == r with
  | none => s
  | some i => match s.recordsDue[i]? with
    | none => s
    | some x =>
      if !((List.range 4).any fun p => s.pairRuns r.die.toNat p) || !((List.range 4).any fun p => s.pairRuns 0 p) ||
          recordWaits (s.recordsDue.take i) r then s
      else
        let seq := (s.reg (safReg 8)).toNat + 1
        let v := recordBits x seq
        let s := if r.die = 0#2 then s else s.raise 0 (96 + r.die.toNat)
        let s := ({ s with recordsDue := s.recordsDue.eraseIdx i } : Mach).setReg (safReg 8) (w32 seq)
        let s := each (fun j s => s.setReg (0x25000000 + 256 * (seq % 256) + 4 * j) (wordOf v j)) (List.range 64) s
        s.postAll s.openSessions 0x0103 stOk v
/-- SAFETY_RECORD. -/
def execSafetyRecord (r : RecordReq) (s : State) : Host.Outcome State Fault Refusal := .next { s with m := safetyRecord s.m r }

/-! ## Conservation audits (R416 to R419, R482) -/

/-- Bytes of an object's near copy, where it has one. -/
def Mach.objBytes (s : Mach) (n off len : Nat) : Option (List Byte) :=
  (rangePieces off len).foldl (fun (a : Option (List Byte)) p => match a, (s.obj n).pa p.1 with
    | some l, some pa => some (l ++ s.nearBytes pa p.2)
    | _, _ => none) (some [])
/-- The header of a pool's control object. -/
def Mach.poolHeadAt (s : Mach) (p : Nat) : Option Nat := (s.objBytes (s.pool p).control 0 256).map ofBytes
/-- Transaction slots of the ladle unit of slice g that transactions hold between two commands: those that wait on a held channel (06
R143; 12 R274; 14 R349). -/
def Mach.ladleHeld (s : Mach) (g : Nat) : Nat := (s.cmds.map fun c => (c.heldOn.filter fun w => w.unit == 544 + g).length).sum
/-- The instances of R482 that a die's channels and its mailbox service have: data channels of the mesh's input ports, gate-class
credits of its ports and links, data channels of its links, the service of the control flask. -/
def channelInstances (s : Mach) (d : Nat) : List Nat :=
  (s.channels.filter fun p => p.1 / 2 ^ 20 % 4 == d).map fun p => p.1 / 2 ^ 22 * 2 ^ 20 + p.1 % 2 ^ 20
/-- Relation 1 on a die: (instance, whether FREE + HELD = TOTAL). A channel that is not listed has all its credits free. -/
def relation1 (s : Mach) (d : Nat) : List (Nat × Bool) :=
  ((List.range 8).map fun i => (i, (s.slice (8 * d + i)).free + (s.slice (8 * d + i)).credits.length == 64)) ++
  ((List.range 128).map fun i => (1 <<< 20 + i, (s.core (128 * d + i)).slotsFree + (s.core (128 * d + i)).slotsHeld == 32)) ++
  ((List.range 8).map fun i => (2 <<< 20 + i, (s.slice (8 * d + i)).slotsFree + s.ladleHeld (8 * d + i) == 64)) ++
  ((channelInstances s d).map fun i =>
    let x := s.channel (channelKey (i / 2 ^ 20) d (i % 2 ^ 20))
    (i, x.free + x.held.length == channelTotal (i / 2 ^ 20))) ++
  ((List.range 8).map fun i =>
    let k := s.cluster (8 * d + i)
    (6 <<< 20 + i, k.placesFree + k.places.length == 4 && k.resFree + (k.res.map fun r => r.2.2).sum == 2048)) ++
  [(7 <<< 20, (s.limiter d).tokens + (s.limiter d).out.length == 64)]
/-- Relation 2 on a die, over its dispatcher's totals; its instance is the lowest queue homed there. -/
def relation2 (s : Mach) (d : Nat) : List (Nat × Bool) :=
  let x := s.sched d
  let mine := s.queues.filter fun p => p.2.state != 0#2 && homeDie p.2.dieMask == d
  let left := mine.foldl (fun (a : Nat) p => a + (p.2.wr - p.2.rd)) 0
  let run := (s.cmds.filter fun c => c.die == d && !c.holds && c.free.isNone).length
  let q := match mine with
    | p :: _ => p.1
    | [] => 0
  [(q, wrap 64 ((x.accepted : Int) - x.issued - x.discarded) == left % 2 ^ 64 &&
       x.issued % 2 ^ 64 == (x.retired + x.skipped + x.torn + run) % 2 ^ 64)]
/-- Whether a tundish granule and the claims recorded agree (R417; 05 R135). The tundishes of a GATED_STEP stand still from its first step
on, so of them only the bounds are tested (09 R213; log entry 30). -/
def tundishOk (op g claims : Nat) : Bool :=
  decide (bits g 95 64 ≤ bits g 127 96) && decide (bits g 135 128 ≤ 56) &&
    (op == 6 || decide ((bits g 31 0 : Int) - bits g 63 32 + bits g 127 96 - bits g 95 64 - bits g 135 128 = (claims : Int)))
/-- The tundish that a joined core works from: its address. -/
def Mach.tundishOf (s : Mach) (c : Nat) (cmd : Cmd) : Option Nat :=
  ((s.phases c)[(s.core c).phase]?).map fun p => tundVa s c cmd p (s.core c).slot
/-- Relation 3 on a die, for every tundish of a running command homed there, which a joined core's cast plan names: what an audit
that fails records of it, and whether it holds. -/
def relation3 (s : Mach) (d : Nat) : List (AuditFail × Bool) :=
  s.cmds.flatMap fun cmd =>
    let cores := cmd.slots.flatMap fun x => x.cores
    match cores.head? with
    | none => []
    | some c =>
      if !cmd.planned || cmd.st != .running || cmd.die != d then []
      else (s.phases c).flatMap fun p => (List.range (if p.single cmd.desc then 1 else cmd.slots.length)).filterMap fun i =>
        let va := tundVa s c cmd p i
        match s.readWord cmd.ctx va 256 with
        | .err _ _ => none
        | .ok g _ =>
          let claims := (cores.map fun c' => if s.tundishOf c' cmd = some va then (s.core c').items.length else 0).sum
          some ({ die := d, rel := 3, inst := cmd.queue, detail := [w32 va, w32 (va / 2 ^ 32), w32 p.no, w32 i] },
                tundishOk (dOp cmd.desc) g claims)
/-- Whether a page-class command works on a pool. -/
def Mach.poolWorks (s : Mach) (p : Nat) : Bool := s.cmds.any fun c => isPageOp (dOp c.desc) && bits c.desc 141 128 == p
/-- Relations 4 and 5, on every live pool whose control object is resident. -/
def relation45 (s : Mach) (stash : Bool) : List (Nat × Bool) :=
  (s.pools.filter fun p => p.2.live && p.2.stash == stash).filterMap fun p =>
    match s.poolHeadAt p.1 with
    | none => none
    | some h =>
      if stash then some (p.1, decide (bits h 31 0 ≤ bits h 63 32))
      else if s.poolWorks p.1 then none
      else some (p.1, bits h 239 208 == bits h 271 240 && decide (bits h 31 0 ≤ bits h 63 32) &&
        decide (bits h 63 32 - bits h 31 0 ≤ bits h 239 208))
/-- APPLIED_TOTAL of each die. -/
def Mach.appliedNow (s : Mach) : List Nat := (List.range 4).map fun d => tabGet (fun _ => 0) s.appliedTotal d
/-- SENT of each die. -/
def Mach.sentNow (s : Mach) : List Nat := (List.range 4).map fun d => tabGet (fun _ => 0) s.sent d
/-- Ticks charged or pending in executions. -/
def Mach.chargedNow (s : Mach) : Nat := s.chargedTotal + s.cmds.foldl (fun (a : Nat) c => a + c.charge) 0
/-- Relation 6 on each die: the changes since the last latch. -/
def relation6 (s : Mach) : List (Nat × Bool) :=
  (List.range 4).map fun d =>
    (d, (nth s.appliedNow d : Int) - nth s.audit.applied d == (nth s.sentNow d : Int) - nth s.audit.sent d)
/-- Relation 7. -/
def relation7 (s : Mach) : List (Nat × Bool) :=
  [(0, (s.ticks : Int) - s.audit.ticks == (s.chargedNow : Int) - s.audit.charged)]
/-- Every instance of every relation, as an audit that fails records it, and whether it holds. -/
def relations (s : Mach) : List (AuditFail × Bool) :=
  let onDie := fun (r d : Nat) (l : List (Nat × Bool)) => l.map fun x => (({ die := d, rel := r, inst := x.1 } : AuditFail), x.2)
  ((List.range 4).flatMap fun d => onDie 1 d (relation1 s d) ++ onDie 2 d (relation2 s d) ++ relation3 s d) ++
    onDie 4 0 (relation45 s false) ++ onDie 5 0 (relation45 s true) ++ onDie 6 0 (relation6 s) ++ onDie 7 0 (relation7 s)
/-- A gate-class message of the control flask to the four flasks (16 R396). -/
def Mach.gateAll (s : Mach) : Mach := each (fun d s => s.raise d 96) (List.range 4) s
/-- A gate-class message of die d's flask to the control flask (16 R396). -/
def Mach.gateTo0 (s : Mach) (d : Nat) : Mach := s.raise 0 (96 + d)
/-- FREEZE (R416), a gate-class message: from READY on. -/
def freeze (s : Mach) : Mach :=
  if s.isReady && ((List.range 4).any fun p => s.pairRuns 0 p) then { s.gateAll with frozen := true } else s
/-- FREEZE. -/
def execFreeze (s : State) : Host.Outcome State Fault Refusal := .next { s with m := freeze s.m }
/-- A relation as the audits number it: (die, relation, instance); a module relation has die 0. -/
def AuditRel.key (x : AuditRel) : Nat × Nat × Nat := (if x.relation.toNat < 4 then x.die.toNat else 0, x.relation.toNat, x.inst.toNat)
/-- The counters that relations 6 and 7 compare with, latched, but for those of a deferred relation, which stay. -/
def latched (s : Mach) (keys : List (Nat × Nat × Nat)) : AuditSt :=
  let per := fun (old now : List Nat) => (List.range 4).map fun d => if keys.contains (0, 6, d) then nth old d else nth now d
  let a := { s.audit with applied := per s.audit.applied s.appliedNow, sent := per s.audit.sent s.sentNow }
  if keys.contains (0, 7, 0) then a else { a with ticks := s.ticks, charged := s.chargedNow }
/-- FREEZE_RELEASE after so many nanoseconds: the counters are latched, but for the relations of loops that were not empty
at 3 µs, which are deferred; the eighth deferral in a row fails the audit. Each flask has reported on the gate class, on which the
RELEASE is sent. What waited for the freeze to end is sent. -/
def freezeRelease (s : Mach) (ns : Nat) (stuck : List AuditRel) : Mach :=
  if !s.frozen then s
  else
    let keys := stuck.map AuditRel.key
    let deferred := keys.map fun k => (k, ((s.audit.deferred.find? fun x => x.1 == k).map fun x => x.2).getD 0 + 1)
    let late := (deferred.find? fun x => decide (x.2 ≥ 8)).map fun x =>
      ({ die := x.1.1, rel := x.1.2.1, inst := x.1.2.2, late := true } : AuditFail)
    let failed := ((relations s).find? fun x => !x.2 && !keys.contains (x.1.die, x.1.rel, x.1.inst)).map fun x => x.1
    let a : AuditSt := { latched s keys with verdict := some (failed <|> late), deferred := deferred }
    let s := (each (fun d s => s.gateTo0 d) (List.range 4) s).gateAll
    let s := ({ s with frozen := false, audit := a } : Mach).bump (safReg 0x18) keys.length
    let s := if ns > (s.reg (safReg 0x10)).toNat then s.setReg (safReg 0x10) (w32 (min ns (2 ^ 32 - 1))) else s
    s.resendSyncs
/-- FREEZE_RELEASE. -/
def execFreezeRelease (ns : Nat) (stuck : List AuditRel) (s : State) : Host.Outcome State Fault Refusal :=
  .next { s with m := freezeRelease s.m ns stuck }
/-- A failed audit (R419, R482): the first is recorded; a dangerous failure. -/
def auditFail (s : Mach) (f : AuditFail) : Mach :=
  let u := (f.rel % 16) <<< 24 + f.inst % 2 ^ 24
  let w := w32 (2 ^ 31 + (f.die % 4) <<< 29 + b2n f.late <<< 28 + u)
  let s := if (s.reg (safReg 0xC)).toNat.testBit 31 then s else s.setReg (safReg 0xC) w
  s.dangerous { mech := 0x05#8, unit := w32 u, die := BitVec.ofNat 2 f.die, source := 0x3FF#10,
                status := 0#16, detail := s.reg (safReg 0xC) :: f.detail }
/-- CONSERVATION_AUDIT, so many microseconds after its freeze: the verdict on the latched values; later than 500 µs the audit
fails, and which relation it names is not stated (log entry 1). -/
def conservationAudit (s : Mach) (us : Nat) : Mach :=
  match s.audit.verdict with
  | none => s
  | some v =>
    let s := { s with audit := { s.audit with verdict := none } }
    match v with
    | some f => auditFail s f
    | none =>
      if us > 500 then
        let (x, s) := s.fresh
        auditFail s { die := bits x 1 0, rel := bits x 5 2, inst := bits x 29 6, late := true }
      else s.bump (safReg 0x14) 1
/-- CONSERVATION_AUDIT. -/
def execConservationAudit (us : Nat) (s : State) : Host.Outcome State Fault Refusal :=
  .next { s with m := conservationAudit s.m us }

/-- Whether the ledger and the free stack of a page pool agree (R418). -/
def ledgerOk (s : Mach) (p : Nat) : Bool :=
  match s.poolHeadAt p with
  | none => true
  | some h =>
    let n := bits h 63 32
    let free := bits h 31 0
    match s.objBytes (s.pool p).control 0x100 (4 * n), s.objBytes (s.pool p).control (0x100 + roundUp (4 * n) 256) (4 * free) with
    | some l, some t =>
      let led := wordsOf 4 l
      let st := wordsOf 4 t
      led.all (fun e => decide (e < 2 ^ 31)) && led.foldl (· + ·) 0 % 2 ^ 32 == bits h 239 208 &&
        (led.filter fun e => e == 0).length == free &&
        (st.all fun j => led[j]? == some 0) && decide (st.eraseDups.length = st.length)
    | _, _ => true
/-- LEDGER_SWEEP (R418): the next live page pool in ascending number, in order with its page-class commands. -/
def ledgerSweep (s : Mach) : Mach :=
  let live := (s.pools.filter fun p => p.2.live && !p.2.stash).map fun p => p.1
  let next := match s.audit.swept with
    | none => live.head?
    | some n => match live.find? fun p => decide (n < p) with
      | some p => some p
      | none => live.head?
  match next with
  | none => s
  | some p =>
    if s.poolWorks p then s
    else
      let s := { s with audit := { s.audit with swept := some p } }
      -- the round of all live pools ends at the highest number
      let s := if live.getLast? = some p then s.bump (safReg 0x2C) 1 else s
      if ledgerOk s p then s
      else s.dangerous { mech := 0x26#8, unit := w32 p, die := 0#2, source := 0x3FF#10, status := 0#16, detail := [] }
/-- LEDGER_SWEEP. -/
def execLedgerSweep (s : State) : Host.Outcome State Fault Refusal := .next { s with m := ledgerSweep s.m }

/-! ## Conditions of the guarantees (R420, R421) -/

/-- The bit of SAF_STATUS of a condition and its number in records (R422, R483). -/
def conditionBit : Condition → Nat × Nat
  | .notProduction => (26, 1)
  | .debugUnlocked => (27, 2)
  | .outsideRatings => (28, 3)
/-- A condition that holds stops holding. -/
def conditionOff (s : Mach) (c : Condition) : Mach :=
  let b := conditionBit c
  if (s.reg (safReg 0)).toNat.testBit b.1 then (s.setField (safReg 0) b.1 b.1 0).conditionLost b.2 else s
/-- A violation of the ratings is a dangerous failure too, of MECH 0x07 or 0x08, and is recorded first (R421). Which monitor reports
it, and of what, the command does not say (log entry 1). -/
def ratingFail (s : Mach) : Mach :=
  let (v, s) := s.fresh
  s.dangerous { mech := if v % 2 = 0 then 0x07#8 else 0x08#8, unit := w32 (v / 8), die := BitVec.ofNat 2 (v / 2),
                source := if v % 2 = 0 then 13#10 else 14#10, status := 0#16, detail := [] }
/-- CONDITION_LOSS: a condition that holds stops holding. -/
def conditionLoss (s : Mach) (c : Condition) : Mach :=
  if c = .outsideRatings ∧ (s.reg (safReg 0)).toNat.testBit 28 then conditionOff (ratingFail s) c else conditionOff s c
/-- CONDITION_LOSS. -/
def execConditionLoss (c : Condition) (s : State) : Host.Outcome State Fault Refusal :=
  .next { s with m := conditionLoss s.m c }

end Sys2Proof.Machine
end

