-- ==== Sys2Proof/Machine/Security.lean ====
section
/-! DEFINITION. Machine/Security.lean: images and keys, measurement and quotes, presence and the seal, the flash and the
privileged messages (18_security_and_presence.md R423 to R440; 15_host_interface.md R355, R387, R388). -/

namespace Sys2Proof.Machine

/-! ## Bits of SEC_STATUS (18 R441) -/

/-- A bit of SEC_STATUS. -/
def Mach.sec (s : Mach) (i : Nat) : Bool := (s.reg (secReg 0)).toNat.testBit i
/-- Writes a bit of SEC_STATUS. -/
def Mach.setSec (s : Mach) (i : Nat) (v : Bool) : Mach := s.setField (secReg 0) i i (b2n v)
/-- Whether the seal loop is intact (R433). -/
def Mach.sealed (s : Mach) : Bool := s.sec 29
/-- Whether a privileged message is accepted now (15 R387): a presence window is open and the seal loop intact. -/
def Mach.privileged (s : Mach) : Bool := s.sec 28 && s.sealed
/-- Whether JTAG is open (R439). -/
def Mach.jtagOpen (s : Mach) : Bool := s.sec 26

/-! ## Images (R426, R427) -/

/-- The header of an image. -/
def imageHead (l : List Byte) : Nat := ofBytes (l.take 256)
/-- LENGTH of an image. -/
def imageLen (l : List Byte) : Nat := bits (imageHead l) 95 64
/-- SVN of an image. -/
def imageSvn (l : List Byte) : Nat := bits (imageHead l) 55 48
/-- The image digest: the SHA-256 of the LENGTH bytes as stored. -/
def imageDigest (l : List Byte) : List Byte := sha256 (l.take (imageLen l))
/-- The checks of R426 in order, under a key hash and a fused version: 1 verified, 2 to 5 the first that fails. -/
def verifyImage (l : List Byte) (key : Option (BitVec 256)) (svn : Nat) : Nat :=
  let h := imageHead l
  let n := imageLen l
  let pub := (l.drop 16).take 64
  if l.length < 256 ∨ bits h 31 0 ≠ 0x57464354 ∨ bits h 39 32 ≠ 1 ∨ !zeroFields h [(2047, 1152), (63, 56), (47, 42)] ∨
      n < 4096 ∨ n > 16777216 ∨ l.length < n ∨ imageSvn l > 63 then 2
  else if key.map (fun k => k.toNat) ≠ some (ofBytes (sha256 pub)) then 3
  else if !ecdsaVerify pub ((l.drop 80).take 64) (sha256 ((l.take 80 ++ List.replicate 64 0#8 ++ l.drop 144).take n)) then 4
  else if imageSvn l < svn then 5
  else 1
/-- The fuses of die d. -/
def State.fusesOf (s : State) (d : Nat) : Fuses := tabGet (fun _ => {}) s.fuses d
/-- Replaces the fuses of die d. -/
def State.setFuses (s : State) (d : Nat) (f : Fuses) : State := { s with fuses := tabSet (fun _ => {}) s.fuses d f }
/-- Key slot k of die d (R427). -/
def State.keySlot (s : State) (d k : Nat) : Option (BitVec 256) := tabGet (fun _ => none) (s.fusesOf d).keys k
/-- The active key of die d (R427): the lowest slot that holds a hash and is not revoked; 16 where there is none. -/
def State.activeKey (s : State) (d : Nat) : Nat :=
  ((List.range 16).find? fun k => (s.keySlot d k).isSome && !(s.fusesOf d).revoked.getLsbD k).getD 16
/-- The hash of die d's active key. -/
def State.keyHash (s : State) (d : Nat) : Option (BitVec 256) :=
  let k := s.activeKey d
  if k < 16 then s.keySlot d k else none
/-- Firmware copy A or B. -/
def Flash.copy (f : Flash) (b : Bool) : List Byte := if b then f.copyB else f.copyA
/-- Replaces a firmware copy. -/
def Flash.setCopy (f : Flash) (b : Bool) (l : List Byte) : Flash := if b then { f with copyB := l } else { f with copyA := l }
/-- The preferred copy (R423): the valid record with the higher sequence number, copy A where neither is valid. -/
def Flash.preferred (f : Flash) : Bool :=
  match f.prefs with
  | [some (n, a), some (m, b)] => if m > n then b else a
  | some (_, a) :: _ => a
  | [none, some (_, b)] => b
  | _ => false
/-- Writes a preference record beside the one in force, with the next 32-bit sequence number. -/
def Flash.prefer (f : Flash) (b : Bool) : Flash :=
  { f with prefs := match f.prefs with
      | [some (n, x), some (m, y)] =>
        if m > n then [some ((m + 1) % 2 ^ 32, b), some (m, y)] else [some (n, x), some ((n + 1) % 2 ^ 32, b)]
      | some (n, x) :: _ => [some (n, x), some ((n + 1) % 2 ^ 32, b)]
      | [none, some (m, y)] => [some ((m + 1) % 2 ^ 32, b), some (m, y)]
      | _ => [some (1, b), none] }
/-- The copy that runs. -/
def State.running (s : State) : Bool := s.m.sec 24

/-! ## Measurement and quotes (R429 to R431) -/

/-- An extension of die d's measurement register, logged while the log has room (R429). -/
def Mach.extend (s : Mach) (d kind : Nat) (x : List Byte) : Mach :=
  let old := (tabGet (fun _ => 0#256) s.meas d).toNat
  let log := tabGet (fun _ => []) s.attLog d
  let e : LogEntry := { die := d, kind := kind, digest := ofBytes x }
  { s with meas := tabSet (fun _ => 0#256) s.meas d (BitVec.ofNat 256 (ofBytes (sha256 (toBytes 32 old ++ x)))),
           attLog := if log.length < 64 then tabSet (fun _ => []) s.attLog d (log ++ [e]) else s.attLog }
/-- The measurement of an accepted privileged request, on the control flask's die (R429; DEDUCED, log entry 15). -/
def Mach.measureReq (s : Mach) (r : Req) : Mach := s.extend 0 0x11 (sha256 (toBytes r.length.toNat r.body))
/-- A scalar derived from a hash (R430). -/
def keyScalar (l : List Byte) : Nat := ofBytesBE (sha256 l) % (p256N - 1) + 1
/-- The identity scalar of die d. -/
def idScalar (d : Nat) : Nat := keyScalar (toBytes 32 (Config.deviceSecret (BitVec.ofNat 2 d)).toNat ++ [0x49#8])
/-- The attestation scalar of die d under the running image and the active key slot that the die had at start-up. -/
def Mach.akScalar (s : Mach) (d : Nat) : Nat :=
  keyScalar (toBytes 32 (Config.deviceSecret (BitVec.ofNat 2 d)).toNat ++ toBytes 32 s.boot.digest ++ toBytes 1 (nth s.boot.akIndex d))
/-- A nonce of a signature: not stated. -/
def freshNonce (s : Mach) : Nat × Mach :=
  let r := (List.range 4).foldl (fun (r : Nat × Mach) _ => let (v, s) := r.2.fresh; (r.1 * 2 ^ 64 + v, s)) (0, s)
  (r.1 % (p256N - 1) + 1, r.2)
/-- The attestation certificate of die d, signed by its ROM (R430). -/
def attCert (s : Mach) (d : Nat) : Nat × Mach :=
  let (k, s) := freshNonce s
  (ofBytes (ecdsaSign (idScalar d) k (sha256 (ecdsaPublic (s.akScalar d) ++ toBytes 32 s.boot.digest))), s)
/-- Bits [3071:0] of a quote (R431), where die 0 has this fused version and active key slot. -/
def quoteBody (s : Mach) (fusedSvn key nonce : Nat) : Nat :=
  let saf := (s.reg (safReg 0)).toNat
  let meas := sumTo 4 fun d => (tabGet (fun _ => 0#256) s.meas d).toNat <<< (256 * d)
  0x544F5551 + 1 <<< 32 + bits saf 27 27 <<< 41 + b2n s.boot.prod <<< 42 + bits saf 29 29 <<< 43 + b2n (s.sec 24) <<< 44 +
    bits saf 30 30 <<< 45 + s.boot.svn <<< 48 + fusedSvn <<< 56 + (s.uptime % 2 ^ 32) <<< 64 + (key % 16) <<< 96 +
    nonce <<< 128 + meas <<< 384 + ofBytes (ecdsaPublic (s.akScalar 0)) <<< 1408 + nth s.boot.certs 0 <<< 1920 +
    ofBytes (ecdsaPublic (idScalar 0)) <<< 2432
/-- ATTEST (R431, R435). -/
def msgAttest (s : State) (b : Nat) : State × Nat × Nat :=
  if !s.m.sec 27 then (s, stRefused, 0)
  else
    let q := quoteBody s.m (s.fusesOf 0).svn (s.activeKey 0) (b % 2 ^ 256)
    let (k, m) := freshNonce s.m
    ({ s with m := m }, stOk, q + ofBytes (ecdsaSign (s.m.akScalar 0) k (sha256 (toBytes 384 q))) <<< 3072)

/-! ## Presence and the seal (R432 to R434) -/

/-- PRESENCE_ASSERT: a debounced assertion of PRESENCE_N. -/
def presenceAssert (s : Mach) : Mach :=
  let s := ({ s with presLow := true } : Mach).setSec 28 true
  (s.setReg (secReg 0x20) (w32 s.uptime)).raise 0 128
/-- PRESENCE_ASSERT. -/
def execPresenceAssert (s : State) : Host.Outcome State Fault Refusal := .next { s with m := presenceAssert s.m }
/-- PRESENCE_RELEASE: the debounced assertion ends and the window begins to run. -/
def execPresenceRelease (s : State) : Host.Outcome State Fault Refusal :=
  .next { s with m := { s.m with presLow := false } }
/-- PRESENCE_WINDOW_EXPIRY: the window closes, unless PRESENCE_N is asserted again. -/
def execPresenceWindowExpiry (s : State) : Host.Outcome State Fault Refusal :=
  .next { s with m := if s.m.presLow then s.m else s.m.setSec 28 false }
/-- A seal break (R434): the attestation scalars are zeroised, TAMPER is latched, source 129 raised. -/
def breakSeal (s : Mach) : Mach := (((s.setSec 31 true).setSec 29 false).setSec 27 false).raise 0 129
/-- SEAL_PATTERN (R433): two disagreements in a row break the seal. -/
def sealPattern (s : Mach) (agree : Bool) : Mach :=
  if agree then ({ s with sealBad := 0 } : Mach).setSec 29 (!s.sec 31)
  else
    let s := ({ s with sealBad := s.sealBad + 1 } : Mach).setSec 29 false
    if s.sealBad ≥ 2 && !s.sec 31 then breakSeal s else s
/-- SEAL_PATTERN. -/
def execSealPattern (sent received : BitVec 16) (s : State) : Host.Outcome State Fault Refusal :=
  .next { s with m := sealPattern s.m (sent == received) }

/-! ## The configuration in flash (15 R355, R388) -/

/-- Whether the fields of a NET_CONFIG body are in range. -/
def confOk (b : Nat) : Bool :=
  1000 ≤ bits b 455 432 && bits b 455 432 ≤ 10000000 && bits b 30 28 ≤ 6 && bits b 103 96 ≤ 32 && bits b 143 136 ≤ 128
/-- The MAC address of the factory region, or the one R355 derives from die 0's identity key. -/
def factoryMacValue : Nat :=
  match Config.factoryMac with
  | some m => m.toNat
  | none => 2 + ofBytes ((sha256 (ecdsaPublic (idScalar 0))).take 5) <<< 8
/-- The factory configuration as a NET_CONFIG body. -/
def factoryConf : Nat := 47329 <<< 32 + factoryMacValue <<< 48 + 100000 <<< 432
/-- Whether a copy is valid. -/
def ConfCopy.valid (c : ConfCopy) : Bool := c.crcOk && confOk c.body
/-- The copy in force, with its place. -/
def Flash.confInForce (f : Flash) : Option (Nat × ConfCopy) :=
  ([0, 1].filterMap fun i => match tabGet (fun _ => none) f.confs i with
    | some c => if c.valid then some (i, c) else none
    | none => none).foldl (fun (a : Option (Nat × ConfCopy)) x => match a with
      | none => some x
      | some y => if x.2.seq > y.2.seq then some x else some y) none
/-- Writes a configuration to the copy not in use, with the next sequence number; a write that does not read back leaves a
copy that is not valid. -/
def Flash.writeConf (f : Flash) (b : Nat) (readBack : Bool) : Flash :=
  let (i, n) := match f.confInForce with
    | some (j, c) => (1 - j, c.seq + 1)
    | none => (0, 1)
  { f with confs := tabSet (fun _ => none) f.confs i (some { body := b, seq := n % 2 ^ 32, crcOk := readBack }) }
/-- The bytes of the configuration region: each copy at the start of its half, the rest erased (PRESUMED, log entry 16). -/
def Flash.confRegion (f : Flash) : List Byte :=
  [0, 1].flatMap fun i =>
    let l := match tabGet (fun _ => none) f.confs i with
      | some c => let l := toBytes 58 c.body ++ toBytes 4 c.seq; l ++ toBytes 4 (if c.crcOk then crc32c l else crc32c l ^^^ 1)
      | none => []
    l ++ List.replicate (32768 - l.length) 0xFF#8

/-! ## Privileged messages (R436 to R440) -/

/-- What a privileged message answers: the state, status and body. -/
abbrev SecReply := State × Nat × Nat
/-- A state with its seal broken during a message, which is answered with ST_PRESENCE (R434). -/
def sealStops (s : State) : SecReply := ({ s with m := breakSeal s.m }, stPresence, 0)
/-- FW_UPDATE (R436). -/
def msgFwUpdate (s : State) (k : Nat) (r : Req) : SecReply :=
  let b := r.body
  let n := bits b 127 96
  if !s.m.mayName k (bits b 11 0) then (s, stPerm, 0)
  else if n > 16777216 then (s, stRefused, 0)
  else match s.m.readVa (bits b 11 0) (bits b 95 48) n with
    | .err (.fatal st) m => ({ s with m := m }, st, 0)
    | .err _ m => ({ s with m := m }, stBusy, 0)
    | .ok img m =>
      let s := { s with m := m }
      let v := verifyImage img (s.keyHash 0) (s.fusesOf 0).svn
      if v = 3 ∨ v = 4 then (s, stSig, 0)
      else if v ≠ 1 then (s, stVersion, 0)
      else
        let copy := !s.running
        match r.env.sealBreak with
        | some 0 => sealStops s
        | some (_ + 1) =>
          -- a copy that was not verified again never boots
          let s := { s with flash := s.flash.setCopy copy [] }
          sealStops s
        | none =>
          if !r.env.flashReadBack then
            let (x, m) := freshNonce s.m
            ({ s with m := m, flash := s.flash.setCopy copy (toBytes 256 x ++ img.drop 256) }, stRefused, 0)
          else
            let f := (s.flash.setCopy copy (img.take (imageLen img))).prefer copy
            ({ s with flash := f, m := s.m.measureReq r }, stOk, 0)
/-- SEC_STATUS.KEY_INDEX shows die 0's active key slot (R441). -/
def State.showKey (s : State) : State := { s with m := s.m.setField (secReg 0) 23 20 (s.activeKey 0) }
/-- The revoke fuses of the slots below k are blown on die d. -/
def State.revokeBelow (s : State) (k d : Nat) : State :=
  s.setFuses d { s.fusesOf d with revoked := (s.fusesOf d).revoked ||| BitVec.ofNat 16 (2 ^ k - 1) }
/-- KEY_ROTATE (R437): die after die in ascending order; a seal break stops it before the next die (R434). -/
def msgKeyRotate (s : State) (r : Req) : SecReply :=
  let k := bits r.body 3 0
  let bad := (List.range 4).any fun d => (s.keySlot d k).isNone || (s.fusesOf d).revoked.getLsbD k
  let other := s.flash.copy !s.running
  if bad then (s, stRefused, 0)
  else if (List.range 4).any fun d => verifyImage other (s.keySlot d k) (s.fusesOf d).svn != 1 then (s, stSig, 0)
  else
    let blow := fun (n : Nat) => ((List.range n).foldl (fun (s : State) d => s.revokeBelow k d) s).showKey
    match r.env.sealBreak with
    | some n => sealStops (blow (min n 4))
    | none =>
      let s := blow 4
      ({ s with m := s.m.measureReq r }, stOk, 0)
/-- DEBUG_UNLOCK accepted with UNLOCK 1 (R438, 17 R421). -/
def debugUnlock (s : Mach) : Mach :=
  let s := (s.setSec 27 false).setSec 26 true
  if (s.reg (safReg 0)).toNat.testBit 27 then (s.setField (safReg 0) 27 27 0).conditionLost 2 else s
/-- DEBUG_UNLOCK (R438). Its one irreversible step is the unlocking, before which or after which a seal break stops it (R434); UNLOCK
0 has none, so it ends as it does without one. -/
def msgDebugUnlock (s : Mach) (b : Nat) (sealBreak : Option Nat) : Reply :=
  if !bit b 0 then
    -- JTAG is closed, and halts no pair any more
    let free := tabMap (fun _ => {}) (fun _ (x : PairSt) => { x with jtagHalt := false }) s.pairs
    let s := ({ s with pairs := free, extest := false } : Mach).setSec 26 false
    accept (if sealBreak.isSome then breakSeal s else s) 0
  else if s.boot.noDebug then refuse s stRefused
  else match sealBreak with
    | none => accept (debugUnlock s) 0
    | some 0 => refuse (breakSeal s) stPresence
    | some (_ + 1) => refuse (breakSeal (debugUnlock s)) stPresence
/-- FACTORY_RESET (R440; 15 R387): the factory configuration, and a module reset 100 ms later. A seal break stops it before the
write of the configuration or before the reset (R434). -/
def msgFactoryReset (s : State) (r : Req) : SecReply :=
  if r.body ≠ 0x46525354 then (s, stRefused, 0)
  else
    let t := { s with flash := s.flash.writeConf factoryConf r.env.flashReadBack }
    match r.env.sealBreak with
    | some 0 => sealStops s
    | some (_ + 1) => sealStops t
    | none => ({ t with m := { t.m.measureReq r with resetDue := true } }, stOk, 0)
/-- NET_CONFIG (15 R355, R388). A seal break stops it before the write, or after it (R434). -/
def msgNetConfig (s : State) (r : Req) : SecReply :=
  if !confOk r.body then (s, stRefused, 0)
  else
    let t := { s with flash := s.flash.writeConf r.body r.env.flashReadBack }
    match r.env.sealBreak with
    | some 0 => sealStops s
    | some (_ + 1) => sealStops t
    | none => if r.env.flashReadBack then ({ t with m := t.m.measureReq r }, stOk, 0) else (t, stRefused, 0)

/-! ## Fused security version (R428) -/

/-- Whether a copy verifies on every die. -/
def State.verifies (s : State) (b : Bool) : Bool :=
  (List.range 4).all fun d => verifyImage (s.flash.copy b) (s.keyHash d) (s.fusesOf d).svn == 1
/-- SVN_ADVANCE: after READY, the fused version rises to the smaller SVN of two copies that verify. -/
def svnAdvance (s : State) : State :=
  let v := min (imageSvn s.flash.copyA) (imageSvn s.flash.copyB)
  if s.m.isReady && s.verifies false && s.verifies true then
    let s := (List.range 4).foldl (fun (s : State) d =>
      s.setFuses d { s.fusesOf d with svn := max (s.fusesOf d).svn (min v 63) }) s
    { s with m := s.m.setField (secReg 0) 19 14 (s.fusesOf 0).svn }
  else s
/-- SVN_ADVANCE. -/
def execSvnAdvance (s : State) : Host.Outcome State Fault Refusal := .next (svnAdvance s)

end Sys2Proof.Machine
end

