-- ==== Sys2Proof/Machine/Clocks.lean ====
section
/-! DEFINITION. Machine/Clocks.lean: sources and switches of the islands, gating, rails, temperatures, the power cap, reset
(19_clocks_power_startup.md R442 to R458, R462). -/

namespace Sys2Proof.Machine

/-! ## Sources (R444 to R449) -/

/-- Address of the PLL register of an island: A or B. -/
def pllReg (g : Nat) (b : Bool) : Nat := clkReg g (if b then 0xC else 8)
/-- Whether a PLL is the running source of an island. -/
def Mach.runningPll (s : Mach) (g : Nat) (b : Bool) : Bool := bits (s.reg (clkReg g 0)).toNat 31 30 == if b then 2 else 1
/-- The root a PLL register's dividers give, in kHz, to the nearest (R444). -/
def pllKhz (w : Nat) : Nat :=
  let d := (bits w 27 23 + 1) * (bits w 31 28 + 1)
  (2 * 156250 * bits w 22 12 + d) / (2 * d)
/-- Whether a PLL register's dividers are in range, with a VCO of 3,200 to 6,400 MHz and a root of at most 2,000 MHz (R444; 01
R23). -/
def pllOk (w : Nat) : Bool :=
  let fb := bits w 22 12
  let ref := bits w 27 23 + 1
  let post := bits w 31 28 + 1
  decide (16 ≤ fb) && decide (fb ≤ 1024) && decide (320000 * ref ≤ 15625 * fb) && decide (15625 * fb ≤ 640000 * ref) &&
    decide (15625 * fb ≤ 200000 * ref * post)
/-- The word of a PLL register of given dividers. -/
def pllWord (refdiv fbdiv postdiv : Nat) (locked : Bool) : Word :=
  w32 ((postdiv - 1) <<< 28 + (refdiv - 1) <<< 23 + fbdiv <<< 12 + b2n locked)
/-- The ready flag of a source (R445). -/
def Mach.sourceReady (s : Mach) (g : Nat) (x : ClockSource) : Bool :=
  match x with
  | .bypass => s.refclk
  | .pllA => (s.reg (clkReg g 0)).toNat.testBit 29
  | .pllB => (s.reg (clkReg g 0)).toNat.testBit 28
/-- PLL_LOCK (R445): a programmed PLL is found locked for 1,024 cycles of REFCLK; so REFCLK has edges again where it was lost
(DEDUCED, log entry 78). A PLL whose dividers leave the ranges of R444 does not lock (DEDUCED, log entry 18). -/
def pllLock (s : Mach) (g : Nat) (b : Bool) : Mach :=
  if !islandClocked g || !pllOk (s.reg (pllReg g b)).toNat then s
  else (({ s with refclk := true } : Mach).setField (pllReg g b) 0 0 1).setField (clkReg g 0) (if b then 28 else 29) (if b then 28 else 29) 1
/-- PLL_LOCK. -/
def execPllLock (i : IslandNo) (pllB : Bool) (s : State) : Host.Outcome State Fault Refusal :=
  .next { s with m := pllLock s.m i.val pllB }
/-- The root that a source gives an island, in kHz. -/
def Mach.sourceKhz (s : Mach) (g : Nat) (x : ClockSource) : Nat :=
  match x with
  | .bypass => 156250
  | .pllA => pllKhz (s.reg (pllReg g false)).toNat
  | .pllB => pllKhz (s.reg (pllReg g true)).toNat
/-- A switch of an island's source (R446): refused and counted where the source is not ready; the new frequency is announced first. -/
def switchTo (s : Mach) (g : Nat) (x : ClockSource) : Mach :=
  if !islandClocked g then s
  else if !s.sourceReady g x then s.bump (clkReg g 0x18) 1
  else
    let khz := s.sourceKhz g x
    let sel := match x with
      | .bypass => 0
      | .pllA => 1
      | .pllB => 2
    let s := s.setIsland g { s.island g with announced := some khz }
    (s.setField (clkReg g 0) 31 30 sel).setReg (clkReg g 4) (w32 khz)
/-- Steps of 100 MHz by which throttling and the power cap hold a cluster island's root down: the more of the two (R454). -/
def Mach.stepsDown (s : Mach) (g : Nat) : Nat := max (s.island g).throttle s.cap.steps
/-- CLOCK_SWITCH: a switch that firmware makes itself; the steps of throttling and of the power cap are counted from the root that it
sets, those in force included. -/
def clockSwitch (s : Mach) (g : Nat) (x : ClockSource) : Mach :=
  let t := switchTo s g x
  if islandClocked g && s.sourceReady g x then t.setIsland g { t.island g with base := s.sourceKhz g x + 100000 * s.stepsDown g } else t
/-- CLOCK_SWITCH. -/
def execClockSwitch (i : IslandNo) (src : ClockSource) (s : State) : Host.Outcome State Fault Refusal :=
  .next { s with m := clockSwitch s.m i.val src }
/-- A PLL loses lock: its ready flag clears in the same reference cycle (R445). -/
def dropLock (s : Mach) (g : Nat) (b : Bool) : Mach :=
  (s.setField (pllReg g b) 0 0 0).setField (clkReg g 0) (if b then 28 else 29) (if b then 28 else 29) 0
/-- PLL_LOCK_LOSS of the running PLL (R447); an island on the bypass runs none. -/
def pllLockLoss (s : Mach) (g : Nat) : Mach :=
  if !islandClocked g then s
  else if s.runningPll g false then clockFail (dropLock s g false) (g / 20) g []
  else if s.runningPll g true then clockFail (dropLock s g true) (g / 20) g []
  else s
/-- PLL_LOCK_LOSS. -/
def execPllLockLoss (i : IslandNo) (s : State) : Host.Outcome State Fault Refusal := .next { s with m := pllLockLoss s.m i.val }
/-- STANDBY_PLL_LOCK_LOSS (R445). -/
def standbyLoss (s : Mach) (g : Nat) (b : Bool) : Mach :=
  if !islandClocked g || s.runningPll g b then s else dropLock s g b
/-- STANDBY_PLL_LOCK_LOSS. -/
def execStandbyPllLockLoss (i : IslandNo) (pllB : Bool) (s : State) : Host.Outcome State Fault Refusal :=
  .next { s with m := standbyLoss s.m i.val pllB }
/-- REFCLK_LOSS (R447): every flask's detector reports it, of its own island; the bypass is ready no more. -/
def refclkLoss (s : Mach) : Mach :=
  if !s.refclk then s
  else each (fun d s => clockFail s d (20 * d + 17) []) (List.range 4) { s with refclk := false }
/-- REFCLK_LOSS. -/
def execRefclkLoss (s : State) : Host.Outcome State Fault Refusal := .next { s with m := refclkLoss s.m }
/-- Firmware programs a PLL (R446): refused and counted while it runs; otherwise it has the new dividers and is not locked. -/
def programPll (s : Mach) (g : Nat) (b : Bool) (w : Word) : Mach :=
  if s.runningPll g b then s.bump (clkReg g 0x18) 1
  else dropLock (s.setReg (pllReg g b) (w32 (w.toNat / 4096 * 4096))) g b
/-- A root, in kHz, is set by the PLL that is not running, with REFDIV 25 (R444, R446): every whole 100 MHz is reached, any other root
to the step of FBDIV below it. -/
def setRoot (s : Mach) (g khz : Nat) : Mach :=
  let b := s.runningPll g false
  let post := if khz ≥ 1600000 then 2 else 4
  let s := programPll s g b (pllWord 25 (khz * post / 6250) post false)
  switchTo (pllLock s g b) g (if b then .pllB else .pllA)
/-- The root in kHz that throttling and the power cap leave a cluster island: the lower of the two (R454). -/
def Mach.rootKhz (s : Mach) (g : Nat) : Nat := (s.island g).base - 100000 * s.stepsDown g
/-- A cluster island that runs from a PLL is brought to that root, where it has another and REFCLK is present; not below 1,000 MHz
(R453). -/
def Mach.followRoot (s : Mach) (g : Nat) : Mach :=
  if !s.refclk || !(s.runningPll g false || s.runningPll g true) || s.rootKhz g < 1000000 || (s.reg (clkReg g 4)).toNat = s.rootKhz g then s
  else setRoot s g (s.rootKhz g)

/-! ## Gating (R450) -/

/-- Blocks of an island that have a clock-enable bit. -/
def gatedBlocks (g : Nat) : Nat :=
  let i := g % 20
  if i < 8 then 16 else if i = 17 then (if g = 17 then 3 else 2) else if i = 18 ∨ i = 19 then 1 else 0
/-- GATED_BLOCK_ACCESS: a read of a gated block returns zero and a write is dropped; either is counted. -/
def gatedAccess (s : Mach) (g block : Nat) : Mach :=
  if block < gatedBlocks g && !(s.gateBits g).testBit block then s.bump (clkReg g 0x14) 1 else s
/-- GATED_BLOCK_ACCESS. -/
def execGatedBlockAccess (i : IslandNo) (block : BitVec 5) (_write : Bool) (s : State) : Host.Outcome State Fault Refusal :=
  .next { s with m := gatedAccess s.m i.val block.toNat }

/-! ## Reset (R457, R458) and power (R451, R452) -/

/-- The module when every island is in reset: all volatile state is lost. What lies outside the islands stays: what was
sent, the levels of pins, the supervisor's rails. -/
def resetMach (s : Mach) (life : Life) : Mach :=
  let r : Mach := { free := s.free, out := s.out, life := life, railsBad := s.railsBad, trstLow := s.trstLow, refclk := s.refclk }
  if s.railsBad.isEmpty then r else r.setField (devReg 0x80) 31 31 0
/-- A reset of the module (R457). -/
def moduleReset (s : Mach) : Mach := if s.life = .off then s else resetMach s .held
/-- RESET_N_FALL of a duration in nanoseconds: 1 µs or more resets, less than 0.5 µs never does, between the two either may
happen (log entry 1). -/
def resetNFall (s : Mach) (ns : Nat) : Mach :=
  if ns ≥ 1000 then moduleReset s
  else if ns < 500 then s
  else
    let (v, s) := s.fresh
    if v % 2 = 1 then moduleReset s else s
/-- RESET_N_FALL. -/
def execResetNFall (ns : Nat) (s : State) : Host.Outcome State Fault Refusal := .next { s with m := resetNFall s.m ns }
/-- DELAYED_MODULE_RESET (15 R387). -/
def delayedReset (s : Mach) : Mach := if s.resetDue then moduleReset s else s
/-- DELAYED_MODULE_RESET. -/
def execDelayedModuleReset (s : State) : Host.Outcome State Fault Refusal := .next { s with m := delayedReset s.m }
/-- INTERNAL_RESET_RELEASE (R458): RESET_N is high, PWR_GOOD released, and REFCLK has been present for 1 ms. -/
def releaseReset (s : Mach) : Mach :=
  if s.life = .held && (s.reg (devReg 0x80)).toNat.testBit 31 then
    { s with life := .starting, refclk := true, uptime := 0, upNs := 0 }
  else s
/-- INTERNAL_RESET_RELEASE. -/
def execInternalResetRelease (s : State) : Host.Outcome State Fault Refusal := .next { s with m := releaseReset s.m }
/-- Window of a rail in mV (R451). -/
def railWindow (r : Nat) : Nat × Nat :=
  if r = 0 then (48000, 60000) else if r = 1 then (3200, 3400) else if r < 6 then (776, 824) else if r < 10 then (725, 790)
  else if r < 14 then (825, 880) else if r < 18 then (825, 875) else if r = 18 then (728, 773) else if r = 19 then (1164, 1236)
  else if r < 24 then (1746, 1854) else if r < 28 then (1067, 1133) else if r < 32 then (388, 412) else if r < 36 then (1746, 1854)
  else if r < 40 then (1018, 1082) else (485, 515)
/-- The die a rail supplies; die 0 where it supplies the module. -/
def railDie (r : Nat) : Nat := if 2 ≤ r ∧ r < 18 then (r - 2) % 4 else if r ≥ 20 then (r - 20) % 4 else 0
/-- Operation is no longer within the recommended ratings (17 R420, R421). -/
def Mach.ratingLost (s : Mach) : Mach := conditionOff s .outsideRatings
/-- A monitor that was outside is back: with none outside any more, IN_RATINGS is 1 again (17 R421, R422). -/
def Mach.ratingBack (s : Mach) : Mach :=
  if s.railsBad.isEmpty && s.beyond.isEmpty then s.setField (safReg 0) 28 28 1 else s
/-- VIN_SHUTDOWN (R452): PWR_GOOD low, every island reset, every rail down, all state lost. -/
def vinShutdown (s : Mach) : Mach := (resetMach { s with railsBad := [] } .off).setField (devReg 0x80) 31 31 0
/-- VIN_SHUTDOWN. -/
def execVinShutdown (s : State) : Host.Outcome State Fault Refusal := .next { s with m := vinShutdown s.m }
/-- RAIL_OUT_OF_WINDOW (R451, R452): a rail's voltage as the monitor finds it for 10 µs. VIN below 46 V or above 62 V takes every rail
down. -/
def railReading (s : Mach) (r mv : Nat) : Mach :=
  if s.life = .off then s
  else if r = 0 ∧ (mv < 46000 ∨ mv > 62000) then vinShutdown s
  else
    let w := railWindow r
    let ok := decide (w.1 ≤ mv) && decide (mv ≤ w.2)
    let s := s.setReg (devReg (0xC0 + 4 * r)) (w32 (b2n ok <<< 31 + mv))
    if ok then
      let bad := s.railsBad.filter fun x => x != r
      let s := if s.railsBad.contains r && s.life != .held then ({ s with railsBad := bad } : Mach).ratingBack
        else { s with railsBad := bad }
      -- with RESET_N fallen and every rail inside its window PWR_GOOD is released again
      if s.life = .held && bad.isEmpty then s.setField (devReg 0x80) 31 31 1 else s
    else if s.railsBad.contains r then s
    else
      let s := ({ s with railsBad := s.railsBad ++ [r] } : Mach).setField (devReg 0x80) 31 31 0
      let s := if bits (s.reg (devReg 0x80)).toNat 7 0 = 255 then s.setField (devReg 0x80) 7 0 r else s
      let s := (s.setField (devReg 0x80) 28 28 1).raise (railDie r) 13
      (s.dangerous { mech := 0x07#8, unit := w32 r, die := BitVec.ofNat 2 (railDie r), source := 13#10, status := 0#16,
                     detail := [s.reg (devReg (0xC0 + 4 * r))] }).ratingLost
/-- RAIL_OUT_OF_WINDOW. -/
def execRailOutOfWindow (r : RailNo) (mv : BitVec 20) (s : State) : Host.Outcome State Fault Refusal :=
  .next { s with m := railReading s.m r.val mv.toNat }

/-! ## Temperatures (R453) -/

/-- The die a sensor belongs to. -/
def sensorDie : Sensor → Nat
  | .island i => i.val / 20
  | .stack g => g.toNat / 8
  | .package p => p.toNat / 4
  | .regulator r => railDie r.val
/-- The hottest stack or package of a die is at or above a temperature, in 1/16 °C. -/
def Mach.dieHot (s : Mach) (d : Nat) (t : Int) : Bool :=
  ((List.range 8).any fun i => decide (t ≤ s.reading (2 ^ 28 + (8 * d + i)))) ||
    ((List.range 4).any fun i => decide (t ≤ s.reading (2 * 2 ^ 28 + (4 * d + i))))
/-- THERMAL_THROTTLE: 10 ms after the last step, a cluster island at or above its threshold is lowered by 100 MHz, down to
1,000 MHz. -/
def thermalThrottle (s : Mach) (i : IslandNo) (t : BitVec 16) : Mach :=
  let g := i.val
  let s := s.sense (.island i) t
  let x := s.island g
  if !isClusterIsland g || !(decide (s.reading g ≥ 16 * 95) || s.dieHot (g / 20) (16 * 85)) || x.base < 100000 * (x.throttle + 11) then s
  else ((s.setIsland g { x with throttle := x.throttle + 1 }).bump (clkReg g 0x1C) 1).followRoot g
/-- THERMAL_THROTTLE. -/
def execThermalThrottle (i : IslandNo) (sixteenths : BitVec 16) (s : State) : Host.Outcome State Fault Refusal :=
  .next { s with m := thermalThrottle s.m i sixteenths }
/-- THROTTLE_RESTORE: once the sensors are 5 °C or more below their thresholds, 100 ms after the last step. -/
def throttleRestore (s : Mach) (g : Nat) : Mach :=
  let x := s.island g
  if !isClusterIsland g || x.throttle = 0 || decide (s.reading g > 16 * 90) || s.dieHot (g / 20) (16 * 80 + 1) then s
  else (s.setIsland g { x with throttle := x.throttle - 1 }).followRoot g
/-- THROTTLE_RESTORE. -/
def execThrottleRestore (i : IslandNo) (s : State) : Host.Outcome State Fault Refusal := .next { s with m := throttleRestore s.m i.val }
/-- TEMPERATURE_LIMIT (R453, 17 R421): a sensor beyond its rating limit. -/
def temperatureLimit (s : Mach) (x : Sensor) (t : BitVec 16) : Mach :=
  let s := s.sense x t
  let k := sensorUnit x
  if decide (t.toInt > (sensorLimits k).2.2) then
    let s := if s.beyond.contains k then s else { s with beyond := s.beyond ++ [k] }
    ((s.raise (sensorDie x) 14).dangerous { mech := 0x08#8, unit := w32 (sensorUnit x), die := BitVec.ofNat 2 (sensorDie x),
                                            source := 14#10, status := 0#16, detail := [t.setWidth 32] }).ratingLost
  else if s.beyond.contains k then ({ s with beyond := s.beyond.filter fun y => y != k } : Mach).ratingBack
  else s
/-- TEMPERATURE_LIMIT. -/
def execTemperatureLimit (x : Sensor) (sixteenths : BitVec 16) (s : State) : Host.Outcome State Fault Refusal :=
  .next { s with m := temperatureLimit s.m x sixteenths }
/-- THERM_ALERT_N: a sensor is read. -/
def execThermAlertN (x : Sensor) (sixteenths : BitVec 16) (s : State) : Host.Outcome State Fault Refusal :=
  .next { s with m := s.m.sense x sixteenths }

/-! ## The power cap (R454) -/

/-- The mean of a list of samples, in whole watts. -/
def mean (l : List Nat) : Nat := if l.isEmpty then 0 else l.sum / l.length
/-- Cluster islands in ascending number. -/
def clusterIslands : List Nat := (List.range 32).map fun k => 20 * (k / 8) + k % 8
/-- The end of a 1 ms period of these samples: a step down from the second period in a row with a mean above 1,500 W on, a step up
after 100 ms at or below 1,400 W. -/
def capPeriod (s : Mach) (l : List Nat) : Mach :=
  let c := s.cap
  let overNow := if l.sum > 1500 * l.length then c.overs + 1 else 0
  let under := if l.sum ≤ 1400 * l.length then c.under + 1 else 0
  if overNow ≥ 2 && c.steps < 10 then
    let s := { s with cap := { c with overs := overNow, under := under, steps := c.steps + 1 } }
    each (fun g s => s.followRoot g) clusterIslands (s.bump (devReg 0x88) 1)
  else if under ≥ 100 && c.steps > 0 then
    let s := { s with cap := { c with overs := overNow, under := 0, steps := c.steps - 1 } }
    each (fun g s => s.followRoot g) clusterIslands s
  else { s with cap := { c with overs := overNow, under := min under 100 } }
/-- POWER_CAP_SAMPLE: one reading of the input power, every 100 µs. -/
def powerSample (s : Mach) (watts : Nat) : Mach :=
  let l := (watts :: s.cap.watts).take 1000
  let ms := mean (l.take 10)
  let phase := (s.cap.phase + 1) % 10
  let s := { s with cap := { s.cap with watts := l, phase := phase } }
  let s := s.setReg (devReg 0x84) (w32 ((mean l % 2 ^ 16) <<< 16 + ms % 2 ^ 16))
  let s := if phase = 0 then capPeriod s (l.take 10) else s
  s.setField (devReg 0x80) 30 30 (b2n (decide (s.cap.steps > 0)))
/-- POWER_CAP_SAMPLE. -/
def execPowerCapSample (watts : BitVec 16) (s : State) : Host.Outcome State Fault Refusal :=
  .next { s with m := powerSample s.m watts.toNat }

/-! ## Writes of firmware (00_scope.md R14; R446) -/

/-- REGISTER_WRITE: every register of the chapters' maps is RO or RC, so a write to it is ignored (R14), but for the dividers
of the PLLs and the clock-enable bits of a flask's crypto engine and DMA, which firmware sets through its own path (R446, R450;
DEDUCED, log entry 18). -/
def registerWrite (s : Mach) (a : Nat) (w : Word) : Mach :=
  let g := (a - 0x08100000) / 0x100
  if !inBlock a 0x08100000 0x5000 || !islandClocked g then s
  else if a % 0x100 = 8 then programPll s g false w
  else if a % 0x100 = 0xC then programPll s g true w
  else if a % 0x100 = 0x10 ∧ g % 20 = 17 then s.setReg a (w32 (3 - w.toNat % 4))
  else s
/-- REGISTER_WRITE. -/
def execRegisterWrite (addr value : Word) (s : State) : Host.Outcome State Fault Refusal :=
  .next { s with m := registerWrite s.m addr.toNat value }

end Sys2Proof.Machine
end

