-- ==== Sys2Proof/Machine/Flask.lean ====
section
/-! DEFINITION. Machine/Flask.lean: the control complex: lockstep, watchdogs, and the interrupt controller's service
(16_control_complex_and_interrupts.md R391 to R403). -/

namespace Sys2Proof.Machine

/-! ## Lockstep and watchdogs (R393 to R395) -/

/-- A mismatch of pair p (R393): it halts for good, its compare buffer is discarded, its source in service is pending again, the other
pairs and the control flask are told, FAULT_N is asserted. A failed checker tree is treated so (R394). -/
def lockstepMismatch (s : Mach) (d p kind : Nat) : Mach :=
  let x := s.pair d p
  if x.halted then s
  else
    let s := s.setField (flaskReg d 0) (4 + p) (4 + p) 1
    let s := if (s.reg (flaskReg d 4)).toNat.testBit 31 then s
      else s.setReg (flaskReg d 4) (w32 (2 ^ 31 + p <<< 29 + kind <<< 27))
    let s := match x.inService with
      | some n => s.setPending d n true
      | none => s
    let s := ((s.setPair d p { x with halted := true, buffer := [], inService := none }).raise d p).raise 0 (96 + d)
    s.dangerous { mech := if kind = 3 then 0x02#8 else 0x01#8, unit := w32 (4 * d + p), die := BitVec.ofNat 2 d,
                  source := BitVec.ofNat 10 p, status := 0#16, detail := [s.reg (flaskReg d 4)] }
/-- CHECKER_TREE_TEST (R394): a tree that does not flag its injected difference halts its pair. -/
def checkerTreeTest (s : Mach) (d p : Nat) (flagged : Bool) : Mach := if flagged then s else lockstepMismatch s d p 3
/-- CHECKER_TREE_TEST. -/
def execCheckerTreeTest (die : DieNo) (p : PairNo) (_tree flagged : Bool) (s : State) : Host.Outcome State Fault Refusal :=
  .next { s with m := checkerTreeTest s.m die.toNat p.toNat flagged }
/-- WATCHDOG_EXPIRY (R395): once 2,000,000 flask cycles have passed without a restart. The watchdog of a pair that JTAG halts is
paused; one that has expired counts no further until a restart. -/
def watchdogExpiry (s : Mach) (d p : Nat) : Mach :=
  let x := s.pair d p
  if x.jtagHalt || x.wdogCycles != 2000000 then s
  else
    let s := (s.setPair d p { x with wdogCycles := 2000001 }).setField (flaskReg d 0) (12 + p) (12 + p) 1
    (s.raise d (8 + p)).dangerous
      { mech := 0x03#8, unit := w32 (4 * d + p), die := BitVec.ofNat 2 d, source := BitVec.ofNat 10 (8 + p),
        status := 0#16, detail := [] }
/-- WATCHDOG_EXPIRY. -/
def execWatchdogExpiry (die : DieNo) (p : PairNo) (s : State) : Host.Outcome State Fault Refusal :=
  .next { s with m := watchdogExpiry s.m die.toNat p.toNat }
/-- SAF_WDOG_KICK: a running pair restarts its watchdog. -/
def wdogKick (s : Mach) (d p : Nat) : Mach :=
  if s.pairRuns d p then s.setPair d p { s.pair d p with wdogCycles := 0 } else s
/-- SAF_WDOG_KICK. -/
def execSafWdogKick (die : DieNo) (p : PairNo) (s : State) : Host.Outcome State Fault Refusal :=
  .next { s with m := wdogKick s.m die.toNat p.toNat }

/-! ## Service (R397 to R400) -/

/-- INTERRUPT_EVENT. -/
def execInterruptEvent (die : DieNo) (n : SourceNo) (s : State) : Host.Outcome State Fault Refusal :=
  .next { s with m := s.m.raise die.toNat n.toNat }
/-- A completion-order fault (R400): counted, the first recorded, source 4 + p raised; nothing else changes. -/
def orderFault (s : Mach) (d p kind written : Nat) : Mach :=
  let ins := (s.pair d p).inService.getD 0
  let s := s.bump (flaskReg d 0x38) 1
  let s := if (s.reg (flaskReg d 0x20)).toNat.testBit 31 then s
    else s.setReg (flaskReg d 0x20) (w32 (2 ^ 31 + p <<< 29 + kind <<< 27 + (written % 1024) <<< 10 + ins))
  s.raise d (4 + p)
/-- Whether a claim of source n by pair p is granted (R399). -/
def mayClaim (s : Mach) (d p n : Nat) : Bool :=
  s.irqPending d n && !s.inServiceAny d n && (s.routeMask d n).contains p && !srcReserved d n
/-- IRQ_CLAIM (R399, R400). The pair that takes source 4 + p asserts FAULT_N (R400). -/
def irqClaim (s : Mach) (d p n : Nat) : Mach :=
  let x := s.pair d p
  if !s.pairRuns d p then s
  else if x.inService.isSome then
    -- a completion-order fault, and, where it fails the conditions of R399, a refused claim
    (orderFault (s.setPair d p { x with claimed := (false, n) }) d p 2 n).bump (flaskReg d 0x34) (b2n !(mayClaim s d p n))
  else if mayClaim s d p n then
    let s := (s.setPending d n false).setPair d p { x with inService := some n, claimed := (true, n) }
    if 4 ≤ n && n ≤ 7 then s.dangerous
      { mech := 0x04#8, unit := w32 (4 * d + (n - 4)), die := BitVec.ofNat 2 d, source := BitVec.ofNat 10 n, status := 0#16,
        detail := [s.reg (flaskReg d 0x20)] }
    else s
  else (s.setPair d p { x with claimed := (false, n) }).bump (flaskReg d 0x34) 1
/-- IRQ_CLAIM. -/
def execIrqClaim (die : DieNo) (p : PairNo) (n : SourceNo) (s : State) : Host.Outcome State Fault Refusal :=
  .next { s with m := irqClaim s.m die.toNat p.toNat n.toNat }
/-- IRQ_EOI (R400). -/
def irqEoi (s : Mach) (d p n : Nat) : Mach :=
  let x := s.pair d p
  if !s.pairRuns d p then s
  else match x.inService with
    | none => orderFault s d p 1 n
    | some m => if m = n then s.setPair d p { x with inService := none } else orderFault s d p 0 n
/-- IRQ_EOI. -/
def execIrqEoi (die : DieNo) (p : PairNo) (n : SourceNo) (s : State) : Host.Outcome State Fault Refusal :=
  .next { s with m := irqEoi s.m die.toNat p.toNat n.toNat }
/-- IRQ_SWSET (R403): a software source of any die; other numbers are ignored. -/
def irqSwset (s : Mach) (d n : Nat) : Mach := if n ≥ 512 then s.raise d n else s
/-- IRQ_SWSET. -/
def execIrqSwset (die : DieNo) (n : SourceNo) (s : State) : Host.Outcome State Fault Refusal :=
  .next { s with m := irqSwset s.m die.toNat n.toNat }
/-- IRQ_ROUTE_SET (R403): ignored after READY and for sources 0 to 11. -/
def irqRouteSet (s : Mach) (d n mask : Nat) : Mach :=
  if s.isReady || n ≤ 11 then s
  else s.setField (flaskReg d (0x200 + 4 * (n / 8))) (4 * (n % 8) + 3) (4 * (n % 8)) mask
/-- IRQ_ROUTE_SET. -/
def execIrqRouteSet (die : DieNo) (n : SourceNo) (mask : BitVec 4) (s : State) : Host.Outcome State Fault Refusal :=
  .next { s with m := irqRouteSet s.m die.toNat n.toNat mask.toNat }
/-- The timers whose compare value the flask-cycle counter has just reached raise their sources (R391, R396). The counter counts
nanoseconds, the flask clock's cycles at nominal frequency (DESIGN CHOICE, log entry 2). -/
def timersReached (s : Mach) : Mach :=
  each (fun (x : Nat × Nat) s => if x.2 = s.nowNs % 2 ^ 64 then s.raise (x.1 / 16) (144 + x.1 % 16) else s) s.timers s
/-- FLASK_TIMER_EXPIRY (R391): firmware gives a timer its compare value; the timer expires when the flask-cycle counter has that value,
which may be now. -/
def timerExpiry (s : Mach) (d i v : Nat) : Mach :=
  let s := { s with timers := tabSet (fun _ => 0) s.timers (16 * d + i) v }
  if v = s.nowNs % 2 ^ 64 then s.raise d (144 + i) else s
/-- FLASK_TIMER_EXPIRY of a timer and its compare value. -/
def execFlaskTimerExpiry (die : DieNo) (timer : BitVec 4 × DWord) (s : State) : Host.Outcome State Fault Refusal :=
  .next { s with m := timerExpiry s.m die.toNat timer.1.toNat timer.2.toNat }

/-! ## The comparator (R391 to R393, R403) -/

/-- An address of a flask's memories as this model lays them out (DESIGN CHOICE, log entry 74): each pair's 128 KiB instruction SRAM
and 128 KiB data SRAM from 2^18 p on, the shared 2 MiB from 2^21 on, the 64 KiB boot ROM from 2^22 on. -/
def flaskPlace (d a : Nat) : Nat := d * 2 ^ 24 + a % 2 ^ 24
/-- Whether a pair writes an address: its own SRAMs and the shared one. -/
def flaskWrites (p a : Nat) : Bool := a / 2 ^ 18 == p || a / 2 ^ 21 == 1
/-- A byte of a flask's memories. -/
def Mach.flaskByte (s : Mach) (d a : Nat) : Byte :=
  (tabGet (fun _ => none) s.flaskRam (flaskPlace d a)).getD (Config.flaskByte (flaskPlace d a))
/-- A store of up to 8 bytes leaves a pair for its flask's memories. -/
def pairStore (s : Mach) (d p : Nat) (x : PairOut) : Mach :=
  each (fun i s => if x.enables.getLsbD i && flaskWrites p (x.store.toNat + i) then
      { s with flaskRam := tabSet (fun _ => none) s.flaskRam (flaskPlace d (x.store.toNat + i)) (some (x.data.extractLsb' (8 * i) 8)) }
    else s) (List.range 8) s
/-- A write to the interface of R403 leaves a pair. -/
def pairIface (s : Mach) (d p : Nat) (w : FlaskWrite) : Mach :=
  match w with
  | .claim n => irqClaim s d p n.toNat
  | .eoi n => irqEoi s d p n.toNat
  | .swset die n => irqSwset s die.toNat n.toNat
  | .routeSet n mask => irqRouteSet s d n.toNat mask.toNat
  | .kick => wdogKick s d p
/-- KIND of SAF_LS_REC (R402) for outputs that differ: an address, store data, or what else is compared; a write to the interface of
R403 counts as store data (DEDUCED, log entry 75). -/
def lockstepKind (x y : PairOut) : Nat :=
  if x.fetch != y.fetch || x.load != y.load || x.store != y.store || x.enables != y.enables then 0
  else if x.data != y.data || x.iface != y.iface then 1
  else 2
/-- A flask cycle of pair p (R392): Drag's output is compared with Cope's of two cycles before, which leaves the pair where they are
equal; where any value differs the pair halts (R393). -/
def pairCycle (s : Mach) (d p : Nat) (cope drag : PairOut) : Mach :=
  let x := s.pair d p
  if x.halted || x.jtagHalt then s
  else match x.buffer with
    | out :: next :: _ =>
      if out = drag then
        let s := pairStore (s.setPair d p { x with buffer := [next, cope] }) d p out
        match out.iface with
        | some w => pairIface s d p w
        | none => s
      else lockstepMismatch s d p (lockstepKind out drag)
    | l => s.setPair d p { x with buffer := l ++ [cope] }
/-- LOCKSTEP_MISMATCH: a flask cycle of a pair, with the outputs of its halves Cope and Drag. -/
def execLockstepMismatch (die : DieNo) (p : PairNo) (halves : PairOut × PairOut) (s : State) : Host.Outcome State Fault Refusal :=
  .next { s with m := pairCycle s.m die.toNat p.toNat halves.1 halves.2 }

end Sys2Proof.Machine
end

