-- ==== Sys2Proof/Machine/Jtag.lean ====
section
/-! DEFINITION. Machine/Jtag.lean: the test access ports of the four dies (21_bring_up_and_test.md R479;
18_security_and_presence.md R439; 20 R467). -/

namespace Sys2Proof.Machine

/-- The selected instruction of a die; IDCODE at reset. -/
def Mach.tap (s : Mach) (d : Nat) : Nat := tabGet (fun _ => 1) s.tapIr d
/-- Selects an instruction: on die 0 any but EXTEST leaves the pins to the module. -/
def Mach.setTap (s : Mach) (d code : Nat) : Mach :=
  { s with tapIr := tabSet (fun _ => 1) s.tapIr d code, extest := s.extest && (d != 0 || code == 0) }
/-- Bits shifted out of a die's port. -/
def Mach.shiftOut (s : Mach) (d v n : Nat) : Mach := s.sendAs 8 (.jtag d v n)
/-- Whether the ports answer: powered, and TRST_N not low. -/
def Mach.tapLive (s : Mach) : Bool := s.life != .off && !s.trstLow
/-- BYPASS: one bit that is 0 at first. -/
def bypass (s : Mach) (d : Nat) : Mach := if s.tapLive then (s.setTap d 0xFF).shiftOut d 0 1 else s
/-- BYPASS. -/
def execBypass (die : DieNo) (s : State) : Host.Outcome State Fault Refusal := .next { s with m := bypass s.m die.toNat }
/-- The IDCODE of a die. -/
def idcodeWord (d : Nat) : Nat := 1 + 0x2E5 <<< 1 + (0x4032 + d) <<< 12 + (Config.revision.toNat % 16) <<< 28
/-- IDCODE. -/
def idcode (s : Mach) (d : Nat) : Mach := if s.tapLive then (s.setTap d 1).shiftOut d (idcodeWord d) 32 else s
/-- IDCODE. -/
def execIdcode (die : DieNo) (s : State) : Host.Outcome State Fault Refusal := .next { s with m := idcode s.m die.toNat }
/-- SEC_BOOT, open or closed, and not to be written. -/
def secBoot (s : Mach) (d : Nat) : Mach :=
  if s.tapLive then (s.setTap d 0x10).shiftOut d (s.reg (secReg (0x10 + 4 * d))).toNat 32 else s
/-- SEC_BOOT. -/
def execSecBoot (die : DieNo) (s : State) : Host.Outcome State Fault Refusal := .next { s with m := secBoot s.m die.toNat }
/-- The open-drain pins PWR_GOOD, FAULT_N and THERM_ALERT_N and the READY pin, in this order, high or low: all low while the module is
unpowered (20 R466; 17 R411; 19 R452, R453, R460). -/
def Mach.outPins (s : Mach) : Bool × Bool × Bool × Bool :=
  let pwr := (s.reg (devReg 0x80)).toNat
  let on := s.life != .off
  (on && pwr.testBit 31, on && !s.faultN, on && !pwr.testBit 29, on && s.isReady)
/-- The levels of the nine pins with boundary cells, in the order of the connector's table (log entry 19): RESET_N, PWR_GOOD,
READY, FAULT_N, THERM_ALERT_N, PRESENCE_N, SEAL_A, SEAL_B, BOOT_SEL; the last three are not in the state. -/
def pinLevels (s : Mach) : BitVec 9 × Mach :=
  let (v, s) := s.fresh
  let (good, fault, therm, ready) := s.outPins
  let n := b2n (s.life != .held) + b2n good <<< 1 + b2n ready <<< 2 + b2n fault <<< 3 + b2n therm <<< 4 + (b2n !s.presLow) <<< 5 + (v % 8) <<< 6
  (BitVec.ofNat 9 n, s)
/-- SAMPLE/PRELOAD of die 0 while JTAG is open: the pins are sampled and shifted out; a preload is shifted in. -/
def samplePreload (s : Mach) (d : Nat) (v : Option (BitVec 9)) : Mach :=
  if d ≠ 0 ∨ !s.jtagOpen then bypass s d
  else if !s.tapLive then s
  else
    let (x, s) := pinLevels s
    let s := { s with boundary := v.getD x }
    (s.setTap 0 2).shiftOut 0 x.toNat 9
/-- SAMPLE_PRELOAD. -/
def execSamplePreload (die : DieNo) (preload : Option (BitVec 9)) (s : State) : Host.Outcome State Fault Refusal :=
  .next { s with m := samplePreload s.m die.toNat preload }
/-- EXTEST of die 0 while JTAG is open and the module in test mode: the pins are driven from the boundary register. -/
def extestDo (s : Mach) (d : Nat) (v : BitVec 9) : Mach :=
  if d ≠ 0 ∨ !s.jtagOpen ∨ s.life ≠ .test then bypass s d
  else if !s.tapLive then s
  else
    let (x, s) := pinLevels s
    (({ s with boundary := v, extest := true } : Mach).setTap 0 0).shiftOut 0 x.toNat 9
/-- EXTEST. -/
def execExtest (die : DieNo) (shift : BitVec 9) (s : State) : Host.Outcome State Fault Refusal :=
  .next { s with m := extestDo s.m die.toNat shift }
/-- FLASK_DEBUG while JTAG is open: `halt` true halts both halves of a pair together, false steps a halted pair by one
instruction, none reads eight bytes of the flask's memories (16 R391; log entry 74). -/
def flaskDebug (s : Mach) (d p : Nat) (halt : Option Bool) (addr : Nat) : Mach :=
  if !s.jtagOpen then bypass s d
  else if !s.tapLive then s
  else
    let s := s.setTap d 0x20
    match halt with
    | some true => if (s.pair d p).halted then s else s.setPair d p { s.pair d p with jtagHalt := true }
    | some false => s
    | none => s.shiftOut d (ofBytes ((List.range 8).map fun i => s.flaskByte d (addr + i))) 64
/-- FLASK_DEBUG. -/
def execFlaskDebug (die : DieNo) (p : PairNo) (halt : Option Bool) (addr : Nat) (s : State) : Host.Outcome State Fault Refusal :=
  .next { s with m := flaskDebug s.m die.toNat p.toNat halt addr }
/-- GATED_READ while JTAG is open: any word REG_READ reads, aligned. -/
def gatedRead (s : Mach) (d a : Nat) : Mach :=
  if !s.jtagOpen then bypass s d
  else if !s.tapLive then s
  else
    let (w, s) := s.readReg (a / 4 * 4)
    (s.setTap d 0x21).shiftOut d w.toNat 32
/-- GATED_READ. -/
def execGatedRead (die : DieNo) (addr : Word) (s : State) : Host.Outcome State Fault Refusal :=
  .next { s with m := gatedRead s.m die.toNat addr.toNat }
/-- TRST: a low level holds the ports in reset, with IDCODE selected. DESIGN CHOICE (log entry 77): the halts that FLASK_DEBUG made
end with it. -/
def trst (s : Mach) (low : Bool) : Mach :=
  let free := tabMap (fun _ => {}) (fun _ (x : PairSt) => { x with jtagHalt := false }) s.pairs
  if low then { s with trstLow := true, tapIr := [], extest := false, pairs := free } else { s with trstLow := false }
/-- TRST. -/
def execTrst (low : Bool) (s : State) : Host.Outcome State Fault Refusal := .next { s with m := trst s.m low }

end Sys2Proof.Machine
end

