-- ==== Sys2Proof/Machine/BringUp.lean ====
section
/-! DEFINITION. Machine/BringUp.lean: bring-up requests: retraining, margining, clock observation, test mode and self-test
(21_bring_up_and_test.md R472 to R478, R480; 12_memory_system.md R289 to R291; 19 R456). -/

namespace Sys2Proof.Machine

/-- A request of ACTION a with a body of KIND 0b10. -/
def bringUpBody (b a : Nat) : Nat := setBits (setBits b 1 0 2) 7 4 a
/-- Divisor of a domain of an island's root (19 R442); none where the island has no such domain. -/
def domainDiv (g dom : Nat) : Option Nat :=
  let i := g % 20
  let ds := if i < 8 then [1, 2, 2, 2, 2, 2] else if i < 16 then [1, 2] else if i = 16 then [1, 2, 2]
    else if i = 17 then [1, 2, 20] else if i = 18 then [1] else [1, 2]
  ds[dom]?
/-- Whether a selection of CLKOBS is within R456: its output frequency, in kHz. -/
def clkobsOk (s : Mach) (b : Nat) : Bool :=
  let g := bits b 29 23
  let n := bits b 36 33
  islandClocked g && n ≤ 10 && (match domainDiv g (bits b 32 30) with
    | some d => (s.reg (clkReg g 4)).toNat ≤ (if g < 20 then 250000 else 125000) * d * 2 ^ n
    | none => false)
/-- An action is accepted: DEV_BRINGUP and DEV_BRINGUP_SEQ (R480). -/
def startAction (s : Mach) (a seq : Nat) (running : Bool) : Mach :=
  let st := if running || bits (s.reg (devReg 0x200)).toNat 31 30 = 1 then 1 else 2
  let s := ((s.setField (devReg 0x200) 31 30 st).setField (devReg 0x200) 27 24 a).setReg (devReg 0x204) (w32 seq)
  (s.setField (devReg 0x200) 23 16 0).setField (devReg 0x200) 15 0 0
/-- Whether the target of RETRAIN or MARGIN may not be held now (12 R273, R287), or a migration step holds it. -/
def targetBusy (s : Mach) (lp : Bool) (n : Nat) (retrain : Bool) : Bool :=
  if lp then (List.range 4).any fun i => (s.pkg (4 * (n / 4) + i)).state == 1#2
  else (s.pc n).state == 1#2 || ((s.pc n).state == 0#2 && !s.mayHold n retrain)
/-- Whether the target is FAILED or retired, or in a module tier out of use. -/
def targetGone (s : Mach) (lp : Bool) (n : Nat) : Bool :=
  if lp then s.moduleOut else (s.pc n).state == 2#2 || (s.pc n).state == 3#2
/-- The code of the first row of R473 that matches. -/
def bringUpCode (s : Mach) (b : Nat) (priv : Bool) : Option Nat :=
  let a := bits b 7 4
  let lp := bit b 8
  let n := bits b 18 9
  let dev := (s.reg (devReg 0x200)).toNat
  let target := a == 1 || a == 2
  let wm := !lp && bits b 22 21 ≥ 2
  firstCode [(s.safe, stRefused),
    (b ≥ 2 ^ 59 || !zeroFields b [(40, 38), (3, 2)] || a == 0 || a > 6 ||
      (target && (if lp then n ≥ 16 else bits b 20 19 != 0)) || (a == 6 && bits b 49 41 > bits b 58 50), stRefused),
    (a == 4 && !priv, stPresence),
    (a == 4 && !s.ctxNos.isEmpty, stBusy),
    (a != 3 && a != 4 && bits dev 31 30 == 1, stBusy),
    (target && targetBusy s lp n (a == 1), stBusy),
    (target && targetGone s lp n, stRefused),
    (a == 2 && wm && s.life != .test, stRefused), (a == 6 && s.life != .test, stRefused),
    (a == 3 && bit b 37 && !clkobsOk s b, stRefused), (a == 3 && s.obsPath ≥ 2, stBusy)]

/-- RETRAIN: the request trigger of 12 R276, or a hold of the package's channel (12 R287). -/
def startRetrain (s : Mach) (b seq : Nat) : Mach :=
  let n := bits b 18 9
  let s := { startAction s 1 seq true with retrainReq := some (bit b 8, n) }
  if bit b 8 then s else retrainTrigger s n .request
/-- MARGIN: the sweep begins and takes the observation path; a selection of CLKOBS is suspended (12 R291). -/
def startMargin (s : Mach) (b seq : Nat) : Mach :=
  let s := startAction s 2 seq true
  let x : Sweep := { lpddr := bit b 8, unit := bits b 18 9, chan := bits b 20 19, kind := bits b 22 21 }
  let s := if s.obsPath = 1 then s.setField (devReg 0x40) 30 30 1 else s
  { s with sweep := some x, obsPath := if s.obsPath = 1 then 3 else 2 }
/-- CLKOBS: a selection comes into force or ends (19 R456). -/
def setClkobs (s : Mach) (b seq : Nat) : Mach :=
  let s := startAction s 3 seq false
  if bit b 37 then
    { s.setReg (devReg 0x40) (w32 (2 ^ 31 + bits b 29 23 <<< 23 + bits b 32 30 <<< 20 + bits b 36 33 <<< 16)) with obsPath := 1 }
  else { s.setReg (devReg 0x40) 0#32 with obsPath := 0 }
/-- ENTER_TEST (R474). -/
def enterTest (s : Mach) (seq : Nat) : Mach :=
  ({ startAction s 4 seq false with life := .test } : Mach).setField (devReg 0x200) 29 29 1
/-- Zero-fills a pseudo-channel with fresh check symbols (R474, 12 R268). -/
def zeroPc (s : Mach) (n : Nat) : Mach :=
  let on := fun (a : Nat) => match s.placeOf a with
    | some (c, _) => c == n
    | none => false
  { s with near := s.near.filter fun p => !on p.1, slag := s.slag.filter fun p => !on (64 * p.1),
           under := s.under.filter fun p => !on (64 * p.1),
           spare := s.spare.filter fun p => p.1 / pcSectors != n }
/-- EXIT_TEST (R474): every write-margined pseudo-channel is zero-filled first. -/
def exitTest (s : Mach) (seq : Nat) : Mach :=
  let s := startAction s 5 seq false
  let dirty := (s.pcs.filter fun p => p.2.writeMargined).map fun p => p.1
  let s := each (fun n s => (zeroPc s n).setPc n { s.pc n with writeMargined := false }) dirty s
  let s := if s.life = .test then { s with life := .ready, extest := false } else s
  s.setField (devReg 0x200) 29 29 0
/-- CORE_BIST_RES of a core (R480). -/
def bistWord (f : Option BistFail) : Word :=
  match f with
  | none => w32 (2 ^ 31 + 2 ^ 30)
  | some x => w32 (2 ^ 31 + x.engFail.toNat <<< 26 + b2n x.sramFail <<< 25 + x.pair.toNat <<< 21 + b2n x.full <<< 20 +
      x.lane.toNat <<< 17)
/-- The lowest engine of a core that failed. -/
def failedEngine (x : BistFail) : Nat := ((List.range 4).find? fun e => x.engFail.getLsbD e).getD 0
/-- The test of one core (R476 to R478): its result, zeroed arrays, cleared counters; a failing core is fenced. -/
def testCore (s : Mach) (c : Nat) (f : Option BistFail) : Mach :=
  if (s.core c).fenced then s
  else
    let s := s.setReg (coreReg c 0x30) (bistWord f)
    let s := { s with scratch := s.scratch.filter fun p => p.1 / 2 ^ 20 != c,
                      stage := s.stage.filter fun p => p.1 / 2 ^ 15 != c,
                      acc := s.acc.filter fun p => p.1 / 2 ^ 17 != c,
                      accAdds := s.accAdds.filter fun p => p.1 / 2 ^ 17 != c }
    let s := s.setCore c { s.core c with xlate := [], xctx := 0 }
    let s := each (fun e s => (s.setEng (4 * c + e) {})) (List.range 4) s
    let regs := [0x40, 0x44, 0x48, 0x4C, 0x50, 0x54, 0x58, 0x5C, 0x60, 0x64, 0x68]
    let s := each (fun e s => each (fun o s => s.setReg (engReg (4 * c + e) o) 0#32) regs s) (List.range 4) s
    match f with
    | none => s
    | some x => fenceCore s c false (some (if x.sramFail then (0x12, 1, c) else (0x10, 0, 4 * c + failedEngine x)))
/-- SELFTEST of cores FIRST to LAST, whose failures are those reported (R476). -/
def selfTest (s : Mach) (b seq : Nat) (fails : List BistFail) : Mach :=
  let first := bits b 49 41
  let cores := (List.range (bits b 58 50 + 1 - first)).map fun i => first + i
  let s := startAction s 6 seq true
  let s := each (fun c s => testCore s c (fails.find? fun f => f.core.toNat == c)) cores s
  s.bringUpDone 0 stOk
/-- A bring-up request (R472, R473). -/
def msgBringUp (s : Mach) (b seq : Nat) (priv : Bool) (env : Physical) : Reply :=
  match bringUpCode s b priv with
  | some st => refuse s st
  | none => accept (match bits b 7 4 with
      | 1 => startRetrain s b seq
      | 2 => startMargin s b seq
      | 3 => setClkobs s b seq
      | 4 => enterTest s seq
      | 5 => exitTest s seq
      | _ => selfTest s b seq env.bist) 0

end Sys2Proof.Machine
end

