-- ==== Sys2Proof/Machine/Mailbox.lean ====
section
/-! DEFINITION. Machine/Mailbox.lean: the mailbox: arrival, order and service of requests, answers, events to sessions, and
the commands that are messages (15_host_interface.md R358, R363 to R371, R382 to R388; 17 R412, R414; 21 R472). -/

namespace Sys2Proof.Machine

/-! ## Requests -/

/-- Message opcodes of R369 that are served past the rings. -/
def isGateOp (op : Nat) : Bool := op == 0x31 || op == 0x50
/-- Privileged opcodes (R369, R387). -/
def isPrivOp (op : Nat) : Bool := 0x70 ≤ op && op ≤ 0x74
/-- Opcodes served in the safe state (17 R412). -/
def servedSafe (op : Nat) : Bool := [0x50, 0x52, 0x51, 0x60, 0x03, 0x01, 0x02, 0x70, 0x73].contains op
/-- The bits a message's body may use and its reserved fields (R370 to R388); none for an unknown opcode. -/
def bodyLayout (op b : Nat) : Option (Nat × List (Nat × Nat)) :=
  match op with
  | 0x01 => some (256, [(127, 123), (95, 88), (63, 49)])
  | 0x02 | 0x03 | 0x50 => some (0, [])
  | 0x10 => some (44, [(15, 3)])
  | 0x11 => some (112, [(63, 48), (31, 28), (15, 13), (3, 2)])
  | 0x20 => some (339, [(127, 120), (79, 65), (31, 21)])
  | 0x21 => some (46, [(31, 23), (19, 19)])
  | 0x22 => some (112, [(63, 51), (31, 28), (15, 4)])
  | 0x23 => some (96, [(63, 46), (31, 28), (15, 3)])
  | 0x24 => some (384, [(255, 232), (95, 75), (47, 40), (7, 1)])
  | 0x30 => some (64, [(31, 16)])
  | 0x31 => some (12, [])
  | 0x40 | 0x41 => some (512, [(127, 12)])
  | 0x51 => if bits b 1 0 = 2 then some (8 * 8192, []) else some (48, [(31, 28), (15, 2)])
  | 0x52 => some (40, [])
  | 0x60 => some (256, [])
  | 0x70 => some (128, [(47, 12)])
  | 0x71 => some (1, [])
  | 0x72 => some (4, [])
  | 0x73 => some (32, [])
  | 0x74 => some (457, [(431, 416), (31, 31), (15, 3)])
  | _ => none
/-- The body of a request: its LENGTH bytes. -/
def reqBody (r : Req) : Nat := r.body % 2 ^ (8 * r.length.toNat)
/-- Row 5 of R364: a known opcode and every reserved field zero. -/
def fieldsOk (op : Nat) (r : Req) : Bool :=
  match bodyLayout op (reqBody r) with
  | none => false
  | some (w, zs) => r.hdrReserved == 0#20 && decide ((reqBody r) < 2 ^ w) && zeroFields (reqBody r) zs
/-- Row 1 of R364: a datagram that is discarded. -/
def malformed (r : Req) : Bool :=
  r.magic != 0x47435431#32 || r.version != 1#8 || r.length.toNat != r.payload || r.payload > 8192 || r.flags != 0#4
/-- Whether the control flask runs: some pair of die 0 (17 R414). -/
def Mach.controlAlive (s : Mach) : Bool := (List.range 4).any fun p => s.pairRuns 0 p
/-- Sends an answer to the address and port of its request, with its class and tagging (R356, R363), counted where it refuses. -/
def Mach.answer (s : Mach) (r : Req) (op st body : Nat) : Mach :=
  (s.sendOn (txMark r.cls r.tagged) (.answer r.source op r.session.toNat r.seq.toNat st body)).bump (portReg 0x4C) (if st = stOk then 0 else 1)
/-- Whether a request names an open session and its cookie (row 3 of R364). -/
def Mach.known (s : Mach) (r : Req) : Bool :=
  let x := s.session r.session.toNat
  x.isOpen && x.cookie == r.cookie.toNat && r.session.toNat < 1024
/-- An ACK of a request: the events it covers are held no more (R367). -/
def Mach.acked (s : Mach) (k ack : Nat) : Mach :=
  let x := s.session k
  let kept := x.events.filter fun e =>
    let d := wrap 32 ((e.number : Int) - (ack : Int))
    d != 0 && d < 2 ^ 31
  s.setSession k { x with events := kept }

/-! ## The messages' own rules -/

/-- A request of session k after rows 1 to 6 of R364. -/
def runMessage (op k : Nat) (x : Buffered) (s : State) : SecReply :=
  let r := { x.req with body := reqBody x.req }
  let b := r.body
  let m := s.m
  let onMach := fun (y : Reply) => (({ s with m := y.1 }, y.2.1, y.2.2) : SecReply)
  match op with
  | 0x02 => onMach (accept (m.closeSession k) 0)
  | 0x03 => onMach (accept m 0)
  | 0x10 => onMach (msgContext m k b)
  | 0x11 => onMach (msgQueue m k b)
  | 0x20 => onMach (msgAlloc m k b r.env)
  | 0x21 => onMach (msgPlace m k b x.seq)
  | 0x22 => onMach (msgMap m k b)
  | 0x23 => onMach (msgSync m k b)
  | 0x24 => onMach (msgEndpoint m b)
  | 0x30 => onMach (msgDoorbell m k b)
  | 0x40 => onMach (msgBlob m k b x.seq false)
  | 0x41 => onMach (msgBlob m k b x.seq true)
  | 0x51 => if bits b 1 0 = 2 then onMach (msgBringUp m b x.seq (x.priv && m.sealed) r.env)
    else if bits b 1 0 = 3 then onMach (refuse m stRefused) else onMach (msgTelemetry m k b)
  | 0x52 => onMach (msgRegRead m k b)
  | 0x60 => msgAttest s b
  | 0x70 => msgFwUpdate s k r
  | 0x71 => onMach (msgDebugUnlock m b r.env.sealBreak)
  | 0x72 => msgKeyRotate s r
  | 0x73 => msgFactoryReset s r
  | 0x74 => msgNetConfig s r
  | _ => onMach (refuse m stRefused)
/-- Whether a request passes row 5 of R364 and the safe state serves it (17 R412). -/
def servable (op : Nat) (r : Req) (s : Mach) : Bool := fieldsOk op r && (!s.safe || servedSafe op)
/-- Rows 5 to 7 of R364 on a buffered request, and the safe state (17 R412). -/
def handle (op k : Nat) (x : Buffered) (s : State) : SecReply :=
  if !servable op x.req s.m then (s, stRefused, 0)
  else if isPrivOp op && !(x.priv && s.m.sealed) then (s, stPresence, 0)
  else runMessage op k x s
/-- The next request of a session in SEQ order, where it is present (R365, R366). -/
def Mach.nextReq (s : Mach) (k : Nat) : Option Buffered := (s.session k).ring.find? fun b => b.seq == (s.session k).expected
/-- Whether a session's next request is present and waits for no ladle command's writes (R377). -/
def Mach.mbxGoes (s : Mach) (k : Nat) : Bool :=
  match s.nextReq k with
  | some x => !s.unmapWaits x.opcode k (reqBody x.req)
  | none => false
/-- The requester that the mailbox serves next (R366), round robin: the sessions in ascending number, then, as 1,024, SESSION_OPEN; none
in a freeze (17 R416), nor while no pair of the control flask runs. -/
def Mach.mbxNext (s : Mach) : Option Nat :=
  if s.frozen || !s.controlAlive then none
  else
    let ks := s.readySessions.filter s.mbxGoes ++ (if s.opens.isEmpty then [] else [1024])
    (ks.find? fun k => decide (s.mbxLast < k)) <|> ks.head?
/-- The execution of the next request of a session's ring (R365, R366): its answer is stored and sent, E advances. A DOORBELL that
covers an entry which cannot be read yet waits, and the turn passes on (log entry 76). -/
def serveRing (k : Nat) (s : State) : State :=
  let y := s.m.session k
  match s.m.nextReq k with
  | none => s
  | some x =>
    if !y.isOpen then s
    else match (if servable x.opcode x.req s.m then doorbellWaits s.m x.opcode k (reqBody x.req) else none) with
    | some m =>
      let m := { m with mbxLast := k }
      { s with m := m }
    | none =>
      let taken := { y with ring := y.ring.filter fun b => b.seq != x.seq }
      let (s, st, body) := handle x.opcode k x { s with m := { s.m.setSession k taken with mbxLast := k } }
      let z := s.m.session k
      let done := { z with expected := (x.seq + 1) % 2 ^ 32,
                           answers := (⟨x.seq, x.opcode, st, body⟩ :: z.answers).take 64 }
      let m := if z.isOpen then s.m.setSession k done else s.m
      { s with m := ((m.bump (portReg 0x40) 1).answer x.req x.opcode st body).afterAnswer x.opcode st (reqBody x.req) }

/-! ## SESSION_OPEN (R370) -/

/-- The service of one SESSION_OPEN: a refused one opens nothing. -/
def openReply (r : Req) (m : Mach) : Reply :=
  if !fieldsOk 1 r then refuse m stRefused
  else msgOpen m { r with body := (reqBody r) }
/-- Serves a SESSION_OPEN and keeps its answer for 60 s. -/
def serveOpen (r : Req) (s : Mach) : Mach :=
  let (s, st, body) := openReply r { s with mbxLast := 1024 }
  let s := if st = stOk ∧ (reqBody r).testBit 48 then s.acked r.session.toNat r.ack.toNat else s
  let a : OpenAns := { source := r.source, seq := r.seq.toNat, ms := s.uptime, status := st, body := body }
  let s := { s with opened := a :: s.opened.filter fun o => decide (s.uptime ≤ o.ms + 60000) }
  (s.bump (portReg 0x40) 1).answer r 1 st body
/-- Serves the SESSION_OPEN that waits longest. -/
def serveNextOpen (s : Mach) : Mach :=
  match s.opens with
  | [] => s
  | r :: l => serveOpen r { s with opens := l }
/-- The arrival of a SESSION_OPEN: one answered in the last 60 s is answered again; a repeat of one that waits is left; another enters
the ring and raises source 105 (16 R396). `now`: it is served at once where it is next. -/
def arriveOpen (r : Req) (now : Bool) (s : Mach) : Mach :=
  match s.opened.find? fun o => o.source == r.source && o.seq == r.seq.toNat && decide (s.uptime ≤ o.ms + 60000) with
  | some o => (s.bump (portReg 0x44) 1).answer r 1 o.status o.body
  | none =>
    if s.opens.any fun o => o.source == r.source && o.seq == r.seq then s
    else
      let t := ({ s with opens := s.opens ++ [r] } : Mach).raise 0 105
      if now && s.opens.isEmpty && t.mbxNext == some 1024 then serveNextOpen t else t

/-! ## Gate messages (R358, R382, R384) -/

/-- The answer of a gate message. -/
def gateReply (op : Nat) (r : Req) (s : Mach) : Reply :=
  let k := r.session.toNat
  if (op = 0x31 ∨ r.session ≠ 0xFFFF#16) ∧ !s.known r then refuse s stSession
  else
    let s := if s.known r then s.acked k r.ack.toNat else s
    if !fieldsOk op r then refuse s stRefused
    else if op = 0x50 then accept s (statusBody s)
    else if s.safe then refuse s stRefused
    else
      let c := (reqBody r) % 4096
      if s.mayName k c then accept (s.abort c) 0 else refuse s stPerm
/-- A gate message is served at once. -/
def serveGate (op : Nat) (r : Req) (s : Mach) : Mach :=
  let (s, st, body) := gateReply op r (s.raise 0 104)
  ((s.bump (portReg 0x54) 1).bump (portReg 0x40) 1).answer r op st body

/-! ## Arrival (R363 to R365) -/

/-- A request enters its session's ring, is a repeat, or lies outside the window (R365). -/
def arriveRing (op : Nat) (r : Req) (now : Bool) (s : State) : State :=
  let k := r.session.toNat
  let m := s.m.acked k r.ack.toNat
  let y := m.session k
  let q := r.seq.toNat
  if wrap 32 ((q : Int) - (y.expected : Int)) < 64 then
    if y.ring.any fun b => b.seq == q then { s with m := m }
    else
      let b : Buffered := { seq := q, opcode := op, priv := m.privileged, req := r }
      let s := { s with m := (m.setSession k { y with ring := y.ring ++ [b] }).raise 0 105 }
      if now && q == y.expected && s.m.mbxNext == some k then serveRing k s else s
  else if wrap 32 ((y.expected : Int) - (q : Int)) ≤ 64 then
    match y.answers.find? fun a => a.seq == q with
    | some a => { s with m := (m.bump (portReg 0x44) 1).answer r a.opcode a.status a.body }
    | none => { s with m := m }
  else { s with m := m.answer r op stSeq 0 }
/-- Bytes of the frame of a datagram: over IPv4 and untagged (log entry 26). -/
def datagramBytes (r : Req) : Nat := max 64 (78 + r.payload)
/-- A gate-class message that nobody serves stays in its 64 KiB buffer; one that finds it full is discarded and counted (R357, R358). -/
def Mach.gateKeep (s : Mach) (op : Nat) (r : Req) : Mach :=
  if (s.gateKept.map fun x => datagramBytes x.2).sum + datagramBytes r > 65536 then s.bump (portReg 0x2C) 1
  else { s with gateKept := s.gateKept ++ [(op, r)] }
/-- A gate message that the control flask takes: rows 1 and 2 of R364, then its service. -/
def takeGate (op : Nat) (r : Req) (s : Mach) : Mach :=
  if malformed r then s.bump (portReg 0x48) 1
  else if !s.isReady && op ≠ 0x50 then s.answer r op stNotReady 0
  else serveGate op r s
/-- The gate messages kept are served once a pair of the control flask runs again. -/
def Mach.serveKept (s : Mach) : Mach :=
  if s.gateKept.isEmpty || !s.controlAlive then s
  else s.gateKept.foldl (fun (s : Mach) x => takeGate x.1 x.2 s) { s with gateKept := [] }
/-- GCT_PORT: the UDP port of GCT datagrams (R363, R388). -/
def Mach.gctPort (s : Mach) : Nat := bits s.conf 47 32
/-- The arrival of a datagram of a request at the port (R358, R363, R364): one for another UDP port is no GCT datagram. `now`: a request
that the mailbox takes next is served in the same command. -/
def arrive (op : Nat) (r : Req) (now : Bool) (s : State) : State :=
  if !s.m.linkUp || r.port.toNat ≠ s.m.gctPort then s
  else if r.cls = 7#3 ∧ !isGateOp op then { s with m := s.m.bump (portReg 0x30) 1 }
  else if !s.m.controlAlive then { s with m := if r.cls = 7#3 then s.m.gateKeep op r else s.m }
  else if malformed r then { s with m := s.m.bump (portReg 0x48) 1 }
  else if !s.m.isReady && op ≠ 0x50 then { s with m := s.m.answer r op stNotReady 0 }
  else if isGateOp op then { s with m := serveGate op r s.m }
  else if op = 1 then { s with m := arriveOpen r now s.m }
  else if !s.m.known r then { s with m := s.m.answer r op stSession 0 }
  else arriveRing op r now s
/-- A message command: one datagram in one frame. -/
def message (op : Nat) (r : Req) (s : State) : State :=
  arrive op r true { s with m := if s.m.linkUp then s.m.bump (portReg 0x10) 1 else s.m }

/-- SESSION_OPEN (R370). -/
def execSessionOpen (r : Req) (s : State) : Host.Outcome State Fault Refusal := .next (message 0x01 r s)
/-- SESSION_CLOSE (R371). -/
def execSessionClose (r : Req) (s : State) : Host.Outcome State Fault Refusal := .next (message 0x02 r s)
/-- NOP (R371). -/
def execNop (r : Req) (s : State) : Host.Outcome State Fault Refusal := .next (message 0x03 r s)
/-- CONTEXT_CREATE (R372). -/
def execContextCreate (r : Req) (s : State) : Host.Outcome State Fault Refusal := .next (message 0x10 r s)
/-- QUEUE_CREATE (R373). -/
def execQueueCreate (r : Req) (s : State) : Host.Outcome State Fault Refusal := .next (message 0x11 r s)
/-- OBJECT_ALLOC (R374). -/
def execObjectAlloc (r : Req) (s : State) : Host.Outcome State Fault Refusal := .next (message 0x20 r s)
/-- OBJECT_PLACE (R376). -/
def execObjectPlace (r : Req) (s : State) : Host.Outcome State Fault Refusal := .next (message 0x21 r s)
/-- MAP (R377). -/
def execMap (r : Req) (s : State) : Host.Outcome State Fault Refusal := .next (message 0x22 r s)
/-- SYNC_CREATE (R378). -/
def execSyncCreate (r : Req) (s : State) : Host.Outcome State Fault Refusal := .next (message 0x23 r s)
/-- ENDPOINT_SET (R380). -/
def execEndpointSet (r : Req) (s : State) : Host.Outcome State Fault Refusal := .next (message 0x24 r s)
/-- DOORBELL (R381). -/
def execDoorbell (r : Req) (s : State) : Host.Outcome State Fault Refusal := .next (message 0x30 r s)
/-- ABORT (R382). -/
def execAbort (r : Req) (s : State) : Host.Outcome State Fault Refusal := .next (message 0x31 r s)
/-- STATE_EXPORT message (R383). -/
def execStateExportMessage (r : Req) (s : State) : Host.Outcome State Fault Refusal := .next (message 0x40 r s)
/-- STATE_IMPORT message (R383). -/
def execStateImportMessage (r : Req) (s : State) : Host.Outcome State Fault Refusal := .next (message 0x41 r s)
/-- STATUS (R384). -/
def execStatus (r : Req) (s : State) : Host.Outcome State Fault Refusal := .next (message 0x50 r s)
/-- TELEMETRY (R385). -/
def execTelemetry (r : Req) (s : State) : Host.Outcome State Fault Refusal := .next (message 0x51 r s)
/-- REG_READ (R386). -/
def execRegRead (r : Req) (s : State) : Host.Outcome State Fault Refusal := .next (message 0x52 r s)
/-- ATTEST (R386, 18 R431). -/
def execAttest (r : Req) (s : State) : Host.Outcome State Fault Refusal := .next (message 0x60 r s)
/-- FW_UPDATE (R387, 18 R436). -/
def execFwUpdate (r : Req) (s : State) : Host.Outcome State Fault Refusal := .next (message 0x70 r s)
/-- DEBUG_UNLOCK (R387, 18 R438). -/
def execDebugUnlock (r : Req) (s : State) : Host.Outcome State Fault Refusal := .next (message 0x71 r s)
/-- KEY_ROTATE (R387, 18 R437). -/
def execKeyRotate (r : Req) (s : State) : Host.Outcome State Fault Refusal := .next (message 0x72 r s)
/-- FACTORY_RESET (R387, 18 R440). -/
def execFactoryReset (r : Req) (s : State) : Host.Outcome State Fault Refusal := .next (message 0x73 r s)
/-- NET_CONFIG (R387, R388). -/
def execNetConfig (r : Req) (s : State) : Host.Outcome State Fault Refusal := .next (message 0x74 r s)
/-- A bring-up request of an action (21 R472): a TELEMETRY message of KIND 0b10, whose body is one byte at least. -/
def bringUp (a : Nat) (r : Req) (s : State) : State :=
  message 0x51 { r with body := bringUpBody r.body a, length := if r.length = 0#16 then 1#16 else r.length } s
/-- RETRAIN (21 R473). -/
def execRetrain (r : Req) (s : State) : Host.Outcome State Fault Refusal := .next (bringUp 1 r s)
/-- MARGIN (21 R475). -/
def execMargin (r : Req) (s : State) : Host.Outcome State Fault Refusal := .next (bringUp 2 r s)
/-- CLKOBS (19 R456). -/
def execClkobs (r : Req) (s : State) : Host.Outcome State Fault Refusal := .next (bringUp 3 r s)
/-- ENTER_TEST (21 R474). -/
def execEnterTest (r : Req) (s : State) : Host.Outcome State Fault Refusal := .next (bringUp 4 r s)
/-- EXIT_TEST (21 R474). -/
def execExitTest (r : Req) (s : State) : Host.Outcome State Fault Refusal := .next (bringUp 5 r s)
/-- SELFTEST (21 R476). -/
def execSelftest (r : Req) (s : State) : Host.Outcome State Fault Refusal := .next (bringUp 6 r s)

/-! ## Service and events -/

/-- REQUEST_RING_EXECUTE: the session's turn has come (R366). -/
def requestRing (k : Nat) (s : State) : State := if s.m.mbxNext = some k then serveRing k s else s
/-- REQUEST_RING_EXECUTE. -/
def execRequestRingExecute (k : SessNo) (s : State) : Host.Outcome State Fault Refusal := .next (requestRing k.toNat s)
/-- The mailbox takes its next requester (R366). -/
def mailboxGrant (s : State) : State :=
  match s.m.mbxNext with
  | none => s
  | some k => if k = 1024 then { s with m := serveNextOpen s.m } else serveRing k s

/-- EVENT_REPEAT: every stored event of a session is sent again. -/
def eventRepeat (s : Mach) (k : Nat) : Mach :=
  each (fun (e : EventSt) s =>
    (s.bump (portReg 0x50) 1).sendOn s.origClass (.event k e.number e.opcode e.status e.body e.final)) (s.session k).events s
/-- EVENT_REPEAT. -/
def execEventRepeat (k : SessNo) (s : State) : Host.Outcome State Fault Refusal := .next { s with m := eventRepeat s.m k.toNat }
/-- EVENT_LOST: with room in the ring again, one event carries the count of those not stored. -/
def eventLost (s : Mach) (k : Nat) : Mach :=
  let x := s.session k
  if x.lost = 0 || x.events.length ≥ 1024 then s
  else (s.setSession k { x with lost := 0 }).postEvent k 0x0104 stOk (x.lost % 2 ^ 32) false
/-- EVENT_LOST. -/
def execEventLost (k : SessNo) (s : State) : Host.Outcome State Fault Refusal := .next { s with m := eventLost s.m k.toNat }
/-- A progress report that is not the last (R367). -/
def midReport (s : Mach) (k seq done total : Nat) : Mach :=
  s.postEvent k 0x0102 stOk (seq + done <<< 32 + total <<< 64) false
/-- PROGRESS of a request that has been accepted and is not done: OBJECT_PLACE reports its steps; the state messages do
their work, count records and report its end (R376, R383). -/
def progress (s : Mach) (k seq : Nat) : Mach :=
  match s.blobs.find? fun b => b.session == k && b.seq == seq with
  | some j =>
    (match blobRun s j with
    | (s, none) => midReport s k seq 0 (blobStr j.desc)
    | (s, some st) =>
      let s := s.unpin j.obj
      let n := blobStr j.desc
      finalReport { s with blobs := s.blobs.filter fun b => !(b.session == k && b.seq == seq) } k seq st (if st = stOk then n else 0) n)
  | none => match s.objs.find? fun p => p.2.places.any fun y => y.1 == k && y.2.1 == seq with
    | some (_, o) => midReport s k seq o.wmark.toNat o.steps
    | none => s
/-- PROGRESS. -/
def execProgress (k : SessNo) (seq : Word) (s : State) : Host.Outcome State Fault Refusal :=
  .next { s with m := progress s.m k.toNat seq.toNat }
/-- READY_ANNOUNCE: three announcements after READY, to an announce address that is not zero (R355, R367). -/
def readyAnnounce (s : Mach) : Mach :=
  if !s.isReady || !s.linkUp || s.readySent ≥ 3 then s
  else
    let s := { s with readySent := s.readySent + 1 }
    if bits s.conf 415 288 = 0 then s else s.sendOn s.origClass (.ready (statusBody s))
/-- READY_ANNOUNCE. -/
def execReadyAnnounce (s : State) : Host.Outcome State Fault Refusal := .next { s with m := readyAnnounce s.m }
/-- SESSION_EXPIRY: EXPIRY seconds have passed with no request (R368). -/
def sessionExpiry (s : Mach) (k : Nat) : Mach :=
  if (s.session k).isOpen && (s.session k).expiry != 0 then s.closeSession k else s
/-- SESSION_EXPIRY. -/
def execSessionExpiry (k : SessNo) (s : State) : Host.Outcome State Fault Refusal := .next { s with m := sessionExpiry s.m k.toNat }

end Sys2Proof.Machine
end

