-- ==== Sys2Proof/Machine/Port.lean ====
section
/-! DEFINITION. Machine/Port.lean: the Ethernet port: frames, priority flow control, the link, RDMA as responder and as
requester, and the grants of freed credits (15_host_interface.md R353 to R362; 13 R321; 14 R349). -/

namespace Sys2Proof.Machine

/-! ## The link and flow control -/

/-- A command of the port that a frame brings: nothing arrives while the link is down; a frame is counted. -/
def onFrame (f : Mach → Mach) (s : Mach) : Mach := if s.linkUp then f (s.bump (portReg 0x10) 1) else s
/-- LINK_DOWN (R354): no session, context, command or event changes. -/
def linkDown (s : Mach) : Mach :=
  if !s.linkUp then s else (((s.setReg (portReg 0) 0#32).bump (portReg 0x3C) 1)).raise 0 106
/-- LINK_DOWN. -/
def execLinkDown (s : State) : Host.Outcome State Fault Refusal := .next { s with m := linkDown s.m }
/-- ETH_LINK of a link that is up, by the configuration in force (R354, R390). -/
def linkWord (conf : Nat) : Word :=
  w32 (2 ^ 31 + (conf % 2) <<< 30 + bits conf 1 1 <<< 29 + 8 <<< 16)
/-- Whether an island's root comes from a PLL. -/
def Mach.onPll (s : Mach) (g : Nat) : Bool := bits (s.reg (clkReg g 0)).toNat 31 30 != 0
/-- LINK_RETRY (R354): from step 7 of start-up on, a link that is down is tried again; in a halt at step 3 or later too, where die 0's
flask and Ethernet islands are clocked (19 R461). -/
def linkRetry (s : Mach) (up : Bool) : Mach :=
  let halted := (s.reg (devReg 0)).toNat.testBit 30 && s.onPll 17 && s.onPll 19
  if s.linkUp || !(s.life == .ready || s.life == .test || halted) || !up then s
  else (s.setReg (portReg 0) (linkWord s.conf)).raise 0 106
/-- LINK_RETRY. -/
def execLinkRetry (up : Bool) (s : State) : Host.Outcome State Fault Refusal := .next { s with m := linkRetry s.m up }
/-- A received PFC frame (R357): classes 0 to 6 named stop, the others go on; what waited for one of them is sent. -/
def pfcFrame (s : Mach) (classes : Byte) : Mach :=
  let stop := classes &&& 0x7F#8
  let s := s.bump (portReg 0x28) (if classes = 0#8 then 0 else 1)
  let waiting := s.txHeld
  let s := { s with pfcStopped := stop, txHeld := [] }
  each (fun (x : Nat × Sent) s => s.sendOn x.1 x.2) waiting s
/-- PFC_XOFF. -/
def execPfcXoff (classes : Byte) (s : State) : Host.Outcome State Fault Refusal :=
  .next { s with m := onFrame (fun m => pfcFrame m classes) s.m }

/-! ## RDMA as responder (R359 to R362) -/

/-- What one piece of a transfer finds (R360, R361; 13 R321). -/
inductive RdmaAt where
  | ok (pa : Nat)
  | error
  | held
  deriving DecidableEq, Repr
/-- The translation of one piece: the walk reads the tables (13 R297); an absent leaf makes a promotion request, whose failure tears
down no context. -/
def Mach.rdmaWalk (s : Mach) (c va n : Nat) (a : Access) : RdmaAt × Mach :=
  match s.readTables c va with
  | .err (.held _) s => (.held, s)
  | .err _ s => (.error, s)
  | .ok _ s =>
    match s.tableLeaf c va with
    | none => (.error, s)
    | some m =>
      let o := s.obj m.obj
      if !o.present then (.error, (s.request m.obj).1)
      else
        let s := s.setObj m.obj { o with accessed := true }
        let wr := a == .rdmaWrite
        if !m.grants a || (wr && s.isControl m.obj) then (.error, s)
        else
          let s := if wr && m.watch then s.abandonReq m.obj else s
          let pa := m.addr + va % o.leaf
          match s.heldIn pa n with
          | some _ => (.held, s)
          | none => (.ok pa, s.touch pa n wr .none)
/-- Whether a request may be served: READY, an open session whose queue pair is in no error. -/
def Mach.rdmaServed (s : Mach) (k : Nat) : Bool := s.isReady && (s.session k).isOpen && !(s.session k).qpError
/-- Whether an R_Key names a live context with its TAG (R360). -/
def Mach.rkeyOk (s : Mach) (key : Word) : Bool :=
  let x := s.ctx (key.toNat % 4096)
  x.state != 0#2 && x.tag == key.toNat / 4096
/-- An RDMA answer: syndrome 0 acknowledges, 1 is NAK Invalid Request, 2 NAK Remote Access Error. -/
def Mach.rdmaAnswer (s : Mach) (k cls syn : Nat) (data : List Byte) : Mach := s.sendOn cls (.rdma k syn data)
/-- A NAK (R359, R361): counted, source 107 raised, the queue pair in error. -/
def Mach.rdmaNak (s : Mach) (k cls syn : Nat) (data : List Byte) : Mach :=
  let s := s.setSession k { s.session k with qpError := true }
  ((s.bump (portReg 0x34) 1).raise 0 107).rdmaAnswer k cls syn data
/-- A packet marked ECN-CE: a Congestion Notification Packet, at most one per queue pair per 50 µs (R359). -/
def Mach.ecn (s : Mach) (k cls : Nat) (ce : Bool) : Mach :=
  let x := s.session k
  let due := match x.cnpAt with
    | none => true
    | some t => decide (t + 50000 ≤ s.nowNs)
  if ce && due then ((s.setSession k { x with cnpAt := some s.nowNs }).bump (portReg 0x38) 1).sendOn cls (.cnp k) else s
/-- The pieces of a WRITE from an address on: the outcome, the bytes written before a failing piece. -/
def rdmaStore (c : Nat) : List (Nat × Nat) → List Byte → Nat → Mach → RdmaAt × Nat × Mach
  | [], _, n, s => (.ok 0, n, s)
  | p :: ps, l, n, s => match s.rdmaWalk c p.1 p.2 .rdmaWrite with
    | (.ok pa, s) => rdmaStore c ps (l.drop p.2) (n + p.2) (s.writeNear pa (l.take p.2) false)
    | (e, s) => (e, n, s)
/-- An RDMA WRITE (R360 to R362): acknowledged when all of it is written. Of the pieces before a failing one, a number of
bytes that the spec leaves open is written (log entry 1). None where it meets a held channel, and waits. -/
def rdmaWriteAt (s : Mach) (r : RdmaReq) : Option Mach :=
  let k := r.session.toNat
  let tx := txMark r.cls r.tagged
  if !s.rdmaServed k then some s
  else
    let c := r.rkey.toNat % 4096
    let nak := fun (s : Mach) => s.rdmaNak k tx 2 []
    let s0 := s.ecn k tx r.ecnCe
    if s0.safe || !s0.rkeyOk r.rkey then some (nak s0)
    else
      let va := r.va.toNat
      if va + r.data.length > 2 ^ 48 then some (nak s0)
      else match rdmaStore c (rangePieces va r.data.length) r.data 0 s0 with
        | (.ok _, _, s1) => some (s1.rdmaAnswer k tx 0 [])
        | (.held, _, _) => none
        | (.error, n, _) =>
          let (v, s2) := s0.fresh
          let part := r.data.take (v % (n + 1))
          let (_, _, s3) := rdmaStore c (rangePieces va part.length) part 0 s2
          some (nak (match rdmaStore c (rangePieces va r.data.length) r.data 0 s2 with
            -- the failing piece's promotion request, on memory as the open number of bytes left it
            | (_, _, s4) => { s4 with near := s3.near, slag := s3.slag }))

/-- The pieces of a READ: the outcome, the bytes read; slag ends it (R361; 12 R271). -/
def rdmaLoad (c : Nat) : List (Nat × Nat) → List Byte → Mach → RdmaAt × Bool × List Byte × Mach
  | [], acc, s => (.ok 0, false, acc, s)
  | p :: ps, acc, s => match s.rdmaWalk c p.1 p.2 .rdmaRead with
    | (.ok pa, s) =>
      (match (sectorsOf pa p.2).find? fun x => s.isSlag x with
      | some x =>
        let s := s.bump (ldlReg (s.sliceOf x) 0x108) 1
        let s := match s.objAt x with
          | some n => s.poisonObj n
          | none => s
        (.error, true, acc ++ s.nearBytes pa (x - pa), s)
      | none => rdmaLoad c ps (acc ++ s.nearBytes pa p.2) s)
    | (e, s) => (e, false, acc, s)
/-- An RDMA READ (R359 to R362): memory as it stands. One that meets slag delivers the packets before the failing one. None where
it meets a held channel, and waits. -/
def rdmaReadAt (s : Mach) (r : RdmaReq) : Option Mach :=
  let k := r.session.toNat
  let tx := txMark r.cls r.tagged
  if !s.rdmaServed k then some s
  else
    let c := r.rkey.toNat % 4096
    let s0 := s.ecn k tx r.ecnCe
    if !s0.rkeyOk r.rkey || decide (r.va.toNat + r.len > 2 ^ 48) then some (s0.rdmaNak k tx 2 [])
    else match rdmaLoad c (rangePieces r.va.toNat r.len) [] s0 with
      | (.ok _, _, l, s1) => some (s1.rdmaAnswer k tx 0 l)
      | (.held, _, _, _) => none
      | (.error, slag, l, s1) =>
        some (s1.rdmaNak k tx 2 (if slag then l.take (l.length / s.mtu k * s.mtu k) else []))

/-! ## The receive buffer (R357) -/

/-- Bytes of a class in the receive buffer of classes 0 to 6. -/
def Mach.rxBytes (s : Mach) (c : Nat) : Nat :=
  s.rxWait.foldl (fun a x => if x.req.cls.toNat = c then a + x.bytes else a) 0
/-- The classes a PFC frame has to stop now: one that holds more than 512 KiB, or that is stopped and holds 256 KiB or more. -/
def Mach.xoffDue (s : Mach) : BitVec 8 :=
  (List.range 7).foldl (fun (w : BitVec 8) c =>
    if s.rxBytes c > 524288 ∨ (s.xoff.getLsbD c ∧ s.rxBytes c ≥ 262144) then w ||| (1#8 <<< c) else w) 0#8
/-- Where the classes to stop change, a PFC frame names them; one that stops a class more is counted. -/
def Mach.flowControl (s : Mach) : Mach :=
  let w := s.xoffDue
  if w = s.xoff ∨ !s.linkUp then s
  else
    let more := w &&& ~~~ s.xoff ≠ 0#8
    ((({ s with xoff := w } : Mach).sendAs 8 (.pfc w)).bump (portReg 0x14) 1).bump (portReg 0x24) (b2n more)
/-- A request stays in the 4 MiB buffer; one that finds no room is lost (log entry 26). -/
def Mach.rxKeep (s : Mach) (x : RxWait) : Mach :=
  if (s.rxWait.foldl (fun a y => a + y.bytes) 0) + x.bytes > 4194304 then s
  else ({ s with rxWait := s.rxWait ++ [x] } : Mach).flowControl
/-- An RDMA request is served in the order of its class, and waits for a held channel (12 R274). -/
def Mach.rdmaServe (s : Mach) (x : RxWait) : Mach :=
  if s.rxWait.any fun y => y.req.cls == x.req.cls then s.rxKeep x
  else match (if x.write then rdmaWriteAt s x.req else rdmaReadAt s x.req) with
  | some s => s
  | none => s.rxKeep x
/-- The requests in the buffer are tried again. -/
def Mach.serveRx (s : Mach) : Mach :=
  if s.rxWait.isEmpty then s
  else (s.rxWait.foldl (fun (s : Mach) x => s.rdmaServe x) { s with rxWait := [] }).flowControl
/-- A frame of class 7 that is no gate message is discarded and counted (R358). -/
def offGate (cls : BitVec 3) (f : Mach → Mach) (s : Mach) : Mach := if cls = 7#3 then s.bump (portReg 0x30) 1 else f s
/-- Bytes of a request's frame in the buffer: its data and 64 more (log entry 26). -/
def rdmaBytes (r : RdmaReq) : Nat := 64 + r.data.length
/-- RDMA_WRITE. -/
def execRdmaWrite (r : RdmaReq) (s : State) : Host.Outcome State Fault Refusal :=
  .next { s with m := onFrame (offGate r.cls fun m => m.rdmaServe ⟨rdmaBytes r, true, r⟩) s.m }
/-- RDMA_READ. -/
def execRdmaRead (r : RdmaReq) (s : State) : Host.Outcome State Fault Refusal :=
  .next { s with m := onFrame (offGate r.cls fun m => m.rdmaServe ⟨64, false, r⟩) s.m }
/-- UNSUPPORTED_RDMA_OP (R359). -/
def unsupportedRdma (s : Mach) (k cls : Nat) (ce : Bool) : Mach :=
  if s.rdmaServed k then (s.ecn k cls ce).rdmaNak k cls 1 [] else s
/-- UNSUPPORTED_RDMA_OP, with the class of its frame and whether it is marked CE. -/
def execUnsupportedRdmaOp (k : SessNo) (mark : BitVec 3 × Bool) (s : State) : Host.Outcome State Fault Refusal :=
  .next { s with m := onFrame (offGate mark.1 fun m => unsupportedRdma m k.toNat mark.1.toNat mark.2) s.m }

/-! ## RDMA as requester (R359) -/

/-- CONGESTION_NOTIFICATION: the queue pair's rate is halved. -/
def cnpReceived (s : Mach) (e : Nat) : Mach :=
  let x := s.ep e
  if x.configured then s.setEp e { x with rate := x.rate / 2 } else s
/-- CONGESTION_NOTIFICATION. -/
def execCongestionNotification (ep : EpNo) (s : State) : Host.Outcome State Fault Refusal :=
  .next { s with m := onFrame (fun m => cnpReceived m ep.val) s.m }
/-- RATE_RESTORE: 1/16 of line rate, up to line rate. -/
def rateRestore (s : Mach) (e : Nat) : Mach :=
  let x := s.ep e
  if x.configured then s.setEp e { x with rate := min 65536 (x.rate + 4096) } else s
/-- RATE_RESTORE. -/
def execRateRestore (ep : EpNo) (s : State) : Host.Outcome State Fault Refusal := .next { s with m := rateRestore s.m ep.val }
/-- ACK_TIMEOUT: the packet is sent again, 7 times at most; then the queue pair is in error and the request fails. -/
def ackTimeout (s : Mach) (e : Nat) : Mach :=
  let x := s.ep e
  if !x.configured || x.error then s
  else if x.retries < 7 then (s.setEp e { x with retries := x.retries + 1 }).bump (portReg 0x14) (b2n s.linkUp)
  else (s.setEp e { x with error := true }).raise 0 108
/-- ACK_TIMEOUT. -/
def execAckTimeout (ep : EpNo) (s : State) : Host.Outcome State Fault Refusal := .next { s with m := ackTimeout s.m ep.val }

/-! ## Frames (R353, R356 to R358) -/

/-- Whether an IP destination is the module's: its configured addresses or its link-local one (R353, R388). -/
def Mach.isOurs (s : Mach) (d : IpDest) : Bool :=
  match d with
  | .ipv4 a => a != 0#32 && bits s.conf 135 104 == a.toNat
  | .ipv6 a => a != 0#128 && bits s.conf 271 144 == a.toNat
  | .linkLocal => true
  | .multicast => false
/-- Whether a packet goes over IPv4. -/
def overV4 : IpDest → Bool
  | .ipv4 _ => true
  | _ => false
/-- Whether an IP packet is taken (R353): for the module, whole, without options or extension headers, and, where it is UDP, with a
right checksum, which only IPv4 may leave out. -/
def Mach.takesIp (s : Mach) (h : IpHead) (udp : Bool) : Bool :=
  s.isOurs h.dst && !h.fragment && !h.options && (!udp || match h.sum with
    | .right => true
    | .wrong => false
    | .zero => overV4 h.dst)
/-- Whether a frame's size, tags, addresses and checks are of the kinds R353 and R359 admit. -/
def frameOk (s : Mach) (f : Frame) : Bool :=
  64 ≤ f.bytes && f.bytes ≤ 9216 && f.tags ≤ 1 &&
    (f.tags == 0 || (s.conf.testBit 2 && bits s.conf 27 16 == f.vlan.toNat)) &&
    (match f.payload with
      | .pfc _ => true
      | .arp a => a != 0#32 && bits s.conf 135 104 == a.toNat
      | .solicit t => s.isOurs t && !overV4 t && !f.ip.fragment && !f.ip.options
      | .gct _ _ => s.takesIp f.ip true
      | .network => s.takesIp f.ip false
      | .other => true
      | _ => s.takesIp f.ip true && f.icrcOk)
/-- The class of a frame (R356): the priority of its tag, or of an untagged packet DSCP bits [5:3]; a frame that carries no packet
has class 0 (log entry 26). -/
def frameCls (f : Frame) : BitVec 3 :=
  if f.tags ≠ 0 then f.pcp
  else match f.payload with
    | .pfc _ | .arp _ => 0#3
    | _ => f.ip.dscp.extractLsb' 3 3
/-- Whether a frame is tagged. -/
def frameTagged (f : Frame) : Bool := f.tags != 0
/-- FRAME_RECEIVE: counted, checked, and handed on by what it carries. A mailbox request waits for its service. -/
def frameReceive (s : State) (f : Frame) : State :=
  if !s.m.linkUp then s
  else
    let m := ((s.m.bump (portReg 0x10) 1).bump (portReg 0x1C) f.fecCorrected).bump (portReg 0x20) f.fecUncorrectable
    let put := fun (m : Mach) => ({ s with m := m } : State)
    if !f.fcsOk then put (m.bump (portReg 0x18) 1)
    else if !frameOk m f then put m
    else match f.payload with
      | .pfc classes => put (pfcFrame m classes)
      | .gct op r => arrive op.toNat { r with cls := frameCls f, tagged := frameTagged f } false (put m)
      | p => put (offGate (frameCls f) (fun m => match p with
          | .rdmaWrite r => m.rdmaServe ⟨f.bytes, true, { r with cls := frameCls f, tagged := frameTagged f }⟩
          | .rdmaRead r => m.rdmaServe ⟨f.bytes, false, { r with cls := frameCls f, tagged := frameTagged f }⟩
          | .rdmaOther k ce => unsupportedRdma m k.toNat (txMark (frameCls f) (frameTagged f)) ce
          | .cnp e => cnpReceived m e.val
          | .network | .arp _ | .solicit _ => m.sendOn (txMark (frameCls f) (frameTagged f)) .network
          | _ => m) m)
/-- FRAME_RECEIVE. -/
def execFrameReceive (f : Frame) (s : State) : Host.Outcome State Fault Refusal := .next (frameReceive s f)

/-! ## Credits (14 R349) -/

/-- CREDIT_GRANT: the next waiting requester of a shared resource, in its order. No command of the model leaves a requester waiting for
a flow-control credit of the mesh, a gate channel or a die-to-die link, since a transfer is part of the command that makes it, nor
for a ladle slot, since a unit's few transactions that wait never take its 64 (log entry 17). -/
def creditGrant (x : SharedResource) (s : State) : State :=
  match x with
  | .atomicUnit g => { s with m := atomicGrant s.m g.toNat }
  | .coreSlots c => { s with m := slotGrant s.m c.toNat }
  | .clusterPlaces k => { s with m := admitSlot s.m k.toNat }
  | .startLimiter d => { s with m := limiterGrant s.m d.toNat }
  | .mailbox => mailboxGrant s
  | .meshChannel d p vc => { s with m := channelGrant s.m (channelKey 3 d.toNat (16 * p.toNat + vc.toNat)) }
  | .gateClass d p => { s with m := channelGrant s.m (channelKey 4 d.toNat p.toNat) }
  | .linkChannel d o vc => { s with m := channelGrant s.m (channelKey 5 d.toNat (16 * o.toNat + vc.toNat)) }
  | .ladleSlots _ => s
/-- CREDIT_GRANT. -/
def execCreditGrant (x : SharedResource) (s : State) : Host.Outcome State Fault Refusal := .next (creditGrant x s)

end Sys2Proof.Machine
end

