-- ==== Sys2Proof/Machine/StartUp.lean ====
section
/-! DEFINITION. Machine/StartUp.lean: the eight steps from the rails to READY (19_clocks_power_startup.md R459 to R461;
18 R424 to R430, R433; 01 R19; 12 R263, R279; 15 R355). Each step answers the state after it and, where it fails, how
start-up ends. -/

namespace Sys2Proof.Machine

/-- How a step ends: start-up goes on, ends silently (step 1 or 2), or halts with a cause (step 3 or later). -/
inductive StepEnd where
  | on | silent | halt (cause : Nat)
  deriving DecidableEq, Repr

/-- FAULT_N without a mechanism of R406: what FIRST_MECH then reads is not stated (log entry 1). -/
def bareFault (s : Mach) : Mach :=
  let (v, s) := s.fresh
  s.assertFault (BitVec.ofNat 8 v)
/-- DEV_STATUS.STAGE at the beginning of a step. -/
def stage (s : Mach) (i : Nat) : Mach := s.setField (devReg 0) 27 24 i
/-- The end of a step at an uptime: DEV_STEP_MS. -/
def stepDone (s : Mach) (i ms : Nat) : Mach :=
  ({ s with uptime := max s.uptime ms, upNs := 0 } : Mach).setReg (devReg (0x10 + 4 * i)) (w32 (max s.uptime ms))

/-! ## Steps 1 and 2 -/

/-- A measured voltage inside its rail's window: which one is not stated (log entry 1). -/
def railUp (s : Mach) (r : Nat) : Mach :=
  let (v, s) := s.fresh
  let w := railWindow r
  s.setReg (devReg (0xC0 + 4 * r)) (w32 (2 ^ 31 + w.1 + v % (w.2 - w.1 + 1)))
/-- Whether the supervisor lets the module start: every rail has come up, none has left its window since, and PWR_GOOD, once low, has
been released (R451, R452). -/
def mayStart (s : Mach) (r : StartReport) : Bool :=
  r.railsOk && (s.life == .off || ((s.reg (devReg 0x80)).toNat.testBit 31 && s.railsBad.isEmpty))
/-- Step 1: the rails in ascending index. -/
def startRails (s : Mach) (ok : Bool) : Mach × StepEnd :=
  if !ok then ((s.setField (devReg 0x80) 31 31 0).assertFault 0x07#8, .silent)
  else
    let s := each (fun i s => railUp s i) (List.range 44) { s with refclk := true }
    ((stage s 1).setField (devReg 0x80) 31 31 1, .on)
/-- Whether the four straps read are the four die numbers (R19). -/
def strapsOk (l : List (Option DieNo)) : Bool :=
  l.length == 4 && l.all (fun x => x.isSome) && (List.range 4).all fun d => l.contains (some (BitVec.ofNat 2 d))
/-- The dies exchange active key indices and fused versions (18 R427): revocations and versions are completed. -/
def harmonise (s : State) : State :=
  let keys := ((List.range 4).map fun d => s.activeKey d).filter fun k => decide (k < 16)
  let top := keys.foldl max 0
  let svn := ((List.range 4).map fun d => (s.fusesOf d).svn).foldl max 0
  (List.range 4).foldl (fun (s : State) d =>
    let f := s.fusesOf d
    let f := if s.activeKey d < top then { f with revoked := f.revoked ||| BitVec.ofNat 16 (2 ^ top - 1) } else f
    s.setFuses d { f with svn := max f.svn svn }) s
/-- The verification of a copy on every die, recorded in SEC_BOOT; whether every die verified it. -/
def tryCopy (s : State) (b : Bool) (flashError : BitVec 2) : State × Bool :=
  let lo := if b then 4 else 0
  let code := fun (d : Nat) => if flashError.getLsbD (b2n b) then 6 else verifyImage (s.flash.copy b) (s.keyHash d) (s.fusesOf d).svn
  let m := (List.range 4).foldl (fun (m : Mach) d => m.setField (secReg (0x10 + 4 * d)) (lo + 3) lo (code d)) s.m
  ({ s with m := m }, (List.range 4).all fun d => code d == 1)
/-- The attestation certificates of the dies (18 R430). -/
def deriveKeys (s : Mach) : Mach :=
  let r := (List.range 4).foldl (fun (r : List Nat × Mach) d =>
    let (c, s) := attCert r.2 d
    (r.1 ++ [c], s)) ([], s)
  ({ r.2 with boot := { r.2.boot with certs := r.1 } } : Mach).setSec 27 true
/-- A copy boots: what SEC_STATUS and SAF_STATUS say of it, the measurements of the ROMs, the keys; then the configuration in
force and its measurement by firmware. -/
def bootCopy (s : State) (b fallback : Bool) : State :=
  let img := s.flash.copy b
  let h := imageHead img
  let key := s.activeKey 0
  let boot : Boot := { version := bits h 127 96, svn := imageSvn img, prod := bit h 40, noDebug := bit h 41,
                       digest := ofBytes (imageDigest img), akIndex := (List.range 4).map fun d => s.activeKey d }
  let m := { s.m with boot := boot }
  let m := ((m.setSec 25 fallback).setSec 24 b).setField (secReg 0) 23 20 key
  let m := (m.setField (secReg 0) 19 14 (s.fusesOf 0).svn).setField (secReg 0) 13 8 boot.svn
  let m := m.setField (safReg 0) 26 26 (b2n boot.prod)
  let rom := fun (m : Mach) (d : Nat) =>
    (m.extend d 0x01 (imageDigest img)).extend d 0x02
      ([BitVec.ofNat 8 (s.activeKey d), BitVec.ofNat 8 (s.fusesOf d).svn] ++ List.replicate 30 0#8)
  let m := (List.range 4).foldl rom m
  let m := if m.sec 30 then m else deriveKeys m
  let conf := match s.flash.confInForce with
    | some (_, c) => c.body
    | none => factoryConf
  let m := (m.extend 0 0x10 (sha256 s.flash.confRegion))
  let m := { m with conf := conf, repair := !conf.testBit 456 }
  let m := each (fun d (m : Mach) => m.setReg (schReg d 0) (w32 (bits conf 455 432))) (List.range 4) m
  { s with m := m }
/-- A PLL of an island at its nominal root, locked and ready. -/
def nominalPll (s : Mach) (g : Nat) (b : Bool) : Mach :=
  let w := if g % 20 = 18 then pllWord 25 512 3 true else if g % 20 = 19 then pllWord 1 40 4 true else pllWord 5 128 2 true
  let i := if b then 28 else 29
  (s.setReg (pllReg g b) w).setField (clkReg g 0) i i 1
/-- The PLLs of an island that become ready, at its nominal root: A switched in, or B where A is not ready. -/
def nominalClock (s : Mach) (g : Nat) (a b : Bool) : Mach :=
  let s := if a then nominalPll s g false else s
  let s := if b then nominalPll s g true else s
  if a || b then (s.setField (clkReg g 0) 31 30 (if a then 1 else 2)).setReg (clkReg g 4) (w32 (nominalKhz g)) else s
/-- Every flask halts (01 R19; 18 R424). -/
def haltAll (s : Mach) : Mach :=
  each (fun n s => s.setPair (n / 4) (n % 4) { s.pair (n / 4) (n % 4) with halted := true }) (List.range 16) (bareFault s)
/-- Step 2: the seal, the straps, the flask clocks, the keys, the boot order of R424. -/
def startBoot (s : State) (r : StartReport) : State × StepEnd :=
  let m := stage s.m 2
  let m := if r.sealOk && !m.sec 31 then m.setSec 29 true else ((m.setSec 31 true).setSec 30 true).setSec 29 false
  let s := { s with m := m }
  if !strapsOk r.straps then ({ s with m := haltAll s.m }, .silent)
  else
    let s := { s with m := each (fun d m => nominalClock m (20 * d + 17) true false) (List.range 4) s.m }
    let s := harmonise s
    let first := if r.bootSel then !s.flash.preferred else s.flash.preferred
    let (s, ok) := tryCopy s first r.flashError
    if ok then (bootCopy s first false, .on)
    else
      let (s, ok) := tryCopy s (!first) r.flashError
      if ok then (bootCopy s (!first) true, .on) else ({ s with m := haltAll s.m }, .silent)

/-! ## Steps 3 to 6 -/

/-- Step 3: the islands' PLLs, the sensors, the checker trees. The test of the clock monitors by an announced false frequency leaves no
state behind, and of a monitor that fails it the spec states no outcome. -/
def startClocks (s : Mach) (r : StartReport) : Mach × StepEnd :=
  let s := stage s 3
  let dead := r.deadIslands.map fun i => i.val
  let live := (List.range 80).filter fun g => islandClocked g && !dead.contains g
  let up := fun (g : Nat) (b : Bool) => !(r.unreadyPlls.any fun x => x.1.val == g && x.2 == b)
  let s := each (fun g s => nominalClock s g (up g false) (up g true)) live s
  let s := each (fun i s => s.sense (.island i) (r.islandTemps.getD i.val 0#16)) (List.finRange 80) s
  let s := each (fun g s => fenceCluster s (islandCluster g) false) (dead.filter isClusterIsland) s
  let s := each (fun (x : DieNo × PairNo) s => lockstepMismatch s x.1.toNat x.2.toNat 3) r.badTrees s
  let s := each (fun n s => if r.badTrees.any fun x => x.1.toNat == n / 4 && x.2.toNat == n % 4 then s
    else s.setField (flaskReg (n / 4) 0) (8 + n % 4) (8 + n % 4) 1) (List.range 16) s
  if dead.any fun g => islandClocked g && !isClusterIsland g then (s, .halt 1)
  else if r.sensorBad then (s, .halt 2)
  else (s, .on)
/-- A pseudo-channel that fails training is retired into the lowest free lane with nothing to migrate (R459; 12 R279). -/
def retireEmpty (s : Mach) (n : Nat) : Mach :=
  let d := n / 256
  let s := startRetire (s.setPc n { s.pc n with state := 2#2 }) n
  match (s.repairOf d).mig with
  | none => s
  | some m =>
    let s := each (fun (x : Region) s => match x with
      | .lane j k new => s.setSpread d j k new
      | .logical c => s.setRemap c 1 m.lane m.target) m.regions s
    let s := (s.setPc n { s.pc n with state := 3#2, reason := 0#2 }).setReg (memReg 0) (s.reg (memReg 0) + 1#32)
    s.setRepair d { s.repairOf d with mig := none }
/-- Step 4: training and zero-fill of the stacks. -/
def startNear (s : Mach) (r : StartReport) : Mach × StepEnd :=
  let s := stage s 4
  let bad := (r.badChannels.map fun n => n.toNat).eraseDups
  let overNow := (List.range 4).any fun d => decide ((bad.filter fun n => n / 256 == d).length > 8)
  let s := { s with near := [], slag := [], under := [], spare := [] }
  let s := each (fun g s => s.sense (.stack (BitVec.ofNat 5 g)) (degrees r.stackTemp.toNat)) (List.range 32) s
  let s := each (fun n s => s.setPc n { s.pc n with temp := r.stackTemp, lastTrain := s.uptime }) (List.range 1024) s
  if overNow || (!bad.isEmpty && !s.repair) then (s, .halt 3)
  else (each (fun n s => retireEmpty s n) bad s, .on)
/-- Step 5: training and zero-fill of the module tier, and training patterns in the test areas. -/
def startModule (s : Mach) (r : StartReport) : Mach :=
  let s := { stage s 5 with lp := [], lpSlag := [], lpSpare := [], lpPatterns := true }
  let s := each (fun p s => (s.setPkg p { s.pkg p with temp := r.packageTemp }).sense (.package (BitVec.ofNat 4 p))
    (degrees r.packageTemp.toNat)) (List.range 16) s
  each (fun (p : PkgNo) s => packageFail s p.toNat) r.badPackages s
/-- Step 6: the on-die memories zeroed, the engines tested, the tables zeroed. -/
def startTests (s : Mach) (r : StartReport) : Mach × StepEnd :=
  let s := { stage s 6 with scratch := [], stage := [], cbuf := [], acc := [], accAdds := [], cache := [], objs := [], maps := [],
                            tables := [], syncs := [], pools := [] }
  let s := each (fun (k : ClusterNo) s => fenceCluster s k.toNat false) r.badClusters s
  let s := each (fun c s => if (s.cluster (c / 16)).fenced then s
    else testCore s c (r.badCores.find? fun f => f.core.toNat == c)) (List.range 512) s
  let gone := (List.range 4).any fun d => (List.range 8).all fun i => r.badClusters.any fun k => k.toNat == 8 * d + i
  (s, if r.sramHalt || gone then .halt 4 else .on)

/-! ## Steps 7 and 8 -/

/-- Step 7: the link. -/
def startLink (s : Mach) (up : Bool) : Mach :=
  if up then (s.setReg (portReg 0) (linkWord s.conf)).raise 0 106 else s
/-- A condition of R420 that does not hold at READY (17 R421). -/
def lostAtReady (c : Condition) (s : Mach) : Mach :=
  let b := conditionBit c
  if (s.reg (safReg 0)).toNat.testBit b.1 then s else s.conditionLost b.2
/-- Step 8: READY, and GUARANTEE where every condition holds (R460). -/
def startReady (s : Mach) (r : StartReport) : Mach :=
  let s := ({ stage s 8 with life := .ready } : Mach).setField (devReg 0) 31 31 1
  let s := s.setField (safReg 0) 28 28 (b2n r.inRatings)
  let s := if r.inRatings then s else ratingFail s
  if bits (s.reg (safReg 0)).toNat 28 26 = 7 then s.setField (safReg 0) 29 29 1
  else lostAtReady .outsideRatings (lostAtReady .debugUnlocked (lostAtReady .notProduction s))
/-- A halt at step 3 or later (R461): FAULT_N, the cause, and step 7 alone where die 0's flask and Ethernet islands are
clocked. -/
def haltStart (s : Mach) (cause : Nat) (r : StartReport) : Mach :=
  let s := bareFault s
  let s := (({ s with life := .halted } : Mach).setField (devReg 0) 30 30 1).setField (devReg 0) 23 16 cause
  let dead := r.deadIslands.any fun i => i.val == 17 || i.val == 19
  if dead then s else startLink s r.linkUp
/-- START_UP. -/
def startUpAll (s : State) (r : StartReport) : State :=
  let ms := fun (i : Nat) => nth r.stepMs (i - 1)
  let put := fun (s : State) (m : Mach) => ({ s with m := m } : State)
  if s.m.life = .ready ∨ s.m.life = .test ∨ s.m.life = .halted then s
  else
    let base := if s.m.life = .off then resetMach { s.m with railsBad := [] } .starting else { s.m with life := .starting }
    let (m, e) := startRails base (mayStart s.m r)
    -- no start, with FAULT_N asserted, until RESET_N falls or the power returns
    if e ≠ .on then put s { m with life := .halted }
    else
      let (s, e) := startBoot (put s (stepDone m 1 (ms 1))) r
      if e ≠ .on then put s { s.m with life := .halted }
      else
        let (m, e) := startClocks (stepDone s.m 2 (ms 2)) r
        match e with
        | .halt c => put s (haltStart m c r)
        | _ =>
          let (m, e) := startNear (stepDone m 3 (ms 3)) r
          match e with
          | .halt c => put s (haltStart m c r)
          | _ =>
            let m := startModule (stepDone m 4 (ms 4)) r
            let (m, e) := startTests (stepDone m 5 (ms 5)) r
            match e with
            | .halt c => put s (haltStart m c r)
            | _ =>
              let m := startLink (stage (stepDone m 6 (ms 6)) 7) r.linkUp
              put s (stepDone (startReady (stepDone m 7 (ms 7)) r) 8 (ms 8))
/-- START_UP. -/
def execStartUp (r : StartReport) (s : State) : Host.Outcome State Fault Refusal := .next (startUpAll s r)

end Sys2Proof.Machine
end

