-- ==== Sys2Proof/Machine/Dispatch.lean ====
section
/-! DEFINITION. Machine/Dispatch.lean: the meaning of each command, one arm per constructor of `Instr`. -/

namespace Sys2Proof.Machine

/-- The effect of a command on everything but the queue. -/
def exec (i : Instr) (s : State) : Host.Outcome State Fault Refusal :=
  match i with
  -- messages of the mailbox (15, 18, 21)
  | .sessionOpen r => Sys2Proof.Machine.execSessionOpen r s
  | .sessionClose r => Sys2Proof.Machine.execSessionClose r s
  | .nop r => Sys2Proof.Machine.execNop r s
  | .contextCreate r => Sys2Proof.Machine.execContextCreate r s
  | .queueCreate r => Sys2Proof.Machine.execQueueCreate r s
  | .objectAlloc r => Sys2Proof.Machine.execObjectAlloc r s
  | .objectPlace r => Sys2Proof.Machine.execObjectPlace r s
  | .map r => Sys2Proof.Machine.execMap r s
  | .syncCreate r => Sys2Proof.Machine.execSyncCreate r s
  | .endpointSet r => Sys2Proof.Machine.execEndpointSet r s
  | .doorbell r => Sys2Proof.Machine.execDoorbell r s
  | .abort r => Sys2Proof.Machine.execAbort r s
  | .stateExportMessage r => Sys2Proof.Machine.execStateExportMessage r s
  | .stateImportMessage r => Sys2Proof.Machine.execStateImportMessage r s
  | .status r => Sys2Proof.Machine.execStatus r s
  | .telemetry r => Sys2Proof.Machine.execTelemetry r s
  | .regRead r => Sys2Proof.Machine.execRegRead r s
  | .attest r => Sys2Proof.Machine.execAttest r s
  | .fwUpdate r => Sys2Proof.Machine.execFwUpdate r s
  | .debugUnlock r => Sys2Proof.Machine.execDebugUnlock r s
  | .keyRotate r => Sys2Proof.Machine.execKeyRotate r s
  | .factoryReset r => Sys2Proof.Machine.execFactoryReset r s
  | .netConfig r => Sys2Proof.Machine.execNetConfig r s
  | .retrain r => Sys2Proof.Machine.execRetrain r s
  | .margin r => Sys2Proof.Machine.execMargin r s
  | .clkobs r => Sys2Proof.Machine.execClkobs r s
  | .enterTest r => Sys2Proof.Machine.execEnterTest r s
  | .exitTest r => Sys2Proof.Machine.execExitTest r s
  | .selftest r => Sys2Proof.Machine.execSelftest r s
  -- mailbox service and events (15)
  | .requestRingExecute k => Sys2Proof.Machine.execRequestRingExecute k s
  | .eventRepeat k => Sys2Proof.Machine.execEventRepeat k s
  | .eventLost k => Sys2Proof.Machine.execEventLost k s
  | .progress k seq => Sys2Proof.Machine.execProgress k seq s
  | .readyAnnounce => Sys2Proof.Machine.execReadyAnnounce s
  | .sessionExpiry k => Sys2Proof.Machine.execSessionExpiry k s
  -- the port (15)
  | .frameReceive f => Sys2Proof.Machine.execFrameReceive f s
  | .pfcXoff classes => Sys2Proof.Machine.execPfcXoff classes s
  | .rdmaWrite r => Sys2Proof.Machine.execRdmaWrite r s
  | .rdmaRead r => Sys2Proof.Machine.execRdmaRead r s
  | .unsupportedRdmaOp k mark => Sys2Proof.Machine.execUnsupportedRdmaOp k mark s
  | .congestionNotification ep => Sys2Proof.Machine.execCongestionNotification ep s
  | .rateRestore ep => Sys2Proof.Machine.execRateRestore ep s
  | .ackTimeout ep => Sys2Proof.Machine.execAckTimeout ep s
  | .linkDown => Sys2Proof.Machine.execLinkDown s
  | .linkRetry up => Sys2Proof.Machine.execLinkRetry up s
  -- commands of queues (14 R328): the queue they issue from and the descriptor
  | .matmul q d => Sys2Proof.Machine.execMatmul q d s
  | .conv q d => Sys2Proof.Machine.execConv q d s
  | .attnScore q d => Sys2Proof.Machine.execAttnScore q d s
  | .attnNorm q d => Sys2Proof.Machine.execAttnNorm q d s
  | .attnNormBackward q d => Sys2Proof.Machine.execAttnNormBackward q d s
  | .attnApply q d => Sys2Proof.Machine.execAttnApply q d s
  | .attnApplyBackward q d => Sys2Proof.Machine.execAttnApplyBackward q d s
  | .gatedStep q d => Sys2Proof.Machine.execGatedStep q d s
  | .scanChunk q d => Sys2Proof.Machine.execScanChunk q d s
  | .fork q d => Sys2Proof.Machine.execFork q d s
  | .appendPage q d => Sys2Proof.Machine.execAppendPage q d s
  | .freeList q d => Sys2Proof.Machine.execFreeList q d s
  | .deferredFree => Sys2Proof.Machine.execDeferredFree s
  | .stateExport q d => Sys2Proof.Machine.execStateExport q d s
  | .stateImport q d => Sys2Proof.Machine.execStateImport q d s
  | .optUpdate q d => Sys2Proof.Machine.execOptUpdate q d s
  | .reduce q d => Sys2Proof.Machine.execReduce q d s
  | .reduceAdapt q d => Sys2Proof.Machine.execReduceAdapt q d s
  | .reduceHist q d => Sys2Proof.Machine.execReduceHist q d s
  | .copy q d => Sys2Proof.Machine.execCopy q d s
  | .zero q d => Sys2Proof.Machine.execZero q d s
  | .wait q d => Sys2Proof.Machine.execWait q d s
  | .signal q d => Sys2Proof.Machine.execSignal q d s
  | .branch q d => Sys2Proof.Machine.execBranch q d s
  | .branchDeadline q => Sys2Proof.Machine.execBranchDeadline q s
  | .stashBranch q d => Sys2Proof.Machine.execStashBranch q d s
  -- dispatch (14) and cores (05)
  | .selectContext die => Sys2Proof.Machine.execSelectContext die s
  | .urgentPreempt die => Sys2Proof.Machine.execUrgentPreempt die s
  | .admission k => Sys2Proof.Machine.execAdmission k s
  | .coreJoin c => Sys2Proof.Machine.execCoreJoin c s
  | .tile c item entry => Sys2Proof.Machine.execTile c item entry s
  | .dma c item entry => Sys2Proof.Machine.execDma c item entry s
  | .vector c item entry => Sys2Proof.Machine.execVector c item entry s
  | .expand c item entry => Sys2Proof.Machine.execExpand c item entry s
  | .transactionSlotGrant c => Sys2Proof.Machine.execTransactionSlotGrant c s
  | .transactionResponse c => Sys2Proof.Machine.execTransactionResponse c s
  | .tableWalk c va a => Sys2Proof.Machine.execTableWalk c va a s
  | .workItemRetire c item => Sys2Proof.Machine.execWorkItemRetire c item s
  | .phaseBarrier c => Sys2Proof.Machine.execPhaseBarrier c s
  | .commandRetire cmd => Sys2Proof.Machine.execCommandRetire cmd s
  | .cellPhase cmd => Sys2Proof.Machine.execCellPhase cmd s
  | .scanPhase cmd => Sys2Proof.Machine.execScanPhase cmd s
  | .gatedStepStateLoad cmd => Sys2Proof.Machine.execGatedStepStateLoad cmd s
  -- the matrix engine (04)
  | .patternLoad e quarter => Sys2Proof.Machine.execPatternLoad e quarter s
  | .transposedLoad e quarter => Sys2Proof.Machine.execTransposedLoad e quarter s
  | .swap e quarter => Sys2Proof.Machine.execSwap e quarter s
  | .streamedRow e quarter => Sys2Proof.Machine.execStreamedRow e quarter s
  | .ballastRow e => Sys2Proof.Machine.execBallastRow e s
  | .accumulatorCommit e quarter flip => Sys2Proof.Machine.execAccumulatorCommit e quarter flip s
  | .drainRow e quarter flip => Sys2Proof.Machine.execDrainRow e quarter flip s
  | .modeChange e toQuarter => Sys2Proof.Machine.execModeChange e toQuarter s
  | .rampStepBoundary e => Sys2Proof.Machine.execRampStepBoundary e s
  | .startLimiterGrant die => Sys2Proof.Machine.execStartLimiterGrant die s
  | .startLimiterTokenReturn die => Sys2Proof.Machine.execStartLimiterTokenReturn die s
  -- tundish operations (05) and atomics of the shared cache (06)
  | .claim c => Sys2Proof.Machine.execClaim c s
  | .tundishReturn c index => Sys2Proof.Machine.execTundishReturn c index s
  | .tundishRetire c => Sys2Proof.Machine.execTundishRetire c s
  | .reclaimAfterReturn c => Sys2Proof.Machine.execReclaimAfterReturn c s
  | .addF32 r b => Sys2Proof.Machine.execAddF32 r b s
  | .addBf16 r b => Sys2Proof.Machine.execAddBf16 r b s
  | .addI32 r b => Sys2Proof.Machine.execAddI32 r b s
  | .addWide r b => Sys2Proof.Machine.execAddWide r b s
  | .maxF32 r b => Sys2Proof.Machine.execMaxF32 r b s
  | .minF32 r b => Sys2Proof.Machine.execMinF32 r b s
  | .maxI32 r b => Sys2Proof.Machine.execMaxI32 r b s
  | .minI32 r b => Sys2Proof.Machine.execMinI32 r b s
  | .atomicAnd r wide b => Sys2Proof.Machine.execAtomicAnd r wide b s
  | .atomicOr r wide b => Sys2Proof.Machine.execAtomicOr r wide b s
  | .fetchInc r => Sys2Proof.Machine.execFetchInc r s
  | .atomicRead r => Sys2Proof.Machine.execAtomicRead r s
  | .atomicCreditGrant g => Sys2Proof.Machine.execAtomicCreditGrant g s
  | .creditGrant x => Sys2Proof.Machine.execCreditGrant x s
  | .cacheAccess a => Sys2Proof.Machine.execCacheAccess a s
  -- ladle units (06)
  | .ladleDelivery => Sys2Proof.Machine.execLadleDelivery s
  | .ladleBarrier page => Sys2Proof.Machine.execLadleBarrier page s
  | .ladleShareComplete g page => Sys2Proof.Machine.execLadleShareComplete g page s
  -- ingot (13)
  | .ingotCompress o bar => Sys2Proof.Machine.execIngotCompress o bar s
  | .ingotExpand o bar => Sys2Proof.Machine.execIngotExpand o bar s
  -- memory (12)
  | .sectorRead a errs => Sys2Proof.Machine.execSectorRead a errs s
  | .sectorWrite a data mask slag errs => Sys2Proof.Machine.execSectorWrite a data mask slag errs s
  | .patrolRead g errs => Sys2Proof.Machine.execPatrolRead g errs s
  | .holdBegin pc why => Sys2Proof.Machine.execHoldBegin pc why s
  | .holdRelease pc => Sys2Proof.Machine.execHoldRelease pc s
  | .heldWaitDeadline cmd => Sys2Proof.Machine.execHeldWaitDeadline cmd s
  | .retrainTrigger pc why => Sys2Proof.Machine.execRetrainTrigger pc why s
  | .retrainComplete pc celsius => Sys2Proof.Machine.execRetrainComplete pc celsius s
  | .retrainFail pc => Sys2Proof.Machine.execRetrainFail pc s
  | .pseudoChannelRetire pc => Sys2Proof.Machine.execPseudoChannelRetire pc s
  | .migrationStep die => Sys2Proof.Machine.execMigrationStep die s
  | .marginStepHold h => Sys2Proof.Machine.execMarginStepHold h s
  | .lpddrRetrain p celsius => Sys2Proof.Machine.execLpddrRetrain p celsius s
  | .lpddrPackageFail p => Sys2Proof.Machine.execLpddrPackageFail p s
  -- tiers (13)
  | .invalidation ctx va len => Sys2Proof.Machine.execInvalidation ctx va len s
  | .moveUpStep o remote => Sys2Proof.Machine.execMoveUpStep o remote s
  | .moveUpCommit o => Sys2Proof.Machine.execMoveUpCommit o s
  | .promotionTimeout o => Sys2Proof.Machine.execPromotionTimeout o s
  | .moveDownStep o => Sys2Proof.Machine.execMoveDownStep o s
  | .moveDownCommit o => Sys2Proof.Machine.execMoveDownCommit o s
  | .abandonRequest o => Sys2Proof.Machine.execAbandonRequest o s
  | .accessedSweep => Sys2Proof.Machine.execAccessedSweep s
  | .refetch o bar data => Sys2Proof.Machine.execRefetch o bar data s
  -- faults, budgets, teardown, fencing (13, 14)
  | .restartableFault cmd cause => Sys2Proof.Machine.execRestartableFault cmd cause s
  | .replay cmd => Sys2Proof.Machine.execReplay cmd s
  | .budgetOverrun cmd => Sys2Proof.Machine.execBudgetOverrun cmd s
  | .teardown ctx => Sys2Proof.Machine.execTeardown ctx s
  | .coreHang c => Sys2Proof.Machine.execCoreHang c s
  | .coreFence c cause => Sys2Proof.Machine.execCoreFence c cause s
  | .fenceGateClose c => Sys2Proof.Machine.execFenceGateClose c s
  | .clusterFence k => Sys2Proof.Machine.execClusterFence k s
  -- the flask (16)
  | .lockstepMismatch die p halves => Sys2Proof.Machine.execLockstepMismatch die p halves s
  | .checkerTreeTest die p tree flagged => Sys2Proof.Machine.execCheckerTreeTest die p tree flagged s
  | .watchdogExpiry die p => Sys2Proof.Machine.execWatchdogExpiry die p s
  | .safWdogKick die p => Sys2Proof.Machine.execSafWdogKick die p s
  | .interruptEvent die n => Sys2Proof.Machine.execInterruptEvent die n s
  | .irqClaim die p n => Sys2Proof.Machine.execIrqClaim die p n s
  | .irqEoi die p n => Sys2Proof.Machine.execIrqEoi die p n s
  | .irqSwset die n => Sys2Proof.Machine.execIrqSwset die n s
  | .irqRouteSet die n mask => Sys2Proof.Machine.execIrqRouteSet die n mask s
  | .flaskTimerExpiry die timer => Sys2Proof.Machine.execFlaskTimerExpiry die timer s
  | .registerWrite addr value => Sys2Proof.Machine.execRegisterWrite addr value s
  -- safety (17)
  | .sramScrub a found => Sys2Proof.Machine.execSramScrub a found s
  | .residueMismatch u => Sys2Proof.Machine.execResidueMismatch u s
  | .flitRetry h => Sys2Proof.Machine.execFlitRetry h s
  | .retryExhaustion h => Sys2Proof.Machine.execRetryExhaustion h s
  | .clockMonitorWindow isl khz => Sys2Proof.Machine.execClockMonitorWindow isl khz s
  | .safeStateEntry => Sys2Proof.Machine.execSafeStateEntry s
  | .safetyRecord r => Sys2Proof.Machine.execSafetyRecord r s
  | .freeze => Sys2Proof.Machine.execFreeze s
  | .freezeRelease ns stuck => Sys2Proof.Machine.execFreezeRelease ns stuck s
  | .conservationAudit us => Sys2Proof.Machine.execConservationAudit us s
  | .ledgerSweep => Sys2Proof.Machine.execLedgerSweep s
  | .conditionLoss c => Sys2Proof.Machine.execConditionLoss c s
  -- security (18)
  | .svnAdvance => Sys2Proof.Machine.execSvnAdvance s
  | .presenceAssert => Sys2Proof.Machine.execPresenceAssert s
  | .sealPattern sent received => Sys2Proof.Machine.execSealPattern sent received s
  -- clocks and power (19)
  | .pllLock isl pllB => Sys2Proof.Machine.execPllLock isl pllB s
  | .clockSwitch isl src => Sys2Proof.Machine.execClockSwitch isl src s
  | .pllLockLoss isl => Sys2Proof.Machine.execPllLockLoss isl s
  | .refclkLoss => Sys2Proof.Machine.execRefclkLoss s
  | .gatedBlockAccess isl block write => Sys2Proof.Machine.execGatedBlockAccess isl block write s
  | .railOutOfWindow r mv => Sys2Proof.Machine.execRailOutOfWindow r mv s
  | .vinShutdown => Sys2Proof.Machine.execVinShutdown s
  | .thermalThrottle isl sixteenths => Sys2Proof.Machine.execThermalThrottle isl sixteenths s
  | .throttleRestore isl => Sys2Proof.Machine.execThrottleRestore isl s
  | .temperatureLimit x sixteenths => Sys2Proof.Machine.execTemperatureLimit x sixteenths s
  | .powerCapSample watts => Sys2Proof.Machine.execPowerCapSample watts s
  | .resetNFall ns => Sys2Proof.Machine.execResetNFall ns s
  | .internalResetRelease => Sys2Proof.Machine.execInternalResetRelease s
  | .startUp r => Sys2Proof.Machine.execStartUp r s
  -- the test access port (21)
  | .extest die shift => Sys2Proof.Machine.execExtest die shift s
  | .idcode die => Sys2Proof.Machine.execIdcode die s
  | .samplePreload die preload => Sys2Proof.Machine.execSamplePreload die preload s
  | .secBoot die => Sys2Proof.Machine.execSecBoot die s
  | .flaskDebug die p halt addr => Sys2Proof.Machine.execFlaskDebug die p halt addr s
  | .gatedRead die addr => Sys2Proof.Machine.execGatedRead die addr s
  | .bypass die => Sys2Proof.Machine.execBypass die s
  | .trst low => Sys2Proof.Machine.execTrst low s
  -- presence, reset, alerts (18, 19)
  | .presenceRelease => Sys2Proof.Machine.execPresenceRelease s
  | .presenceWindowExpiry => Sys2Proof.Machine.execPresenceWindowExpiry s
  | .delayedModuleReset => Sys2Proof.Machine.execDelayedModuleReset s
  | .thermAlertN x sixteenths => Sys2Proof.Machine.execThermAlertN x sixteenths s
  | .standbyPllLockLoss isl pllB => Sys2Proof.Machine.execStandbyPllLockLoss isl pllB s

end Sys2Proof.Machine
end

