-- ==== Sys2Proof/Machine/Tick.lean ====
section
/-! DEFINITION. Machine/Tick.lean: the passing of one cycle of every counting clock, a nanosecond at nominal frequency, which
is what a step with no command waiting does (DESIGN CHOICE, log entry 2): uptime, charges, budgets, waits and their counters, watchdogs
(00_scope.md R11; 04_matrix_engine.md R84, R90, R104; 06_ladle_units.md R164; 14_scheduling_and_preemption.md R336, R341; 05 R139; 12 R274; 16 R395; 19 R458). -/

namespace Sys2Proof.Machine

/-- T of R336 for an island whose counting clock is half its root: round(1,024,000 / F), F in MHz. -/
def tickRate (s : Mach) (g : Nat) : Nat :=
  let khz := (s.reg (clkReg g 4)).toNat
  if khz = 0 then 0 else (2 * 2048000000 + khz) / (2 * khz)
/-- T of a cluster. -/
def clusterRate (s : Mach) (k : Nat) : Nat := tickRate s (20 * (k / 8) + k % 8)
/-- T_s of a memory slice. -/
def sliceRate (s : Mach) (g : Nat) : Nat := tickRate s (20 * (g / 8) + 8 + g % 8)
/-- Whether a slot of a command has made its last retirement (R341): its barriers are all behind it. -/
def slotDone (s : Mach) (c : Cmd) (x : Slot) : Bool :=
  c.planned && (match c.slots.findSome? fun y => y.cores.head? with
    | some k => decide ((s.phases k).length ≤ x.barriers)
    | none => false) &&
  (match dOp c.desc with
    | 6 => c.step == gSteps c.desc
    | 7 => c.step == 1
    | _ => true)
/-- A cycle of a slot: counted from admission to its last retirement, but for held cycles. -/
def Slot.cycle (x : Slot) (held done : Bool) : Slot := if x.admitted && !held && !done then { x with cycles := x.cycles + 1 } else x
/-- The units at work on a ladle command: all while a barrier is before them, else those whose shares are not complete. -/
def unitsBusy (s : Mach) (c : Cmd) : List Nat :=
  if !isLadleOp (dOp c.desc) || (classHead s (isPageOp (dOp c.desc))).all (fun h => h.id != c.id) then []
  else if c.st == .work && c.pass + 1 == passes c.desc then c.shares
  else List.range 32
/-- The waits of a command on channels that are still held (12 R274). -/
def heldNow (s : Mach) (c : Cmd) : List HeldWait := c.heldOn.filter fun w => (s.pc w.pc).state == 1#2
/-- The units of a ladle command that wait on a held channel. -/
def unitsHeld (s : Mach) (c : Cmd) : List Nat := ((heldNow s c).filter fun w => decide (544 ≤ w.unit)).map fun w => w.unit - 544
/-- The ticks a command is charged in one cycle. -/
def cycleCharge (s : Mach) (c : Cmd) : Nat :=
  if isCoreOp (dOp c.desc) && (c.st == .running || c.st == .stopped) then
    c.slots.foldl (fun (a : Nat) x => a + clusterRate s x.cluster * x.cores.length) 0
  else (unitsBusy s c).foldl (fun (a : Nat) g => a + 4 * sliceRate s g) 0
/-- A cycle of a command. A flask command counts cycles while it runs; each of a command's waits counts its own. -/
def Cmd.cycle (s : Mach) (c : Cmd) : Cmd :=
  let held := !(heldNow s c).isEmpty
  let units := ((unitsBusy s c).filter fun g => !(unitsHeld s c).contains g).foldl
    (fun t g => tabSet (fun _ => 0) t g (tabGet (fun _ => 0) t g + 1)) c.unitCycles
  let flask := isFlaskOp (dOp c.desc) && c.st == .running && !held
  { c with charge := c.charge + cycleCharge s c, slots := c.slots.map fun x => x.cycle held (slotDone s c x),
           unitCycles := units, cycles := units.foldl (fun a x => max a x.2) (c.cycles + b2n flask),
           waited := if c.st == .branching then c.waited + 1 else c.waited, held := c.held + b2n held,
           heldOn := c.heldOn.map fun w => if (s.pc w.pc).state == 1#2 then { w with cycles := w.cycles + 1 } else w }
/-- A cycle of the pairs' watchdogs (16 R395), once firmware runs: each counts to 2,000,000 and expires; that of a pair which JTAG halts
is paused. -/
def wdogCycle (s : Mach) : Mach :=
  if !(s.life == .ready || s.life == .test || (s.reg (devReg 0)).toNat.testBit 30) then s
  else each (fun n s =>
    let x := s.pair (n / 4) (n % 4)
    if x.jtagHalt || decide (2000000 ≤ x.wdogCycles) then s
    else
      let s := s.setPair (n / 4) (n % 4) { x with wdogCycles := x.wdogCycles + 1 }
      if x.wdogCycles + 1 = 2000000 then watchdogExpiry s (n / 4) (n % 4) else s) (List.range 16) s
/-- Whether a core's transaction waits for a transaction slot (05 R111). -/
def CoreSt.slotWait (x : CoreSt) : Bool := x.trans.any fun t => !t.slot
/-- Whether a unit of a core makes requests of the scratchpad: an entry that has issued is to complete. -/
def CoreSt.requests (x : CoreSt) : Bool := x.items.any fun y => y.entries.any fun e => !e.done
/-- Whether a scratchpad request of a core at work on an entry is refused in a cycle is a free value (05 R109; log entry 37). -/
def bankCycle (s : Mach) (c : Nat) (x : CoreSt) : Mach :=
  if !x.requests then s
  else { s with free := s.free + 1 }.bump (coreReg c 0x10) ((Config.bankStalls c s.free).toNat % 2)
/-- The cycles of waiting that the registers count: swaps, start-limiter grants and commits of the engines (04 R84, R90,
R104), transactions of the cores (05 R111), commands waiting for a reservation (05 R132), atomic requests (06 R164). -/
def waitCycles (s : Mach) : Mach :=
  let eng := fun (p : Nat × Engine) s =>
    let s := s.bump (engReg p.1 0x50) (b2n (p.2.q.any fun x => x.2.swapWait))
    let s := s.bump (engReg p.1 0x58) (b2n (p.2.rampReq || p.2.granted))
    s.bump (engReg p.1 0x5C) (b2n (p.2.q.any fun x => x.2.accWait))
  let s := s.engines.foldl (fun s p => eng p s) s
  let s := s.cores.foldl (fun s p => s.bump (coreReg p.1 0x1C) (b2n p.2.slotWait)) s
  let s := s.cores.foldl (fun s p => bankCycle s p.1 p.2) s
  let s := s.cmds.foldl (fun s c => if isCoreOp (dOp c.desc) && c.st == .running then
      c.slots.foldl (fun s x => s.bump (clReg x.cluster 0x10) (b2n !x.admitted)) s else s) s
  s.slices.foldl (fun s p => s.bump (ldlReg p.1 0x20) (b2n !p.2.atomWait.isEmpty)) s
/-- What waited and may go on is tried again: operations on synchronisation objects, walkers' deregistrations, RDMA requests, gate
messages, the release of objects that an owner has left. -/
def retries (s : Mach) : Mach :=
  let s := if s.syncDue.isEmpty then s else if s.safe then s.resend else s.resendSyncs
  s.retryWalkers.serveRx.serveKept.reapOrphans
/-- Time advances by a nanosecond. -/
def Mach.advance (s : Mach) : Mach :=
  if s.upNs + 1 < 1000000 then { s with upNs := s.upNs + 1 } else { s with upNs := 0, uptime := s.uptime + 1 }
/-- One cycle. -/
def tick (s : Mach) : Mach :=
  if s.life = .off ∨ s.life = .held then s
  else
    let t := s.cmds.foldl (fun (a : Nat) c => a + cycleCharge s c) 0
    let cores := tabMap (fun _ => {}) (fun k (x : CoreSt) =>
      { x with idleCycles := if s.holdsWork k then x.idleCycles + 1 else 0 }) s.cores
    let s := { s with cmds := s.cmds.map fun c => c.cycle s, ticks := s.ticks + t, cores := cores }
    let s := retries (waitCycles (wdogCycle s))
    -- a BRANCH does not wait beyond its deadline (05 R139)
    let s := each (fun (c : Cmd) s => if c.st == .branching then branchDeadline s c.queue else s) s.cmds s
    timersReached s.advance

end Sys2Proof.Machine
end

