-- ==== Sys2Proof/Safety.lean ====
section
/-! DEFINITION. Safety.lean: what a state of the module must always satisfy, in the terms the statements use. -/

namespace Sys2Proof.Safety

open Sys2Proof.Machine

/-- Fused versions and revocations only grow, the key slots stay (18 R427, R428). -/
def FusesKept (a b : Tab Fuses) : Prop :=
  ∀ d k : Nat, (tabGet (fun _ => {}) b d).keys = (tabGet (fun _ => {}) a d).keys ∧ ((tabGet (fun _ => {}) a d).svn ≤ (tabGet (fun _ => {}) b d).svn) ∧
    ((tabGet (fun _ => {}) a d).revoked.getLsbD k = true → (tabGet (fun _ => {}) b d).revoked.getLsbD k = true)

/-- An event of source n of die d has reached its controller (16 R397): its pending bit is set and no other changes; one that
found the bit set is counted as merged; no other register changes. -/
def EventTaken (d n : Nat) (a b : Mach) : Prop :=
  (∀ (d' : DieNo) (n' : SourceNo), b.irqPending d'.toNat n'.toNat =
    (a.irqPending d'.toNat n'.toNat || decide (d'.toNat = d ∧ n'.toNat = n))) ∧
  b.reg (flaskReg d 0x30) = satAdd (a.reg (flaskReg d 0x30)) (if a.irqPending d n then 1 else 0) ∧
  ∀ x, x ≠ flaskReg d (0x100 + 4 * (n / 32)) → x ≠ flaskReg d 0x30 → b.reg x = a.reg x

/-- The machine once a request has arrived (15 R365; 16 R396): the frame counted, the events it acknowledges gone, the request in its
session's ring, the mailbox interrupt raised. -/
def atArrival (op : Nat) (r : Req) (s : State) : Mach :=
  let k := r.session.toNat
  let m := (s.m.bump (portReg 0x10) 1).acked k r.ack.toNat
  let y := m.session k
  let b : Buffered := { seq := r.seq.toNat, opcode := op, priv := m.privileged, req := r }
  (m.setSession k { y with ring := y.ring ++ [b] }).raise 0 105

/-- A request that the mailbox executes when it arrives (15 R358, R363 to R366; 17 R412, R414, R416): link up, control flask running,
READY, no safe state, a well-formed datagram to GCT_PORT of a class below 7 that names an open session and its cookie, every reserved
field zero, and the sequence number the session expects, which no buffered request has; once it has arrived the turn is its session's
(no freeze, no unmap that waits for a ladle command, no other requester before it), and a DOORBELL's entries are read. -/
def Served (op : Nat) (r : Req) (s : State) : Prop :=
  s.m.linkUp = true ∧ r.port.toNat = s.m.gctPort ∧ s.m.controlAlive = true ∧ s.m.isReady = true ∧ s.m.safe = false ∧ r.cls ≠ 7#3 ∧
    malformed r = false ∧ s.m.known r = true ∧ fieldsOk op r = true ∧ (s.m.session r.session.toNat).expected = r.seq.toNat ∧
    (∀ b ∈ (s.m.session r.session.toNat).ring, b.seq ≠ r.seq.toNat) ∧
    (atArrival op r s).mbxNext = some r.session.toNat ∧
    doorbellWaits (atArrival op r s) op r.session.toNat (reqBody r) = none

/-- Registers that serving a request may change: counters of the port and the mailbox, and on die 0 the word of the mailbox's
pending bits and the count of merged events (15 R390, 16 R402). -/
def mailboxRegs : List Nat :=
  [portReg 0x10, portReg 0x14, portReg 0x40, portReg 0x4C, flaskReg 0 0x30, flaskReg 0 0x10C]

/-- The machine when a request of `Served` is handled (15 R365, R366): as at its arrival, the request out of the ring again, the
mailbox's turn its session's. -/
def atService (op : Nat) (r : Req) (s : State) : Mach :=
  let k := r.session.toNat
  let y := ((s.m.bump (portReg 0x10) 1).acked k r.ack.toNat).session k
  { (atArrival op r s).setSession k y with mbxLast := k }

/-- The machine once a handled request is answered (15 R363, R365): the answer is stored and sent, the next number is expected. -/
def answered (op : Nat) (r : Req) (y : SecReply) : Mach :=
  let k := r.session.toNat
  let z := y.1.m.session k
  let done := { z with expected := (r.seq.toNat + 1) % 2 ^ 32,
                       answers := (⟨r.seq.toNat, op, y.2.1, y.2.2⟩ :: z.answers).take 64 }
  let m := if z.isOpen then y.1.m.setSession k done else y.1.m
  (m.bump (portReg 0x40) 1).answer r op y.2.1 y.2.2

/-- What the mailbox does once a request has been handled: the answer, and after that of an OBJECT_PLACE the final report where the
object is in its tier already (15 R376). -/
def afterHandling (op : Nat) (r : Req) (y : SecReply) : State :=
  { y.1 with m := (answered op r y).afterAnswer op y.2.1 (reqBody r) }

/-- A request was answered with a status and a body: the answer is the newest that its session stores, and the session expects
the next number (15 R365). -/
def Answered (op : Nat) (r : Req) (st body : Nat) (s t : State) : Prop :=
  (t.m.session r.session.toNat).expected = (r.seq.toNat + 1) % 2 ^ 32 ∧
    (t.m.session r.session.toNat).answers =
      (⟨r.seq.toNat, op, st, body⟩ :: (s.m.session r.session.toNat).answers).take 64

/-- An event of a mechanism asserts FAULT_N (17 R411): it is asserted, and where it was not before, SAF_STATUS and the register
beside it keep the event's MECH and uptime; where it was, they keep the first event's. -/
def FaultAsserted (mech : Byte) (a b : Mach) : Prop :=
  b.faultN = true ∧
    (a.faultN = true → bits (b.reg (safReg 0)).toNat 15 8 = bits (a.reg (safReg 0)).toNat 15 8 ∧ b.reg (safReg 4) = a.reg (safReg 4)) ∧
    (a.faultN = false → bits (b.reg (safReg 0)).toNat 15 8 = mech.toNat ∧ b.reg (safReg 4) = w32 a.uptime)

/-- A dangerous failure has been taken (17 R404, R411, R413): FAULT_N is asserted, the module is to enter the safe state, one
record is due, as of this moment; the other bits of SAF_STATUS stand. -/
def FaultTaken (r : RecordReq) (a b : Mach) : Prop :=
  FaultAsserted r.mech a b ∧ b.danger = true ∧
    b.recordsDue = a.recordsDue ++ [⟨r, a.uptime, bits (a.reg (safReg 0)).toNat 29 26, a.livePools, !a.faultN⟩] ∧
    ∀ i, i ≠ 31 → (i < 8 ∨ 15 < i) → (b.reg (safReg 0)).toNat.testBit i = (a.reg (safReg 0)).toNat.testBit i

/-- Frames of a class leave in their order, while the link is up: they are sent and counted, or, where a PFC frame has stopped the
class, kept until one lets it go on (15 R357, R390). -/
def Sends (cls : Nat) (l : List Sent) (a b : Mach) : Prop :=
  if cls % 16 < 7 ∧ a.pfcStopped.getLsbD (cls % 16) = true then
    b.txHeld = a.txHeld ++ (l.map fun x => (cls, x)) ∧ b.out = a.out
  else b.out = (l.map fun x => (cls, x)).reverse ++ a.out ∧ b.txHeld = a.txHeld ∧
    b.reg (portReg 0x14) = satAdd (a.reg (portReg 0x14)) (l.map a.framesOf).sum

/-- No register outside a list has changed. -/
def OnlyRegs (l : List Nat) (a b : Mach) : Prop := ∀ x, x ∉ l → b.reg x = a.reg x

/-- The registers that an event of source n of die d and a dangerous failure may change (16 R402, 17 R422). -/
def alarmRegs (d n : Nat) : List Nat := [flaskReg d (0x100 + 4 * (n / 32)), flaskReg d 0x30, safReg 0, safReg 4]

/-- The module as a reset leaves it (19 R457): every field but the named ones at its reset value. -/
def Reset (life : Life) (a b : Mach) : Prop :=
  b = { free := b.free, out := a.out, life := life, railsBad := b.railsBad, trstLow := a.trstLow, refclk := a.refclk,
        regs := b.regs } ∧
    ∀ x, x ≠ devReg 0x80 → b.reg x = regReset x

/-- Command numbers are fresh: every command in flight has one below the next to be given. -/
def NumbersFresh (s : Mach) : Prop := ∀ c ∈ s.cmds, c.id < s.nextCmd

/-- The entry at RD_PTR of queue q, read as descriptor d, may issue now (14 R329, R330, R342): no command of the queue awaits
its replay, the entry is on no skipped path, dispatchers issue, the context is active, the entry is ready and its header
passes. -/
def MayIssue (q d : Nat) (s : Mach) : Prop :=
  NumbersFresh s ∧ s.toReplay q = none ∧ (s.queue q).skipping (s.queue q).rd = false ∧ s.issues = true ∧
    s.runs (s.queue q).ctx = true ∧ s.readyAt q d = true ∧ headerCode s q d = none

/-- The command that the entry at RD_PTR becomes (14 R330): numbered next, with its context, queue, position, home die,
descriptor and job. -/
def FromEntry (q d : Nat) (s : Mach) (c : Cmd) : Prop :=
  c.id = s.nextCmd ∧ c.ctx = (s.queue q).ctx ∧ c.queue = q ∧ c.pos = (s.queue q).rd ∧
    c.die = homeDie (s.queue q).dieMask ∧ c.desc = d ∧ c.job = (s.queue q).jobOf (s.queue q).rd ∧ c.replays = 0

/-- RD_PTR of queue q has moved past its entry, the other queues stand, the command took the next number and its issue is
counted (14 R326, R330, R350). -/
def Issued (q : Nat) (s t : Mach) : Prop :=
  t.queue q = (s.queue q).passed (s.queue q).rd ∧ (∀ j, j ≠ q → t.queue j = s.queue j) ∧ t.nextCmd = s.nextCmd + 1 ∧
    t.reg (schReg (homeDie (s.queue q).dieMask) 0x10) = satAdd (s.reg (schReg (homeDie (s.queue q).dieMask) 0x10)) 1 ∧
    (t.sched (homeDie (s.queue q).dieMask)).issued = (s.sched (homeDie (s.queue q).dieMask)).issued + 1

/-- No command waits at a WAIT or BRANCH. -/
def NoneHeld (s : Mach) : Prop := ∀ c ∈ s.cmds, c.st ≠ .waiting ∧ c.st ≠ .branching

/-- The entry that a command of a queue stands for (14 R327, R328): the queue, and the descriptor with the row's opcode and
form in place. -/
def queueEntryOf : Instr → Option (QueueNo × Nat)
  | .matmul q d => some (q, dSet d.toNat 1 (dForm d.toNat))
  | .conv q d => some (q, dSet d.toNat 2 (dForm d.toNat))
  | .attnScore q d => some (q, dSet d.toNat 3 (dForm d.toNat))
  | .attnNorm q d => some (q, dSet d.toNat 4 false)
  | .attnNormBackward q d => some (q, dSet d.toNat 4 true)
  | .attnApply q d => some (q, dSet d.toNat 5 false)
  | .attnApplyBackward q d => some (q, dSet d.toNat 5 true)
  | .gatedStep q d => some (q, dSet d.toNat 6 (dForm d.toNat))
  | .scanChunk q d => some (q, dSet d.toNat 7 (dForm d.toNat))
  | .fork q d => some (q, dSet d.toNat 8 (dForm d.toNat))
  | .appendPage q d => some (q, dSet d.toNat 9 (dForm d.toNat))
  | .freeList q d => some (q, dSet d.toNat 10 (dForm d.toNat))
  | .stateExport q d => some (q, dSet d.toNat 11 (dForm d.toNat))
  | .stateImport q d => some (q, dSet d.toNat 12 (dForm d.toNat))
  | .optUpdate q d => some (q, dSet d.toNat 13 (dForm d.toNat))
  | .reduce q d => some (q, dSet d.toNat 14 (dForm d.toNat))
  | .reduceAdapt q d => some (q, setBits (dSet d.toNat 14 (dForm d.toNat)) 131 128 6)
  | .reduceHist q d => some (q, setBits (dSet d.toNat 14 (dForm d.toNat)) 131 128 7)
  | .copy q d => some (q, dSet d.toNat 15 (dForm d.toNat))
  | .zero q d => some (q, dSet d.toNat 16 (dForm d.toNat))
  | .wait q d => some (q, dSet d.toNat 17 (dForm d.toNat))
  | .signal q d => some (q, dSet d.toNat 18 (dForm d.toNat))
  | .branch q d => some (q, dSet d.toNat 19 (dForm d.toNat))
  | .stashBranch q d => some (q, setBits (dSet d.toNat 19 (dForm d.toNat)) 193 192 1)
  | _ => none

/-- A bring-up request of an action as the datagram that carries it (21 R472). -/
def bringUpReq (a : Nat) (r : Req) : Req :=
  { r with body := bringUpBody r.body a, length := if r.length = 0#16 then 1#16 else r.length }

/-- The message that a row of the mailbox sends: its opcode and its datagram (15 R369; 21 R472). -/
def messageOf : Instr → Option (Nat × Req)
  | .sessionOpen r => some (0x01, r)
  | .sessionClose r => some (0x02, r)
  | .nop r => some (0x03, r)
  | .contextCreate r => some (0x10, r)
  | .queueCreate r => some (0x11, r)
  | .objectAlloc r => some (0x20, r)
  | .objectPlace r => some (0x21, r)
  | .map r => some (0x22, r)
  | .syncCreate r => some (0x23, r)
  | .endpointSet r => some (0x24, r)
  | .doorbell r => some (0x30, r)
  | .abort r => some (0x31, r)
  | .stateExportMessage r => some (0x40, r)
  | .stateImportMessage r => some (0x41, r)
  | .status r => some (0x50, r)
  | .telemetry r => some (0x51, r)
  | .regRead r => some (0x52, r)
  | .attest r => some (0x60, r)
  | .fwUpdate r => some (0x70, r)
  | .debugUnlock r => some (0x71, r)
  | .keyRotate r => some (0x72, r)
  | .factoryReset r => some (0x73, r)
  | .netConfig r => some (0x74, r)
  | .retrain r => some (0x51, bringUpReq 1 r)
  | .margin r => some (0x51, bringUpReq 2 r)
  | .clkobs r => some (0x51, bringUpReq 3 r)
  | .enterTest r => some (0x51, bringUpReq 4 r)
  | .exitTest r => some (0x51, bringUpReq 5 r)
  | .selftest r => some (0x51, bringUpReq 6 r)
  | _ => none

end Sys2Proof.Safety
end

