-- ==== Sys2Proof/Certificates/Slice0/Obligations.lean ====
section
/-! DEFINITION. Certificates/Slice0/Obligations.lean: what the provers are asked to prove of the model. Each statement names
the rules of spec/ it rests on. A frame is said as an equation: the next state is the old one but for the named parts. -/

open Sys2Proof Sys2Proof.Machine Sys2Proof.Safety

/-! ## The block as a whole -/

/-- The block's step. The cycle that passes on an empty queue is the model's choice (DESIGN CHOICE, log entry 2). -/
def Obligations.StepTakesFrontCommand : Prop :=
  (∀ (s : State) (c : Instr) (rest : List Instr), s.pending = c :: rest → step s = exec c { s with pending := rest }) ∧
  (∀ s : State, s.pending = [] → step s = .next { s with m := tick s.m } ∧
    (s.m.life ≠ .off → s.m.life ≠ .held → s.m.upNs < 1000000 → (tick s.m).nowNs = s.m.nowNs + 1))

/-- R294, R350, R402, R422 and R462 for the reset values of registers. That the queue is empty and memory holds zeros is the
model's choice (log entry 6). -/
def Obligations.ResetLeaves : Prop :=
  State.reset.pending = [] ∧ NumbersFresh State.reset.m ∧ State.reset.m.leafUse = .walk ∧ State.reset.m.cmds = [] ∧
  (∀ d : Nat, State.reset.fusesOf d = {}) ∧
  (∀ k : Nat, (State.reset.m.session k).isOpen = false ∧ (State.reset.m.ctx k).state = 0#2 ∧ (State.reset.m.queue k).state = 0#2 ∧
    (State.reset.m.sync k).live = false ∧ (State.reset.m.obj k).state = 0#3) ∧
  State.reset.m.isReady = false ∧ State.reset.m.faultN = false ∧ State.reset.m.safe = false ∧ State.reset.m.linkUp = false ∧
  (∀ k : Nat, (State.reset.m.core k).fenced = false ∧ (State.reset.m.core k).cmd = none ∧ (State.reset.m.cluster k).fenced = false ∧
    (State.reset.m.pc k).state = 0#2) ∧
  (∀ c : Nat, c < 1024 → State.reset.m.remap c = (0, 0, c)) ∧
  State.reset.m.reg (safReg 0) = 0x08000000#32 ∧ (∀ d : Nat, d < 4 → State.reset.m.sliceTicks d = 102400000000) ∧
  (∀ d : Nat, d < 4 → State.reset.m.reg (flaskReg d 0x200) = 0x18427BDE#32 ∧ State.reset.m.reg (flaskReg d 0x204) = 0xFFFF7BDE#32) ∧
  (∀ k : Nat, State.reset.m.nearByte k = 0#8)

/-- The block's frame: a command's effect is on everything but the queue. -/
def Obligations.CommandsKeepTheQueue : Prop :=
  ∀ (c : Instr) (s : State),
    (∃ t, exec c s = .next t ∧ t.pending = s.pending) ∨
    (c.wf = false ∧ (∃ what, exec c s = .fault (.illFormed what)) ∧
      ((∃ a e, c = .sectorRead a e) ∨ (∃ a d m b e, c = .sectorWrite a d m b e) ∨ (∃ g e, c = .patrolRead g e) ∨
        (∃ h, c = .flitRetry h) ∨ ∃ h, c = .retryExhaustion h))

/-- R427, R428: fuses blow one way, over every step of the block. -/
def Obligations.FusesOnlyGrow : Prop :=
  ∀ s t : State, step s = .next t → FusesKept s.fuses t.fuses

/-- The invariants that statements about issue and walks assume; the numbers are the model's own names of commands in flight, and
between steps no translations but a walk's own are in use (R298). -/
def Obligations.NumbersStayFresh : Prop :=
  (∀ s t : State, NumbersFresh s.m → step s = .next t → NumbersFresh t.m) ∧
  (∀ s t : State, s.m.leafUse = .walk → step s = .next t → t.m.leafUse = .walk)

/-! ## The matrix engines (04) -/

/-- R80 to R82, R84. `y` is the machine after the image's bytes have been read, `b` the bank that takes them: the next pattern, or
the pattern where a swap waits for it. -/
def Obligations.LoadsFillTheNextPattern : Prop :=
  ∀ (s : State) (e : EngineNo) (q : BitVec 2) (c : Instr) (tr : Bool) (x : Quarter) (u : EngTile) (cmd : Cmd)
    (img : List Byte) (y : Mach),
    (c = .patternLoad e q ∧ tr = false ∨ c = .transposedLoad e q ∧ tr = true) →
    (s.m.eng e.toNat).quarter q.toNat = x → (x.tiles.find? fun t => t.loaded < t.pats) = some u → x.valid = false →
    (x.swapWait = true → x.stream.isSome = true ∧ u.streamed = false) →
    (s.m.eng e.toNat).uses q.toNat = true → u.quarter = (s.m.eng e.toNat).mode → (s.m.eng e.toNat).stopped = false →
    u.transpose = tr → s.m.cmd? u.cmd = some cmd →
    s.m.coreRead u.core cmd.ctx u.cmd (u.patAddr.1, u.patAddr.2 + u.loaded * (if u.quarter then 512 else 2048))
      (if u.quarter then 512 else 2048) = .ok img y →
    ∃ (t : State) (z : Quarter) (b : Bank), exec c s = .next t ∧ (t.m.eng e.toNat).quarter q.toNat = z ∧
      (if x.swapWait then z.pattern else z.next) = b ∧
      (∀ p k n : Nat, p < u.planes → k < u.side → n < u.side →
        nth b.codes ((p * u.side + k) * u.side + n) =
          if tr then elemCode u.patF ((img.drop (n * (2 * u.side))).take (2 * u.side)) (u.side * p + k)
          else elemCode u.patF ((img.drop (k * (2 * u.side))).take (2 * u.side)) (n * u.planes + p)) ∧
      (x.swapWait = false → z = { x with next := b, valid := true, tiles := z.tiles } ∧
        (∀ (i : Nat) (v : EngTile), x.tiles[i]? = some v → z.tiles[i]? =
          some (if v.same u.cmd u.item u.entry then { u with loaded := u.loaded + 1 } else v)) ∧
        t.m.eng e.toNat = { y.eng e.toNat with q := (t.m.eng e.toNat).q }) ∧
      (x.swapWait = true →
        z = { x with pattern := b, next := x.pattern, valid := false, swapWait := false, tiles := z.tiles } ∧
        t.m.eng e.toNat = { y.eng e.toNat with q := (t.m.eng e.toNat).q, patFmt := (t.m.eng e.toNat).patFmt,
                                               strFmt := (t.m.eng e.toNat).strFmt }) ∧
      (∀ q', q' ≠ q.toNat → (t.m.eng e.toNat).quarter q' = (y.eng e.toNat).quarter q') ∧
      (∀ g, g ≠ e.toNat → t.m.eng g = y.eng g) ∧
      (∀ a, a ≠ engReg e.toNat 0x48 → t.m.reg a = y.reg a) ∧
      t.m.reg (engReg e.toNat 0x48) = satAdd (y.reg (engReg e.toNat 0x48))
        (if u.patF = .b4 then (b.codes.filter b4Nil).length else 0) ∧
      t = { s with m := { y with engines := t.m.engines, regs := t.m.regs, cmds := t.m.cmds } }

/-- R83, R84, R94. What the two banks hold after a mode change is open: the frame takes it from the state after. That PAT_FMT and
STR_FMT follow the last swap of any quarter is the model's choice (log entry 57). -/
def Obligations.SwapsAndModeChanges : Prop :=
  (∀ (s : State) (e : EngineNo) (q : BitVec 2) (x : Quarter) (u : EngTile), (s.m.eng e.toNat).quarter q.toNat = x →
    x.stream = some u → (s.m.eng e.toNat).uses q.toNat = true → u.quarter = (s.m.eng e.toNat).mode →
    (s.m.eng e.toNat).stopped = false → u.swapped ≠ u.pats → (u.swapped = 0 ∨ u.issued = u.rows) →
    ∃ (t : State) (z : Quarter), exec (.swap e q) s = .next t ∧ (t.m.eng e.toNat).quarter q.toNat = z ∧
      (x.valid = true → z.pattern = x.next ∧ z.next = x.pattern ∧ z.valid = false ∧
        (∀ (i : Nat) (v : EngTile), x.tiles[i]? = some v → z.tiles[i]? =
          some (if v.same u.cmd u.item u.entry then { u with swapped := u.swapped + 1, issued := 0 } else v)) ∧
        z = { x with pattern := z.pattern, next := z.next, valid := z.valid, swapWait := false, tiles := z.tiles } ∧
        (t.m.eng e.toNat).patFmt.toNat = u.pat % 16 ∧ (t.m.eng e.toNat).strFmt.toNat = u.str % 16) ∧
      (x.valid = false → z = { x with swapWait := true } ∧ (t.m.eng e.toNat).patFmt = (s.m.eng e.toNat).patFmt) ∧
      (∀ q', q' ≠ q.toNat → (t.m.eng e.toNat).quarter q' = (s.m.eng e.toNat).quarter q') ∧
      t.m.eng e.toNat = { s.m.eng e.toNat with q := (t.m.eng e.toNat).q, patFmt := (t.m.eng e.toNat).patFmt,
                                               strFmt := (t.m.eng e.toNat).strFmt } ∧
      (∀ g, g ≠ e.toNat → t.m.eng g = s.m.eng g) ∧ t = { s with m := { s.m with engines := t.m.engines } }) ∧
  (∀ (s : State) (e : EngineNo) (b : Bool), (s.m.eng e.toNat).mode ≠ b →
    (∀ p ∈ (s.m.eng e.toNat).q, p.2.flight = [] ∧ p.2.pendingRows = []) →
    ∃ t, exec (.modeChange e b) s = .next t ∧ (t.m.eng e.toNat).mode = b ∧
      (∀ q', (t.m.eng e.toNat).quarter q' = {
        (s.m.eng e.toNat).quarter q' with
        valid := false, pattern := ((t.m.eng e.toNat).quarter q').pattern, next := ((t.m.eng e.toNat).quarter q').next }) ∧
      t.m.eng e.toNat = { s.m.eng e.toNat with mode := b, q := (t.m.eng e.toNat).q } ∧
      (∀ g, g ≠ e.toNat → t.m.eng g = s.m.eng g) ∧ t = { s with m := { s.m with engines := t.m.engines } }) ∧
  (∀ (s : State) (e : EngineNo) (b : Bool),
    ((s.m.eng e.toNat).mode = b ∨ ∃ p ∈ (s.m.eng e.toNat).q, p.2.flight ≠ [] ∨ p.2.pendingRows ≠ []) →
    exec (.modeChange e b) s = .next s)

/-- R85, R92, R103, and R110 for the row queues: a row that waits in the engine's queue streams; with none there the core reads the
next row once for every engine the tile names. `y` is the machine after the row's bytes have been read. When a ballast row
is issued in quarter mode, and its length there, is the model's choice (log entry 58). -/
def Obligations.RealAndBallastRows : Prop :=
  (∀ (s : State) (e : EngineNo) (q : BitVec 2) (x : Quarter) (u : EngTile) (cmd : Cmd),
    (s.m.eng e.toNat).quarter q.toNat = x → x.stream = some u → (s.m.eng e.toNat).uses q.toNat = true →
    u.quarter = (s.m.eng e.toNat).mode → (s.m.eng e.toNat).stopped = false → u.swapped ≠ 0 → u.issued < u.rows →
    x.swapWait = false → x.accWait = false → x.used < (s.m.eng e.toNat).level → s.m.cmd? u.cmd = some cmd →
    (∀ (l : List Byte) (rest : List (List Byte)), u.queue = l :: rest →
      ∃ (t : State) (z : Quarter) (f : Flight), exec (.streamedRow e q) s = .next t ∧
        (t.m.eng e.toNat).quarter q.toNat = z ∧ z.flight = x.flight ++ [f] ∧ f.row = u.issued ∧ f.pat = u.swapped - 1 ∧
        f.bank = x.pattern ∧ (∀ i, i < u.side * u.planes → nth f.elems i = elemCode u.strF l i) ∧
        (∀ (i : Nat) (v : EngTile), x.tiles[i]? = some v → z.tiles[i]? =
          some (if v.same u.cmd u.item u.entry then { u with queue := rest, issued := u.issued + 1 } else v)) ∧
        z = { x with flight := z.flight, tiles := z.tiles, used := x.used + cyclesPerRow u.patF u.strF u.quarter } ∧
        t.m.eng e.toNat = { s.m.eng e.toNat with q := (t.m.eng e.toNat).q, realRow := true, lastRow := some f.elems } ∧
        (∀ q', q' ≠ q.toNat → (t.m.eng e.toNat).quarter q' = (s.m.eng e.toNat).quarter q') ∧
        (∀ g, g ≠ e.toNat → t.m.eng g = s.m.eng g) ∧
        t.m.reg (engReg e.toNat 0x4C) = satAdd (s.m.reg (engReg e.toNat 0x4C)) 1 ∧
        (∀ a, a ≠ engReg e.toNat 0x4C → t.m.reg a = s.m.reg a) ∧
        t = { s with m := { s.m with engines := t.m.engines, regs := t.m.regs } }) ∧
    (∀ (l : List Byte) (y : Mach), u.queue = [] → rowRoom s.m e.toNat q.toNat u = true →
      s.m.coreRead u.core cmd.ctx u.cmd
        (u.strAddr.1, u.strAddr.2 + u.fetched % u.rows * u.rowStride * 64 + u.fetched / u.rows * u.patStride * 64)
        (ceilDiv (u.side * u.planes * u.strF.width) 8) = .ok l y →
      ∃ (t : State) (z : Quarter) (f : Flight), exec (.streamedRow e q) s = .next t ∧
        (t.m.eng e.toNat).quarter q.toNat = z ∧ z.flight = x.flight ++ [f] ∧ f.row = u.issued ∧ f.pat = u.swapped - 1 ∧
        f.bank = x.pattern ∧ (∀ i, i < u.side * u.planes → nth f.elems i = elemCode u.strF l i) ∧
        z = { x with flight := z.flight, tiles := z.tiles, used := x.used + cyclesPerRow u.patF u.strF u.quarter } ∧
        t.m.eng e.toNat = { s.m.eng e.toNat with q := (t.m.eng e.toNat).q, realRow := true, lastRow := some f.elems } ∧
        (∀ g, g ≠ e.toNat → g / 4 = e.toNat / 4 → ∀ (i : Nat) (v : EngTile), ((s.m.eng g).quarter q.toNat).tiles[i]? = some v →
          ((t.m.eng g).quarter q.toNat).tiles[i]? =
            some (if v.same u.cmd u.item u.entry then { v with queue := v.queue ++ [l], fetched := v.fetched + 1 } else v)) ∧
        (∀ g, g / 4 ≠ e.toNat / 4 → t.m.eng g = s.m.eng g) ∧
        t.m.reg (engReg e.toNat 0x4C) = satAdd (y.reg (engReg e.toNat 0x4C)) 1 ∧
        (∀ a, a ≠ engReg e.toNat 0x4C → t.m.reg a = y.reg a) ∧
        t = { s with m := { y with engines := t.m.engines, regs := t.m.regs, cmds := t.m.cmds } }) ∧
    (u.queue = [] → rowRoom s.m e.toNat q.toNat u = false → exec (.streamedRow e q) s = .next s)) ∧
  (∀ (s : State) (e : EngineNo), (s.m.eng e.toNat).busy < (s.m.eng e.toNat).level → rowReady s.m e.toNat = false →
    ∃ t, exec (.ballastRow e) s = .next t ∧
      (∀ q, (t.m.eng e.toNat).quarter q = if q < 4 ∧ (s.m.eng e.toNat).uses q = true then
        { (s.m.eng e.toNat).quarter q with used := (s.m.eng e.toNat).busy + (s.m.eng e.toNat).ballastCycles }
        else (s.m.eng e.toNat).quarter q) ∧
      t.m.eng e.toNat = { s.m.eng e.toNat with q := (t.m.eng e.toNat).q } ∧
      (∀ g, g ≠ e.toNat → t.m.eng g = s.m.eng g) ∧
      t.m.reg (engReg e.toNat 0x54) = satAdd (s.m.reg (engReg e.toNat 0x54)) 1 ∧
      (∀ a, a ≠ engReg e.toNat 0x54 → t.m.reg a = s.m.reg a) ∧
      t = { s with m := { s.m with engines := t.m.engines, regs := t.m.regs } }) ∧
  (∀ (s : State) (e : EngineNo), ((s.m.eng e.toNat).level ≤ (s.m.eng e.toNat).busy ∨ rowReady s.m e.toNat = true) →
    exec (.ballastRow e) s = .next s)

/-- R86 to R90. What the checks after the commit do is in the frame's named fields. -/
def Obligations.CommitsWriteTheirRow : Prop :=
  (∀ (s : State) (e : EngineNo) (q : BitVec 2) (flip : Word) (x : Quarter) (f : Flight) (rest : List Flight) (u : EngTile)
    (cmd : Cmd), (s.m.eng e.toNat).quarter q.toNat = x → x.flight = f :: rest →
    (x.tiles.find? fun t => t.same f.cmd f.item f.entry) = some u → s.m.cmd? f.cmd = some cmd →
    x.pendingRows.contains ((u.slot + f.row / u.side) * 32 + f.row % u.side) = false →
    ∃ t, exec (.accumulatorCommit e q flip) s = .next t ∧
      (∀ i n, u.cols[i]? = some n →
        t.m.accGet (accIndex e.toNat u.quarter q.toNat (u.slot + f.row / u.side) (f.row % u.side) n) =
          (commitVals s.m e.toNat q.toNat u f (descCmdId cmd.desc)).vals.getD i 0#32 ^^^ (if i = 0 then flip else 0#32)) ∧
      (∀ a, (∀ n ∈ u.cols, a ≠ accIndex e.toNat u.quarter q.toNat (u.slot + f.row / u.side) (f.row % u.side) n) →
        t.m.accGet a = s.m.accGet a) ∧
      ((t.m.eng e.toNat).quarter q.toNat).flight.length ≤ rest.length ∧
      t = { s with m := { s.m with acc := t.m.acc, accAdds := t.m.accAdds, regs := t.m.regs, engines := t.m.engines,
                                   cores := t.m.cores, clusters := t.m.clusters, slices := t.m.slices, cmds := t.m.cmds,
                                   ctxs := t.m.ctxs, scheds := t.m.scheds, chargedTotal := t.m.chargedTotal,
                                   recordsDue := t.m.recordsDue } }) ∧
  (∀ (s : State) (e : EngineNo) (q : BitVec 2) (flip : Word) (x : Quarter) (f : Flight) (rest : List Flight) (u : EngTile)
    (cmd : Cmd), (s.m.eng e.toNat).quarter q.toNat = x → x.flight = f :: rest →
    (x.tiles.find? fun t => t.same f.cmd f.item f.entry) = some u → s.m.cmd? f.cmd = some cmd →
    x.pendingRows.contains ((u.slot + f.row / u.side) * 32 + f.row % u.side) = true →
    ∃ t, exec (.accumulatorCommit e q flip) s = .next t ∧
      (t.m.eng e.toNat).quarter q.toNat = { x with accWait := true } ∧
      (∀ q', q' ≠ q.toNat → (t.m.eng e.toNat).quarter q' = (s.m.eng e.toNat).quarter q') ∧
      (∀ g, g ≠ e.toNat → t.m.eng g = s.m.eng g) ∧ t = { s with m := { s.m with engines := t.m.engines } })

/-- R90, R91, R99, and R57, R58 for the value as it enters the runner. `rr` is the row as its runner program leaves it, `y` the
machine after the output is written, by transactions where it goes to device virtual space (R111). -/
def Obligations.DrainsCheckThenWrite : Prop :=
  (∀ (s : State) (e : EngineNo) (q : BitVec 2) (flip : Word) (x : Quarter) (u : EngTile) (cmd : Cmd) (vals : List Word)
    (sts : List Nat) (k dm : Nat) (r1 rr : RunRow) (y1 y2 y3 y : Mach), (s.m.eng e.toNat).quarter q.toNat = x →
    (x.tiles.find? fun t => t.drain && t.drained < t.rows) = some u → s.m.cmd? u.cmd = some cmd →
    (u.comPat = u.pats ∨ u.comPat + 1 = u.pats ∧ u.drained < u.comRows) →
    (match u.cols.map fun c => s.m.accGet (accIndex e.toNat u.quarter q.toNat (u.slot + u.drained / u.side)
        (u.drained % u.side) c) with | [] => [] | v :: l => (v ^^^ flip) :: l) = vals →
    checkPass u.isInt (ckSum u.isInt vals) (tw x.rowY ((u.slot + u.drained / u.side) * 32 + u.drained % u.side))
      (tw x.rowG ((u.slot + u.drained / u.side) * 32 + u.drained % u.side))
      (tn x.rowS ((u.slot + u.drained / u.side) * 32 + u.drained % u.side)) = k → k ≠ 0 →
    (if u.runEntry = 0 then [] else runStages (s.m.planEntry u.core u.runEntry)) = sts →
    discardMask u cmd sts (if k = 2 then s.m.bump (engReg e.toNat 0x64) 1 else s.m) = .ok dm y1 →
    foldRes (fun r st s => runStageOn (u.intMode sts) u cmd st u.drained r s)
      ({ vals := u.cols.zip (vals.map fun v => if u.intMode sts then v
           else if u.isInt then f32Mul (f32OfInt v.toInt) u.factor
           else if f32IsNaN v then f32NaN else if f32IsInf v then v else f32Mul v u.factor), discard := dm } : RunRow)
      sts y1 = .ok r1 y2 →
    emptyRow u cmd u.drained r1 y2 = .ok rr y3 →
    (if u.outAddr.1 = 0 then
        Res.ok () (addTrans y3 u.core u.item u.entry 2 ((rowBytes u rr).flatMap fun w =>
          putMoves (u.outAddr.2 + u.drained * u.outStride * 16 + w.1) w.2 .stream))
      else eachRes (fun w s => s.coreWrite u.core cmd.ctx u.cmd (u.outAddr.1, u.outAddr.2 + u.drained * u.outStride * 16 + w.1) w.2)
        (rowBytes u rr) y3) = .ok () y → NoneHeld y →
    (u.drained + 1 < u.rows →
      ∃ (t : State) (z : Quarter), exec (.drainRow e q flip) s = .next t ∧ (t.m.eng e.toNat).quarter q.toNat = z ∧
        z.pendingRows = (((y.eng e.toNat).quarter q.toNat).pendingRows.filter fun k =>
          k != (u.slot + u.drained / u.side) * 32 + u.drained % u.side) ∧
        (∀ (i : Nat) (v : EngTile), ((y.eng e.toNat).quarter q.toNat).tiles[i]? = some v → z.tiles[i]? =
          some (if v.same u.cmd u.item u.entry then
            { u with drained := u.drained + 1, amax := f32Max u.amax rr.amax, sats := u.sats + rr.sats,
                     flushes := u.flushes + rr.flushes, events := u.events ||| rr.events, infs := u.infs || rr.infs }
            else v)) ∧
        z = { (y.eng e.toNat).quarter q.toNat with pendingRows := z.pendingRows, tiles := z.tiles, accWait := z.accWait } ∧
        z.accWait = (((y.eng e.toNat).quarter q.toNat).accWait &&
          { (y.eng e.toNat).quarter q.toNat with pendingRows := z.pendingRows }.headBlocked) ∧
        (∀ g, g ≠ e.toNat → t.m.eng g = y.eng g) ∧
        t = { s with m := { y with engines := t.m.engines, cores := t.m.cores, cmds := t.m.cmds } }) ∧
    (u.drained + 1 = u.rows → (∀ st ∈ sts, bits st 3 0 ≠ 7) → (∀ z, y.cmd? u.cmd = some z → z.st ≠ .stopped) →
      ∃ (t : State) (z : Quarter), exec (.drainRow e q flip) s = .next t ∧ (t.m.eng e.toNat).quarter q.toNat = z ∧
        z.tiles = (((y.eng e.toNat).quarter q.toNat).tiles.filter fun v => !v.same u.cmd u.item u.entry) ∧
        (∀ g, g ≠ e.toNat → t.m.eng g = y.eng g) ∧
        t = { s with m := { y with engines := t.m.engines, cores := t.m.cores, cmds := t.m.cmds } })) ∧
  (∀ (s : State) (e : EngineNo) (q : BitVec 2) (flip : Word) (x : Quarter) (u : EngTile) (cmd : Cmd) (vals : List Word),
    (s.m.eng e.toNat).quarter q.toNat = x →
    (x.tiles.find? fun t => t.drain && t.drained < t.rows) = some u → s.m.cmd? u.cmd = some cmd →
    (u.comPat = u.pats ∨ u.comPat + 1 = u.pats ∧ u.drained < u.comRows) →
    (match u.cols.map fun c => s.m.accGet (accIndex e.toNat u.quarter q.toNat (u.slot + u.drained / u.side)
        (u.drained % u.side) c) with | [] => [] | v :: l => (v ^^^ flip) :: l) = vals →
    checkPass u.isInt (ckSum u.isInt vals) (tw x.rowY ((u.slot + u.drained / u.side) * 32 + u.drained % u.side))
      (tw x.rowG ((u.slot + u.drained / u.side) * 32 + u.drained % u.side))
      (tn x.rowS ((u.slot + u.drained / u.side) * 32 + u.drained % u.side)) = 0 → NoneHeld s.m →
    ∃ t, exec (.drainRow e q flip) s = .next t ∧
      t.m.reg (engReg e.toNat 0x60) = satAdd (s.m.reg (engReg e.toNat 0x60)) 1 ∧
      t.m.recordsDue.length = s.m.recordsDue.length + 1 ∧
      (∀ v ∈ ((t.m.eng e.toNat).quarter q.toNat).tiles, v.same u.cmd u.item u.entry = false) ∧
      t = { s with m := { s.m with regs := t.m.regs, engines := t.m.engines, cores := t.m.cores, clusters := t.m.clusters,
                                   slices := t.m.slices, cmds := t.m.cmds, ctxs := t.m.ctxs, scheds := t.m.scheds,
                                   chargedTotal := t.m.chargedTotal, recordsDue := t.m.recordsDue } })

/-- R103, R105. R104. `k` counts the engines between the pointer and the engine granted. -/
def Obligations.RampsAndTheirLimiter : Prop :=
  (∀ (s : State) (e : EngineNo) (n : Engine), s.m.eng e.toNat = n →
    ∃ (t : State) (z : Engine), exec (.rampStepBoundary e) s = .next t ∧ t.m.eng e.toNat = z ∧
      (∀ q, z.quarter q = { n.quarter q with used := if n.level = 0 then 0 else (n.quarter q).used - n.level }) ∧
      z = { n with level := z.level, q := z.q, realRow := false, lastRow := z.lastRow, rampReq := z.rampReq,
                   granted := z.granted, stopped := z.stopped } ∧
      (0 < n.level → (n.realRow = true ∨ n.rowWaiting = true) → z.level = min 8 (n.level + 1)) ∧
      (0 < n.level → n.realRow = false → n.rowWaiting = false → z.level = n.level - 1) ∧
      (0 < n.level → z.rampReq = n.rampReq ∧ z.granted = n.granted ∧ z.stopped = n.stopped) ∧
      (n.level = 0 → (s.m.core (e.toNat / 4)).fenced = false → (s.m.core (e.toNat / 4)).closing = false →
        n.stopped = false → n.granted = true → z.level = 1 ∧ z.granted = false ∧ z.rampReq = false) ∧
      (n.level = 0 → (s.m.core (e.toNat / 4)).fenced = false → (s.m.core (e.toNat / 4)).closing = false →
        n.stopped = false → n.granted = false → z.level = 0 ∧ z.rampReq = (n.rampReq || n.rowWaiting) ∧ z.granted = false) ∧
      (n.level = 0 → (s.m.core (e.toNat / 4)).fenced = false → (s.m.core (e.toNat / 4)).closing = false →
        n.stopped = true → z.level = 0 ∧ z.rampReq = { n with stopped := false }.rowWaiting ∧ z.granted = false ∧
        z.stopped = false) ∧
      (n.level = 0 → ((s.m.core (e.toNat / 4)).fenced = true ∨ (s.m.core (e.toNat / 4)).closing = true) →
        z.level = 0 ∧ z.rampReq = false ∧ z.granted = false ∧ z.stopped = true) ∧
      (∀ g, g ≠ e.toNat → t.m.eng g = s.m.eng g) ∧ t = { s with m := { s.m with engines := t.m.engines } }) ∧
  ((∀ (s : State) (d : DieNo) (k : Nat), s.m.frozen = false → 0 < (s.m.limiter d.toNat).tokens → k < 512 →
    (∀ j, j < k → (s.m.eng (512 * d.toNat + ((s.m.limiter d.toNat).last + 1 + j) % 512)).rampReq = false ∨
      (s.m.eng (512 * d.toNat + ((s.m.limiter d.toNat).last + 1 + j) % 512)).granted = true) →
    (s.m.eng (512 * d.toNat + ((s.m.limiter d.toNat).last + 1 + k) % 512)).rampReq = true →
    (s.m.eng (512 * d.toNat + ((s.m.limiter d.toNat).last + 1 + k) % 512)).granted = false →
    ∃ t, exec (.startLimiterGrant d) s = .next t ∧
      t.m.limiter d.toNat = ⟨(s.m.limiter d.toNat).tokens - 1, ((s.m.limiter d.toNat).last + 1 + k) % 512,
        (s.m.limiter d.toNat).out ++ [((s.m.limiter d.toNat).last + 1 + k) % 512]⟩ ∧
      (∀ g, t.m.eng g = if g = 512 * d.toNat + ((s.m.limiter d.toNat).last + 1 + k) % 512
        then { s.m.eng g with granted := true } else s.m.eng g) ∧
      (∀ d', d' ≠ d.toNat → t.m.limiter d' = s.m.limiter d') ∧
      t = { s with m := { s.m with engines := t.m.engines, limiters := t.m.limiters } }) ∧
  (∀ (s : State) (d : DieNo), (s.m.frozen = true ∨ (s.m.limiter d.toNat).tokens = 0 ∨
      ∀ i, i < 512 → (s.m.eng (512 * d.toNat + i)).rampReq = false ∨ (s.m.eng (512 * d.toNat + i)).granted = true) →
    exec (.startLimiterGrant d) s = .next s) ∧
  (∀ (s : State) (d : DieNo) (i : Nat) (l : List Nat), (s.m.limiter d.toNat).out = i :: l →
    ∃ t, exec (.startLimiterTokenReturn d) s = .next t ∧
      t.m.limiter d.toNat = { s.m.limiter d.toNat with tokens := (s.m.limiter d.toNat).tokens + 1, out := l } ∧
      (∀ d', d' ≠ d.toNat → t.m.limiter d' = s.m.limiter d') ∧ t = { s with m := { s.m with limiters := t.m.limiters } }) ∧
  (∀ (s : State) (d : DieNo), (s.m.limiter d.toNat).out = [] → exec (.startLimiterTokenReturn d) s = .next s))

/-! ## Cores (05, 08, 09) -/

/-- R132 for admission, R115 and R89 for joining; which slot a free core joins is R335's (log entry 44 for the reserve). `y` is the
machine when what these read has been read. -/
def Obligations.AdmissionAndJoining : Prop :=
  (∀ (s : State) (k : ClusterNo) (id i : Nat) (l : List (Nat × Nat)) (c c' : Cmd) (n : Nat) (y : Mach) (sl : Slot),
    (s.m.cluster k.toNat).waiting = (id, i) :: l → s.m.cmd? id = some c → (s.m.cluster k.toNat).fenced = false →
    s.m.runs c.ctx = true → s.m.safe = false → s.m.frozen = false → readRes c s.m = .ok n y → y.cmd? id = some c' →
    c'.slots[i]? = some sl →
    (lowBase ((y.cluster k.toNat).res.map fun r => r.2) n = none →
      ∃ t, exec (.admission k) s = .next t ∧ t = { s with m := { y with cmds := t.m.cmds } }) ∧
    (∀ b, lowBase ((y.cluster k.toNat).res.map fun r => r.2) n = some b →
      b + n ≤ 2048 ∧ (∀ r ∈ (y.cluster k.toNat).res, b + n ≤ r.2.1 ∨ r.2.1 + r.2.2 ≤ b) ∧
      ∃ t z, exec (.admission k) s = .next t ∧
        t.m.cluster k.toNat = { y.cluster k.toNat with res := (y.cluster k.toNat).res ++ [((id, i), b, n)],
                                                       resFree := (y.cluster k.toNat).resFree - n, waiting := l } ∧
        (∀ j, j ≠ k.toNat → t.m.cluster j = y.cluster j) ∧ t.m.cmd? id = some z ∧
        z.slots[i]? = some { sl with admitted := true } ∧
        t = { s with m := { y with clusters := t.m.clusters, cmds := t.m.cmds } })) ∧
  (∀ (s : State) (c : CoreNo) (cmd z : Cmd) (i : Nat) (sl : Slot) (w y : Mach), s.m.coreFree c.toNat = true →
    s.m.frozen = false → s.m.joinSlot (c.toNat / 16) = some (cmd, i, sl) →
    joinAs s.m c.toNat cmd i sl = (z, w) → loadPlan z c.toNat w = .ok () y →
    (∀ x, y.cmd? cmd.id = some x → (x.heldOn.any fun h => h.is c.toNat 3) = false) →
    exec (.coreJoin c) s = .next { s with m := y } ∧
      (w.core c.toNat).cmd = some cmd.id ∧ (w.core c.toNat).slot = i ∧ (w.core c.toNat).items = [] ∧
      (w.core c.toNat).trans = [] ∧ (w.core c.toNat).slotsFree = (s.m.core c.toNat).slotsFree + (s.m.core c.toNat).slotsHeld ∧
      (w.core c.toNat).xctx = cmd.ctx ∧ (w.core c.toNat).idleCycles = 0 ∧
      (∀ d, d ≠ c.toNat → w.core d = s.m.core d) ∧
      (∀ e, 4 * c.toNat ≤ e → e < 4 * c.toNat + 4 → (w.eng e).tags = [] ∧
        ∀ q, (w.eng e).quarter q = { (s.m.eng e).quarter q with
          intSlots := [], rowY := [], rowG := [], rowS := [], rowN := [], colY := [], colG := [], strSum := [], strAbs := [] }) ∧
      (∀ e, e / 4 ≠ c.toNat → w.eng e = s.m.eng e) ∧
      (∀ a, w.accGet a = if a / 131072 = c.toNat then 0#32 else s.m.accGet a) ∧
      (i < cmd.slots.length → z.slots[i]? = some { sl with cores := sl.cores ++ [c.toNat] }) ∧
      w = { s.m with cores := w.cores, engines := w.engines, acc := w.acc, accAdds := w.accAdds, cmds := w.cmds }) ∧
  (∀ (s : State) (c : CoreNo), (s.m.frozen = true ∨ (s.m.core c.toNat).fenced = true ∨ (s.m.core c.toNat).closing = true ∨
      (s.m.core c.toNat).cmd ≠ none ∨ (s.m.cluster (c.toNat / 16)).fenced = true) → exec (.coreJoin c) s = .next s)

/-- R134, R135: the tundish operations on a granule below 2^2048. -/
def Obligations.TundishOperations : Prop :=
  ∀ g i : Nat, g < 2 ^ 2048 → i < 2 ^ 32 →
    (bits g 135 128 = 0 → bits g 31 0 < bits g 63 32 →
      (tundClaim g).2 = some (bits g 31 0) ∧ bits (tundClaim g).1 31 0 = bits g 31 0 + 1 ∧
      (tundClaim g).1 / 2 ^ 32 = g / 2 ^ 32) ∧
    (bits g 135 128 = 0 → bits g 63 32 ≤ bits g 31 0 → tundClaim g = (g, none)) ∧
    (bits g 135 128 < 56 → ∃ h, tundReturn g i = some h ∧ bits h 135 128 = bits g 135 128 + 1 ∧ bits h 127 0 = bits g 127 0 ∧
      (tundClaim h).2 = some i ∧ bits (tundClaim h).1 135 0 = bits g 135 0 ∧
      ∀ j, j < bits g 135 128 → bits h (32 * j + 287) (32 * j + 256) = bits g (32 * j + 287) (32 * j + 256)) ∧
    (56 ≤ bits g 135 128 → tundReturn g i = none) ∧
    bits (tundRetire g).1 95 64 = (bits g 95 64 + 1) % 2 ^ 32 ∧
    (tundRetire g).2 = (bits (tundRetire g).1 95 64 == bits g 127 96) ∧
    bits (tundRetire g).1 63 0 = bits g 63 0 ∧ (tundRetire g).1 / 2 ^ 96 = g / 2 ^ 96

/-- R118 to R120 and R136. `g` is the granule as the atomic finds it, `y` the machine after it. A core whose gate has closed
leaves its command with its last claim (R136). -/
def Obligations.WorkItemsClaimedReturnedRetired : Prop :=
  (∀ (s : State) (a : Instr) (c : CoreNo) (cmd : Cmd) (p : Phase) (k : CoreSt) (g : Nat) (y : Mach),
    (a = .claim c ∨ a = .reclaimAfterReturn c ∧ (s.m.core c.toNat).empty = true ∧ (s.m.core c.toNat).returned = true) →
    s.m.frozen = false → s.m.coreCmd c.toNat = some cmd → cmd.st = .running → cmd.planned = true →
    (s.m.core c.toNat).fenced = false →
    (s.m.core c.toNat).items.length < 2 →
    dOp cmd.desc ≠ 6 → slotPhase cmd (s.m.phases c.toNat) (s.m.core c.toNat).slot = some p →
    (if (s.m.core c.toNat).phase = p.no then s.m.core c.toNat
      else { s.m.core c.toNat with phase := p.no, claimed := 0, empty := false, returned := false }) = k →
    (k.empty = true → k.returned = true) →
    tundAtomic s.m c.toNat cmd.ctx (tundVa s.m c.toNat cmd p k.slot) (fun g => (tundClaim g).1) = .ok g y →
    ∃ t z, exec a s = .next t ∧ t.m.core c.toNat = z ∧
      (∀ i, (tundClaim g).2 = some i → ∃ x, z.items = k.items ++ [x] ∧ x.index = i ∧ x.parity = k.claimed % 2 ∧
        x.entries = [] ∧ z = { k with items := z.items, claimed := k.claimed + 1, empty := false, returned := false,
                                      xlate := z.xlate }) ∧
      ((tundClaim g).2 = none → z = { k with empty := true, returned := false, xlate := z.xlate }) ∧
      z.xlate = (y.core c.toNat).xlate ∧
      (∀ d, d ≠ c.toNat → t.m.core d = y.core d) ∧
      t = { s with m := { y with cores := t.m.cores, regs := t.m.regs, cmds := t.m.cmds } }) ∧
  (∀ (s : State) (c : CoreNo) (i : Word) (cmd : Cmd) (p : Phase) (g h : Nat) (y : Mach) (l : List Item),
    s.m.frozen = false → (s.m.core c.toNat).shut = true → s.m.coreCmd c.toNat = some cmd → dOp cmd.desc ≠ 6 →
    (s.m.phases c.toNat)[(s.m.core c.toNat).phase]? = some p →
    ((s.m.core c.toNat).items.any fun x => x.index == i.toNat) = true →
    s.m.atomic (512 + c.toNat / 16) cmd.ctx (tundVa s.m c.toNat cmd p (s.m.core c.toNat).slot) 256
      (fun g => (tundReturn g i.toNat).getD g) true false = .ok g y →
    tundReturn g i.toNat = some h → ((y.core c.toNat).items.filter fun x => x.index != i.toNat) = l →
    (∀ z, y.cmd? cmd.id = some z → z.st ≠ .stopped) →
    ∃ t, exec (.tundishReturn c i) s = .next t ∧
      (l ≠ [] → t.m.core c.toNat = { y.core c.toNat with items := l, returned := (t.m.core c.toNat).returned }) ∧
      (l = [] → t.m.core c.toNat = {
        y.core c.toNat with
        shut := false, cmd := none, slot := 0, place := 0, phase := 0, items := [], claimed := 0, empty := false,
        returned := false, report := false, trans := [],
        slotsFree := (y.core c.toNat).slotsFree + (y.core c.toNat).slotsHeld }) ∧
      (∀ d, d ≠ c.toNat → t.m.core d = { y.core d with returned :=
        (y.core d).returned || ((y.core d).cmd == some cmd.id && (y.core d).empty && (y.core d).phase == p.no &&
          (p.single cmd.desc || (y.core d).slot == (y.core c.toNat).slot)) }) ∧
      t.m.reg (clReg (c.toNat / 16) 0x1C) = satAdd (y.reg (clReg (c.toNat / 16) 0x1C)) 1 ∧
      (∀ a, a ≠ clReg (c.toNat / 16) 0x1C → t.m.reg a = y.reg a) ∧
      t = { s with m := { y with cores := t.m.cores, regs := t.m.regs, cmds := t.m.cmds } }) ∧
  (∀ (s : State) (c : CoreNo) (i : Word), (s.m.core c.toNat).shut = false → exec (.tundishReturn c i) s = .next s) ∧
  (∀ (s : State) (a : Instr) (c : CoreNo) (n : Nat) (cmd : Cmd) (p : Phase) (x : Item) (g : Nat) (y : Mach),
    (a = .tundishRetire c ∧ n = 0 ∨ a = .workItemRetire c false ∧ n = 0 ∨ a = .workItemRetire c true ∧ n = 1) →
    s.m.coreCmd c.toNat = some cmd → cmd.st = .running → (s.m.core c.toNat).fenced = false →
    (s.m.core c.toNat).items[n]? = some x →
    (s.m.phases c.toNat)[(s.m.core c.toNat).phase]? = some p → itemDone s.m c.toNat p x = true →
    tundAtomic s.m c.toNat cmd.ctx (tundVa s.m c.toNat cmd p (s.m.core c.toNat).slot) (fun g => (tundRetire g).1) = .ok g y →
    ∃ t, exec a s = .next t ∧
      t.m.core c.toNat = { y.core c.toNat with items := (s.m.core c.toNat).items.eraseIdx n, idleCycles := 0,
                                               report := (s.m.core c.toNat).report || (tundRetire g).2 } ∧
      (∀ d, d ≠ c.toNat → t.m.core d = y.core d) ∧
      t.m.reg (coreReg c.toNat 0x18) = satAdd (y.reg (coreReg c.toNat 0x18)) 1 ∧
      (∀ a, a ≠ coreReg c.toNat 0x18 → t.m.reg a = y.reg a) ∧
      t = { s with m := { y with cores := t.m.cores, regs := t.m.regs, cmds := t.m.cmds } })

/-- R119 for the turn, R121, R124, R111 and R166 for the units; R118 and R136 for barriers. What a VECTOR entry does with operands in
device virtual space is the model's choice (log entry 64). -/
def Obligations.EntriesRunInTurn : Prop :=
  (∀ (s : State) (a : Instr) (c : CoreNo) (item : Bool) (i : BitVec 9) (kind : Nat)
    (f : Cmd → Phase → Item → Nat → Mach → Res Unit) (cmd : Cmd) (p : Phase) (x : Item),
    (a = .tile c item i ∧ kind = 1 ∧ f = tileEntry c.toNat (b2n item) i.toNat ∨
      a = .dma c item i ∧ kind = 3 ∧ f = dmaEntry c.toNat (b2n item) i.toNat ∨
      a = .vector c item i ∧ kind = 4 ∧ f = vecEntry c.toNat (b2n item) i.toNat ∨
      a = .expand c item i ∧ kind = 5 ∧ f = expEntry c.toNat (b2n item) i.toNat) →
    s.m.coreCmd c.toNat = some cmd → (s.m.phases c.toNat)[(s.m.core c.toNat).phase]? = some p →
    (s.m.core c.toNat).items[b2n item]? = some x →
    (∀ y, cmd.st = .running → (s.m.core c.toNat).fenced = false → eKind (s.m.planEntry c.toNat i.toNat) = kind →
      entryReady s.m c.toNat p (b2n item) i.toNat = true → f cmd p x (s.m.planEntry c.toNat i.toNat) s.m = .ok () y →
      (∀ z, y.cmd? cmd.id = some z → (z.heldOn.any fun h => h.is c.toNat (256 + 512 * x.parity + i.toNat)) = false) →
      exec a s = .next { s with m := y } ∧
        ∃ z, (y.core c.toNat).items[b2n item]? = some z ∧ z.entries.map (fun e => e.no) = x.entries.map (fun e => e.no) ++ [i.toNat]) ∧
    ((cmd.st ≠ .running ∨ (s.m.core c.toNat).fenced = true ∨ eKind (s.m.planEntry c.toNat i.toNat) ≠ kind ∨
        entryReady s.m c.toNat p (b2n item) i.toNat = false) → exec a s = .next s)) ∧
  (∀ (s : State) (c : CoreNo) (cmd : Cmd) (p : Phase) (sl : Slot), s.m.coreCmd c.toNat = some cmd →
    (s.m.core c.toNat).fenced = false →
    (s.m.phases c.toNat)[(s.m.core c.toNat).phase]? = some p → p.no = (s.m.core c.toNat).phase →
    (s.m.core c.toNat).report = true → cmd.slots[(s.m.core c.toNat).slot]? = some sl → sl.barriers = p.no →
    ∃ t z w, exec (.phaseBarrier c) s = .next t ∧ t.m.core c.toNat = { s.m.core c.toNat with report := false } ∧
      (∀ d, d ≠ c.toNat → t.m.core d = s.m.core d) ∧ t.m.cmd? cmd.id = some z ∧
      z.slots[(s.m.core c.toNat).slot]? = some w ∧ p.no < w.barriers ∧
      (∀ (j : Nat) (u v : Slot), cmd.slots[j]? = some u → z.slots[j]? = some v → u.barriers ≤ v.barriers) ∧
      z = { cmd with slots := z.slots } ∧ t = { s with m := { s.m with cores := t.m.cores, cmds := t.m.cmds } })

/-- R111 with R349 for the slots, R112, R120; R297 for the walk. `y` is the machine after the transaction has moved its bytes, `w`
after an EXPAND entry whose lines have all come has written its rows, `z` after the walk has read its table entries. Which bytes of a
line are read and how overflow bytes count are the model's choices (log entries 67 and 68). -/
def Obligations.TransactionsAndWalks : Prop :=
  (∀ (s : State) (c : CoreNo) (l r : List Trans) (x : Trans) (k : Nat),
    s.m.frozen = false → 0 < (s.m.core c.toNat).slotsFree →
    (s.m.core c.toNat).trans = l ++ x :: r → x.slot = false → (∀ y ∈ l, y.slot = true ∨ y.unit ≠ x.unit) →
    k < 6 → x.unit = ((s.m.core c.toNat).slotLast + 1 + k) % 6 →
    (∀ j, j < k → ∀ y ∈ (s.m.core c.toNat).trans, y.slot = true ∨ y.unit ≠ ((s.m.core c.toNat).slotLast + 1 + j) % 6) →
    ∃ t, exec (.transactionSlotGrant c) s = .next t ∧
      t.m.core c.toNat = { s.m.core c.toNat with trans := l ++ { x with slot := true } :: r, slotLast := x.unit,
                                                 slotsFree := (s.m.core c.toNat).slotsFree - 1 } ∧
      (∀ d, d ≠ c.toNat → t.m.core d = s.m.core d) ∧ t = { s with m := { s.m with cores := t.m.cores } }) ∧
  (∀ (s : State) (c : CoreNo), (s.m.frozen = true ∨ (s.m.core c.toNat).slotsFree = 0 ∨
      ∀ y ∈ (s.m.core c.toNat).trans, y.slot = true) → exec (.transactionSlotGrant c) s = .next s) ∧
  (∀ (s : State) (c : CoreNo) (l r : List Trans) (x : Trans) (cmd : Cmd) (p : Phase) (it : Item) (y w : Mach),
    (s.m.core c.toNat).trans = l ++ x :: r →
    (∀ y ∈ l, y.slot = false ∨ s.m.waitsHeld cmd c.toNat y.key = true) → x.slot = true → s.m.waitsHeld cmd c.toNat x.key = false →
    (s.m.core c.toNat).fenced = false → s.m.coreCmd c.toNat = some cmd →
    runMove c.toNat cmd (s.m.planEntry c.toNat x.entry) x.move s.m = .ok () y →
    (y.phases c.toNat)[(y.core c.toNat).phase]? = some p →
    ((y.core c.toNat).items.find? fun i => i.index == x.item) = some it →
    (if ((y.core c.toNat).items.any fun i => i.index == x.item && i.entries.any fun e => e.no == x.entry && e.left == 1) &&
          eKind (y.planEntry c.toNat x.entry) == 5
      then expBody c.toNat cmd p it (y.planEntry c.toNat x.entry) y else .ok () y) = .ok () w →
    (∀ z, w.cmd? cmd.id = some z → z.st ≠ .stopped) →
    ∃ t, exec (.transactionResponse c) s = .next t ∧ (t.m.core c.toNat).trans = l ++ r ∧
      (∀ (n : Nat) (it : Item), (s.m.core c.toNat).items[n]? = some it → ∃ it', (t.m.core c.toNat).items[n]? = some it' ∧
        it' = { it with entries := it'.entries } ∧
        ∀ (j : Nat) (e : Entry), it.entries[j]? = some e → it'.entries[j]? =
          some (if it.index = x.item ∧ e.no = x.entry then
            { e with left := e.left - 1, done := e.left - 1 == 0 && e.tiles == 0 } else e)) ∧
      t.m.core c.toNat = { w.core c.toNat with trans := (t.m.core c.toNat).trans, items := (t.m.core c.toNat).items,
                                               slotsFree := (w.core c.toNat).slotsFree + 1, idleCycles := 0 } ∧
      (∀ d, d ≠ c.toNat → t.m.core d = w.core d) ∧ t = { s with m := { w with cores := t.m.cores, cmds := t.m.cmds } }) ∧
  (∀ (s : State) (c : CoreNo) (va : VA) (a : Access) (cmd : Cmd) (p : Mapping) (pa : Nat) (z y : Mach),
    s.m.coreCmd c.toNat = some cmd → s.m.leafAt cmd.ctx va.toNat = some p → (s.m.core c.toNat).fenced = false →
    s.m.frozen = false →
    ((p.va + (va.toNat - p.va) / (s.m.obj p.obj).leaf * (s.m.obj p.obj).leaf) ∈ (s.m.core c.toNat).xlate →
      (cmd.heldOn.any fun h => h.is c.toNat 4) = false → exec (.tableWalk c va a) s = .next s) ∧
    ((p.va + (va.toNat - p.va) / (s.m.obj p.obj).leaf * (s.m.obj p.obj).leaf) ∉ (s.m.core c.toNat).xlate →
      (s.m.bump (coreReg c.toNat 0x14) 1).readTables cmd.ctx va.toNat = .ok () z →
      z.walkEnd cmd.ctx va.toNat a false = .ok pa y → s.m.leafUse = .walk →
      (∃ t, exec (.tableWalk c va a) s = .next t ∧
        t.m.core c.toNat = { z.core c.toNat with xlate :=
          ((p.va + (va.toNat - p.va) / (s.m.obj p.obj).leaf * (s.m.obj p.obj).leaf) :: (z.core c.toNat).xlate).take 512 } ∧
        (∀ d, d ≠ c.toNat → t.m.core d = z.core d) ∧
        (t.m.obj p.obj).accessed = true ∧ (∀ j, j ≠ p.obj → t.m.obj j = z.obj j) ∧
        t = { s with m := { z with cores := t.m.cores, objs := t.m.objs, cmds := t.m.cmds } }) ∧
      (s.m.under = [] →
        z.reg (coreReg c.toNat 0x14) = satAdd (s.m.reg (coreReg c.toNat 0x14)) 1 ∧
        (∀ x, x ≠ coreReg c.toNat 0x14 → (∀ g, x ≠ ldlReg g 0x24 ∧ x ≠ ldlReg g 0x28 ∧ x ≠ ldlReg g 0x2C) →
          z.reg x = s.m.reg x) ∧
        z = { s.m with regs := z.regs, cache := z.cache })))

/-- R213, R214, R218; R332 for the retirement. `y` is the machine when the phase's own work has completed. Who sends the header's signal
is the model's choice (log entry 61). -/
def Obligations.RecurrentPhasesAndRetirement : Prop :=
  (∀ (s : State) (id : Nat) (cmd : Cmd) (x : Slot) (y : Mach), s.m.cmd? id = some cmd → cmd.slots = [x] → dOp cmd.desc = 6 →
    cmd.st = .running → cmd.loaded = false → cmd.planned = true →
    min (dCores cmd.desc) ((List.range 16).filter fun c => !(s.m.core (16 * x.cluster + c)).fenced).length ≤ x.cores.length →
    stateLoad cmd x.cluster (s.m.setCmd { cmd with loaded := true, fixed := (List.range 512).filter fun c => x.cores.contains c }) =
      .ok () y → (∀ z, y.cmd? id = some z → (z.heldOn.any fun h => h.is (512 + x.cluster) 32) = false) →
    exec (.gatedStepStateLoad id) s = .next { s with m := y }) ∧
  (∀ (s : State) (id : Nat) (cmd : Cmd) (x : Slot) (y z : Mach), s.m.cmd? id = some cmd → cmd.slots = [x] → dOp cmd.desc = 6 →
    cmd.st = .running → cmd.loaded = true → cmd.step < gSteps cmd.desc → allBarriers s.m cmd = true →
    cellStep cmd x.cluster cmd.step s.m = .ok () y →
    (∀ v, z.cmd? id = some v → (v.heldOn.any fun h => h.is (512 + x.cluster) 33) = false) →
    (if cmd.step + 1 < gSteps cmd.desc then
        startPhases { cmd with step := cmd.step + 1, slots := [{ x with barriers := gPro cmd.desc }] } (cmd.fixed.headD 0)
          (((y.bump (clReg x.cluster 0x2C) 1).phases (cmd.fixed.headD 0)).drop (gPro cmd.desc))
          ((freshPhase (y.bump (clReg x.cluster 0x2C) 1) id).setCmd
            { cmd with step := cmd.step + 1, slots := [{ x with barriers := gPro cmd.desc }] })
      else stateStore cmd x.cluster ((y.bump (clReg x.cluster 0x2C) 1).setCmd { cmd with step := cmd.step + 1 })) = .ok () z →
    exec (.cellPhase id) s = .next { s with m := z }) ∧
  (∀ (s : State) (id : Nat) (cmd : Cmd) (x : Slot) (o : StObj) (y z : Mach), s.m.cmd? id = some cmd → cmd.slots = [x] →
    dOp cmd.desc = 7 → cmd.st = .running → cmd.step = 0 → allBarriers s.m cmd = true →
    (cmd.heldOn.any fun h => h.is (512 + x.cluster) 34) = false →
    readState cmd.ctx (bits cmd.desc 239 192) s.m = .ok o y →
    eachRes (fun (p : Nat × Nat) m => scanStream cmd x.cluster o p.1 p.2 m) cmd.lt.zipIdx y = .ok () z →
    exec (.scanPhase id) s = .next { s with m := z.setCmd { cmd with step := 1 } }) ∧
  (∀ (s : State) (id : Nat) (cmd : Cmd), s.m.cmd? id = some cmd → s.m.safe = false → s.m.runs cmd.ctx = true →
    workDone s.m cmd = true → NoneHeld s.m → cmd.walkers = [] →
    ∃ t, exec (.commandRetire id) s = .next t ∧ t.m.cmds = (s.m.cmds.filter fun x => x.id != id) ∧
      (t.m.sched cmd.die).retired = (s.m.sched cmd.die).retired + 1 ∧
      (t.m.ctx cmd.ctx).retired = (s.m.ctx cmd.ctx).retired + 1 ∧
      (∀ o, t.m.sync o = (headerSignal s.m cmd.die cmd.ctx cmd.desc).sync o) ∧ (∀ j, t.m.queue j = s.m.queue j) ∧
      t.m.near = s.m.near ∧ t.m.maps = s.m.maps) ∧
  (∀ (s : State) (id : Nat) (cmd : Cmd), s.m.cmd? id = some cmd →
    (s.m.safe = true ∨ s.m.runs cmd.ctx = false ∨ workDone s.m cmd = false) → exec (.commandRetire id) s = .next s)

/-! ## Ladle units, atomic units and shared caches (06) -/

/-- R340, R143, R144, R152 for the passes' barriers, R165 for the shares, R298 for the translations a command keeps. `y` is the
machine after the check, or after unit g's share. -/
def Obligations.LadleCommandsRun : Prop :=
  (∀ (s : State) (c b z : Cmd) (x y : Mach), s.m.issues = true →
    ([0, 1, 2, 3].map fun i => (s.m.ladleDie + i) % 4).findSome? (fun d => offeredOf s.m d) = some c →
    classHead s.m (isPageOp (dOp c.desc)) = none → isLadleOp (dOp c.desc) = true →
    b = ({ c with st := .check } : Cmd).begin (s.m.reg (memReg 0)).toNat →
    x = { s.m with ladleDie := (c.die + 1) % 4, cmds := (s.m.cmds.filter fun v => v.id != c.id) ++ [b] } →
    ladleCheck b { x with leafUse := .check [] } = .ok z y →
    (c.begun = false → b.mapGen = (s.m.reg (memReg 0)).toNat) ∧ (c.begun = true → b.mapGen = c.mapGen) ∧
    exec .ladleDelivery s = .next { s with
      m := (({ y with leafUse := .walk } : Mach).setCmd { z with st := .checked, leaves := y.leafUse.noted }).dropWaits c.id
        fun h => h.no == 1 }) ∧
  (∀ (s : State) (c h : Cmd), s.m.issues = true →
    ([0, 1, 2, 3].map fun i => (s.m.ladleDie + i) % 4).findSome? (fun d => offeredOf s.m d) = some c →
    classHead s.m (isPageOp (dOp c.desc)) = some h → h.id ≠ c.id → h.st ≠ .check →
    exec .ladleDelivery s = .next { s with m := { s.m with
      ladleDie := (c.die + 1) % 4, cmds := (s.m.cmds.filter fun x => x.id != c.id) ++ [{ c with st := .check }] } }) ∧
  (∀ (s : State) (page : Bool) (c : Cmd), s.m.issues = true → classHead s.m page = some c → c.st = .checked →
    exec (.ladleBarrier page) s = .next { s with m := s.m.setCmd { c with st := .work, pass := 0, shares := List.range 32 } }) ∧
  (∀ (s : State) (page : Bool) (c : Cmd), s.m.issues = true → classHead s.m page = some c → s.m.cmd? c.id = some c →
    c.st = .work → c.pass + 1 < passes c.desc → c.shares = [] →
    exec (.ladleBarrier page) s = .next { s with m := s.m.setCmd { c with pass := c.pass + 1, shares := List.range 32 } }) ∧
  (∀ (s : State) (g : SliceNo) (page : Bool) (c z v : Cmd) (y w : Mach), s.m.issues = true → classHead s.m page = some c →
    c.st = .work → passes c.desc ≤ c.pass + 1 → g.toNat ∈ c.shares →
    ladleShare c g.toNat { s.m with leafUse := .kept c.leaves } = .ok () y →
    ({ y with leafUse := .walk } : Mach).dropWaits c.id (fun h => h.is (544 + g.toNat) 2) = w → w.cmd? c.id = some v →
    v.st = .work → w.runs v.ctx = true → z = { v with shares := v.shares.filter fun x => x != g.toNat } →
    (z.shares ≠ [] → exec (.ladleShareComplete g page) s =
      .next { s with m := ((w.setCmd z).bump (ldlReg g.toNat 0x10) 1).retest }) ∧
    (z.shares = [] → v.free = none →
      (∀ x ∈ w.cmds, x.id ≠ c.id → isPageOp (dOp x.desc) = page → isLadleOp (dOp x.desc) = true → x.st ≠ .check) →
      exec (.ladleShareComplete g page) s = .next { s with m :=
        (((w.setCmd z).bump (ldlReg g.toNat 0x10) 1).setCmd { z with st := .complete }).retest })) ∧
  (∀ (s : State) (g : SliceNo) (page : Bool) (c : Cmd) (n : Nat) (y : Mach), s.m.issues = true → classHead s.m page = some c →
    s.m.cmd? c.id = some c → c.st = .work → passes c.desc ≤ c.pass + 1 → g.toNat ∈ c.shares →
    (c.heldOn.any fun h => h.is (544 + g.toNat) 2) = false →
    ladleShare c g.toNat { s.m with leafUse := .kept c.leaves } = .err (.held n) y →
    exec (.ladleShareComplete g page) s = .next { s with
      m := (s.m.setSlice g.toNat { s.m.slice g.toNat with slotsFree := (s.m.slice g.toNat).slotsFree - 1 }).setCmd
        { c with heldOn := c.heldOn ++ [⟨544 + g.toNat, 2, n, 0⟩] } }) ∧
  (∀ (s : State) (g : SliceNo) (page : Bool), s.m.issues = false →
    exec .ladleDelivery s = .next s ∧ exec (.ladleBarrier page) s = .next s ∧ exec (.ladleShareComplete g page) s = .next s)

/-- R162 for the operations, R164 for the credits: `g` is the slice whose unit has the word. `y` is the machine after the translation
and the access to the shared cache (R160). -/
def Obligations.AtomicsReplaceAWord : Prop :=
  ∀ (s : State) (c : Instr) (r : AtomReq) (al n : Nat) (wr : Bool) (f : Nat → Nat) (g : Nat),
    homeSlice s.m r.ctx.toNat r.va.toNat = g → (r.requester.val < 512 → (s.m.core r.requester.val).fenced = false) →
    ((∃ b, c = .addF32 r b ∧ al = 4 ∧ n = 4 ∧ wr = true ∧ f = fun o => (f32PosZero (f32Add (w32 o) b)).toNat) ∨
      (∃ b, c = .addBf16 r b ∧ al = 2 ∧ n = 2 ∧ wr = true ∧ f = fun o => bf16Add o b.toNat) ∨
      (∃ b, c = .addI32 r b ∧ al = 4 ∧ n = 4 ∧ wr = true ∧ f = fun o => (o + b.toNat) % 2 ^ 32) ∨
      (∃ b, c = .addWide r b ∧ 544 ≤ r.requester.val ∧ r.requester.val < 576 ∧ al = 64 ∧ n = 48 ∧ wr = true ∧
        f = fun o => (o + b.toNat) % 2 ^ 384) ∨
      (∃ b, c = .maxF32 r b ∧ al = 4 ∧ n = 4 ∧ wr = true ∧ f = fun o => (f32Max (w32 o) b).toNat) ∨
      (∃ b, c = .minF32 r b ∧ al = 4 ∧ n = 4 ∧ wr = true ∧ f = fun o => (f32Min (w32 o) b).toNat) ∨
      (∃ b, c = .maxI32 r b ∧ al = 4 ∧ n = 4 ∧ wr = true ∧ f = fun o => if (w32 o).toInt < b.toInt then b.toNat else (w32 o).toNat) ∨
      (∃ b, c = .minI32 r b ∧ al = 4 ∧ n = 4 ∧ wr = true ∧ f = fun o => if b.toInt < (w32 o).toInt then b.toNat else (w32 o).toNat) ∨
      (∃ w b, c = .atomicAnd r w b ∧ al = n ∧ n = (if w then 8 else 4) ∧ wr = true ∧ f = fun o => o &&& b.toNat) ∨
      (∃ w b, c = .atomicOr r w b ∧ al = n ∧ n = (if w then 8 else 4) ∧ wr = true ∧ f = fun o => (o ||| b.toNat) % 2 ^ (8 * n)) ∨
      (c = .fetchInc r ∧ al = 4 ∧ n = 4 ∧ wr = true ∧ f = fun o => (o + 1) % 2 ^ 32) ∨
      (c = .atomicRead r ∧ al = 8 ∧ n = 8 ∧ wr = false ∧ f = fun o => o)) →
    (∀ (pa : Nat) (y : Mach), r.va.toNat % al = 0 →
      s.m.piece r.ctx.toNat (if wr then .write else .read) false (r.va.toNat, n) = .ok pa y → y.sliceOf pa = g →
      y = { s.m with objs := y.objs, cache := y.cache, regs := y.regs, leafUse := y.leafUse, slag := y.slag, under := y.under,
                     cores := y.cores, recordsDue := y.recordsDue } ∧
      ((s.m.slice g).admits r.requester.val s.m.frozen = true → ((sectorsOf pa n).any fun x => y.isSlag x) = false →
        ∃ t, exec c s = .next t ∧ t.m.nearBytes pa n =
            (if wr then toBytes n (f (ofBytes (s.m.nearBytes pa n))) else s.m.nearBytes pa n) ∧
          (∀ a, a < pa ∨ pa + n ≤ a → t.m.nearByte a = s.m.nearByte a) ∧
          (t.m.slice g).atomOld = ofBytes (s.m.nearBytes pa n) ∧
          t.m.slice g = (s.m.slice g).served r.requester.val (ofBytes (s.m.nearBytes pa n)) ∧
          (∀ h, h ≠ g → t.m.slice h = s.m.slice h) ∧
          t.m.reg (ldlReg g 0x1C) = satAdd (y.reg (ldlReg g 0x1C)) 1 ∧
          (∀ a, a ≠ ldlReg g 0x1C → t.m.reg a = y.reg a) ∧
          t = { s with m := { y with near := t.m.near, slices := t.m.slices, regs := t.m.regs, cmds := t.m.cmds } }) ∧
      ((s.m.slice g).admits r.requester.val s.m.frozen = false →
        ∃ t, exec c s = .next t ∧ r.requester.val ∈ (t.m.slice g).atomWait ∧
          (∀ w ∈ (s.m.slice g).atomWait, w ∈ (t.m.slice g).atomWait) ∧
          t = { s with m := { s.m with slices := t.m.slices } })) ∧
    (r.va.toNat % al ≠ 0 → 512 ≤ r.requester.val → (s.m.ctx r.ctx.toNat).state = 1#2 →
      ∃ t, exec c s = .next t ∧ (t.m.ctx r.ctx.toNat).state = 2#2 ∧ (t.m.ctx r.ctx.toNat).lastSt = stShape ∧
        t.m.slice g = (s.m.slice g).served r.requester.val (s.m.slice g).atomOld ∧
        (∀ h, h ≠ g → t.m.slice h = s.m.slice h) ∧
        t = { s with m := { s.m with ctxs := t.m.ctxs, regs := t.m.regs, slices := t.m.slices } })

/-- R164, R349, R366. R160, R161, R274: `under` lists the stored sectors found uncorrectable beneath a valid line, whose marks show
when their lines leave. The kind of a LAST line after a write with that hint is the model's choice (log entry 60); that nobody waits for
a ladle slot is a reading (log entry 17). -/
def Obligations.CreditsAndCacheLines : Prop :=
  ((∀ (s : State) (g : SliceNo), s.m.frozen = false → 0 < (s.m.slice g.toNat).free →
    (∃ w ∈ (s.m.slice g.toNat).atomWait, ((s.m.slice g.toNat).credits.filter fun c => c == w).length < 2) →
    ∃ (y : Mach) (w : Nat), exec (.atomicCreditGrant g) s = .next { s with m := y.useCredit w } ∧
      w ∈ (s.m.slice g.toNat).atomWait ∧
      ((s.m.slice g.toNat).credits.filter fun c => c == w).length < 2 ∧
      (∀ v ∈ (s.m.slice g.toNat).atomWait, ((s.m.slice g.toNat).credits.filter fun c => c == v).length < 2 →
        (w + 580 - (s.m.slice g.toNat).atomLast) % 581 ≤ (v + 580 - (s.m.slice g.toNat).atomLast) % 581) ∧
      y.slice g.toNat = { s.m.slice g.toNat with credits := (s.m.slice g.toNat).credits ++ [w], atomLast := w,
                                                 free := (s.m.slice g.toNat).free - 1,
                                                 atomWait := (s.m.slice g.toNat).atomWait.erase w } ∧
      (∀ h, h ≠ g.toNat → y.slice h = s.m.slice h) ∧ y = { s.m with slices := y.slices } ∧
      (s.m.syncDue = [] → NoneHeld s.m → y.useCredit w = { y with syncNews := (y.useCredit w).syncNews })) ∧
  (∀ (s : State) (g : SliceNo), (s.m.frozen = true ∨ (s.m.slice g.toNat).free = 0) →
    exec (.atomicCreditGrant g) s = .next s) ∧
  (∀ (s : State) (g : SliceNo), exec (.creditGrant (.atomicUnit g)) s = exec (.atomicCreditGrant g) s) ∧
  (∀ (s : State) (c : CoreNo), exec (.creditGrant (.coreSlots c)) s = exec (.transactionSlotGrant c) s) ∧
  (∀ (s : State) (k : ClusterNo), exec (.creditGrant (.clusterPlaces k)) s = exec (.admission k) s) ∧
  (∀ (s : State) (d : DieNo), exec (.creditGrant (.startLimiter d)) s = exec (.startLimiterGrant d) s) ∧
  (∀ (s : State) (k : SessNo), s.m.mbxNext = some k.toNat →
    exec (.creditGrant .mailbox) s = .next (serveRing k.toNat s) ∧ exec (.requestRingExecute k) s = .next (serveRing k.toNat s)) ∧
  (∀ (s : Mach) (j : Nat), s.mbxNext = some j → s.readySessions.Pairwise (· < ·) → (∀ i ∈ s.readySessions, i < 1024) →
    s.frozen = false ∧ s.controlAlive = true ∧ (j ∈ s.readySessions ∧ s.mbxGoes j = true ∨ j = 1024 ∧ s.opens ≠ []) ∧
    ∀ i, (i ∈ s.readySessions ∧ s.mbxGoes i = true ∨ i = 1024 ∧ s.opens ≠ []) →
      (s.mbxLast < i → s.mbxLast < j ∧ j ≤ i) ∧ (i ≤ s.mbxLast → s.mbxLast < j ∨ j ≤ i)) ∧
  (∀ (s : State) (x : SharedResource) (n : Nat) (c : Channel),
    ((∃ d p v, x = .meshChannel d p v ∧ n = channelKey 3 d.toNat (16 * p.toNat + v.toNat)) ∨
      (∃ d p, x = .gateClass d p ∧ n = channelKey 4 d.toNat p.toNat) ∨
      ∃ d o v, x = .linkChannel d o v ∧ n = channelKey 5 d.toNat (16 * o.toNat + v.toNat)) → s.m.channel n = c →
    ((s.m.frozen = true ∨ c.free = 0 ∨ c.wait = []) → exec (.creditGrant x) s = .next s) ∧
    (s.m.frozen = false → 0 < c.free → c.wait ≠ [] → ∃ t r, exec (.creditGrant x) s = .next t ∧ r ∈ c.wait ∧
      (∀ v ∈ c.wait, (c.last < v → c.last < r ∧ r ≤ v) ∧ (v ≤ c.last → c.last < r ∨ r ≤ v)) ∧
      t.m.channel n = { free := c.free - 1, held := c.held ++ [r], wait := c.wait.erase r, last := r } ∧
      (∀ j, j ≠ n → t.m.channel j = s.m.channel j) ∧ t = { s with m := { s.m with channels := t.m.channels } })) ∧
  (∀ (s : State) (g : SliceNo), exec (.creditGrant (.ladleSlots g)) s = .next s)) ∧
  (∀ (s : State) (a : CacheAcc),
    ((s.m.nt ≤ a.pa.toNat ∨ (s.m.heldAt a.pa.toNat).isSome = true) → exec (.cacheAccess a) s = .next s) ∧
    (a.pa.toNat < s.m.nt → s.m.heldAt a.pa.toNat = none → ∃ t, exec (.cacheAccess a) s = .next t ∧
      t = { s with m := { s.m with cache := t.m.cache, regs := t.m.regs, slag := t.m.slag, under := t.m.under, objs := t.m.objs,
                                   cores := t.m.cores, recordsDue := t.m.recordsDue } }) ∧
    (∀ (g : Nat) (l : List Line) (hit : Option Line), s.m.under = [] → a.pa.toNat < s.m.nt → s.m.heldAt a.pa.toNat = none →
      g = s.m.sliceOf a.pa.toNat →
      l = s.m.cacheSet g (setOf a.pa.toNat) → hit = l.find? (fun x => x.tag == a.pa.toNat / 128) → l.length ≤ 16 →
      ∃ t l', exec (.cacheAccess a) s = .next t ∧ t.m.cacheSet g (setOf a.pa.toNat) = l' ∧
        (∀ h k : Nat, k < 2048 → h ≠ g ∨ k ≠ setOf a.pa.toNat → t.m.cacheSet h k = s.m.cacheSet h k) ∧
        t.m.reg (ldlReg g 0x24) = satAdd (s.m.reg (ldlReg g 0x24)) (b2n hit.isSome) ∧
        t.m.reg (ldlReg g 0x28) = satAdd (s.m.reg (ldlReg g 0x28)) (b2n hit.isNone) ∧
        (∀ x, x ≠ ldlReg g 0x24 → x ≠ ldlReg g 0x28 → x ≠ ldlReg g 0x2C → t.m.reg x = s.m.reg x) ∧
        t = { s with m := { s.m with cache := t.m.cache, regs := t.m.regs } } ∧
        (hit = none → a.hint = .stream → l' = l) ∧
        l'.length ≤ 16 ∧
        ((l.filter fun x => x.kind == .keep).length ≤ 12 → (l'.filter fun x => x.kind == .keep).length ≤ 12) ∧
        (∀ x ∈ l', x.tag ≠ a.pa.toNat / 128 → ∃ y ∈ l, y.tag = x.tag ∧ y.dirty = x.dirty) ∧
        (¬ (hit = none ∧ a.hint = .stream) → ∀ k, hintKind a.hint (hit.map fun x => x.kind) = k →
          (∀ n, k = .last n → a.write = false → n ≤ 1 → (∀ x ∈ l', x.tag ≠ a.pa.toNat / 128) ∧
            t.m.reg (ldlReg g 0x2C) = satAdd (s.m.reg (ldlReg g 0x2C)) 1) ∧
          (∀ n, k = .last n → a.write = false → 1 < n → l'.head? =
            some { tag := a.pa.toNat / 128, kind := .last (n - 1), dirty := hit.any fun x => x.dirty }) ∧
          ((a.write = true ∨ ∀ n, k ≠ .last n) → l'.head? =
            some { tag := a.pa.toNat / 128, kind := k, dirty := a.write || hit.any fun x => x.dirty }))))

/-! ## Memory (12) -/

/-- R268: the layout of the symbols, the field, the code and what it corrects. -/
def Obligations.SectorCodeCorrectsOneDetectsTwo : Prop :=
  (∀ a b c : Nat, a < 256 → b < 256 → c < 256 → gfMul a 1 = a ∧ gfMul a 2 = (if a < 128 then 2 * a else (2 * a) ^^^ 0x11D) ∧
    gfMul a (b ^^^ c) = gfMul a b ^^^ gfMul a c) ∧
  (∀ x : Stored, x.bytes.length = 64 →
    (symbolsOf x).length = 68 ∧ (∀ k, k < 64 → (symbolsOf x).getD k 0 = (x.bytes.getD k 0#8).toNat) ∧
    (symbolsOf x).getD 64 0 = b2n x.slag ∧ (∀ j, j < 3 → rsSyndrome (symbolsOf x) j = 0) ∧
    spelled (symbolsOf x) = x ∧ rsDecode (withErrors (symbolsOf x) []) = .clean ∧
    (∀ (p : Fin 68) (d : Byte), d ≠ 0#8 → rsDecode (withErrors (symbolsOf x) [(p, d)]) = .corrected (symbolsOf x)) ∧
    (∀ (p q : Fin 68) (d e : Byte), d ≠ 0#8 → e ≠ 0#8 → p ≠ q →
      rsDecode (withErrors (symbolsOf x) [(p, d), (q, e)]) = .uncorrectable)) ∧
  (∀ (w : List Nat) (d : Byte), w.length = 68 → (∀ v ∈ w, v < 256) → (∀ j, j < 3 → rsSyndrome w j = 0) → 2 ≤ w.getD 64 0 →
    d ≠ 0#8 → rsDecode (withErrors w [(64, d)]) = .uncorrectable)

/-- R269 with R271, R273, R274 and R277; the third row of R269's table stands with slag set from then on. R270; R286 for the test
area of a package, whose sectors the module tier does not reach. -/
def Obligations.SectorReadsAndWrites : Prop :=
  (∀ (s : State) (a : SectorAt) (errs : SymbolErrors), (Instr.sectorRead a errs).wf = true →
    (s.m.sectorState a = 1#2 → exec (.sectorRead a errs) s = .next s) ∧
    (s.m.sectorState a = 2#2 → ∃ t, exec (.sectorRead a errs) s = .next t ∧
      t.m.reg (sectorCnt a 2) = satAdd (s.m.reg (sectorCnt a 2)) 1 ∧
      (∀ x, x ≠ sectorCnt a 2 → t.m.reg x = s.m.reg x) ∧ t = { s with m := { s.m with regs := t.m.regs } }) ∧
    (s.m.sectorState a ≠ 1#2 → s.m.sectorState a ≠ 2#2 →
      (rsDecode (withErrors (symbolsOf (s.m.stored a)) errs) = .clean → ∃ t, exec (.sectorRead a errs) s = .next t ∧
        t.m.reg (sectorCnt a 2) = satAdd (s.m.reg (sectorCnt a 2))
          (b2n (spelled (withErrors (symbolsOf (s.m.stored a)) errs)).slag) ∧
        (∀ x, x ≠ sectorCnt a 2 → t.m.reg x = s.m.reg x) ∧ t = { s with m := { s.m with regs := t.m.regs } }) ∧
      (∀ w, rsDecode (withErrors (symbolsOf (s.m.stored a)) errs) = .corrected w → spelled w = s.m.stored a →
        ∃ t l, exec (.sectorRead a errs) s = .next t ∧ t.m.stored a = s.m.stored a ∧
          t.m.reg (sectorCnt a 0) = satAdd (s.m.reg (sectorCnt a 0)) 1 ∧
          t.m.reg (sectorCnt a 2) = satAdd (s.m.reg (sectorCnt a 2)) (b2n (s.m.stored a).slag) ∧
          t.m.recordsDue = s.m.recordsDue ++ l ∧ (∀ x ∈ l, x.req.mech = 0x21#8) ∧
          (∀ n k, a = .hbm n k → (s.m.pc n.toNat).cePass ≠ 4095#16 → l = []) ∧
          t = { s with m := { s.m with regs := t.m.regs, pcs := t.m.pcs, pkgs := t.m.pkgs, recordsDue := t.m.recordsDue } }) ∧
      (rsDecode (withErrors (symbolsOf (s.m.stored a)) errs) = .uncorrectable →
        ∃ t l, exec (.sectorRead a errs) s = .next t ∧
          ((∀ n k pa, a = .hbm n k → s.m.sectorAddr n.toNat k.toNat = some pa → s.m.cached pa = false) →
            t.m.stored a = { spelled (withErrors (symbolsOf (s.m.stored a)) errs) with slag := true } ∧ t.m.under = s.m.under) ∧
          (∀ n k pa, a = .hbm n k → s.m.sectorAddr n.toNat k.toNat = some pa → s.m.cached pa = true →
            t.m.stored a = { s.m.stored a with slag := true } ∧ t.m.near = s.m.near ∧ t.m.slag = s.m.slag) ∧
          t.m.reg (sectorCnt a 1) = satAdd (s.m.reg (sectorCnt a 1)) 1 ∧
          t.m.reg (sectorCnt a 2) = satAdd (s.m.reg (sectorCnt a 2)) 1 ∧
          t.m.irqPending (sectorSrc a).1 (sectorSrc a).2 = true ∧
          t.m.recordsDue = (s.m.recordDue (sectorRecord s.m a 0x20#8 (sectorSrc a).2)).recordsDue ++ l ∧
          t = { s with m := { s.m with regs := t.m.regs, near := t.m.near, slag := t.m.slag, under := t.m.under,
                                       spare := t.m.spare, lp := t.m.lp, lpSlag := t.m.lpSlag, lpSpare := t.m.lpSpare,
                                       pcs := t.m.pcs, objs := t.m.objs,
                                       cores := t.m.cores, recordsDue := t.m.recordsDue } }))) ∧
  (∀ (s : State) (a : SectorAt) (data : BitVec 512) (mask : BitVec 64) (slag : Bool) (errs : SymbolErrors),
    (Instr.sectorWrite a data mask slag errs).wf = true →
    (s.m.sectorState a = 1#2 → exec (.sectorWrite a data mask slag errs) s = .next s) ∧
    (s.m.sectorState a = 2#2 → ∃ t, exec (.sectorWrite a data mask slag errs) s = .next t ∧
      (∀ n k, a = .hbm n k → t.m.reg (ldlReg (n.toNat / 32) 0x11C) = satAdd (s.m.reg (ldlReg (n.toNat / 32) 0x11C)) 1 ∧
        (∀ x, x ≠ ldlReg (n.toNat / 32) 0x11C → t.m.reg x = s.m.reg x) ∧ t = { s with m := { s.m with regs := t.m.regs } }) ∧
      (∀ p k, a = .lpddr p k → t = s)) ∧
    (s.m.sectorState a ≠ 1#2 → s.m.sectorState a ≠ 2#2 →
      (mask = BitVec.allOnes 64 ∨ rsDecode (withErrors (symbolsOf (s.m.stored a)) errs) = .clean ∧
        spelled (withErrors (symbolsOf (s.m.stored a)) errs) = s.m.stored a) →
      ∃ t, exec (.sectorWrite a data mask slag errs) s = .next t ∧
        (mask = BitVec.allOnes 64 → t.m.stored a = { bytes := toBytes 64 data.toNat, slag := slag }) ∧
        (mask ≠ BitVec.allOnes 64 → (t.m.stored a).slag = ((s.m.stored a).slag || slag) ∧
          ∀ i, i < 64 → (t.m.stored a).bytes.getD i 0#8 =
            if mask.getLsbD i then (toBytes 64 data.toNat).getD i 0#8 else (s.m.stored a).bytes.getD i 0#8) ∧
        (∀ n k pa, a = .hbm n k → s.m.sectorAddr n.toNat k.toNat = some pa →
          (∀ x, x / 64 ≠ pa / 64 → t.m.nearByte x = s.m.nearByte x ∧ t.m.slagBit x = s.m.slagBit x) ∧
          t.m.lp = s.m.lp ∧ t.m.lpSlag = s.m.lpSlag ∧ t.m.spare = s.m.spare ∧ t.m.lpSpare = s.m.lpSpare) ∧
        (∀ n k, a = .hbm n k → s.m.sectorAddr n.toNat k.toNat = none →
          t.m.near = s.m.near ∧ t.m.slag = s.m.slag ∧ t.m.lp = s.m.lp ∧ t.m.lpSlag = s.m.lpSlag ∧ t.m.lpSpare = s.m.lpSpare ∧
          ∀ x, x ≠ n.toNat * pcSectors + k.toNat →
            tabGet (fun _ => 0#513) t.m.spare x = tabGet (fun _ => 0#513) s.m.spare x) ∧
        (∀ p k, a = .lpddr p k → k.toNat < 503316480 → t.m.near = s.m.near ∧ t.m.slag = s.m.slag ∧ t.m.spare = s.m.spare ∧
          t.m.lpSpare = s.m.lpSpare ∧
          ∀ x, x / 64 ≠ lpAddr p.toNat (64 * k.toNat) / 64 → t.m.lpBytes x 1 = s.m.lpBytes x 1 ∧ t.m.lpIsSlag x = s.m.lpIsSlag x) ∧
        (∀ p k, a = .lpddr p k → 503316480 ≤ k.toNat → t.m.near = s.m.near ∧ t.m.slag = s.m.slag ∧ t.m.spare = s.m.spare ∧
          t.m.lp = s.m.lp ∧ t.m.lpSlag = s.m.lpSlag ∧ ∀ x, x ≠ p.toNat * 536870912 + k.toNat →
            tabGet (fun _ => none) t.m.lpSpare x = tabGet (fun _ => none) s.m.lpSpare x) ∧
        t = { s with m := { s.m with regs := t.m.regs, near := t.m.near, slag := t.m.slag, under := t.m.under,
                                     spare := t.m.spare, lp := t.m.lp, lpSlag := t.m.lpSlag, lpSpare := t.m.lpSpare, objs := t.m.objs, cores := t.m.cores,
                                     recordsDue := t.m.recordsDue } }))

/-- R289, R290 with R475, R288 with R318. R272, R287. -/
def Obligations.PatrolMarginsAndPackages : Prop :=
  ((∀ (s : State) (h : MarginHold) (x : Sweep), s.m.safe = false → s.m.sweep = some x →
    (if h.up then x.posDone else x.negDone) = false → (if h.up then x.negDone else x.posDone) = false →
    (∀ e, x.lastHold = some e → e + 10 ≤ s.m.uptime) →
    (if x.lpddr then (s.m.pkg x.unit).state == 0#2 else s.m.mayHold x.unit false) = true →
    h.clean.toNat + b2n h.failed ≤ 16 → (if h.up then x.pos else x.neg) + h.clean.toNat ≤ 32 →
    (h.clean.toNat = 16 ∨ h.failed = true ∨ (if h.up then x.pos else x.neg) + h.clean.toNat = 32) →
    ∃ t y, exec (.marginStepHold h) s = .next t ∧ t.m.sweep = some y ∧ y.lastHold = some s.m.uptime ∧
      y.pos = (if h.up then x.pos + h.clean.toNat else x.pos) ∧ y.neg = (if h.up then x.neg else x.neg + h.clean.toNat) ∧
      (if h.up then y.posDone else y.negDone) =
        (h.failed || decide (32 ≤ (if h.up then x.pos else x.neg) + h.clean.toNat)) ∧
      y = { x with neg := y.neg, pos := y.pos, negDone := y.negDone, posDone := y.posDone, lastHold := y.lastHold } ∧
      (x.kind < 2 → t = { s with m := { s.m with regs := t.m.regs, pcs := t.m.pcs, sweep := t.m.sweep } }) ∧
      (2 ≤ x.kind → t = { s with m := {
        s.m with
        regs := t.m.regs, pcs := t.m.pcs, sweep := t.m.sweep, near := t.m.near, slag := t.m.slag, under := t.m.under, spare := t.m.spare, lpSpare := t.m.lpSpare, free := t.m.free } })) ∧
  (∀ (s : State) (p : PkgNo) (y : Mach), (s.m.pkg p.toNat).state ≠ 2#2 → NoneHeld s.m →
    s.m.setPkg p.toNat { s.m.pkg p.toNat with state := 2#2 } = y →
    ∃ t l, exec (.lpddrPackageFail p) s = .next t ∧
      (∀ k, t.m.pkg k = if k = p.toNat then { s.m.pkg k with state := 2#2 } else s.m.pkg k) ∧
      t.m.moduleOut = true ∧
      t.m.recordsDue =
        (y.recordDue ⟨0x24#8, w32 p.toNat, BitVec.ofNat 2 (p.toNat / 4), 0x3FF#10, 0#16, [y.pkgState p.toNat]⟩).recordsDue ++ l ∧
      t.m.near = s.m.near ∧ t.m.lp = s.m.lp) ∧
  (∀ (s : State) (p : PkgNo), (s.m.pkg p.toNat).state = 2#2 → exec (.lpddrPackageFail p) s = .next s)) ∧
  (∀ (s : State) (g : SliceNo) (errs : SymbolErrors) (x : SliceSt), errorsWf errs = true → s.m.slice g.toNat = x →
    (x.skipped = [] → x.patrol < stackSectors → s.m.sectorState (patrolAt g.toNat x.patrol) = 1#2 →
      ∃ t, exec (.patrolRead (.stack g) errs) s = .next t ∧
        t.m.slice g.toNat = { x with patrol := x.patrol + 1, skipped := [x.patrol] } ∧
        (∀ h, h ≠ g.toNat → t.m.slice h = s.m.slice h) ∧ t = { s with m := { s.m with slices := t.m.slices } }) ∧
    (x.skipped = [] → x.patrol + 1 < stackSectors → s.m.sectorState (patrolAt g.toNat x.patrol) ≠ 1#2 →
      (s.m.sectorState (patrolAt g.toNat x.patrol) = 2#2 ∨
        rsDecode (withErrors (symbolsOf (s.m.stored (patrolAt g.toNat x.patrol))) errs) = .clean) →
      ∃ t, exec (.patrolRead (.stack g) errs) s = .next t ∧ t.m.slice g.toNat = { x with patrol := x.patrol + 1 } ∧
        (∀ h, h ≠ g.toNat → t.m.slice h = s.m.slice h) ∧ t = { s with m := { s.m with slices := t.m.slices } }) ∧
    (x.skipped = [] → x.patrol + 1 = stackSectors → s.m.sectorState (patrolAt g.toNat x.patrol) ≠ 1#2 →
      (s.m.sectorState (patrolAt g.toNat x.patrol) = 2#2 ∨
        rsDecode (withErrors (symbolsOf (s.m.stored (patrolAt g.toNat x.patrol))) errs) = .clean) →
      ∃ t, exec (.patrolRead (.stack g) errs) s = .next t ∧ t.m.slice g.toNat = { x with patrol := 0 } ∧
        (∀ h, h ≠ g.toNat → t.m.slice h = s.m.slice h) ∧
        t.m.reg (ldlReg g.toNat 0x114) = satAdd (s.m.reg (ldlReg g.toNat 0x114)) 1 ∧
        (∀ r, r ≠ ldlReg g.toNat 0x114 → t.m.reg r = s.m.reg r) ∧
        (∀ n, t.m.pc n = if n / 32 = g.toNat then { s.m.pc n with cePass := 0#16 } else s.m.pc n) ∧
        t = { s with m := { s.m with slices := t.m.slices, regs := t.m.regs, pcs := t.m.pcs } }) ∧
    (∀ k l, x.skipped = k :: l → x.patrol < stackSectors → s.m.sectorState (patrolAt g.toNat k) = 0#2 →
      rsDecode (withErrors (symbolsOf (s.m.stored (patrolAt g.toNat k))) errs) = .clean →
      ∃ t, exec (.patrolRead (.stack g) errs) s = .next t ∧ t.m.slice g.toNat = { x with skipped := l } ∧
        (∀ h, h ≠ g.toNat → t.m.slice h = s.m.slice h) ∧ t = { s with m := { s.m with slices := t.m.slices } })) ∧
  (∀ (s : State) (p : PkgNo) (errs : SymbolErrors) (x : PkgSt), errorsWf errs = true → s.m.pkg p.toNat = x →
    (x.state = 1#2 → exec (.patrolRead (.package p) errs) s = .next s) ∧
    (x.state ≠ 1#2 →
      (x.state = 2#2 ∨ rsDecode (withErrors (symbolsOf (s.m.stored (pkgPatrolAt p.toNat x.patrol))) errs) = .clean) →
      ∃ t, exec (.patrolRead (.package p) errs) s = .next t ∧ (∀ k, k ≠ p.toNat → t.m.pkg k = s.m.pkg k) ∧
        (x.patrol + 1 < 505413632 → t.m.pkg p.toNat = { x with patrol := x.patrol + 1 } ∧
          t = { s with m := { s.m with pkgs := t.m.pkgs } }) ∧
        (505413632 ≤ x.patrol + 1 → t.m.pkg p.toNat = { x with patrol := 0, cePass := 0#16 } ∧
          t.m.reg (lpdReg p.toNat 0x14) = satAdd (s.m.reg (lpdReg p.toNat 0x14)) 1 ∧
          (∀ r, r ≠ lpdReg p.toNat 0x14 → t.m.reg r = s.m.reg r) ∧
          t = { s with m := { s.m with pkgs := t.m.pkgs, regs := t.m.regs } })))

/-- R273, R274. R276, R277, R287. The clauses leave a bring-up request's answer to its own statement. -/
def Obligations.HoldsAndRetraining : Prop :=
  ((∀ (s : State) (n : PcNo) (why : HoldReason), s.m.safe = false →
    (why = .retraining → s.m.mayHold n.toNat true = true ∧ (s.m.pc n.toNat).trainDue = true ∧ s.m.lowerDue n.toNat = false) →
    (why = .margining → s.m.mayHold n.toNat false = true) →
    (why = .migration → (s.m.pc n.toNat).state = 0#2 ∧ s.m.migrates n.toNat = true) →
    ∃ t, exec (.holdBegin n why) s = .next t ∧
      (∀ k, t.m.pc k = if k = n.toNat then { s.m.pc k with state := 1#2, reason := reasonCode why } else s.m.pc k) ∧
      t.m.reg (ldlReg (n.toNat / 32) 0x10C) = satAdd (s.m.reg (ldlReg (n.toNat / 32) 0x10C)) 1 ∧
      (∀ r, r ≠ ldlReg (n.toNat / 32) 0x10C → t.m.reg r = s.m.reg r) ∧
      t = { s with m := { s.m with regs := t.m.regs, pcs := t.m.pcs } }) ∧
  (∀ (s : State) (n : PcNo) (why : HoldReason), (s.m.safe = true ∨ (s.m.pc n.toNat).state ≠ 0#2 ∨
      why ≠ .migration ∧ ∃ k, k / 32 = n.toNat / 32 ∧ k ≠ n.toNat ∧ (s.m.pc k).state = 1#2 ∧ (s.m.pc k).reason ≠ 2#2) →
    exec (.holdBegin n why) s = .next s) ∧
  (∀ (s : State) (n : PcNo), (s.m.pc n.toNat).state = 1#2 →
    ∃ y : Mach, exec (.holdRelease n) s = .next { s with m := y.resendSyncs } ∧
      (∀ k, y.pc k = if k = n.toNat then { s.m.pc k with state := 0#2, reason := 0#2, lastHoldEnd := some s.m.uptime }
        else s.m.pc k) ∧
      (∀ (i : Nat) (c : Cmd), s.m.cmds[i]? = some c → y.cmds[i]? =
        some { c with heldOn := c.heldOn.filter fun w => w.pc != n.toNat }) ∧
      (∀ g, y.slice g = { s.m.slice g with slotsFree := (y.slice g).slotsFree }) ∧
      EventTaken (n.toNat / 256) (50 + 4 * (n.toNat / 32 % 8)) s.m y ∧
      y = { s.m with regs := y.regs, pcs := y.pcs, cmds := y.cmds, slices := y.slices } ∧
      (s.m.syncDue = [] → y.resendSyncs = y)) ∧
  (∀ (s : State) (n : PcNo), (s.m.pc n.toNat).state ≠ 1#2 → exec (.holdRelease n) s = .next s)) ∧
  ((∀ (s : State) (n : PcNo) (why : RetrainCause) (y : Mach), (s.m.pc n.toNat).state ≠ 2#2 → (s.m.pc n.toNat).state ≠ 3#2 →
    ((why = .request ∨ why = .age ∧ (s.m.pc n.toNat).lastTrain + 86400000 ≤ s.m.uptime) ∧ y = s.m ∨
      ∃ c : Byte, why = .temperature c ∧ y = s.m.sense (.stack (BitVec.ofNat 5 (n.toNat / 32))) (degrees c.toNat) ∧
        ((s.m.pc n.toNat).temp.toNat + 10 ≤ c.toNat ∨ c.toNat + 10 ≤ (s.m.pc n.toNat).temp.toNat)) →
    ∃ t, exec (.retrainTrigger n why) s = .next t ∧
      (∀ k, t.m.pc k = if k = n.toNat then { s.m.pc k with trainDue := true } else s.m.pc k) ∧
      EventTaken (n.toNat / 256) (49 + 4 * (n.toNat / 32 % 8)) y t.m ∧
      t = { s with m := { y with regs := t.m.regs, pcs := t.m.pcs } }) ∧
  (∀ (s : State) (n : PcNo) (c : Byte), (s.m.pc n.toNat).state ≠ 2#2 → (s.m.pc n.toNat).state ≠ 3#2 →
    c.toNat < (s.m.pc n.toNat).temp.toNat + 10 → (s.m.pc n.toNat).temp.toNat < c.toNat + 10 →
    exec (.retrainTrigger n (.temperature c)) s =
      .next { s with m := s.m.sense (.stack (BitVec.ofNat 5 (n.toNat / 32))) (degrees c.toNat) }) ∧
  (∀ (s : State) (n : PcNo), (s.m.pc n.toNat).state ≠ 2#2 → (s.m.pc n.toNat).state ≠ 3#2 →
    ∃ t, exec (.retrainTrigger n .parity) s = .next t ∧
      t.m.reg (ldlReg (n.toNat / 32) 0x110) = satAdd (s.m.reg (ldlReg (n.toNat / 32) 0x110)) 1 ∧
      (((s.m.pc n.toNat).parityErrs.filter fun e => decide (s.m.uptime < e + 1000)).length < 15 →
        (t.m.pc n.toNat).trainDue = (s.m.pc n.toNat).trainDue ∧
        t.m.irqPending (n.toNat / 256) (49 + 4 * (n.toNat / 32 % 8)) =
          s.m.irqPending (n.toNat / 256) (49 + 4 * (n.toNat / 32 % 8))) ∧
      (15 ≤ ((s.m.pc n.toNat).parityErrs.filter fun e => decide (s.m.uptime < e + 1000)).length →
        t.m.pc n.toNat = { s.m.pc n.toNat with trainDue := true, trainParity := true, parityErrs := [] } ∧
        t.m.irqPending (n.toNat / 256) (49 + 4 * (n.toNat / 32 % 8)) = true) ∧
      (∀ k, k ≠ n.toNat → t.m.pc k = s.m.pc k) ∧ t = { s with m := { s.m with regs := t.m.regs, pcs := t.m.pcs } }) ∧
  (∀ (s : State) (n : PcNo) (c : Byte), s.m.retraining n.toNat = true → s.m.retrainReq ≠ some (false, n.toNat) →
    ∃ y : Mach, exec (.retrainComplete n c) s =
        .next { s with m := y.sense (.stack (BitVec.ofNat 5 (n.toNat / 32))) (degrees c.toNat) } ∧
      (∀ k, k ≠ n.toNat → y.pc k = s.m.pc k) ∧
      ((s.m.pc n.toNat).trainParity = false →
        y.pc n.toNat = { s.m.pc n.toNat with temp := c, lastTrain := s.m.uptime, trainDue := false }) ∧
      (∀ l, (s.m.pc n.toNat).trainParity = true →
        s.m.uptime :: (s.m.pc n.toNat).parityTimes.filter (fun e => decide (s.m.uptime < e + 3600000)) = l →
        y.pc n.toNat = {
          s.m.pc n.toNat with
          temp := c, lastTrain := s.m.uptime, trainDue := false, trainParity := false, parityTimes := l, retireDue := (s.m.pc n.toNat).retireDue || decide (8 ≤ l.length) }) ∧
      y = { s.m with pcs := y.pcs }) ∧
  (∀ (s : State) (n : PcNo), s.m.retraining n.toNat = true → s.m.retrainReq ≠ some (false, n.toNat) → s.m.syncDue = [] →
    s.m.canRetire (n.toNat / 256) = true →
    ∃ t, exec (.retrainFail n) s = .next t ∧
      (∀ k, t.m.pc k = if k = n.toNat then { s.m.pc k with state := 2#2, reason := 0#2, lastHoldEnd := some s.m.uptime,
                                                           trainDue := false, trainParity := false, retireDue := true }
        else s.m.pc k) ∧
      (∀ c ∈ t.m.cmds, ∀ w ∈ c.heldOn, w.pc ≠ n.toNat) ∧ EventTaken (n.toNat / 256) (50 + 4 * (n.toNat / 32 % 8)) s.m t.m ∧
      t = { s with m := { s.m with regs := t.m.regs, pcs := t.m.pcs, cmds := t.m.cmds, slices := t.m.slices } }) ∧
  (∀ (s : State) (p : PkgNo) (c : Byte), s.m.safe = false → (s.m.pkg p.toNat).state = 0#2 →
    s.m.retrainReq ≠ some (true, p.toNat) →
    ∃ t, exec (.lpddrRetrain p c) s = .next t ∧
      (∀ k, t.m.pkg k = if k = p.toNat then { s.m.pkg k with temp := c } else s.m.pkg k) ∧
      t.m.reg (lpdReg p.toNat 0x10) = satAdd (s.m.reg (lpdReg p.toNat 0x10)) 1 ∧
      t.m.irqPending (p.toNat / 4) (81 + 4 * (p.toNat % 4)) = true ∧
      t.m.irqPending (p.toNat / 4) (82 + 4 * (p.toNat % 4)) = true ∧ t.m.reading (sensorUnit (.package p)) = 16 * c.toNat ∧
      t = { s with m := { s.m with regs := t.m.regs, pkgs := t.m.pkgs, readings := t.m.readings } }))

/-- R278 to R280: near-tier contents are kept by address, so what a migration moves is where the map places them. -/
def Obligations.RetirementAndMigration : Prop :=
  (∀ (s : State) (n : PcNo), s.m.safe = false → s.m.canRetire (n.toNat / 256) = true → bit (s.m.reg (safReg 0)).toNat 26 = true →
    ((s.m.pc n.toNat).retireDue = true ∨ (s.m.pc n.toNat).state = 2#2) →
    (s.m.goneOn (n.toNat / 256)).contains (n.toNat % 256) = false →
    ((s.m.repairOf (n.toNat / 256)).lanesTaken.length < 7 ∨
      ∀ i, i < 256 → (s.m.pc (256 * (n.toNat / 256) + i)).state = 2#2 → i = n.toNat % 256) →
    ∃ t lane, exec (.pseudoChannelRetire n) s = .next t ∧
      lane < 8 ∧ lane ∉ (s.m.repairOf (n.toNat / 256)).lanesTaken ∧
      (∀ j, j < lane → j ∈ (s.m.repairOf (n.toNat / 256)).lanesTaken) ∧
      (t.m.repairOf (n.toNat / 256)).lanesTaken = (s.m.repairOf (n.toNat / 256)).lanesTaken ++ [lane] ∧
      (∃ g, g.target = n.toNat ∧ g.lane = lane ∧ g.w = 0 ∧
        ((s.m.repairOf (n.toNat / 256)).mig = none → (t.m.repairOf (n.toNat / 256)).mig = some g) ∧
        ((s.m.repairOf (n.toNat / 256)).mig ≠ none →
          (t.m.repairOf (n.toNat / 256)).waiting = (s.m.repairOf (n.toNat / 256)).waiting ++ [g])) ∧
      (∀ k, t.m.pc k = if k = n.toNat then { s.m.pc k with retireDue := false } else s.m.pc k) ∧
      (∀ d, d ≠ n.toNat / 256 → t.m.repairOf d = s.m.repairOf d) ∧ t.m.recordsDue.length = s.m.recordsDue.length + 1 ∧
      t = { s with m := { s.m with regs := t.m.regs, repairs := t.m.repairs, pcs := t.m.pcs,
                                   recordsDue := t.m.recordsDue } }) ∧
  (∀ (s : State) (n : PcNo), (s.m.safe = true ∨ s.m.repair = false ∨ bit (s.m.reg (safReg 0)).toNat 26 = false ∨
      8 ≤ (s.m.repairOf (n.toNat / 256)).lanesTaken.length ∨
      (s.m.pc n.toNat).retireDue = false ∧ (s.m.pc n.toNat).state ≠ 2#2) →
    exec (.pseudoChannelRetire n) s = .next s) ∧
  (∀ (s : State) (d : DieNo) (g : Migration) (c : Nat) (l : List Region), s.m.safe = false →
    (s.m.repairOf d.toNat).mig = some g → g.regions = .logical c :: l → g.w + 4096 < 3047424 →
    (s.m.pc g.target).state = 0#2 →
    (∀ k, k < 248 → (s.m.pc (256 * d.toNat + s.m.spread d.toNat g.lane k)).state ≠ 1#2) →
    (∀ x ∈ s.m.cmds, isLadleOp (dOp x.desc) = false) → s.m.under = [] → (∀ x ∈ s.m.pcs, x.2.state ≠ 2#2) →
    ∃ t, exec (.migrationStep d) s = .next t ∧
      t.m.repairOf d.toNat = { s.m.repairOf d.toNat with mig := some { g with w := g.w + 4096 } } ∧
      (∀ e, e ≠ d.toNat → t.m.repairOf e = s.m.repairOf e) ∧
      t.m.reg (memReg 0) = s.m.reg (memReg 0) + 1#32 ∧
      t.m.reg (ldlReg (g.target / 32) 0x10C) = satAdd (s.m.reg (ldlReg (g.target / 32) 0x10C)) 1 ∧
      t.m.lastStep = some ⟨(s.m.reg (memReg 0) + 1#32).toNat, d.toNat, .logical c, g.w, g.target / 32⟩ ∧
      t = { s with m := { s.m with regs := t.m.regs, repairs := t.m.repairs, cache := t.m.cache, spare := t.m.spare,
                                   lastStep := t.m.lastStep } })

/-! ## Tiers and residency (13) -/

/-- R309 to R311: the ingot format loses nothing. -/
def Obligations.IngotRoundTrip : Prop :=
  ∀ (ew : Nat) (ss : List Sector), ew < 3 → ss.length = 1024 → (∀ x ∈ ss, x.1.length = 64) →
    expandBar ew (encodeBar ew ss) = some ss ∧ (encodeBar ew ss).length ≤ 448 + 64 * 1024

/-- R303, R309 to R312. R315, R316. The fields that a line leaving a shared cache can change (06 R160, log entry 51) are named with the
rest; where no stored sector lies uncorrectable beneath a line (`under = []`), it changes none of them. -/
def Obligations.BarsMoveAndRefetchEnds : Prop :=
  ((∀ (s : State) (n : ObjNo) (b : BitVec 24) (o : Obj) (l : List Byte), s.m.obj n.toNat = o → o.state = 3#3 → o.src = 1#2 →
    b.toNat < o.nbars → barHeld s.m o b.toNat = false → encodeBar o.ew.toNat (nearSectors s.m o b.toNat) = l →
    (o.dst = 2#2 → ∀ first k, (tabGet (fun _ => (0, 0)) o.bars b.toNat).2 ≠ 0 →
      s.m.barPlace o b.toNat l.length = some (first, k) →
      (∀ i, 64 * i < l.length → (s.m.pkg (lpPlace (4096 * first + 64 * i)).1).state ≠ 2#2) →
      ∃ t, exec (.ingotCompress n b) s = .next t ∧ t.m.lpBytes (4096 * first) l.length = l ∧
        (∀ i, 64 * i + 64 ≤ l.length → t.m.lpIsSlag (4096 * first + 64 * i) = false) ∧
        (∀ x, x < 4096 * first ∨ 4096 * first + l.length ≤ x → t.m.lpBytes x 1 = s.m.lpBytes x 1) ∧
        (∀ x, x < 4096 * first ∨ 4096 * first + l.length / 64 * 64 ≤ x → t.m.lpIsSlag x = s.m.lpIsSlag x) ∧
        (s.m.under = [] → (∀ j, t.m.obj j = if j = n.toNat then
            { o with bars := tabSet (fun _ => (0, 0)) o.bars b.toNat (first, k) } else s.m.obj j) ∧
          (∀ x, (∀ g, x ≠ ldlReg g 0x108 ∧ x ≠ ldlReg g 0x24 ∧ x ≠ ldlReg g 0x28) → t.m.reg x = s.m.reg x)) ∧
        t = { s with m := { s.m with lp := t.m.lp, lpSlag := t.m.lpSlag, regs := t.m.regs, objs := t.m.objs, cache := t.m.cache,
                                     under := t.m.under, slag := t.m.slag, cores := t.m.cores, recordsDue := t.m.recordsDue } }) ∧
    (o.dst ≠ 2#2 → s.m.linkUp = true → (s.m.ep o.ep.toNat).error = false →
      ∃ t, exec (.ingotCompress n b) s = .next t ∧ Sends s.m.origClass [.remoteBar o.ep.toNat n.toNat b.toNat l] s.m t.m ∧
        (s.m.under = [] → (∀ j, t.m.obj j = s.m.obj j) ∧
          (∀ x, (∀ g, x ≠ ldlReg g 0x108 ∧ x ≠ ldlReg g 0x24 ∧ x ≠ ldlReg g 0x28) → x ≠ portReg 0x14 →
            t.m.reg x = s.m.reg x)) ∧
        t = { s with m := { s.m with regs := t.m.regs, out := t.m.out, txHeld := t.m.txHeld, objs := t.m.objs, cache := t.m.cache,
                                     under := t.m.under, slag := t.m.slag, cores := t.m.cores, recordsDue := t.m.recordsDue } }) ∧
    (o.dst = 3#2 → s.m.linkUp = false ∨ (s.m.ep o.ep.toNat).error = true → exec (.ingotCompress n b) s = .next s)) ∧
  (∀ (s : State) (n : ObjNo) (b : BitVec 24) (o : Obj) (l : List Byte) (ss : List Sector), s.m.obj n.toNat = o →
    o.state = 2#3 → o.src = 2#2 → o.near ≠ [] → b.toNat < o.nbars → barHeld s.m o b.toNat = false →
    moduleBar s.m o b.toNat = some l → expandBar o.ew.toNat l = some ss →
    (∀ i p, i < 1024 → o.pa (65536 * b.toNat + 64 * i) = some p → p % 64 = 0 ∧ s.m.isFailed p = false) →
    (∀ i j p, i < 1024 → j < 1024 → o.pa (65536 * b.toNat + 64 * i) = some p →
      o.pa (65536 * b.toNat + 64 * j) = some p → i = j) →
    ∃ t, exec (.ingotExpand n b) s = .next t ∧
      (∀ i p x, o.pa (65536 * b.toNat + 64 * i) = some p → ss[i]? = some x →
        t.m.nearBytes p 64 = x.1 ∧ t.m.slagBit p = x.2) ∧
      (∀ a, (∀ i p, i < 1024 → o.pa (65536 * b.toNat + 64 * i) = some p → a / 64 ≠ p / 64) →
        t.m.nearByte a = s.m.nearByte a ∧ (s.m.under = [] → t.m.slagBit a = s.m.slagBit a)) ∧
      t = { s with m := { s.m with near := t.m.near, slag := t.m.slag, objs := t.m.objs, cores := t.m.cores, cache := t.m.cache,
                                   under := t.m.under, regs := t.m.regs, recordsDue := t.m.recordsDue } })) ∧
  ((∀ (s : State) (n : ObjNo) (b : BitVec 24) (data : BarRead) (o : Obj) (e frames : Nat), s.m.obj n.toNat = o →
    o.refetch = true → b.toNat < o.nbars → o.state ≠ 0#3 → barSlag s.m o b.toNat = true → s.m.linkUp = true →
    (o.nearHas b.toNat = true → barHeld s.m o b.toNat = false) → o.ep.toNat = e → bits data.entry.toNat 40 36 = frames →
    (∀ l ss, (s.m.ep e).error = false → bits data.entry.toNat 63 41 = 0 → 0 < frames → frames ≤ 17 → data.data = some l →
      expandBar o.ew.toNat (l.take (4096 * frames)) = some ss → (ss.any fun x => x.2) = false → s.m.under = [] →
      ∃ (t : State) (z : Obj), exec (.refetch n b data) s = .next t ∧
        t.m.reg (tierReg 0x20) = satAdd (s.m.reg (tierReg 0x20)) 1 ∧
        t.m.irqPending 0 108 = true ∧ (∀ j, j ≠ n.toNat → t.m.obj j = s.m.obj j) ∧
        z = { o with
          bars := (t.m.obj n.toNat).bars,
          remSlag := (if o.remHas b.toNat then o.remSlag.filter (fun x => x != b.toNat) else o.remSlag) } ∧
        (o.modHas b.toNat = false → z.bars = o.bars) ∧
        t.m.obj n.toNat = (if (List.range o.nbars).any fun i => barSlag t.m z i then z
          else { z with poison := false, refetch := false }) ∧
        (o.nearHas b.toNat = true →
          (∀ i p, i < 1024 → o.pa (65536 * b.toNat + 64 * i) = some p → p % 64 = 0 ∧ s.m.isFailed p = false) →
          (∀ i j p, i < 1024 → j < 1024 → o.pa (65536 * b.toNat + 64 * i) = some p →
            o.pa (65536 * b.toNat + 64 * j) = some p → i = j) →
          ∀ i p x, o.pa (65536 * b.toNat + 64 * i) = some p → ss[i]? = some x →
            t.m.nearBytes p 64 = x.1 ∧ t.m.slagBit p = false) ∧
        (o.nearHas b.toNat = false → t.m.near = s.m.near ∧ t.m.slag = s.m.slag ∧ t.m.cache = s.m.cache) ∧
        (o.modHas b.toNat = false → t.m.lp = s.m.lp ∧ t.m.lpSlag = s.m.lpSlag) ∧
        Sends s.m.origClass ([.originRead e (4096 * o.originOff + 256 + 8 * b.toNat) 8,
            .originRead e (4096 * (o.originOff + bits data.entry.toNat 35 0)) (4096 * frames)] ++
          if o.remHas b.toNat then [.remoteBar e n.toNat b.toNat (l.take (4096 * frames))] else []) s.m t.m ∧
        t = { s with m := { s.m with near := t.m.near, slag := t.m.slag, lp := t.m.lp, lpSlag := t.m.lpSlag, cache := t.m.cache,
                                     objs := t.m.objs, regs := t.m.regs, eps := t.m.eps, out := t.m.out,
                                     txHeld := t.m.txHeld } }) ∧
    (∀ reads, (s.m.ep e).error = false →
      (reads = [.originRead e (4096 * o.originOff + 256 + 8 * b.toNat) 8] ∧
          (bits data.entry.toNat 63 41 ≠ 0 ∨ frames = 0 ∨ 17 < frames) ∨
        reads = [.originRead e (4096 * o.originOff + 256 + 8 * b.toNat) 8,
            .originRead e (4096 * (o.originOff + bits data.entry.toNat 35 0)) (4096 * frames)] ∧
          bits data.entry.toNat 63 41 = 0 ∧ 0 < frames ∧ frames ≤ 17 ∧
          (data.data = none ∨ ∃ l, data.data = some l ∧ (expandBar o.ew.toNat (l.take (4096 * frames)) = none ∨
            ∃ ss, expandBar o.ew.toNat (l.take (4096 * frames)) = some ss ∧ (ss.any fun x => x.2) = true))) →
      ∃ t, exec (.refetch n b data) s = .next t ∧ t.m.irqPending 0 108 = true ∧
        t.m.obj n.toNat = { o with clean := false, refetch := false, present := false } ∧
        (∀ j, j ≠ n.toNat → t.m.obj j = s.m.obj j) ∧ Sends s.m.origClass reads s.m t.m ∧
        t = { s with m := { s.m with objs := t.m.objs, cores := t.m.cores, regs := t.m.regs, eps := t.m.eps, out := t.m.out,
                                     txHeld := t.m.txHeld } }) ∧
    ((s.m.ep e).error = true →
      ∃ t, exec (.refetch n b data) s = .next t ∧ t.m.obj n.toNat = { o with clean := false, refetch := false, present := false } ∧
        (∀ j, j ≠ n.toNat → t.m.obj j = s.m.obj j) ∧
        t = { s with m := { s.m with objs := t.m.objs, cores := t.m.cores, regs := t.m.regs } })) ∧
  (∀ (s : State) (n : ObjNo) (b : BitVec 24) (data : BarRead),
    ((s.m.obj n.toNat).refetch = false ∨ barSlag s.m (s.m.obj n.toNat) b.toNat = false ∨ s.m.linkUp = false ∨
      ((s.m.obj n.toNat).nearHas b.toNat = true ∧ barHeld s.m (s.m.obj n.toNat) b.toNat = true)) →
    exec (.refetch n b data) s = .next s))

/-- R298, R303 to R306, R312, R359. R303 to R305 and R308. The residency signal is left to the statement about synchronisation
objects. Where a stored sector lies uncorrectable beneath a line of a shared cache, a line that leaves may poison another object (06
R160, log entry 51): the clauses about other objects are for `under = []`. -/
def Obligations.MovesStepAndCommit : Prop :=
  ((∀ (s : State) (n : ObjNo) (o : Obj), s.m.obj n.toNat = o → s.m.safe = false → o.state = 3#3 → o.abandon = false →
    o.wmark.toNat < o.steps → (o.dst = 2#2 ∧ o.src = 1#2 ∨ o.dst = 3#2) →
    (o.src = 1#2 → (stepBars o).any (barHeld s.m o) = false) →
    (o.src = 1#2 → o.wmark = 0#20 → s.m.ladleHolds none n.toNat = false) →
    (o.dst = 3#2 → s.m.linkUp = true ∧ (s.m.ep o.ep.toNat).error = false) →
    ∃ (t : State) (z : Obj), exec (.moveDownStep n) s = .next t ∧ t.m.obj n.toNat = z ∧ z.wmark = o.wmark + 1#20 ∧
      z.state = 3#3 ∧ z.near = o.near ∧
      (s.m.under = [] → z = { o with wmark := z.wmark, remUsed := z.remUsed, remSlag := z.remSlag, bars := z.bars } ∧
        ∀ j, j ≠ n.toNat → t.m.obj j = s.m.obj j) ∧
      (o.dst = 2#2 → t = { s with m := { s.m with
        objs := t.m.objs, lp := t.m.lp, lpSlag := t.m.lpSlag, regs := t.m.regs, cache := t.m.cache, under := t.m.under,
        slag := t.m.slag, cores := t.m.cores, recordsDue := t.m.recordsDue } }) ∧
      (o.dst = 3#2 → t.m.out.length + t.m.txHeld.length = s.m.out.length + s.m.txHeld.length + (stepBars o).length ∧
        t.m.irqPending 0 108 = true ∧ z.bars = o.bars ∧
        t = { s with m := { s.m with
          objs := t.m.objs, out := t.m.out, txHeld := t.m.txHeld, free := t.m.free, eps := t.m.eps, regs := t.m.regs,
          cache := t.m.cache, under := t.m.under, slag := t.m.slag, cores := t.m.cores,
          recordsDue := t.m.recordsDue } })) ∧
  (∀ (s : State) (n : ObjNo) (remote : List BarRead) (o : Obj), s.m.obj n.toNat = o → s.m.safe = false → o.state = 2#3 →
    o.wmark.toNat < o.steps → o.near ≠ [] → (stepBars o).any (barHeld s.m o) = false → (o.src = 3#2 → s.m.linkUp = true) →
    ∃ t, exec (.moveUpStep n remote) s = .next t ∧ (t.m.obj n.toNat).wmark = o.wmark + 1#20 ∧
      (t.m.obj n.toNat).state = 2#3 ∧ (∀ j, (t.m.obj j).state = (s.m.obj j).state ∧ (t.m.obj j).near = (s.m.obj j).near) ∧
      (∀ a, (∀ j p, o.pa (64 * j) = some p → a < p ∨ p + 64 ≤ a) → t.m.nearByte a = s.m.nearByte a) ∧
      (o.dst = 1#2 → t.m.lp = s.m.lp ∧ t.m.lpSlag = s.m.lpSlag) ∧
      t = { s with m := { s.m with near := t.m.near, slag := t.m.slag, lp := t.m.lp, lpSlag := t.m.lpSlag, objs := t.m.objs,
                                   cores := t.m.cores, regs := t.m.regs, recordsDue := t.m.recordsDue, free := t.m.free,
                                   eps := t.m.eps, out := t.m.out, txHeld := t.m.txHeld, cache := t.m.cache,
                                   under := t.m.under } })) ∧
  ((∀ (s : State) (n : ObjNo) (o : Obj), s.m.obj n.toNat = o → s.m.safe = false → o.state = 3#3 → o.abandon = false →
    o.steps ≤ o.wmark.toNat → o.syncEn = false → (o.src = 1#2 → s.m.ladleHolds none n.toNat = false) →
    ∃ (t : State) (z : Obj), exec (.moveDownCommit n) s = .next t ∧ t.m.obj n.toNat = z ∧
      z.state = (if o.dst = 2#2 then 4#3 else 5#3) ∧ z.near = [] ∧ z.present = false ∧ z.watch = false ∧ z.wmark = 0#20 ∧
      z.places = [] ∧ z.remUsed = 0 ∧ (o.dst = 2#2 → z.remFrames = o.remFrames) ∧ (o.dst ≠ 2#2 → z.bars = []) ∧
      z.image = (o.image && o.dst != 3#2) ∧
      z = { o with state := z.state, near := z.near, present := z.present, watch := z.watch, wmark := z.wmark,
                   places := z.places, bars := z.bars, remFrames := z.remFrames, remUsed := z.remUsed, image := z.image } ∧
      (∀ j, j ≠ n.toNat → t.m.obj j = s.m.obj j) ∧
      (o.src = 1#2 → ∀ c l, l ∈ (t.m.core c).xlate → ∀ p ∈ s.m.maps, p.obj = n.toNat → p.ctx = (t.m.core c).xctx →
        l < p.va ∨ p.va + o.bytes ≤ l) ∧
      t.m.reg (tierReg 0x18) = satAdd (s.m.reg (tierReg 0x18)) 1 ∧
      t = { s with m := { s.m with objs := t.m.objs, regs := t.m.regs, cores := t.m.cores, sessions := t.m.sessions,
                                   out := t.m.out, txHeld := t.m.txHeld } }) ∧
  (∀ (s : State) (n : ObjNo) (o : Obj), s.m.obj n.toNat = o → s.m.safe = false → o.state = 2#3 → o.dst = 1#2 →
    o.steps ≤ o.wmark.toNat → o.syncEn = false → o.refetch = false → (∀ p ∈ s.m.pcs, p.2.state ≠ 2#2) →
    ∃ (t : State) (z : Obj), exec (.moveUpCommit n) s = .next t ∧ t.m.obj n.toNat = z ∧ z.state = 1#3 ∧
      z.present = (!o.poison || (o.clean && o.origin)) ∧ z.watch = false ∧ z.bars = [] ∧ z.wmark = 0#20 ∧ z.places = [] ∧
      z.pins = o.pins + BitVec.ofNat 16 (s.m.waitersOf n.toNat).length ∧
      z = { o with state := z.state, present := z.present, watch := z.watch, bars := z.bars, wmark := z.wmark,
                   places := z.places, pins := z.pins, remFrames := if o.src = 3#2 then 0 else o.remFrames,
                   remSlag := (if o.src = 3#2 then [] else o.remSlag), reMove := false } ∧
      (∀ j, j ≠ n.toNat → t.m.obj j = s.m.obj j) ∧
      t.m.reg (tierReg 0x14) = satAdd (s.m.reg (tierReg 0x14)) 1 ∧
      (∀ c ∈ s.m.waitersOf n.toNat, ∀ x, t.m.cmd? c.id = some x → n.toNat ∈ x.pins) ∧
      t = { s with m := { s.m with objs := t.m.objs, regs := t.m.regs, cmds := t.m.cmds, sessions := t.m.sessions,
                                   out := t.m.out, txHeld := t.m.txHeld } })) ∧
  ((∀ (s : State) (n : ObjNo), (s.m.obj n.toNat).state = 2#3 → ∃ t, exec (.promotionTimeout n) s = .next t ∧
      (t.m.obj n.toNat).state = (if (s.m.obj n.toNat).src = 3#2 then 5#3 else 4#3) ∧ (t.m.obj n.toNat).near = [] ∧
      (t.m.obj n.toNat).wmark = 0#20 ∧ (∀ j, j ≠ n.toNat → t.m.obj j = s.m.obj j) ∧ t.m.near = s.m.near ∧ t.m.maps = s.m.maps) ∧
    (∀ (s : State) (n : ObjNo), (s.m.obj n.toNat).state = 3#3 → (s.m.obj n.toNat).src = 1#2 →
      ∃ t, exec (.abandonRequest n) s = .next t ∧ t.m.obj n.toNat = { s.m.obj n.toNat with abandon := true } ∧
        (∀ j, j ≠ n.toNat → t.m.obj j = s.m.obj j) ∧ t = { s with m := { s.m with objs := t.m.objs } }) ∧
    (∀ s : State, ∃ t, exec .accessedSweep s = .next t ∧ (∀ j, (t.m.obj j).accessed = false) ∧
      (∀ j, t.m.obj j = { s.m.obj j with accessed := false }) ∧ t = { s with m := { s.m with objs := t.m.objs } }) ∧
    (∀ (s : State) (c : CtxNo) (va : VA) (len : BitVec 49), ∃ t, exec (.invalidation c va len) s = .next t ∧
      (∀ k, (s.m.core k).xctx = c.toNat → ∀ l ∈ (t.m.core k).xlate, l ∈ (s.m.core k).xlate ∧
        (l < va.toNat → l + (match s.m.leafAt c.toNat l with | some p => (s.m.obj p.obj).leaf | none => 65536) ≤ va.toNat) ∧
        (va.toNat ≤ l → va.toNat + len.toNat ≤ l ∨ (match s.m.leafAt c.toNat l with | some p => (s.m.obj p.obj).leaf | none => 65536) = 0)) ∧
      (∀ k, (s.m.core k).xctx ≠ c.toNat → t.m.core k = s.m.core k) ∧
      t.m.reg (tierReg 0x2C) = satAdd (s.m.reg (tierReg 0x2C)) 1 ∧
      t = { s with m := { s.m with cores := t.m.cores, regs := t.m.regs } }))

/-- R298, R303 to R305, R307, R315. -/
def Obligations.TimeoutsAbandonsSweepsInvalidations : Prop :=
  (∀ (s : State) (n : ObjNo) (o w : Obj), s.m.obj n.toNat = o → o.state = 2#3 →
    w = { o with state := (if o.src = 3#2 then 5#3 else 4#3), near := [], wmark := 0#20, syncEn := false, places := [],
                 bars := (if o.dst = 2#2 then [] else o.bars), reMove := false } →
    ∃ (t : State) (z : Obj), exec (.promotionTimeout n) s = .next t ∧ t.m.obj n.toNat = z ∧
      z = (if o.refetch && !((List.range o.nbars).any fun b => barSlag s.m w b) then { w with poison := false, refetch := false }
        else w) ∧
      (∀ j, j ≠ n.toNat → t.m.obj j = s.m.obj j) ∧
      (∀ c ∈ s.m.waitersOf n.toNat, (s.m.ctx c.ctx).state = 1#2 →
        (t.m.ctx c.ctx).state = 2#2 ∧ (t.m.ctx c.ctx).lastSt = stTierTimeout) ∧
      (∀ c, (s.m.ctx c).state ≠ 1#2 → t.m.ctx c = s.m.ctx c) ∧
      t = { s with m := { s.m with objs := t.m.objs, ctxs := t.m.ctxs, regs := t.m.regs, sessions := t.m.sessions,
                                   out := t.m.out, txHeld := t.m.txHeld } }) ∧
  (∀ (s : State) (n : ObjNo), (s.m.obj n.toNat).state ≠ 2#3 → exec (.promotionTimeout n) s = .next s) ∧
  (∀ (s : State) (n : ObjNo), (s.m.obj n.toNat).state = 3#3 → (s.m.obj n.toNat).src = 1#2 →
    ∃ t, exec (.abandonRequest n) s = .next t ∧
      (∀ j, t.m.obj j = if j = n.toNat then { s.m.obj j with abandon := true } else s.m.obj j) ∧
      t = { s with m := { s.m with objs := t.m.objs } }) ∧
  (∀ (s : State) (n : ObjNo), ((s.m.obj n.toNat).state ≠ 3#3 ∨ (s.m.obj n.toNat).src ≠ 1#2) →
    exec (.abandonRequest n) s = .next s) ∧
  (∀ s : State, ∃ t, exec .accessedSweep s = .next t ∧ (∀ j, t.m.obj j = { s.m.obj j with accessed := false }) ∧
    t = { s with m := { s.m with objs := t.m.objs } }) ∧
  (∀ (s : State) (c : CtxNo) (va : VA) (len : BitVec 49),
    ∃ t, exec (.invalidation c va len) s = .next t ∧
      (∀ k, t.m.core k = if (s.m.core k).xctx = c.toNat then
        { s.m.core k with xlate := (s.m.core k).xlate.filter fun l => !(decide (l < va.toNat + len.toNat) && decide (va.toNat < l +
          (match s.m.leafAt c.toNat l with | some p => (s.m.obj p.obj).leaf | none => 65536))) } else s.m.core k) ∧
      t.m.reg (tierReg 0x2C) = satAdd (s.m.reg (tierReg 0x2C)) 1 ∧ t.m.irqPending 0 116 = true ∧
      t = { s with m := { s.m with cores := t.m.cores, regs := t.m.regs } })

/-! ## Commands of queues (14, 05) -/

/-- R326 to R339. `die` is the queue's home die, `cx` its context, `r` the machine once the context is eligible (R337), `g` when the
places have been granted, `y` when the checks of the body have read what they read; the places kept for a holder or an urgent context
are not granted (R338, R339), a pin that the doorbell could not take is taken (R221), and a context left with nothing ready is eligible
no more (R337). -/
def Obligations.CoreCommandsIssue : Prop :=
  ∀ (s : State) (c : Instr) (q : QueueNo) (d : Desc) (e die cx : Nat) (ks : List Nat) (r g y : Mach),
    (c = .matmul q d ∨ c = .conv q d ∨ c = .attnScore q d ∨ c = .attnApply q d ∨ c = .attnApplyBackward q d ∨
      c = .gatedStep q d ∨ c = .scanChunk q d) →
    queueEntryOf c = some (q, e) → MayIssue q.toNat e s.m →
    homeDie (s.m.queue q.toNat).dieMask = die → (s.m.queue q.toNat).ctx = cx →
    noteReady s.m die cx = r → r.choosePlaces (s.m.queue q.toNat).dieMask (dSlots e) (keptPlaces r die cx) = some ks →
    grantPlaces (enterCmd r q.toNat e .running).2 s.m.nextCmd ks = g → coreIssueCheck s.m.nextCmd g = .ok () y →
    exec c s = .next { s with m := noteIdle y die cx } ∧
      (r.ctx cx).eligibleAt die = true ∧ r = { s.m with ctxs := r.ctxs, scheds := r.scheds, regs := r.regs } ∧
      (∀ k, r.ctx k = { s.m.ctx k with eligible := (r.ctx k).eligible, pass := (r.ctx k).pass }) ∧
      (∀ x, x ≠ schReg die 0x14 → r.reg x = s.m.reg x) ∧
      (∀ k, r.sched k = { s.m.sched k with holder := (r.sched k).holder }) ∧
      (∀ k, k ≠ die → (r.sched k).holder = (s.m.sched k).holder) ∧
      (∃ x, g.cmd? s.m.nextCmd = some x ∧ FromEntry q.toNat e s.m x ∧ x.st = .running ∧
        x.slots.map (fun z => z.cluster) = ks ∧ ∀ z ∈ x.slots, z.admitted = false) ∧
      Issued q.toNat s.m g ∧ (∀ (i k : Nat), ks[i]? = some k → (s.m.nextCmd, i) ∈ (g.cluster k).waiting) ∧
      (∀ k, (g.cluster k).places.length = (s.m.cluster k).places.length + ks.count k ∧
        (g.cluster k).placesFree = (s.m.cluster k).placesFree - ks.count k) ∧
      (∀ x ∈ s.m.cmds, g.cmd? x.id = s.m.cmd? x.id) ∧
      ((s.m.queue q.toNat).pinDue.contains (s.m.queue q.toNat).rd = false → g.objs = s.m.objs) ∧
      g = { r with nextCmd := g.nextCmd, cmds := g.cmds, queues := g.queues, scheds := g.scheds, regs := g.regs,
                   clusters := g.clusters, objs := g.objs } ∧
      (dOp e ≤ 2 → y = g) ∧
      noteIdle y die cx = { y with ctxs := (noteIdle y die cx).ctxs } ∧
      (∀ k, (noteIdle y die cx).ctx k = { y.ctx k with eligible := ((noteIdle y die cx).ctx k).eligible }) ∧
      ((∀ p ∈ (candidates y die).2, (y.queue p.1).ctx ≠ cx) → ((noteIdle y die cx).ctx cx).eligibleAt die = false)

/-- R224, R226 with R340: flask commands run on the flask of the home die. R143, R144, R298, R340: a ladle command is checked at
issue and offered; where no other is offered and its class is free it is delivered, takes its check phase (`x2` in `y2` is what that
leaves) and passes the check barrier. -/
def Obligations.FlaskAndLadleCommandsIssue : Prop :=
  (∀ (s : State) (c : Instr) (q : QueueNo) (d : Desc) (e die cx : Nat) (x : Cmd) (r y0 y : Mach),
    (c = .stateExport q d ∨ c = .stateImport q d) → queueEntryOf c = some (q, e) → MayIssue q.toNat e s.m →
    homeDie (s.m.queue q.toNat).dieMask = die → (s.m.queue q.toNat).ctx = cx →
    noteReady s.m die cx = r → enterCmd r q.toNat e .running = (x, y0) → flaskWork x y0 = .ok () y →
    exec c s = .next { s with m := noteIdle (y.setCmd { x with step := 1 }) die cx } ∧ FromEntry q.toNat e s.m x ∧ x.st = .running ∧
      y0.cmds = s.m.cmds ++ [x] ∧ Issued q.toNat s.m y0 ∧
      ((s.m.queue q.toNat).pinDue.contains (s.m.queue q.toNat).rd = false → y0.objs = s.m.objs) ∧
      y0 = { r with nextCmd := y0.nextCmd, cmds := y0.cmds, queues := y0.queues, scheds := y0.scheds, regs := y0.regs,
                    objs := y0.objs }) ∧
  (∀ (s : State) (c : Instr) (q : QueueNo) (d : Desc) (e die cx : Nat) (x x1 : Cmd) (r y0 y1 z : Mach),
    (c = .attnNorm q d ∨ c = .attnNormBackward q d ∨ c = .fork q d ∨ c = .appendPage q d ∨ c = .freeList q d ∨
      c = .optUpdate q d ∨ c = .reduce q d ∨ c = .reduceAdapt q d ∨ c = .reduceHist q d ∨ c = .copy q d ∨ c = .zero q d) →
    queueEntryOf c = some (q, e) → MayIssue q.toNat e s.m →
    homeDie (s.m.queue q.toNat).dieMask = die → (s.m.queue q.toNat).ctx = cx →
    noteReady s.m die cx = r → enterCmd r q.toNat e .offered = (x, y0) → ladleIssue x y0 = .ok x1 y1 → y1.cmds = y0.cmds →
    y1.ctxs = y0.ctxs →
    (x1.id = x.id ∧ x1.ctx = x.ctx ∧ x1.die = x.die ∧ x1.desc = x.desc ∧ x1.st = x.st) →
    noteIdle (y1.setCmd x1) die cx = z →
    FromEntry q.toNat e s.m x ∧ x.st = .offered ∧ y0.cmds = s.m.cmds ++ [x] ∧ Issued q.toNat s.m y0 ∧
    y0 = { r with nextCmd := y0.nextCmd, cmds := y0.cmds, queues := y0.queues, scheds := y0.scheds, regs := y0.regs } ∧
    z.cmds = s.m.cmds ++ [x1] ∧ z = { y1 with cmds := z.cmds, ctxs := z.ctxs } ∧
    (isPageOp (dOp e) = true → x1 = x ∧ y1 = y0) ∧
    (((∃ v ∈ s.m.cmds, v.st = .offered) ∨ (classHead s.m (isPageOp (dOp e))).isSome = true) →
      exec c s = .next { s with m := z }) ∧
    (∀ (b x2 v : Cmd) (y2 w : Mach), (∀ v ∈ s.m.cmds, v.st ≠ .offered) → classHead s.m (isPageOp (dOp e)) = none →
      z.issues = true → b = ({ x1 with st := .check } : Cmd).begin (z.reg (memReg 0)).toNat →
      ladleCheck b { z with ladleDie := (x1.die + 1) % 4, cmds := s.m.cmds ++ [b], leafUse := .check [] } = .ok x2 y2 →
      (x2.id = x1.id ∧ x2.ctx = x1.ctx ∧ x2.desc = x1.desc) → y2.cmds = s.m.cmds ++ [b] → y2.ctxs = z.ctxs → y2.issues = true →
      w = (({ y2 with leafUse := .walk } : Mach).setCmd { x2 with st := .checked, leaves := y2.leafUse.noted }).dropWaits x1.id
        (fun h => h.no == 1) → w.cmd? x1.id = some v →
      exec c s = .next { s with m := w.setCmd { v with st := .work, pass := 0, shares := List.range 32 } }))

/-- R332 to R334. Who sends the signals and where the objects' lines lie is the model's choice (log entry 61). -/
def Obligations.WaitsAndSignals : Prop :=
  (∀ (s : State) (q : QueueNo) (d : Desc) (e die cx : Nat) (x : Cmd) (b : Bool) (y0 y : Mach),
    queueEntryOf (.wait q d) = some (q, e) → MayIssue q.toNat e s.m → waitBad e = false → NoneHeld s.m → s.m.syncNews = [] →
    homeDie (s.m.queue q.toNat).dieMask = die → (s.m.queue q.toNat).ctx = cx →
    enterCmd (noteReady s.m die cx) q.toNat e .waiting = (x, y0) → waitHolds x y0 = .ok b y →
    (b = false → ∃ t, exec (.wait q d) s = .next t ∧ t.m.cmds = s.m.cmds ++ [x] ∧
      FromEntry q.toNat e s.m x ∧ x.st = .waiting ∧ (t.m.queue q.toNat).state = 2#2 ∧
      (t.m.queue q.toNat).rd = (s.m.queue q.toNat).rd ∧ (∀ j, j ≠ q.toNat → t.m.queue j = s.m.queue j) ∧
      (∀ k, t.m.ctx k = { s.m.ctx k with eligible := (t.m.ctx k).eligible, pass := (t.m.ctx k).pass }) ∧
      (∀ o, t.m.sync o = s.m.sync o) ∧
      t = { s with m := { y with ctxs := t.m.ctxs } } ∧
      y = { s.m with nextCmd := y.nextCmd, cmds := y.cmds, queues := y.queues, regs := y.regs, ctxs := y.ctxs,
                     scheds := y.scheds, cache := y.cache, under := y.under, slag := y.slag, objs := y.objs,
                     cores := y.cores, recordsDue := y.recordsDue, slices := y.slices }) ∧
    (b = true → ∃ t, exec (.wait q d) s = .next t ∧ t.m.cmds = s.m.cmds ∧ Issued q.toNat s.m t.m ∧
      (t.m.sched die).retired = (s.m.sched die).retired + 1 ∧
      t.m.near = s.m.near ∧ t.m.maps = s.m.maps)) ∧
  (∀ (s : State) (w : Cmd) (b : Bool) (y : Mach), waitHolds w s.m = .ok b y →
    b = condsHold w.desc ((waitConds w.desc).map fun x => (x, (s.m.sync (bits x 45 32)).count.toNat))) ∧
  (∀ (s : State) (w : Cmd), s.m.frozen = false → s.m.slag = [] → s.m.under = [] →
    (∀ n, (s.m.pc n).state ≠ 1#2 ∧ (s.m.pc n).state ≠ 2#2) → (∀ g, 0 < (s.m.slice g).free ∧ (s.m.slice g).atomWait = []) →
    ∃ b y, waitHolds w s.m = .ok b y) ∧
  (∀ (s : State) (q : QueueNo) (d : Desc) (e die cx : Nat), queueEntryOf (.signal q d) = some (q, e) → MayIssue q.toNat e s.m →
    signalBad e = false → NoneHeld s.m → homeDie (s.m.queue q.toNat).dieMask = die → (s.m.queue q.toNat).ctx = cx →
    ∃ t, exec (.signal q d) s = .next t ∧ t.m.cmds = s.m.cmds ∧ Issued q.toNat s.m t.m ∧
      (∀ o, t.m.sync o = (headerSignal (each (fun w m => m.applySync (flaskUnit die) (bits w 45 32) (bits w 47 46) (bits w 31 0) cx)
        (signalOps e) s.m) die cx e).sync o) ∧
      (t.m.sched die).retired = (s.m.sched die).retired + 1 ∧
      t.m.near = s.m.near ∧ t.m.maps = s.m.maps)

/-- R329 with R344; R140 for a skipped path; R330 and R412 for an entry that waits. R138 to R140, R239. `a` tells whether path A is taken; `y` is the machine when the value has been read.
Who sends the header's signal is the model's choice (log entry 61). -/
def Obligations.RefusedSkippedAndBranches : Prop :=
  (∀ (s : State) (c : Instr) (q : QueueNo) (e : Nat), queueEntryOf c = some (q, e) → NumbersFresh s.m →
    s.m.toReplay q.toNat = none →
    (∀ st, (s.m.queue q.toNat).skipping (s.m.queue q.toNat).rd = false → s.m.issues = true →
      s.m.runs (s.m.queue q.toNat).ctx = true → s.m.readyAt q.toNat e = true → headerCode s.m q.toNat e = some st →
      ∃ t r, exec c s = .next t ∧ (t.m.ctx (s.m.queue q.toNat).ctx).state = 2#2 ∧
        (t.m.ctx (s.m.queue q.toNat).ctx).lastSt = st ∧ (t.m.ctx (s.m.queue q.toNat).ctx).faultCmd = dCmdId e ∧
        (t.m.ctx (s.m.queue q.toNat).ctx).log = (r :: (s.m.ctx (s.m.queue q.toNat).ctx).log).take 256 ∧
        r.cmdId = dCmdId e ∧ r.queue = q.toNat ∧ r.status = st ∧
        (∀ x, x ≠ (s.m.queue q.toNat).ctx →
          t.m.ctx x = { s.m.ctx x with eligible := (t.m.ctx x).eligible, pass := (t.m.ctx x).pass }) ∧
        t.m.irqPending (homeDie (s.m.queue q.toNat).dieMask) 113 = true ∧
        t = { s with m := { s.m with ctxs := t.m.ctxs, scheds := t.m.scheds, regs := t.m.regs } }) ∧
    ((s.m.queue q.toNat).skipping (s.m.queue q.toNat).rd = true → s.m.issues = true →
      s.m.runs (s.m.queue q.toNat).ctx = true → (s.m.queue q.toNat).state = 1#2 →
      (s.m.queue q.toNat).rd < (s.m.queue q.toNat).wr → NoneHeld s.m →
      ∃ t, exec c s = .next t ∧ t.m.queue q.toNat = (s.m.queue q.toNat).passed (s.m.queue q.toNat).rd ∧
        (∀ j, j ≠ q.toNat → t.m.queue j = s.m.queue j) ∧ t.m.cmds = s.m.cmds ∧
        (∀ o, t.m.sync o = (headerSignal s.m (homeDie (s.m.queue q.toNat).dieMask) (s.m.queue q.toNat).ctx e).sync o) ∧
        (t.m.sched (homeDie (s.m.queue q.toNat).dieMask)).skipped = (s.m.sched (homeDie (s.m.queue q.toNat).dieMask)).skipped + 1 ∧
        (∀ k, k ≠ (s.m.queue q.toNat).ctx →
          t.m.ctx k = { s.m.ctx k with eligible := (t.m.ctx k).eligible, pass := (t.m.ctx k).pass }) ∧
        t = { s with m := { s.m with
          queues := t.m.queues, syncs := t.m.syncs, scheds := t.m.scheds, jobs := t.m.jobs,
          objs := t.m.objs, appliedTotal := t.m.appliedTotal, sent := t.m.sent, ctxs := t.m.ctxs, regs := t.m.regs,
          syncDue := t.m.syncDue, syncNews := t.m.syncNews, slices := t.m.slices, cache := t.m.cache, under := t.m.under,
          slag := t.m.slag, cores := t.m.cores, recordsDue := t.m.recordsDue } }) ∧
    ((s.m.queue q.toNat).skipping (s.m.queue q.toNat).rd = false →
      (s.m.issues = false ∨ s.m.runs (s.m.queue q.toNat).ctx = false ∨ s.m.readyAt q.toNat e = false) →
      exec c s = .next s)) ∧
  ((∀ (s : State) (c : Instr) (q : QueueNo) (d : Desc) (e k : Nat) (x : Cmd) (r y0 y : Mach) (a : Bool),
    (c = .branch q d ∨ c = .stashBranch q d) → queueEntryOf c = some (q, e) → MayIssue q.toNat e s.m → NoneHeld s.m →
    branchCode s.m q.toNat e = none → s.m.decider (homeDie (s.m.queue q.toNat).dieMask) = some k →
    noteReady s.m (homeDie (s.m.queue q.toNat).dieMask) (s.m.queue q.toNat).ctx = r →
    { (enterCmd r q.toNat e .branching).1 with decider := k } = x →
    (enterCmd r q.toNat e .branching).2.setCmd x = y0 → branchRun x false y0 = .ok (some a) y →
    y.queues = y0.queues → y.cmds = y0.cmds →
    ∃ t z, exec c s = .next t ∧ t.m.queue q.toNat = z ∧ t.m.cmds = s.m.cmds ∧ z.rd = (s.m.queue q.toNat).rd + 1 ∧
      z.state = 1#2 ∧
      z.extents = (if lenA e + lenB e = 0 then [] else [(s.m.queue q.toNat).rd + 1 + lenA e + lenB e]) ++
        ((s.m.queue q.toNat).extents.filter fun p => decide ((s.m.queue q.toNat).rd + 1 < p)) ∧
      z.skips = ((s.m.queue q.toNat).skips.filter fun p => decide ((s.m.queue q.toNat).rd + 1 < p.2)) ++
        (if a then (if lenB e = 0 then [] else [((s.m.queue q.toNat).rd + 1 + lenA e, (s.m.queue q.toNat).rd + 1 + lenA e + lenB e)])
          else (if lenA e = 0 then [] else [((s.m.queue q.toNat).rd + 1, (s.m.queue q.toNat).rd + 1 + lenA e)])) ∧
      (∀ j, j ≠ q.toNat → t.m.queue j = s.m.queue j) ∧
      bits (t.m.reg (clReg k 0x14)).toNat 15 0 = min 0xFFFF (bits (y.reg (clReg k 0x14)).toNat 15 0 + b2n a) ∧
      bits (t.m.reg (clReg k 0x14)).toNat 31 16 = min 0xFFFF (bits (y.reg (clReg k 0x14)).toNat 31 16 + b2n (!a)) ∧
      t.m.near = y.near ∧ t.m.maps = y.maps) ∧
  (∀ (s : State) (q : QueueNo) (c : Cmd) (y : Mach) (a : Bool), s.m.safe = false →
    (s.m.cmds.find? fun x => x.queue == q.toNat && x.st == .branching && bit x.desc 194) = some c →
    s.m.runs c.ctx = true → bits c.desc 235 212 ≤ c.waited → c.walkers = [] → branchRun c true s.m = .ok (some a) y →
    y.queues = s.m.queues → y.cmds = s.m.cmds →
    (∀ x ∈ s.m.cmds, x.id ≠ c.id → x.st ≠ .waiting ∧ x.st ≠ .branching) →
    ∃ t z, exec (.branchDeadline q) s = .next t ∧ t.m.queue q.toNat = z ∧ z.rd = c.pos + 1 ∧ z.state = 1#2 ∧
      t.m.cmds = (s.m.cmds.filter fun x => x.id != c.id) ∧ (∀ j, j ≠ q.toNat → t.m.queue j = s.m.queue j) ∧
      t.m.reg (clReg c.decider 0x18) = satAdd (y.reg (clReg c.decider 0x18)) 1 ∧
      t.m.near = y.near ∧ t.m.maps = y.maps) ∧
  (∀ (s : State) (q : QueueNo), (s.m.safe = true ∨
      (s.m.cmds.find? fun x => x.queue == q.toNat && x.st == .branching && bit x.desc 194) = none ∨
      ∃ c, (s.m.cmds.find? fun x => x.queue == q.toNat && x.st == .branching && bit x.desc 194) = some c ∧
        (s.m.runs c.ctx = false ∨ c.waited < bits c.desc 235 212)) → exec (.branchDeadline q) s = .next s))

/-- R337 to R339; R205 for deferred frees. -/
def Obligations.DispatchersChoose : Prop :=
  (∀ (s : State) (d : DieNo), ∃ t, exec (.selectContext d) s = .next t ∧ t.m.nextCmd ≤ s.m.nextCmd + 1 ∧
    (s.m.issues = false → t = s)) ∧
  (∀ (s : State) (d : DieNo) (y : Mach) (q c : Nat) (x : Cand), s.m.issues = true →
    survey s.m d.toNat = (y, [(q, x)], [c]) → (y.queue q).ctx = c → (y.sched d.toNat).holder = none →
    0 < (y.ctx c).remainAt d.toNat → 0 < y.sliceTicks d.toNat →
    ∃ t z, exec (.selectContext d) s = .next t ∧ t = { s with m := noteIdle ((issueCand z q x []).getD z) d.toNat c } ∧
      (z.sched d.toNat).holder = some c ∧ z = { y with ctxs := z.ctxs, scheds := z.scheds } ∧ (∀ k, z.ctx k = { y.ctx k with remain := (z.ctx k).remain }) ∧
      (∀ e, e ≠ d.toNat → z.sched e = y.sched e)) ∧
  (∀ (s : State) (d : DieNo), s.m.issues = false → exec (.urgentPreempt d) s = .next s) ∧
  (∀ (s : State) (d : DieNo) (m : Mach) (cs : List (Nat × Cand)), s.m.issues = true → candidates s.m.retestAll d.toNat = (m, cs) →
    ∃ t, exec (.urgentPreempt d) s = .next t ∧ (∀ p ∈ cs, (t.m.ctx (m.queue p.1).ctx).eligibleAt d.toNat = true) ∧
      (∀ h, (m.sched d.toNat).holder = some h → (m.ctx h).priority = false →
        (∃ p ∈ cs, (m.ctx (m.queue p.1).ctx).priority = true ∧ (m.ctx (m.queue p.1).ctx).eligibleAt d.toNat = false) →
        (t.m.sched d.toNat).holder = none ∧ t.m.reg (schReg d.toNat 0x14) = satAdd (m.reg (schReg d.toNat 0x14)) 1) ∧
      ((∀ p ∈ cs, (m.ctx (m.queue p.1).ctx).priority = true → (m.ctx (m.queue p.1).ctx).eligibleAt d.toNat = true) →
        t.m.scheds = m.scheds ∧ t.m.regs = m.regs) ∧
      t = { s with m := { m with ctxs := t.m.ctxs, scheds := t.m.scheds, regs := t.m.regs } }) ∧
  (∀ (s : State) (p va : Nat) (l : List (Nat × Nat)) (c z : Cmd) (y : Mach), s.m.deferred = (p, va) :: l → s.m.issues = true →
    c = { id := s.m.nextCmd, ctx := (s.m.pool p).ctx, queue := noQueue, pos := 0, die := 0, desc := dSet (p <<< 128) 10 false,
          st := .check, free := some (p, va) } →
    (∀ h, classHead s.m true = some h → h.st ≠ .check → exec .deferredFree s =
      .next { s with m := { s.m with deferred := l, nextCmd := s.m.nextCmd + 1, cmds := s.m.cmds ++ [c] } }) ∧
    (∀ b : Cmd, classHead s.m true = none → s.m.runs c.ctx = true → NumbersFresh s.m →
      b = { c with begun := true, mapGen := (s.m.reg (memReg 0)).toNat } →
      ladleCheck b { s.m with deferred := l, nextCmd := s.m.nextCmd + 1, cmds := s.m.cmds ++ [b], leafUse := .check [] } = .ok z y →
      exec .deferredFree s = .next { s with
        m := (({ y with leafUse := .walk } : Mach).setCmd { z with st := .checked, leaves := y.leafUse.noted }).dropWaits z.id
          fun h => h.no == 1 })) ∧
  (∀ s : State, (s.m.deferred = [] ∨ s.m.issues = false) → exec .deferredFree s = .next s)

/-! ## Faults, replays, teardown and fencing (13, 14) -/

/-- R319, R320 and R275 for the faults, R343 for the replay, R341 for the budget. -/
def Obligations.FaultsStopAndReplay : Prop :=
  (∀ (s : State) (id : Nat) (c : Cmd) (i : Instr) (why : RestartCause) (y : Mach), s.m.cmd? id = some c → c.working = true →
    s.m.runs c.ctx = true →
    ((i = .heldWaitDeadline id ∧ why = .heldWait ∧ y = s.m ∧ dHoldDl c.desc ≠ 0 ∧
        (∃ w ∈ c.heldOn, 1024 * dHoldDl c.desc < w.cycles) ∧ (isCoreOp (dOp c.desc) = true ∨ dOp c.desc = 0x13)) ∨
      (∃ n : ObjNo, i = .restartableFault id (.residency n) ∧ why = .residency n ∧ (s.m.obj n.toNat).present = false ∧
        ((s.m.obj n.toNat).poison = true → (s.m.obj n.toNat).clean = true) ∧
        (s.m.setCtx c.ctx { s.m.ctx c.ctx with misses := (s.m.ctx c.ctx).misses + 1 }).residencyMiss n.toNat =
          (.restart (.residency n), y)) ∨
      (∃ n : ObjNo, i = .restartableFault id (.slag n) ∧ why = .slag n ∧ y = s.m.poisonObj n.toNat ∧
        (s.m.obj n.toNat).clean = true ∧ (s.m.obj n.toNat).origin = true ∧
        (c.st = .work → isInPlace c.desc = false))) →
    (c.replays < 16 → c.st = .running → y.inFlight id = true →
      ∃ t, exec i s = .next t ∧ t.m.cmd? id = some { c with st := .stopped, cause := some why } ∧
        (c.die < 4 → t.m.irqPending c.die 114 = true) ∧ t.m.cores = y.cores ∧ t.m.clusters = y.clusters ∧ t.m.near = s.m.near ∧
        (∀ d, d ≠ id → t.m.cmd? d = s.m.cmd? d)) ∧
    (c.replays < 16 → (c.st ≠ .running ∨ y.inFlight id = false) →
      ∃ t z, exec i s = .next t ∧ t.m.cmd? id = some z ∧ z.st = .stopped ∧ z.cause = some why ∧ z.slots = [] ∧
        z.heldOn = (if why = .heldWait then c.heldOn.filter (fun w => decide (1024 * dHoldDl c.desc < w.cycles)) else []) ∧
        z.lastCycles = c.maxCycles ∧ z.scales = c.scales ∧
        z.desc = c.desc ∧ z.pins = c.pins ∧ z.walkers = c.walkers ∧ z.replays = c.replays ∧ z.pos = c.pos ∧ z.queue = c.queue ∧
        z.charge = 0 ∧ z.charged = c.charged + c.charge ∧
        (∀ k : Nat, (t.m.core k).cmd ≠ some id) ∧ (∀ (k : Nat), ∀ p ∈ (t.m.cluster k).places, p.2 ≠ id) ∧
        (c.die < 4 → t.m.irqPending c.die 114 = true) ∧ (∀ q : Nat, t.m.queue q = s.m.queue q) ∧ t.m.near = s.m.near ∧
        (∀ d, d ≠ id → t.m.cmd? d = s.m.cmd? d)) ∧
    (16 ≤ c.replays → (s.m.ctx c.ctx).state = 1#2 →
      ∃ t, exec i s = .next t ∧ (t.m.ctx c.ctx).state = 2#2 ∧ (t.m.ctx c.ctx).lastSt = stReplayLimit)) ∧
  (∀ (s : State) (n : Nat) (y : Mach) (w : Flt), s.m.residencyMiss n = (w, y) →
    (y.obj n).faults = (s.m.obj n).faults + 1#32 ∧ y.reg (tierReg 0x10) = satAdd (s.m.reg (tierReg 0x10)) 1 ∧
      ((s.m.obj n).state = 4#3 → (s.m.obj n).near = [] → (s.m.allocNear (s.m.obj n)).isSome = true →
        w = .restart (.residency (BitVec.ofNat 19 n)) ∧ (y.obj n).state = 2#3 ∧ (y.obj n).dst = 1#2)) ∧
  (∀ (s : State) (id : Nat) (c : Cmd) (n : ObjNo), s.m.cmd? id = some c → c.working = true → (s.m.ctx c.ctx).state = 1#2 →
    ((s.m.obj n.toNat).clean = false ∨ (s.m.obj n.toNat).origin = false) →
    ∃ t, exec (.restartableFault id (.slag n)) s = .next t ∧ (t.m.ctx c.ctx).state = 2#2 ∧
      (t.m.ctx c.ctx).lastSt = stFaultPoison ∧ (t.m.ctx c.ctx).faultCmd = dCmdId c.desc) ∧
  (∀ (s : State) (id : Nat) (c : Cmd), s.m.cmd? id = some c → s.m.toReplay c.queue = some c → s.m.issues = true →
    s.m.runs c.ctx = true → s.m.replayable c = true →
    (∀ (v z : Cmd) (r m y : Mach), isLadleOp (dOp c.desc) = true → noteReady s.m c.die c.ctx = r →
      { c with st := .offered, replays := c.replays + 1, cause := none, heldOn := [],
               aux := (if dOp c.desc = 13 then c.aux.take 1 else []) } = v →
      ((r.setCmd v).setCtx c.ctx { r.ctx c.ctx with replays := (r.ctx c.ctx).replays + 1 }).bump (schReg c.die 0x1C) 1 = m →
      ladleIssue v m = .ok z y →
      exec (.replay id) s = .next { s with m := y.setCmd z } ∧ (isPageOp (dOp c.desc) = true → z = v ∧ y = m)) ∧
    (∀ ks (r : Mach), dOp c.desc = 1 ∨ dOp c.desc = 2 → noteReady s.m c.die c.ctx = r →
      r.choosePlaces (s.m.queue c.queue).dieMask (dSlots c.desc) (keptPlaces r c.die c.ctx) = some ks →
      bits c.desc 511 192 = 0 → c.slots = [] →
      ∃ t z, exec (.replay id) s = .next t ∧ t.m.cmd? id = some z ∧ z.st = .running ∧ z.replays = c.replays + 1 ∧
        z.slots.map (fun x => x.cluster) = ks ∧ (∀ x ∈ z.slots, x.admitted = false ∧ x.cores = []) ∧ z.desc = c.desc ∧
        t = { s with m := { s.m with cmds := t.m.cmds, ctxs := t.m.ctxs, regs := t.m.regs, clusters := t.m.clusters,
                                     scheds := t.m.scheds } })) ∧
  (∀ (s : State) (id : Nat) (c : Cmd), s.m.cmd? id = some c → c.working = true → (s.m.ctx c.ctx).state = 1#2 →
    dBudget c.desc < c.maxCycles →
    ∃ t, exec (.budgetOverrun id) s = .next t ∧
      t.m.ctx c.ctx = { s.m.ctx c.ctx with state := 2#2, lastSt := stBudget, faultCmd := dCmdId c.desc } ∧
      (∀ x, x ≠ c.ctx → t.m.ctx x = s.m.ctx x) ∧ (c.die < 4 → t.m.irqPending c.die 117 = true ∧ t.m.irqPending c.die 113 = true) ∧
      t = { s with m := { s.m with ctxs := t.m.ctxs, regs := t.m.regs } }) ∧
  (∀ (s : State) (id : Nat) (c : Cmd) (i : Instr) (why : RestartCause), s.m.cmd? id = some c → s.m.runs c.ctx = false →
    (i = .heldWaitDeadline id ∨ i = .restartableFault id why ∨ i = .budgetOverrun id) → exec i s = .next s) ∧
  (∀ (s : State) (id : Nat) (c : Cmd), s.m.cmd? id = some c →
    (c.maxCycles ≤ dBudget c.desc → exec (.budgetOverrun id) s = .next s) ∧
    ((dHoldDl c.desc = 0 ∨ ∀ w ∈ c.heldOn, w.cycles ≤ 1024 * dHoldDl c.desc) → exec (.heldWaitDeadline id) s = .next s))

/-- R344, R345. -/
def Obligations.TeardownIsOneContexts : Prop :=
  (∀ (s : State) (x : CtxNo), (s.m.ctx x.toNat).state ≠ 2#2 → exec (.teardown x) s = .next s) ∧
  (∀ (s : State) (x : CtxNo), (s.m.ctx x.toNat).state = 2#2 →
    ∃ t, exec (.teardown x) s = .next t ∧ t = { s with m := t.m } ∧ (t.m.ctx x.toNat).state = 3#2 ∧
      (∀ c, c ≠ x.toNat → t.m.ctx c = s.m.ctx c) ∧
      (∀ q : Nat, (s.m.queue q).ctx = x.toNat → (s.m.queue q).state = 1#2 ∨ (s.m.queue q).state = 2#2 →
        (t.m.queue q).state = 3#2 ∧ (t.m.queue q).rd = (s.m.queue q).wr ∧ (t.m.queue q).wr = (s.m.queue q).wr) ∧
      (∀ q : Nat, (∀ p ∈ s.m.queues, p.1 = q → p.2.ctx ≠ x.toNat) → t.m.queue q = s.m.queue q) ∧
      (∀ c ∈ t.m.cmds, c ∈ s.m.cmds ∧ c.ctx ≠ x.toNat) ∧
      (∀ c ∈ s.m.cmds, (∀ d ∈ s.m.cmds, d.id = c.id → d.ctx ≠ x.toNat) → c ∈ t.m.cmds) ∧
      (∀ w ∈ t.m.walkDue, w.2.1 ≠ x.toNat) ∧
      (∀ j ∈ t.m.jobs, j ∈ s.m.jobs ∧ j.ctx ≠ x.toNat) ∧ (∀ j ∈ s.m.jobs, j.ctx ≠ x.toNat → j ∈ t.m.jobs) ∧
      (∀ d : Nat, (t.m.sched d).holder ≠ some x.toNat) ∧
      (∀ p : Nat, (s.m.pool p).live = true → (s.m.pool p).ctx = x.toNat → t.m.pool p = {}) ∧
      (∀ g : Nat, (s.m.sync g).live = true → (s.m.sync g).owner.toNat = x.toNat →
        t.m.sync g = { s.m.sync g with status := BitVec.ofNat 16 stAborted }) ∧
      (∀ g : Nat, ((s.m.sync g).live = false ∨ (s.m.sync g).owner.toNat ≠ x.toNat) → t.m.sync g = s.m.sync g) ∧
      t.m.maps = s.m.maps)

/-- R346 for the causes, R347 for the gate, R348 for clusters. -/
def Obligations.FencesAndGates : Prop :=
  (∀ (s : State) (c : CoreNo) (why : FenceCause), (s.m.core c.toNat).fenced = false →
    (match why with
      | .mismatch => 2 ≤ s.m.recentMismatches c.toNat
      | .hang => s.m.holdsWork c.toNat = true ∧ 2 ^ 22 ≤ (s.m.core c.toNat).idleCycles
      | .sram => True
      | .selfTest => True) →
    ((List.range 16).filter fun i => (s.m.core (16 * (c.toNat / 16) + i)).fenced).length ≤ 3 →
    ∃ t, exec (.coreFence c why) s = .next t ∧ t = { s with m := t.m } ∧ (t.m.core c.toNat).fenced = true ∧
      (t.m.core c.toNat).closing = true ∧ (∀ d, d ≠ c.toNat → (t.m.core d).fenced = (s.m.core d).fenced) ∧
      (∀ e q : Nat, 4 * c.toNat ≤ e → e < 4 * c.toNat + 4 → (t.m.eng e).stopped = true ∧ ((t.m.eng e).quarter q).tiles = [] ∧
        ((t.m.eng e).quarter q).flight = []) ∧
      t.m.reg (schReg (c.toNat / 128) 0x24) = satAdd (s.m.reg (schReg (c.toNat / 128) 0x24)) 1 ∧
      (t.m.cluster (c.toNat / 16)).fenced = (s.m.cluster (c.toNat / 16)).fenced ∧ t.m.near = s.m.near ∧ t.m.queues = s.m.queues ∧
      (∀ x, s.m.coreCmd c.toNat = some x → x.working = true → x.replays < 16 → (why ≠ .hang ∨ dOp x.desc = 6) →
        ∃ z, t.m.cmd? x.id = some z ∧ z.st = .replay ∧ z.slots = [] ∧ z.desc = x.desc ∧ z.pins = x.pins) ∧
      (∀ x, s.m.coreCmd c.toNat = some x → why = .hang → dOp x.desc ≠ 6 → t.m.cmds = s.m.cmds ∧
        (t.m.core c.toNat).items = (s.m.core c.toNat).items)) ∧
  (∀ (s : State) (c : CoreNo) (why : FenceCause), ((s.m.core c.toNat).fenced = true ∨
      (why = .mismatch ∧ s.m.recentMismatches c.toNat < 2) ∨ (why = .hang ∧ (s.m.holdsWork c.toNat = false ∨
        (s.m.core c.toNat).idleCycles < 2 ^ 22))) →
    exec (.coreFence c why) s = .next s) ∧
  (∀ (s : State) (c : CoreNo), exec (.coreHang c) s = exec (.coreFence c .hang) s) ∧
  (∀ (s : State) (c : CoreNo) (y z : Mach), ((s.m.core c.toNat).closing = true ∨ (s.m.core c.toNat).shut = true) →
    s.m.frozen = false →
    (s.m.core c.toNat).items.foldl (fun (m : Mach) (x : Item) => returnIndex m c.toNat x.index)
      (reportDone (s.m.setCore c.toNat { s.m.core c.toNat with closing := false, shut := true, trans := [], slotsFree :=
        (s.m.core c.toNat).slotsFree + (s.m.core c.toNat).slotsHeld }) c.toNat) = y →
    leaveFenced y c.toNat = z →
    exec (.fenceGateClose c) s = .next { s with m := z } ∧
    ((y.core c.toNat).shut = true → ((y.core c.toNat).items = [] ∨ ∃ x, y.coreCmd c.toNat = some x ∧ dOp x.desc = 6) →
      z.core c.toNat = {
        y.core c.toNat with
        shut := false, cmd := none, slot := 0, place := 0, phase := 0, items := [], claimed := 0, empty := false,
        returned := false, report := false, trans := [],
        slotsFree := (y.core c.toNat).slotsFree + (y.core c.toNat).slotsHeld } ∧
      ((∀ x, y.coreCmd c.toNat = some x → x.st ≠ .stopped) → (∀ d, d ≠ c.toNat → z.core d = y.core d) ∧
        (∀ x, y.coreCmd c.toNat = some x → z.cmd? x.id =
          some { x with slots := x.slots.map fun u => { u with cores := u.cores.filter fun d => d != c.toNat } }) ∧
        z = { y with cores := z.cores, cmds := z.cmds }) ∧
      (∀ x, y.coreCmd c.toNat = some x → x.st = .stopped → x.slots ≠ [] →
        (∀ p ∈ y.cores, p.1 ≠ c.toNat → p.2.cmd = some x.id → ∀ u ∈ p.2.items, ∀ e ∈ u.entries, e.done = true) →
        ∃ v, z.cmd? x.id = some v ∧ v.st = .stopped ∧ v.slots = [] ∧ v.cause = x.cause ∧ v.desc = x.desc)) ∧
    ((y.core c.toNat).items ≠ [] → (∃ x, y.coreCmd c.toNat = some x ∧ dOp x.desc ≠ 6) → z = y)) ∧
  (∀ (s : State) (c : CoreNo), ((s.m.core c.toNat).closing = false ∧ (s.m.core c.toNat).shut = false ∨ s.m.frozen = true) →
    exec (.fenceGateClose c) s = .next s) ∧
  (∀ (s : State) (k : ClusterNo), (s.m.cluster k.toNat).fenced = false → (s.m.cmds.map fun c => c.id).Nodup →
    (∀ c ∈ s.m.cmds, c.st = .branching → c.decider ≠ k.toNat) →
    ∃ t, exec (.clusterFence k) s = .next t ∧ t = { s with m := t.m } ∧ (t.m.cluster k.toNat).fenced = true ∧
      (∀ j, j ≠ k.toNat → (t.m.cluster j).fenced = (s.m.cluster j).fenced) ∧
      t.m.reg (schReg (k.toNat / 8) 0x24) = s.m.reg (schReg (k.toNat / 8) 0x24) ∧
      (∃ r : Due, t.m.recordsDue = s.m.recordsDue ++ [r] ∧ r.req.mech = 0x13#8 ∧ r.req.unit = w32 k.toNat) ∧
      (∀ c ∈ s.m.cmds, c.st = .running → (∃ x ∈ c.slots, x.cluster = k.toNat) → c.replays < 16 →
        ∃ z, t.m.cmd? c.id = some z ∧ z.st = .replay ∧ z.slots = [] ∧ z.desc = c.desc) ∧
      (∀ c ∈ s.m.cmds, (c.st ≠ .running ∧ c.st ≠ .stopped ∨ ∀ x ∈ c.slots, x.cluster ≠ k.toNat) → c ∈ t.m.cmds)) ∧
  (∀ (s : State) (k : ClusterNo), (s.m.cluster k.toNat).fenced = true → exec (.clusterFence k) s = .next s)

/-! ## The mailbox (15) -/

/-- R364 to R366. `atService` is the machine at service, `answered` the machine once the answer has gone, `afterHandling` what
follows it: for OBJECT_PLACE a report may (R376). -/
def Obligations.ServedRequestsAreAnswered : Prop :=
  (∀ (c : Instr) (op : Nat) (r : Req) (s : State), messageOf c = some (op, r) → isGateOp op = false → op ≠ 1 → Served op r s →
    exec c s = .next (afterHandling op r
      (handle op r.session.toNat ⟨r.seq.toNat, op, s.m.privileged, r⟩ { s with m := atService op r s })) ∧
    (isPrivOp op = true → s.m.privileged = false →
      exec c s = .next (afterHandling op r ({ s with m := atService op r s }, stPresence, 0)))) ∧
  (∀ (op : Nat) (r : Req) (s : State) (a : Mach), atService op r s = a →
    a = { s.m with regs := a.regs, sessions := a.sessions, mbxLast := r.session.toNat } ∧
    (∀ x, x ∉ mailboxRegs → a.reg x = s.m.reg x) ∧
    a.session r.session.toNat = { s.m.session r.session.toNat with events := (a.session r.session.toNat).events } ∧
    (∀ e ∈ (a.session r.session.toNat).events, e ∈ (s.m.session r.session.toNat).events) ∧
    ∀ j, j ≠ r.session.toNat → a.session j = s.m.session j) ∧
  (∀ (op : Nat) (r : Req) (y : SecReply) (t : Mach), answered op r y = t →
    ((op = 0x21 → y.2.1 ≠ stOk) → afterHandling op r y = { y.1 with m := t }) ∧
    t = { y.1.m with out := t.out, txHeld := t.txHeld, regs := t.regs, sessions := t.sessions } ∧
    (∀ x, x ∉ mailboxRegs → t.reg x = y.1.m.reg x) ∧ (∀ j, j ≠ r.session.toNat → t.session j = y.1.m.session j) ∧
    ((y.1.m.session r.session.toNat).isOpen = true → t.session r.session.toNat =
      { y.1.m.session r.session.toNat with
        expected := (r.seq.toNat + 1) % 2 ^ 32,
        answers := (⟨r.seq.toNat, op, y.2.1, y.2.2⟩ :: (y.1.m.session r.session.toNat).answers).take 64 }) ∧
    (y.1.m.linkUp = true → Sends (txMark r.cls r.tagged)
      [.answer r.source op r.session.toNat r.seq.toNat y.2.1 y.2.2] y.1.m t)) ∧
  (∀ (r : Req) (s : State), Served 3 r s →
    exec (.nop r) s = .next (afterHandling 3 r ({ s with m := atService 3 r s }, stOk, 0))) ∧
  (∀ (c : Instr) (op k : Nat) (r : Req) (s : State), (c = .telemetry r ∧ op = 0x51 ∧ bits (reqBody r) 1 0 ≠ 2 ∨ c = .regRead r ∧ op = 0x52 ∨
      c = .attest r ∧ op = 0x60) → Served op r s → k = r.session.toNat →
    ∃ t x rest, exec c s = .next t ∧ (t.m.session k).expected = (r.seq.toNat + 1) % 2 ^ 32 ∧
      (t.m.session k).answers = x :: rest ∧ x.seq = r.seq.toNat ∧ x.opcode = op ∧ t.m.mbxLast = k ∧
      (∀ j, j ≠ k → t.m.session j = s.m.session j) ∧
      t = { s with m := { s.m with
        sessions := t.m.sessions, regs := t.m.regs, free := t.m.free, out := t.m.out, txHeld := t.m.txHeld, mbxLast := k } }) ∧
  (∀ (r : Req) (s : State), s.m.linkUp = true → r.port.toNat = s.m.gctPort → s.m.controlAlive = true → malformed r = false →
    fieldsOk 0x50 r = true → (r.session = 0xFFFF#16 ∨ s.m.known r = true) →
    (r.cls = 7#3 ∨ s.m.pfcStopped.getLsbD r.cls.toNat = false) →
    ∃ t b, exec (.status r) s = .next t ∧
      t.m.out = (txMark r.cls r.tagged, .answer r.source 0x50 r.session.toNat r.seq.toNat stOk b) :: s.m.out ∧
      t = { s with m := { s.m with sessions := t.m.sessions, regs := t.m.regs, out := t.m.out } })

/-- R358, R364 and R365: what the mailbox turns away, row by row. R365 to R367. How many bytes a gate message counts in its buffer is a
reading (log entry 26), and so is that a DOORBELL waits for an entry that cannot be read yet (log entry 76). -/
def Obligations.RequestsTurnedAwayAndEvents : Prop :=
  (∀ (c : Instr) (op : Nat) (r : Req) (s : State) (a : Mach), messageOf c = some (op, r) → s.m.bump (portReg 0x10) 1 = a →
    (s.m.linkUp = false → exec c s = .next s) ∧
    (s.m.linkUp = true → r.port.toNat ≠ s.m.gctPort → exec c s = .next { s with m := a }) ∧
    (s.m.linkUp = true → r.port.toNat = s.m.gctPort → r.cls = 7#3 → isGateOp op = false →
      exec c s = .next { s with m := a.bump (portReg 0x30) 1 }) ∧
    (s.m.linkUp = true → r.port.toNat = s.m.gctPort → s.m.controlAlive = false →
      (r.cls ≠ 7#3 → exec c s = .next { s with m := a }) ∧
      (r.cls = 7#3 → isGateOp op = true → (s.m.gateKept.map fun x => datagramBytes x.2).sum + datagramBytes r ≤ 65536 →
        exec c s = .next { s with m := { a with gateKept := s.m.gateKept ++ [(op, r)] } }) ∧
      (r.cls = 7#3 → isGateOp op = true → 65536 < (s.m.gateKept.map fun x => datagramBytes x.2).sum + datagramBytes r →
        exec c s = .next { s with m := a.bump (portReg 0x2C) 1 })) ∧
    (s.m.linkUp = true → r.port.toNat = s.m.gctPort → s.m.controlAlive = true →
      ((r.cls ≠ 7#3 ∨ isGateOp op = true) → malformed r = true → exec c s = .next { s with m := a.bump (portReg 0x48) 1 }) ∧
      ((r.cls ≠ 7#3 ∨ isGateOp op = true) → malformed r = false → s.m.isReady = false → op ≠ 0x50 →
        exec c s = .next { s with m := a.answer r op stNotReady 0 }) ∧
      (r.cls ≠ 7#3 → malformed r = false → s.m.isReady = true → isGateOp op = false → op ≠ 1 →
        (s.m.known r = false → exec c s = .next { s with m := a.answer r op stSession 0 }) ∧
        (∀ m : Mach, s.m.known r = true → a.acked r.session.toNat r.ack.toNat = m →
          (64 ≤ wrap 32 ((r.seq.toNat : Int) - ((s.m.session r.session.toNat).expected : Int)) →
            64 < wrap 32 (((s.m.session r.session.toNat).expected : Int) - (r.seq.toNat : Int)) →
            exec c s = .next { s with m := m.answer r op stSeq 0 }) ∧
          (∀ x, 64 ≤ wrap 32 ((r.seq.toNat : Int) - ((s.m.session r.session.toNat).expected : Int)) →
            wrap 32 (((s.m.session r.session.toNat).expected : Int) - (r.seq.toNat : Int)) ≤ 64 →
            (s.m.session r.session.toNat).answers.find? (fun v => v.seq == r.seq.toNat) = some x →
            exec c s = .next { s with m := (m.bump (portReg 0x44) 1).answer r x.opcode x.status x.body }))))) ∧
  ((∀ (s : State) (k : SessNo) (x : Buffered) (w : Session) (m : Mach), (s.m.session k.toNat).isOpen = true →
    s.m.mbxNext = some k.toNat →
    (s.m.session k.toNat).ring.find? (fun b => b.seq == (s.m.session k.toNat).expected) = some x →
    x.req.session.toNat = k.toNat → x.req.seq.toNat = x.seq →
    w = { s.m.session k.toNat with ring := (s.m.session k.toNat).ring.filter fun b => b.seq != x.seq } →
    m = { s.m.setSession k.toNat w with mbxLast := k.toNat } →
    (servable x.opcode x.req s.m = false ∨ doorbellWaits s.m x.opcode k.toNat (reqBody x.req) = none → exec (.requestRingExecute k) s =
      .next (afterHandling x.opcode x.req (handle x.opcode k.toNat x { s with m := m }))) ∧
    (∀ y : Mach, servable x.opcode x.req s.m = true → doorbellWaits s.m x.opcode k.toNat (reqBody x.req) = some y →
      exec (.requestRingExecute k) s = .next { s with m := { y with mbxLast := k.toNat } })) ∧
  (∀ (s : State) (k : SessNo), s.m.mbxNext ≠ some k.toNat → exec (.requestRingExecute k) s = .next s) ∧
  (∀ (s : State) (k : Nat), s.m.mbxNext = some k → s.m.frozen = false ∧ s.m.controlAlive = true ∧
    (k = 1024 ∧ s.m.opens ≠ [] ∨ (∃ p ∈ s.m.sessions, p.1 = k ∧ p.2.isOpen = true) ∧
      ∃ x, (s.m.session k).ring.find? (fun b => b.seq == (s.m.session k).expected) = some x ∧
        s.m.unmapWaits x.opcode k (reqBody x.req) = false)) ∧
  (∀ (s : State) (k : SessNo) (l : List EventSt), (s.m.session k.toNat).events = l →
    ∃ t, exec (.eventRepeat k) s = .next t ∧ (∀ j, t.m.session j = s.m.session j) ∧
      t.m.reg (portReg 0x50) = satAdd (s.m.reg (portReg 0x50)) l.length ∧
      (∀ x, x ≠ portReg 0x50 → x ≠ portReg 0x14 → t.m.reg x = s.m.reg x) ∧
      (s.m.linkUp = true → s.m.pfcStopped.getLsbD s.m.origClass = false → t.m.out = (l.map fun e =>
        (s.m.origClass, Sent.event k.toNat e.number e.opcode e.status e.body e.final)).reverse ++ s.m.out) ∧
      t = { s with m := { s.m with regs := t.m.regs, out := t.m.out, txHeld := t.m.txHeld } }) ∧
  (∀ (s : State) (k : SessNo) (x : Session), s.m.session k.toNat = x → x.isOpen = true → x.lost ≠ 0 → x.events.length < 1024 →
    ∃ t, exec (.eventLost k) s = .next t ∧
      t.m.session k.toNat = { x with lost := 0, eventNo := x.eventNo + 1,
                                     events := x.events ++ [⟨x.eventNo + 1, 0x0104, stOk, x.lost % 2 ^ 32, false⟩] } ∧
      (∀ j, j ≠ k.toNat → t.m.session j = s.m.session j) ∧
      t = { s with m := { s.m with sessions := t.m.sessions, regs := t.m.regs, out := t.m.out, txHeld := t.m.txHeld } }) ∧
  (∀ (s : State) (k : SessNo), ((s.m.session k.toNat).lost = 0 ∨ 1024 ≤ (s.m.session k.toNat).events.length) →
    exec (.eventLost k) s = .next s) ∧
  (∀ s : State, (s.m.isReady = false ∨ s.m.linkUp = false ∨ 3 ≤ s.m.readySent) → exec .readyAnnounce s = .next s) ∧
  (∀ s : State, s.m.isReady = true → s.m.linkUp = true → s.m.readySent < 3 →
    ∃ t, exec .readyAnnounce s = .next t ∧ t.m.readySent = s.m.readySent + 1 ∧
      (bits s.m.conf 415 288 = 0 → t.m.out = s.m.out) ∧
      (bits s.m.conf 415 288 ≠ 0 → s.m.pfcStopped.getLsbD s.m.origClass = false →
        t.m.out = (s.m.origClass, .ready (statusBody s.m)) :: s.m.out) ∧
      t = { s with m := { s.m with readySent := t.m.readySent, regs := t.m.regs, out := t.m.out, txHeld := t.m.txHeld } }))

/-- R370 for SESSION_OPEN, R368 and R371 for the close. Which free number a session gets is the model's choice (log entry 7). -/
def Obligations.SessionsOpenAndClose : Prop :=
  (∀ (s : State) (r : Req) (b k : Nat), s.m.linkUp = true → r.port.toNat = s.m.gctPort → s.m.isReady = true → r.cls ≠ 7#3 →
    ({ s.m with opens := [r] } : Mach).mbxNext = some 1024 →
    malformed r = false → fieldsOk 1 r = true → b = reqBody r → 3 ≤ bits b 122 120 → bits b 122 120 ≤ 5 →
    (b.testBit 48 = false → 1024 ≤ bits b 47 32 ∧ bits b 47 32 ≤ 8192 ∧ bits b 15 0 ≠ 0) → s.m.opens = [] →
    (∀ o ∈ s.m.opened, o.source = r.source → o.seq = r.seq.toNat → o.ms + 60000 < s.m.uptime) →
    (b.testBit 48 = false → lowestFree s.m.openSessions 1024 = some k →
      ∃ (t : State) (ck dq dp : Nat), exec (.sessionOpen r) s = .next t ∧ ck < 2 ^ 64 ∧ dq < 2 ^ 24 ∧ dp < 2 ^ 24 ∧
        t.m.session k = {
          isOpen := true, cookie := ck, source := r.source, jobLimit := bits b 15 0, expiry := bits b 31 16,
          maxBody := bits b 47 32, devQpn := dq, devPsn := dp, hostQp := bits b 87 64, hostPsn := bits b 119 96,
          hostGid := bits b 255 128, pmtu := bits b 122 120 } ∧
        (∀ j, j ≠ k → t.m.session j = s.m.session j) ∧
        t.m.opened.head? = some ⟨r.source, r.seq.toNat, s.m.uptime, stOk, openBody t.m k⟩ ∧
        (∀ x, x ∉ mailboxRegs → t.m.reg x = s.m.reg x) ∧
        t = { s with m := { s.m with sessions := t.m.sessions, opened := t.m.opened, free := t.m.free, mbxLast := 1024,
                                     regs := t.m.regs, out := t.m.out, txHeld := t.m.txHeld } }) ∧
    (b.testBit 48 = true → k = r.session.toNat → k < 1024 → (s.m.session k).isOpen = true →
      (s.m.session k).cookie = r.cookie.toNat →
      ∃ t ev, exec (.sessionOpen r) s = .next t ∧
        t.m.session k = { s.m.session k with
          hostQp := bits b 87 64, hostPsn := bits b 119 96, hostGid := bits b 255 128,
          pmtu := bits b 122 120, qpError := false, events := ev } ∧
        (∀ j, j ≠ k → t.m.session j = s.m.session j) ∧ (∀ x, x ∉ mailboxRegs → t.m.reg x = s.m.reg x) ∧
        t = { s with m := { s.m with sessions := t.m.sessions, opened := t.m.opened, mbxLast := 1024,
                                     regs := t.m.regs, out := t.m.out, txHeld := t.m.txHeld } })) ∧
  (∀ (s : State) (r : Req) (k : Nat), Served 2 r s → k = r.session.toNat →
    exec (.sessionClose r) s = .next (afterHandling 2 r ({ s with m := (atService 2 r s).closeSession k }, stOk, 0)) ∧
    ∀ t, exec (.sessionClose r) s = .next t → t.m.session k = {}) ∧
  (∀ (s : State) (k : SessNo), (s.m.session k.toNat).isOpen = true → (s.m.session k.toNat).expiry ≠ 0 →
    exec (.sessionExpiry k) s = .next { s with m := s.m.closeSession k.toNat } ∧ (s.m.closeSession k.toNat).session k.toNat = {}) ∧
  (∀ (s : State) (k : SessNo), ((s.m.session k.toNat).isOpen = false ∨ (s.m.session k.toNat).expiry = 0) →
    exec (.sessionExpiry k) s = .next s) ∧
  (∀ (m : Mach) (k : Nat), (∀ p ∈ m.ctxs, p.2.state ≠ 0#2 → p.2.client ≠ k) → (∀ b ∈ m.blobs, b.session ≠ k) →
    (∀ c : Nat, (m.closeSession k).ctx c = { m.ctx c with sessions := (m.ctx c).sessions.filter fun y => y != k }) ∧
    (∀ n : Nat, (m.closeSession k).obj n = { m.obj n with places := (m.obj n).places.filter fun y => y.1 != k }) ∧
    (∀ j, j ≠ k → (m.closeSession k).session j = m.session j) ∧
    m.closeSession k = { m with sessions := (m.closeSession k).sessions, ctxs := (m.closeSession k).ctxs,
                                objs := (m.closeSession k).objs, blobs := (m.closeSession k).blobs })

/-- R372, R373, R378 to R380. Which free number is given is the model's choice (log entry 7), and so are the
answer where there is no room for a root table (log entry 51) and what becomes of objects that cannot be released yet (log entry 11). -/
def Obligations.TablesAreMadeAndReleased : Prop :=
  (∀ (s : State) (r : Req) (a : Mach) (k b c n : Nat), Served 0x10 r s → atService 0x10 r s = a → k = r.session.toNat →
    b = reqBody r → c = bits b 43 32 →
    (bits b 1 0 = 0 → bits b 31 16 ≠ 0 → s.m.ctxNos.length < 4096 → s.m.life ≠ .test → s.m.newCtxNo = some n →
      (a.addTable n 0 0 = none →
        exec (.contextCreate r) s = .next (afterHandling 0x10 r ({ s with m := a }, stTierFull, 0))) ∧
      ((a.addTable n 0 0).isSome = true →
      ∃ (y : Mach) (tag : Nat), tag < 2 ^ 20 ∧ tag ≠ (s.m.ctx n).tag ∧
        y.ctx n = { state := 1#2, client := k, share := bits b 31 16, priority := bit b 2, tag := tag, sessions := [k] } ∧
        (∀ j, j ≠ n → y.ctx j = s.m.ctx j) ∧ (∃ t ∈ y.tables, t.ctx = n ∧ t.level = 0 ∧ t.span = 0) ∧
        ((∀ t ∈ s.m.tables, t.ctx ≠ n) → ∃ t, t.ctx = n ∧ t.addr % 4096 = 0 ∧ y.tables = s.m.tables ++ [t] ∧
          ∀ p ∈ y.slag, 64 * p.1 < t.addr ∨ t.addr + 4096 ≤ 64 * p.1) ∧
        y = { a with ctxs := y.ctxs, free := y.free, tables := y.tables, slag := y.slag } ∧
        exec (.contextCreate r) s =
          .next (afterHandling 0x10 r ({ s with m := y }, stOk, n + (n + tag <<< 12) <<< 32)))) ∧
    (bits b 1 0 = 1 → (s.m.ctx c).state ≠ 0#2 →
      ∃ y : Mach, (y.ctx c).sessions = (if (s.m.ctx c).sessions.contains k then (s.m.ctx c).sessions else (s.m.ctx c).sessions ++ [k]) ∧
        y.ctx c = { s.m.ctx c with sessions := (y.ctx c).sessions } ∧ (∀ j, j ≠ c → y.ctx j = s.m.ctx j) ∧
        y = { a with ctxs := y.ctxs } ∧
        exec (.contextCreate r) s =
          .next (afterHandling 0x10 r ({ s with m := y }, stOk, c + (c + (s.m.ctx c).tag <<< 12) <<< 32))) ∧
    (bits b 1 0 = 2 → (s.m.ctx c).state ≠ 0#2 → (s.m.ctx c).client = k →
      (∀ p ∈ s.m.maps, p.ctx ≠ c → ∀ o ∈ s.m.objs, o.1 = p.obj → o.2.owner.toNat ≠ c) →
      ((a.releaseCtx c).ctx c).state = 0#2 ∧ ((a.releaseCtx c).ctx c).sessions = [] ∧
      exec (.contextCreate r) s =
        .next (afterHandling 0x10 r ({ s with m := a.releaseCtx c }, stOk, c + (c + (s.m.ctx c).tag <<< 12) <<< 32)))) ∧
  (∀ (s : State) (r : Req) (a : Mach) (k b q n : Nat), Served 0x11 r s → atService 0x11 r s = a → k = r.session.toNat →
    b = reqBody r → q = bits b 47 32 →
    (bits b 1 0 = 0 → s.m.mayName k (bits b 27 16) = true → 6 ≤ bits b 12 8 → bits b 12 8 ≤ 20 → bits b 7 4 ≠ 0 →
      bits b 111 64 % (64 * 2 ^ bits b 12 8) = 0 →
      lowestFree ((s.m.queues.filter fun p => p.2.state != 0#2).map fun p => p.1) 65536 = some n →
      ∃ y : Mach, y.queue n = { state := 1#2, ctx := bits b 27 16, ringVa := bits b 111 64, sizeLog2 := bits b 12 8,
                                dieMask := bits b 7 4 } ∧
        (∀ j, j ≠ n → y.queue j = s.m.queue j) ∧ y = { a with queues := y.queues } ∧
        exec (.queueCreate r) s = .next (afterHandling 0x11 r ({ s with m := y }, stOk, n))) ∧
    (bits b 1 0 = 1 → s.m.mayNameQueue k q = true → (s.m.queue q).state ≠ 0#2 →
      ((s.m.queue q).wr = (s.m.queue q).rd ∨ (s.m.ctx (s.m.queue q).ctx).state = 3#2) →
      ∃ y : Mach, y.queue q = {} ∧ (∀ j, j ≠ q → y.queue j = s.m.queue j) ∧ y = { a with queues := y.queues } ∧
        exec (.queueCreate r) s = .next (afterHandling 0x11 r ({ s with m := y }, stOk, q)))) ∧
  (∀ (s : State) (r : Req) (a : Mach) (k b n : Nat), Served 0x23 r s → atService 0x23 r s = a → k = r.session.toNat →
    b = reqBody r →
    (bit b 0 = false → s.m.mayName k (bits b 27 16) = true → tabGet (fun _ => 0) s.m.syncNext (bits b 2 1) = n → n < 4096 →
      ∃ y : Mach, y.sync (4096 * bits b 2 1 + n) = { count := BitVec.ofNat 32 (bits b 95 64), owner := BitVec.ofNat 12 (bits b 27 16),
                                                     live := true } ∧
        (∀ j, j ≠ 4096 * bits b 2 1 + n → y.sync j = s.m.sync j) ∧ tabGet (fun _ => 0) y.syncNext (bits b 2 1) = n + 1 ∧
        y = { a with syncs := y.syncs, syncNext := y.syncNext } ∧
        exec (.syncCreate r) s = .next (afterHandling 0x23 r ({ s with m := y }, stOk, 4096 * bits b 2 1 + n))) ∧
    (bit b 0 = true → s.m.mayNameSync k (bits b 45 32) = true → (s.m.sync (bits b 45 32)).live = true →
      s.m.syncBusy (bits b 45 32) = false →
      ∃ y : Mach, y.sync (bits b 45 32) = { s.m.sync (bits b 45 32) with live := false, status := BitVec.ofNat 16 stAborted } ∧
        (∀ j, j ≠ bits b 45 32 → y.sync j = s.m.sync j) ∧ y = { a with syncs := y.syncs, syncFreed := y.syncFreed } ∧
        tabGet (fun _ => []) y.syncFreed (bits b 45 32 / 4096) =
          tabGet (fun _ => []) s.m.syncFreed (bits b 45 32 / 4096) ++ [bits b 45 32] ∧
        exec (.syncCreate r) s = .next (afterHandling 0x23 r ({ s with m := y }, stOk, bits b 45 32)))) ∧
  (∀ (s : State) (r : Req) (a : Mach) (b e : Nat), Served 0x24 r s → atService 0x24 r s = a → b = reqBody r → e = bits b 15 8 →
    e ≠ 255 →
    (bit b 0 = false → 3 ≤ bits b 74 72 → bits b 74 72 ≤ 5 →
      ∃ (y : Mach) (q p : Nat), q < 2 ^ 24 ∧ p < 2 ^ 24 ∧
        y.ep e = { configured := true, body := b, localQpn := q, localPsn := p, rate := 65536 } ∧
        (∀ j, j ≠ e → y.ep j = s.m.ep j) ∧ y = { a with eps := y.eps, free := y.free } ∧
        exec (.endpointSet r) s = .next (afterHandling 0x24 r ({ s with m := y }, stOk, q + p <<< 32))) ∧
    (bit b 0 = true → (s.m.ep e).configured = true → (∀ o ∈ s.m.objs, o.2.onEp e = false) →
      ∃ y : Mach, y.ep e = {} ∧ (∀ j, j ≠ e → y.ep j = s.m.ep j) ∧ y = { a with eps := y.eps } ∧
        exec (.endpointSet r) s = .next (afterHandling 0x24 r ({ s with m := y }, stOk, 0))))

/-- R374 to R377 with R298 to R305. The answer where there is no room for a translation table is the model's choice (log entry 51), and
that an endpoint in error has no room is a reading (log entry 72). -/
def Obligations.ObjectsAreMadeMappedPlaced : Prop :=
  (∀ (s : State) (r : Req) (a c : Mach) (k b n tier : Nat) (o : Obj), Served 0x20 r s → atService 0x20 r s = a →
    c = (if bit b 64 then a.sendEp (bits b 63 56) (.originRead (bits b 63 56) (4096 * bits b 119 80) 256) else a) →
    k = r.session.toNat → b = reqBody r → bits b 14 12 = 0 → s.m.mayName k (bits b 11 0) = true → bits b 19 18 ≠ 0 →
    bits b 17 16 ≠ 3 → (bit b 15 = true ∨ (bits b 55 32 + 1) % 32 = 0) → tier = (if bit b 64 then 3 else bits b 19 18) →
    badTier s.m tier (bits b 63 56) = false →
    (bit b 64 = true → bits b 119 80 < s.m.epRegion (bits b 63 56)) →
    o = { pref := BitVec.ofNat 2 (bits b 19 18), tierPin := bit b 20, leaf64k := bit b 15, origin := bit b 64, clean := bit b 64,
          ew := BitVec.ofNat 2 (bits b 17 16), ep := BitVec.ofNat 8 (if tier = 3 then bits b 63 56 else 0),
          size64k := bits b 55 32 + 1, owner := BitVec.ofNat 12 (bits b 11 0), originOff := if bit b 64 then bits b 119 80 else 0 } →
    lowestFree s.m.objNos 524288 = some n →
    (bit b 64 = true → originOk r.env.remote o = false →
      exec (.objectAlloc r) s = .next (afterHandling 0x20 r ({ s with m := c }, stShape, 0))) ∧
    ((bit b 64 = true → originOk r.env.remote o = true) → createObj c n o tier = none →
      exec (.objectAlloc r) s = .next (afterHandling 0x20 r ({ s with m := c }, stTierFull, 0))) ∧
    (∀ y, (bit b 64 = true → originOk r.env.remote o = true) → createObj c n o tier = some y →
      exec (.objectAlloc r) s = .next (afterHandling 0x20 r ({ s with m := y }, stOk, n)) ∧
      (bit b 64 = true → y.obj n = { o with state := 5#3, image := true } ∧ (∀ j, j ≠ n → y.obj j = s.m.obj j) ∧
        y = { c with objs := y.objs }) ∧
      (tier = 1 → (∀ p ∈ s.m.pcs, p.2.state ≠ 2#2) → s.m.under = [] → ∃ e, s.m.allocNear o = some e ∧ y.obj n = { o with state := 1#3, near := e, present := true } ∧
        (∀ j, j ≠ n → y.obj j = s.m.obj j) ∧
        (∀ x ∈ e, ∀ i, x.1 ≤ i → i < x.1 + x.2 → y.nearByte i = 0#8) ∧
        (∀ x ∈ e, ∀ i, x.1 ≤ 64 * i → 64 * i < x.1 + x.2 → y.slagBit (64 * i) = false) ∧
        (∀ i, (∀ x ∈ e, i < x.1 ∨ x.1 + x.2 ≤ i) → y.nearByte i = s.m.nearByte i) ∧
        y = { a with objs := y.objs, near := y.near, slag := y.slag, cache := y.cache, regs := y.regs }))) ∧
  (∀ (s : State) (r : Req) (a y : Mach) (k b body : Nat), Served 0x20 r s → atService 0x20 r s = a → k = r.session.toNat →
    b = reqBody r → (bits b 14 12 = 1 ∨ bits b 14 12 = 2) → allocPool a k b = (y, stOk, body) →
    exec (.objectAlloc r) s = .next (afterHandling 0x20 r ({ s with m := y }, stOk, body)) ∧
    ∃ o co p : Nat, body = o + co <<< 32 + p <<< 64 ∧
      y.pool p = { live := true, stash := bits b 14 12 == 2, ctx := bits b 11 0, control := co, ctrlVa := bits b 319 272,
                   pages := bits b 159 128, obj := o } ∧
      (∀ j, j ≠ p → y.pool j = s.m.pool j) ∧
      y.maps = s.m.maps ++ [⟨bits b 11 0, bits b 271 224, o, true, true, true⟩, ⟨bits b 11 0, bits b 319 272, co, false, true, false⟩]) ∧
  (∀ (s : State) (r : Req) (a : Mach) (k b n : Nat), Served 0x20 r s → atService 0x20 r s = a → k = r.session.toNat →
    b = reqBody r → bits b 14 12 = 3 → n = bits b 338 320 → s.m.mayNameObj k n = true → (s.m.obj n).state ≠ 0#3 →
    s.m.poolOfArea n = none → (s.m.obj n).idle = true → (∀ p ∈ s.m.maps, p.obj ≠ n) → s.m.isControl n = false →
    ∃ y : Mach, y.obj n = {} ∧ (∀ j, j ≠ n → y.obj j = s.m.obj j) ∧ y = { a with objs := y.objs } ∧
      exec (.objectAlloc r) s = .next (afterHandling 0x20 r ({ s with m := y }, stOk, n))) ∧
  (∀ (s : State) (r : Req) (a : Mach) (k b c n va : Nat) (p : Mapping), Served 0x22 r s → atService 0x22 r s = a →
    k = r.session.toNat → b = reqBody r → c = bits b 27 16 → n = bits b 50 32 → va = bits b 111 64 → s.m.mayName k c = true →
    s.m.mayNameObj k n = true → (s.m.obj n).state ≠ 0#3 → p = ⟨c, va, n, bit b 1, bit b 2, bit b 3⟩ →
    (bit b 0 = false → va % (s.m.obj n).leaf = 0 → va + (s.m.obj n).bytes ≤ 2 ^ 48 → s.m.overlaps c va (s.m.obj n).bytes = false →
      (a.addTables p = none → exec (.map r) s = .next (afterHandling 0x22 r ({ s with m := a }, stTierFull, 0))) ∧
      ((a.addTables p).isSome = true →
      ∃ y : Mach, y.maps = s.m.maps ++ [p] ∧ (∀ j, j ≠ n → y.obj j = s.m.obj j) ∧
        ((bit b 1 || bit b 3) = false → y.obj n = s.m.obj n) ∧
        ((bit b 1 || bit b 3) = true →
          y.obj n = { s.m.obj n with clean := false, refetch := false, present := (s.m.obj n).present && !(s.m.obj n).poison }) ∧
        (∀ t ∈ s.m.tables, t ∈ y.tables) ∧
        (∀ x ∈ s.m.tablesFor p, ∃ t ∈ y.tables, t.ctx = c ∧ t.level = x.1 ∧ t.span = x.2) ∧
        (((bit b 1 || bit b 3) = false ∨ (s.m.obj n).present = false ∨ (s.m.obj n).poison = false) →
          y = { a with maps := y.maps, objs := y.objs, tables := y.tables, slag := y.slag }) ∧
        ((bit b 1 || bit b 3) = true → (s.m.obj n).present = true → (s.m.obj n).poison = true →
          (∀ i l, l ∈ (y.core i).xlate → ∀ v ∈ y.maps, v.obj = n → v.ctx = (y.core i).xctx →
            l < v.va ∨ v.va + (s.m.obj n).bytes ≤ l) ∧ y.irqPending 0 116 = true) ∧
        y = { a with maps := y.maps, objs := y.objs, cores := y.cores, regs := y.regs, tables := y.tables, slag := y.slag } ∧
        exec (.map r) s = .next (afterHandling 0x22 r ({ s with m := y }, stOk, 0)))) ∧
    (∀ m, bit b 0 = true → s.m.maps.find? (fun v => v.ctx == c && v.va == va && v.obj == n) = some m → (s.m.obj n).pins = 0#16 →
      ∃ y z : Mach, invalidation a c va (s.m.obj n).bytes = y ∧ z = ({ y with maps := s.m.maps.filter fun v => v != m } : Mach).pruneTables c ∧
        exec (.map r) s = .next (afterHandling 0x22 r ({ s with m := z }, stOk, 0)))) ∧
  (∀ (s : State) (r : Req) (a : Mach) (k b n tier : Nat), Served 0x21 r s → atService 0x21 r s = a → k = r.session.toNat →
    b = reqBody r → n = bits b 18 0 → tier = bits b 21 20 → s.m.mayNameObj k n = true → bit b 22 = false → tier ≠ 0 →
    (s.m.obj n).sound = true → ((s.m.obj n).tierPin = true → tier = s.m.prefOf (s.m.obj n)) → (tier = 2 → s.m.moduleOut = false) →
    (tier = 3 → s.m.anyEp = true) →
    ((s.m.obj n).state ≠ 0#3 → roomIn s.m n tier = false →
      exec (.objectPlace r) s = .next (afterHandling 0x21 r ({ s with m := a }, stTierFull, 0))) ∧
    ((s.m.obj n).state = 1#3 → tier ≠ 1 → (s.m.obj n).pins = 0#16 → s.m.roomBelow (s.m.obj n) tier = true →
      ∃ y : Mach, exec (.objectPlace r) s = .next (afterHandling 0x21 r ({ s with m := y }, stOk, 0)) ∧
        (y.obj n).state = 3#3 ∧ (y.obj n).src = 1#2 ∧ (y.obj n).dst = BitVec.ofNat 2 tier ∧ (y.obj n).watch = true ∧
        (y.obj n).pref = BitVec.ofNat 2 tier ∧ (y.obj n).places = (s.m.obj n).places ++ [(k, r.seq.toNat, tier)] ∧
        (y.obj n).near = (s.m.obj n).near ∧ (∀ j, j ≠ n → y.obj j = s.m.obj j) ∧
        y = { a with objs := y.objs, cores := y.cores, regs := y.regs }) ∧
    (roomIn s.m n tier = true → (s.m.obj n).state = 2#3 ∨ ((s.m.obj n).state = 1#3 ∧ tier ≠ 1 ∧ (s.m.obj n).pins ≠ 0#16) ∨
        ((s.m.obj n).state = 3#3 ∧ tier ≠ 1 ∧ (tier ≠ (s.m.obj n).dst.toNat ∨
          ((s.m.obj n).src = 1#2 ∧ (s.m.obj n).pins ≠ 0#16))) →
      exec (.objectPlace r) s = .next (afterHandling 0x21 r ({ s with m := a.bump (tierReg 0x28) 1 }, stBusy, 0))) ∧
    ((s.m.obj n).state = 1#3 → tier = 1 → (s.m.obj n).syncEn = false → (s.m.obj n).places = [] →
      (s.m.session k).events.length < 1024 →
      ∃ (t : State) (body : Nat), exec (.objectPlace r) s = .next t ∧
        body = r.seq.toNat + (s.m.obj n).steps % 2 ^ 20 <<< 32 + (s.m.obj n).steps <<< 64 ∧
        t.m.obj n = { s.m.obj n with pref := 1#2 } ∧ (∀ j, j ≠ n → t.m.obj j = s.m.obj j) ∧
        Answered 0x21 r stOk 0 s t ∧
        (t.m.session k).events = (a.session k).events ++ [⟨(s.m.session k).eventNo + 1, 0x0102, stOk, body, true⟩] ∧
        (s.m.pfcStopped = 0#8 → t.m.out =
          (s.m.origClass, .event k ((s.m.session k).eventNo + 1) 0x0102 stOk body true) ::
          (txMark r.cls r.tagged, .answer r.source 0x21 k r.seq.toNat stOk 0) :: s.m.out)) ∧
    (∀ y, (s.m.obj n).state = 4#3 → tier = 1 → (s.m.obj n).near = [] → s.m.allocNear (s.m.obj n) = some y →
      ∃ z : Mach, exec (.objectPlace r) s = .next (afterHandling 0x21 r ({ s with m := z }, stOk, 0)) ∧
        (z.obj n).state = 2#3 ∧ (z.obj n).src = 2#2 ∧ (z.obj n).dst = 1#2 ∧ (z.obj n).near = y ∧
        (∀ j, j ≠ n → z.obj j = s.m.obj j) ∧ z = { a with objs := z.objs })) ∧
  (∀ (s : State) (r : Req) (a : Mach) (n : Nat), Served 0x21 r s → atService 0x21 r s = a → n = bits (reqBody r) 18 0 →
    s.m.mayNameObj r.session.toNat n = true → bit (reqBody r) 22 = false →
    ((s.m.obj n).state = 0#3 ∨ (s.m.obj n).sound = false) →
    exec (.objectPlace r) s = .next (afterHandling 0x21 r ({ s with m := a }, stRefused, 0))) ∧
  (∀ (s : State) (r : Req) (k : Nat), s.m.linkUp = true → r.port.toNat = s.m.gctPort → s.m.controlAlive = true →
    s.m.isReady = true → r.cls ≠ 7#3 → malformed r = false → s.m.known r = true → k = r.session.toNat → (s.m.session k).expected = r.seq.toNat →
    (∀ b ∈ (s.m.session k).ring, b.seq ≠ r.seq.toNat) → s.m.unmapWaits 0x22 k (reqBody r) = true →
    ∃ t, exec (.map r) s = .next t ∧
      (t.m.session k).ring = (s.m.session k).ring ++ [⟨r.seq.toNat, 0x22, s.m.privileged, r⟩] ∧
      t = { s with m := { s.m with sessions := t.m.sessions, regs := t.m.regs } })

/-- R381, R382, R383. -/
def Obligations.DoorbellsAbortsAndBlobs : Prop :=
  (∀ (s : State) (r : Req) (a : Mach) (k b q n : Nat) (x : QueueSt), Served 0x30 r s → atService 0x30 r s = a →
    k = r.session.toNat → b = reqBody r → q = bits b 15 0 → x = s.m.queue q → s.m.mayNameQueue k q = true → x.state ≠ 0#2 →
    ((2 ^ x.sizeLog2 < wrap 32 ((bits b 63 32 : Int) - (x.rd : Int)) ∨
        wrap 32 ((bits b 63 32 : Int) - (x.rd : Int)) < x.wr - x.rd) →
      exec (.doorbell r) s = .next (afterHandling 0x30 r ({ s with m := a }, stRefused, 0))) ∧
    (wrap 32 ((bits b 63 32 : Int) - (x.rd : Int)) = x.wr - x.rd + n → x.wr - x.rd + n ≤ 2 ^ x.sizeLog2 →
      ((s.m.ctx x.ctx).state ≠ 1#2 → exec (.doorbell r) s = .next (afterHandling 0x30 r ({ s with m := a }, stAborted, 0))) ∧
      ((s.m.ctx x.ctx).state = 1#2 → n = 0 → exec (.doorbell r) s = .next (afterHandling 0x30 r ({ s with m := a }, stOk, 0))) ∧
      ((s.m.ctx x.ctx).state = 1#2 → n ≠ 0 → (s.m.session k).jobLimit ≤ (s.m.jobs.filter fun j => j.client == k).length →
        exec (.doorbell r) s = .next (afterHandling 0x30 r ({ s with m := a }, stNoCredit, 0))) ∧
      ((s.m.ctx x.ctx).state = 1#2 → n ≠ 0 → (s.m.jobs.filter fun j => j.client == k).length < (s.m.session k).jobLimit →
        ∃ y : Mach, y.queue q = { x with wr := x.wr + n, jobs := x.jobs ++ [(x.wr + n, s.m.nextJob)] } ∧
          (∀ j, j ≠ q → y.queue j = s.m.queue j) ∧ y.jobs = s.m.jobs ++ [⟨s.m.nextJob, k, x.ctx, n⟩] ∧
          y.nextJob = s.m.nextJob + 1 ∧
          y.sched (homeDie x.dieMask) = { s.m.sched (homeDie x.dieMask) with
            accepted := (s.m.sched (homeDie x.dieMask)).accepted + n } ∧
          y = { a with queues := y.queues, jobs := y.jobs, nextJob := y.nextJob, scheds := y.scheds } ∧
          exec (.doorbell r) s = .next (afterHandling 0x30 r
            ({ s with m := (List.range n).foldl (fun (m : Mach) i => takePin m q (x.wr + i)) y }, stOk, 0))))) ∧
  (∀ (s : State) (r : Req) (c : Nat), s.m.linkUp = true → r.port.toNat = s.m.gctPort → s.m.controlAlive = true →
    malformed r = false → s.m.isReady = true → s.m.known r = true → fieldsOk 0x31 r = true → s.m.safe = false → c = reqBody r % 4096 →
    ∃ t, exec (.abort r) s = .next t ∧ (∀ j, j ≠ c → t.m.ctx j = s.m.ctx j) ∧
      (s.m.mayName r.session.toNat c = true → (s.m.ctx c).state = 1#2 →
        t.m.ctx c = { s.m.ctx c with state := 2#2, lastSt := stAborted, faultCmd := 0 }) ∧
      ((s.m.mayName r.session.toNat c = false ∨ (s.m.ctx c).state ≠ 1#2) → t.m.ctx c = s.m.ctx c) ∧
      (r.cls = 7#3 ∨ s.m.pfcStopped.getLsbD r.cls.toNat = false → t.m.out =
        (txMark r.cls r.tagged, .answer r.source 0x31 r.session.toNat r.seq.toNat (if s.m.mayName r.session.toNat c then stOk else stPerm) 0) :: s.m.out) ∧
      t = { s with m := { s.m with ctxs := t.m.ctxs, sessions := t.m.sessions, regs := t.m.regs, out := t.m.out,
                                   txHeld := t.m.txHeld } }) ∧
  (∀ (s : State) (r : Req) (a y : Mach) (op k b d : Nat) (x : StObj × List Nat) (m : Mapping) (c : Instr),
    (c = .stateExportMessage r ∧ op = 0x40 ∨ c = .stateImportMessage r ∧ op = 0x41) → Served op r s → atService op r s = a →
    k = r.session.toNat → b = reqBody r → d = b / 2 ^ 128 * 2 ^ 128 → s.m.mayName k (bits b 11 0) = true → bits d 399 352 = 0 →
    blobCheck (bits b 11 0) d a = .ok x y → y.leafAt (bits b 11 0) (bits d 207 160) = some m →
    ∃ z : Mach, z = { y.pin m.obj with blobs := y.blobs ++ [⟨k, r.seq.toNat, bits b 11 0, op == 0x41, d, m.obj⟩] } ∧
      exec c s = .next (afterHandling op r ({ s with m := z }, stOk, 0))) ∧
  (∀ (s : State) (k : SessNo) (q : Word) (j : BlobJob) (y : Mach) (st : Nat),
    s.m.blobs.find? (fun b => b.session == k.toNat && b.seq == q.toNat) = some j → blobRun s.m j = (y, some st) →
    ∃ z : Mach, z = { y.unpin j.obj with blobs := y.blobs.filter fun b => !(b.session == k.toNat && b.seq == q.toNat) } ∧
      exec (.progress k q) s = .next { s with
        m := z.postEvent k.toNat 0x0102 st
          (q.toNat + (if st = stOk then blobStr j.desc else 0) <<< 32 + blobStr j.desc <<< 64) true }) ∧
  (∀ (s : State) (k : SessNo) (q : Word) (j : BlobJob) (y : Mach),
    s.m.blobs.find? (fun b => b.session == k.toNat && b.seq == q.toNat) = some j → blobRun s.m j = (y, none) →
    exec (.progress k q) s = .next { s with m := y.postEvent k.toNat 0x0102 stOk (q.toNat + blobStr j.desc <<< 64) false }) ∧
  (∀ (s : State) (k : SessNo) (q : Word) (p : Nat × Obj), (∀ b ∈ s.m.blobs, ¬ (b.session = k.toNat ∧ b.seq = q.toNat)) →
    s.m.objs.find? (fun p => p.2.places.any fun y => y.1 == k.toNat && y.2.1 == q.toNat) = some p →
    ∃ n, n = q.toNat + p.2.wmark.toNat <<< 32 + p.2.steps <<< 64 ∧
      exec (.progress k q) s = .next { s with m := s.m.postEvent k.toNat 0x0102 stOk n false })

/-- R384 to R386, R431, R435. -/
def Obligations.ReadsAnswerWhatIsHeld : Prop :=
  (∀ (s : State) (r : Req), s.m.linkUp = true → r.port.toNat = s.m.gctPort → s.m.controlAlive = true → malformed r = false →
    fieldsOk 0x50 r = true →
    (r.session = 0xFFFF#16 ∨ s.m.known r = true) →
    ∃ t, exec (.status r) s = .next t ∧
      (r.cls = 7#3 ∨ s.m.pfcStopped.getLsbD r.cls.toNat = false → t.m.out =
        (txMark r.cls r.tagged, .answer r.source 0x50 r.session.toNat r.seq.toNat stOk (statusBody (if s.m.known r then s.m.acked r.session.toNat r.ack.toNat else s.m))) :: s.m.out) ∧
      t = { s with m := { s.m with sessions := t.m.sessions, regs := t.m.regs, out := t.m.out, txHeld := t.m.txHeld } }) ∧
  (∀ (s : State) (r : Req) (a : Mach) (k b c : Nat) (l : List Nat), Served 0x51 r s → atService 0x51 r s = a →
    k = r.session.toNat → b = reqBody r → c = bits b 27 16 → s.m.mayName k c = true →
    (bits b 1 0 = 0 ∧ l = [ctxRecord s.m c] ∨
      bits b 1 0 = 1 ∧ l = ((s.m.ctx c).log.take (bits b 47 32)).map cmdRecord) → 64 * l.length ≤ (s.m.session k).maxBody →
    exec (.telemetry r) s =
      .next (afterHandling 0x51 r ({ s with m := a }, stOk, l.foldr (fun x y => x + y <<< 512) 0))) ∧
  (∀ (s : State) (r : Req) (a : Mach) (k b p n : Nat), Served 0x52 r s → atService 0x52 r s = a → k = r.session.toNat →
    b = reqBody r → p = bits b 31 0 → n = bits b 39 32 + 1 → p % 4 = 0 → 4 * n ≤ (s.m.session k).maxBody →
    ∃ y : Mach, y = { a with regs := y.regs, free := y.free } ∧ (∀ x, isRc x = false → y.reg x = a.reg x) ∧
      (∀ i, i < n → isRc (p + 4 * i) = true → y.reg (p + 4 * i) = 0#32) ∧
      (∀ x, (∀ i, i < n → x ≠ p + 4 * i) → y.reg x = a.reg x) ∧
      (n = 1 → exec (.regRead r) s = .next (afterHandling 0x52 r ({ s with m := y }, stOk, (a.view p).toNat))) ∧
      ∃ v, exec (.regRead r) s = .next (afterHandling 0x52 r ({ s with m := y }, stOk, v))) ∧
  (∀ (s : State) (r : Req) (a : Mach) (b : Nat), Served 0x60 r s → atService 0x60 r s = a → b = reqBody r →
    (s.m.sec 27 = true → ∃ sig f : Nat, sig < 2 ^ 512 ∧ exec (.attest r) s = .next (afterHandling 0x60 r
      ({ s with m := { a with free := f } }, stOk, quoteBody a (s.fusesOf 0).svn (s.activeKey 0) (b % 2 ^ 256) + sig <<< 3072))) ∧
    (s.m.sec 27 = false → exec (.attest r) s = .next (afterHandling 0x60 r ({ s with m := a }, stRefused, 0))))

/-- R436 to R440 and R388; R434 for a seal that breaks. What the message measures is on die 0 (log entry 15). -/
def Obligations.PrivilegedMessages : Prop :=
  ∀ (s : State) (r q : Req) (a : Mach) (op k b : Nat), Served op r s → atService op r s = a → k = r.session.toNat → b = reqBody r →
    q = { r with body := b } → s.m.privileged = true →
    (op = 0x70 → s.m.mayName k (bits b 11 0) = true → bits b 127 96 ≤ 16777216 → ∀ (img : List Byte) (y : Mach) (v : Nat),
      a.readVa (bits b 11 0) (bits b 95 48) (bits b 127 96) = .ok img y → verifyImage img (s.keyHash 0) (s.fusesOf 0).svn = v →
      (r.env.sealBreak = none → r.env.flashReadBack = true → ∃ (f : Flash) (z : Mach) (st : Nat),
        exec (.fwUpdate r) s = .next (afterHandling 0x70 r ({ s with flash := f, m := z }, st, 0)) ∧
        (v = 1 → st = stOk ∧ z = y.measureReq q ∧
          f = (s.flash.setCopy (!y.sec 24) (img.take (imageLen img))).prefer (!y.sec 24)) ∧
        (v = 3 ∨ v = 4 → st = stSig) ∧ (v ≠ 1 → v ≠ 3 → v ≠ 4 → st = stVersion) ∧ (v ≠ 1 → f = s.flash ∧ z = y)) ∧
      (r.env.sealBreak = some 0 → ∃ (z : Mach) (st : Nat),
        exec (.fwUpdate r) s = .next (afterHandling 0x70 r ({ s with m := z }, st, 0)) ∧
        (v = 1 → st = stPresence ∧ z = breakSeal y) ∧ (v ≠ 1 → z = y))) ∧
    (op = 0x72 → ∀ n, n = bits b 3 0 →
      ((∃ d, d < 4 ∧ (s.keySlot d n = none ∨ (s.fusesOf d).revoked.getLsbD n = true)) →
        exec (.keyRotate r) s = .next (afterHandling 0x72 r ({ s with m := a }, stRefused, 0))) ∧
      ((∀ d, d < 4 → s.keySlot d n ≠ none ∧ (s.fusesOf d).revoked.getLsbD n = false) →
        r.env.sealBreak = none → ∃ (f : Tab Fuses) (z : Mach) (st : Nat),
          exec (.keyRotate r) s = .next (afterHandling 0x72 r ({ s with fuses := f, m := z }, st, 0)) ∧
          ((∃ d, d < 4 ∧ verifyImage (s.flash.copy (!a.sec 24)) (s.keySlot d n) (s.fusesOf d).svn ≠ 1) →
            st = stSig ∧ f = s.fuses ∧ z = a) ∧
          ((∀ d, d < 4 → verifyImage (s.flash.copy (!a.sec 24)) (s.keySlot d n) (s.fusesOf d).svn = 1) → st = stOk ∧
            z = (a.setField (secReg 0) 23 20 (({ s with fuses := f } : State).activeKey 0)).measureReq q ∧
            (∀ d, d < 4 → (tabGet (fun _ => {}) f d).svn = (s.fusesOf d).svn ∧
              (tabGet (fun _ => {}) f d).keys = (s.fusesOf d).keys ∧ ∀ i, (tabGet (fun _ => {}) f d).revoked.getLsbD i =
                ((s.fusesOf d).revoked.getLsbD i || decide (i < n))) ∧
            ∀ d, 4 ≤ d → tabGet (fun _ => {}) f d = s.fusesOf d))) ∧
    (op = 0x71 →
      (bit b 0 = true → a.boot.noDebug = true → exec (.debugUnlock r) s = .next (afterHandling 0x71 r ({ s with m := a }, stRefused, 0))) ∧
      (bit b 0 = true → a.boot.noDebug = false → r.env.sealBreak = some 0 →
        exec (.debugUnlock r) s = .next (afterHandling 0x71 r ({ s with m := breakSeal a }, stPresence, 0))) ∧
      (bit b 0 = true → a.boot.noDebug = false → r.env.sealBreak = none → ∃ y : Mach,
        exec (.debugUnlock r) s = .next (afterHandling 0x71 r ({ s with m := y }, stOk, 0)) ∧ y.sec 27 = false ∧ y.sec 26 = true ∧
        (y.reg (safReg 0)).toNat.testBit 27 = false ∧
        ((s.m.reg (safReg 0)).toNat.testBit 27 = true → (y.reg (safReg 0)).toNat.testBit 29 = false ∧ y.faultN = true) ∧
        y = { a with regs := y.regs, recordsDue := y.recordsDue }) ∧
      (bit b 0 = false → r.env.sealBreak = none → ∃ y : Mach, exec (.debugUnlock r) s = .next (afterHandling 0x71 r ({ s with m := y }, stOk, 0)) ∧
        y.sec 26 = false ∧ y.extest = false ∧ (∀ d p : Nat, y.pair d p = { s.m.pair d p with jtagHalt := false }) ∧
        (∀ x, x ≠ secReg 0 → y.reg x = a.reg x) ∧ y = { a with regs := y.regs, pairs := y.pairs, extest := y.extest })) ∧
    (op = 0x73 → b = 0x46525354 → r.env.sealBreak = none → ∃ y : Mach, y = { a.measureReq q with resetDue := true } ∧
      exec (.factoryReset r) s = .next (afterHandling 0x73 r
        ({ s with flash := s.flash.writeConf factoryConf r.env.flashReadBack, m := y }, stOk, 0))) ∧
    (op = 0x74 → confOk b = true → r.env.sealBreak = none →
      (r.env.flashReadBack = true → exec (.netConfig r) s = .next (afterHandling 0x74 r
        ({ s with flash := s.flash.writeConf b true, m := a.measureReq q }, stOk, 0))) ∧
      (r.env.flashReadBack = false → exec (.netConfig r) s = .next (afterHandling 0x74 r
        ({ s with flash := s.flash.writeConf b false, m := a }, stRefused, 0)))) ∧
    ((op = 0x73 ∧ b = 0x46525354 ∨ op = 0x74 ∧ confOk b = true) → r.env.sealBreak = some 0 → ∀ c, messageOf c = some (op, r) →
      exec c s = .next (afterHandling op r ({ s with m := breakSeal a }, stPresence, 0))) ∧
    (∀ i, (op = 0x73 ∧ b = 0x46525354 ∨ op = 0x74 ∧ confOk b = true) → r.env.sealBreak = some (i + 1) → ∀ c, messageOf c = some (op, r) →
      exec c s = .next (afterHandling op r
        ({ s with flash := s.flash.writeConf (if op = 0x73 then factoryConf else b) r.env.flashReadBack, m := breakSeal a },
          stPresence, 0)))

/-- R472 to R476, R480, R456. `b` is the body of the request as the module reads it: ACTION n, KIND 0b10. -/
def Obligations.BringUpRequests : Prop :=
  ∀ (s : State) (r q : Req) (a : Mach) (n b : Nat) (priv : Bool),
    q = bringUpReq n r → Served 0x51 q s → atService 0x51 q s = a → b = reqBody q → bits b 7 4 = n → bits b 1 0 = 2 →
    priv = s.m.privileged →
    -- R473: what a request is accepted under
    (1 ≤ n → n ≤ 6 → (bringUpCode a b priv = none ↔
      b < 2 ^ 59 ∧ bits b 40 38 = 0 ∧ bits b 3 2 = 0 ∧
      (n = 1 ∨ n = 2 → (bit b 8 = true → bits b 18 9 < 16) ∧ (bit b 8 = false → bits b 20 19 = 0) ∧
        targetBusy a (bit b 8) (bits b 18 9) (n == 1) = false ∧ targetGone a (bit b 8) (bits b 18 9) = false) ∧
      (n = 2 → bit b 8 = false → 2 ≤ bits b 22 21 → s.m.life = .test) ∧
      (n = 3 → s.m.obsPath < 2 ∧ (bit b 37 = true → clkobsOk a b = true)) ∧
      (n = 4 → priv = true ∧ s.m.ctxNos = []) ∧ (n ≠ 3 → n ≠ 4 → bits (s.m.reg (devReg 0x200)).toNat 31 30 ≠ 1) ∧
      (n = 6 → s.m.life = .test ∧ bits b 49 41 ≤ bits b 58 50))) ∧
    -- a request that is not: its status, and nothing is done
    (∀ (c : Instr) (st : Nat), (c = .retrain r ∧ n = 1 ∨ c = .margin r ∧ n = 2 ∨ c = .clkobs r ∧ n = 3 ∨ c = .enterTest r ∧ n = 4 ∨
        c = .exitTest r ∧ n = 5 ∨ c = .selftest r ∧ n = 6) → bringUpCode a b priv = some st →
      exec c s = .next (afterHandling 0x51 q ({ s with m := a }, st, 0))) ∧
    (n = 1 → bringUpCode a b priv = none → ∃ y : Mach, exec (.retrain r) s = .next (afterHandling 0x51 q ({ s with m := y }, stOk, 0)) ∧
      y.reg (devReg 0x204) = w32 q.seq.toNat ∧ bits (y.reg (devReg 0x200)).toNat 27 24 = n ∧
      y.retrainReq = some (bit b 8, bits b 18 9) ∧ (bit b 8 = false → (y.pc (bits b 18 9)).trainDue = true)) ∧
    (n = 2 → bringUpCode a b priv = none → ∃ y : Mach, exec (.margin r) s = .next (afterHandling 0x51 q ({ s with m := y }, stOk, 0)) ∧
      y.reg (devReg 0x204) = w32 q.seq.toNat ∧ bits (y.reg (devReg 0x200)).toNat 27 24 = n ∧
      y.sweep = some ⟨bit b 8, bits b 18 9, bits b 20 19, bits b 22 21, 0, 0, false, false, none⟩ ∧
      y.obsPath = (if s.m.obsPath = 1 then 3 else 2)) ∧
    (n = 3 → bringUpCode a b priv = none → ∃ y : Mach, exec (.clkobs r) s = .next (afterHandling 0x51 q ({ s with m := y }, stOk, 0)) ∧
      y.reg (devReg 0x204) = w32 q.seq.toNat ∧ bits (y.reg (devReg 0x200)).toNat 27 24 = n ∧
      (y.reg (devReg 0x40)).toNat.testBit 31 = bit b 37 ∧ y.obsPath = b2n (bit b 37) ∧
      (bit b 37 = true → bits (y.reg (devReg 0x40)).toNat 29 23 = bits b 29 23)) ∧
    (n = 4 → bringUpCode a b priv = none → ∃ y : Mach, exec (.enterTest r) s = .next (afterHandling 0x51 q ({ s with m := y }, stOk, 0)) ∧
      y.reg (devReg 0x204) = w32 q.seq.toNat ∧ bits (y.reg (devReg 0x200)).toNat 27 24 = n ∧
      y.life = .test ∧ (y.reg (devReg 0x200)).toNat.testBit 29 = true) ∧
    (n = 5 → bringUpCode a b priv = none → ∃ y : Mach, exec (.exitTest r) s = .next (afterHandling 0x51 q ({ s with m := y }, stOk, 0)) ∧
      y.reg (devReg 0x204) = w32 q.seq.toNat ∧ bits (y.reg (devReg 0x200)).toNat 27 24 = n ∧
      (s.m.life = .test → y.life = .ready) ∧ (y.reg (devReg 0x200)).toNat.testBit 29 = false ∧
      (∀ p, (y.pc p).writeMargined = false)) ∧
    (n = 6 → bringUpCode a b priv = none → ∃ y : Mach, exec (.selftest r) s = .next (afterHandling 0x51 q ({ s with m := y }, stOk, 0)) ∧
      y.reg (devReg 0x204) = w32 q.seq.toNat ∧ bits (y.reg (devReg 0x200)).toNat 27 24 = n ∧
      ∀ k, bits b 49 41 ≤ k → k ≤ bits b 58 50 → (s.m.core k).fenced = false →
        y.reg (coreReg k 0x30) = bistWord (r.env.bist.find? fun f => f.core.toNat == k) ∧
        (∀ x, x < 1048576 → y.scrBytes k x 1 = [0#8]) ∧ ((y.core k).fenced = true ↔ ∃ f ∈ r.env.bist, f.core.toNat = k))

/-- R353 to R359. -/
def Obligations.FramesLinkAndRates : Prop :=
  (∀ (s : State) (f : Frame) (a : Mach), ((s.m.bump (portReg 0x10) 1).bump (portReg 0x1C) f.fecCorrected).bump (portReg 0x20) f.fecUncorrectable = a →
    (s.m.linkUp = false → exec (.frameReceive f) s = .next s) ∧
    (s.m.linkUp = true → f.fcsOk = false → exec (.frameReceive f) s = .next { s with m := a.bump (portReg 0x18) 1 }) ∧
    (s.m.linkUp = true → f.fcsOk = true → (f.bytes < 64 ∨ 9216 < f.bytes ∨ 1 < f.tags ∨
        (f.tags = 1 ∧ (s.m.conf.testBit 2 = false ∨ bits s.m.conf 27 16 ≠ f.vlan.toNat))) →
      exec (.frameReceive f) s = .next { s with m := a }) ∧
    (∀ udp roce : Bool, s.m.linkUp = true → f.fcsOk = true →
      ((∃ op r, f.payload = .gct op r) ∧ udp = true ∧ roce = false ∨ f.payload = .network ∧ udp = false ∧ roce = false ∨
        ((∃ r, f.payload = .rdmaWrite r ∨ f.payload = .rdmaRead r) ∨ (∃ k ce, f.payload = .rdmaOther k ce) ∨
          (∃ e, f.payload = .cnp e)) ∧ udp = true ∧ roce = true) →
      (s.m.isOurs f.ip.dst = false ∨ f.ip.fragment = true ∨ f.ip.options = true ∨ (roce = true ∧ f.icrcOk = false) ∨
        (udp = true ∧ (f.ip.sum = .wrong ∨ (f.ip.sum = .zero ∧ overV4 f.ip.dst = false)))) →
      exec (.frameReceive f) s = .next { s with m := a }) ∧
    (∀ x, s.m.linkUp = true → f.fcsOk = true → f.payload = .solicit x →
      (s.m.isOurs x = false ∨ overV4 x = true ∨ f.ip.fragment = true ∨ f.ip.options = true) →
      exec (.frameReceive f) s = .next { s with m := a }) ∧
    (f.tags ≠ 0 → frameCls f = f.pcp) ∧
    (f.tags = 0 → (∀ b, f.payload ≠ .pfc b) → (∀ b, f.payload ≠ .arp b) → (frameCls f).toNat = f.ip.dscp.toNat / 8) ∧
    (∀ c, s.m.linkUp = true → f.fcsOk = true → frameOk s.m f = true → frameCls f = c →
      (∀ b, f.payload = .pfc b → exec (.frameReceive f) s = .next { s with m := pfcFrame a b }) ∧
      (∀ r, f.payload = .rdmaWrite r → c ≠ 7#3 → exec (.frameReceive f) s =
        .next { s with m := a.rdmaServe ⟨f.bytes, true, { r with cls := c, tagged := frameTagged f }⟩ }) ∧
      (∀ r, f.payload = .rdmaRead r → c ≠ 7#3 → exec (.frameReceive f) s =
        .next { s with m := a.rdmaServe ⟨f.bytes, false, { r with cls := c, tagged := frameTagged f }⟩ }) ∧
      (∀ k ce, f.payload = .rdmaOther k ce → c ≠ 7#3 → exec (.frameReceive f) s =
        .next { s with m := unsupportedRdma a k.toNat (txMark c (frameTagged f)) ce }) ∧
      (∀ e, f.payload = .cnp e → c ≠ 7#3 → exec (.frameReceive f) s = .next { s with m := cnpReceived a e.val }) ∧
      ((f.payload = .network ∨ (∃ b, f.payload = .arp b) ∨ ∃ x, f.payload = .solicit x) → c ≠ 7#3 → s.m.pfcStopped.getLsbD c.toNat = false →
        ∃ t, exec (.frameReceive f) s = .next t ∧ t.m.out = (txMark c (frameTagged f), .network) :: s.m.out ∧
          t = { s with m := { a with out := t.m.out, regs := t.m.regs } }) ∧
      (f.payload = .other → c ≠ 7#3 → exec (.frameReceive f) s = .next { s with m := a }) ∧
      ((∀ b, f.payload ≠ .pfc b) → (∀ op r, f.payload ≠ .gct op r) → c = 7#3 →
        exec (.frameReceive f) s = .next { s with m := a.bump (portReg 0x30) 1 }) ∧
      (∀ op r q, f.payload = .gct op r → q = { r with cls := c, tagged := frameTagged f } → isGateOp op.toNat = false →
        op.toNat ≠ 1 → c ≠ 7#3 → r.port.toNat = s.m.gctPort → s.m.controlAlive = true → s.m.isReady = true → malformed q = false →
        s.m.known q = true →
        wrap 32 ((r.seq.toNat : Int) - ((s.m.session r.session.toNat).expected : Int)) < 64 →
        (∀ b ∈ (s.m.session r.session.toNat).ring, b.seq ≠ r.seq.toNat) →
        ∃ t, exec (.frameReceive f) s = .next t ∧
          (t.m.session r.session.toNat).ring = (s.m.session r.session.toNat).ring ++
            [⟨r.seq.toNat, op.toNat, s.m.privileged, q⟩] ∧ t.m.irqPending 0 105 = true ∧
          (t.m.session r.session.toNat).expected = (s.m.session r.session.toNat).expected ∧
          (∀ j, j ≠ r.session.toNat → t.m.session j = s.m.session j) ∧
          t = { s with m := { s.m with sessions := t.m.sessions, regs := t.m.regs } }))) ∧
  (∀ (s : State) (i : Instr) (r : RdmaReq) (x : RxWait) (a b : Mach), s.m.linkUp = true → r.cls ≠ 7#3 →
    s.m.bump (portReg 0x10) 1 = a →
    (i = .rdmaWrite r ∧ x = ⟨64 + r.data.length, true, r⟩ ∨ i = .rdmaRead r ∧ x = ⟨64, false, r⟩) →
    ((∃ y ∈ s.m.rxWait, y.req.cls = r.cls) ∨ (if x.write then rdmaWriteAt a r else rdmaReadAt a r) = none) →
    (4194304 < (s.m.rxWait.foldl (fun n y => n + y.bytes) 0) + x.bytes → exec i s = .next { s with m := a }) ∧
    ((s.m.rxWait.foldl (fun n y => n + y.bytes) 0) + x.bytes ≤ 4194304 → { a with rxWait := a.rxWait ++ [x] } = b →
      (b.xoffDue = s.m.xoff → exec i s = .next { s with m := b }) ∧
      (b.xoffDue ≠ s.m.xoff → ∃ t, exec i s = .next t ∧ t.m.out = (8, .pfc b.xoffDue) :: s.m.out ∧ t.m.xoff = b.xoffDue ∧
        t.m.reg (portReg 0x24) = satAdd (s.m.reg (portReg 0x24)) (b2n (b.xoffDue &&& ~~~ s.m.xoff ≠ 0#8)) ∧
        t = { s with m := { b with xoff := t.m.xoff, out := t.m.out, regs := t.m.regs } }))) ∧
  (∀ (m : Mach) (c : Nat), c < 7 → m.xoffDue.getLsbD c = (decide (524288 < m.rxBytes c) ||
    (m.xoff.getLsbD c && decide (262144 ≤ m.rxBytes c)))) ∧
  (∀ (s : State) (b : Byte), s.m.linkUp = true →
    ∃ t, exec (.pfcXoff b) s = .next t ∧ t.m.pfcStopped = b &&& 0x7F#8 ∧
      t.m.txHeld = (s.m.txHeld.filter fun x => decide (x.1 % 16 < 7) && b.getLsbD (x.1 % 16)) ∧
      t.m.out = (s.m.txHeld.filter fun x => !(decide (x.1 % 16 < 7) && b.getLsbD (x.1 % 16))).reverse ++ s.m.out ∧
      t.m.reg (portReg 0x28) = satAdd (s.m.reg (portReg 0x28)) (if b = 0#8 then 0 else 1) ∧
      t = { s with m := { s.m with pfcStopped := t.m.pfcStopped, txHeld := t.m.txHeld, out := t.m.out, regs := t.m.regs } }) ∧
  (∀ s : State, s.m.linkUp = true → ∃ t, exec .linkDown s = .next t ∧ t.m.linkUp = false ∧
    t.m.reg (portReg 0x3C) = satAdd (s.m.reg (portReg 0x3C)) 1 ∧ t.m.irqPending 0 106 = true ∧
    t = { s with m := { s.m with regs := t.m.regs } }) ∧
  (∀ s : State, s.m.linkUp = false → exec .linkDown s = .next s) ∧
  (∀ s : State, s.m.linkUp = false → (s.m.life = .ready ∨ s.m.life = .test ∨
      ((s.m.reg (devReg 0)).toNat.testBit 30 = true ∧ s.m.onPll 17 = true ∧ s.m.onPll 19 = true)) → ∃ t, exec (.linkRetry true) s = .next t ∧
    t.m.linkUp = true ∧ t.m.reg (portReg 0) = linkWord s.m.conf ∧ t.m.irqPending 0 106 = true ∧
    t = { s with m := { s.m with regs := t.m.regs } }) ∧
  (∀ (s : State) (up : Bool), (s.m.linkUp = true ∨ up = false) → exec (.linkRetry up) s = .next s) ∧
  (∀ (s : State) (e : EpNo), s.m.linkUp = true → (s.m.ep e.val).configured = true → ∃ t, exec (.congestionNotification e) s = .next t ∧
    t.m.ep e.val = { s.m.ep e.val with rate := (s.m.ep e.val).rate / 2 } ∧ (∀ j, j ≠ e.val → t.m.ep j = s.m.ep j) ∧
    t.m.reg (portReg 0x10) = satAdd (s.m.reg (portReg 0x10)) 1 ∧ t = { s with m := { s.m with eps := t.m.eps, regs := t.m.regs } }) ∧
  (∀ (s : State) (e : EpNo), (s.m.ep e.val).configured = true →
    (∃ t, exec (.rateRestore e) s = .next t ∧ t.m.ep e.val = { s.m.ep e.val with rate := min 65536 ((s.m.ep e.val).rate + 4096) } ∧
      (∀ j, j ≠ e.val → t.m.ep j = s.m.ep j) ∧ t = { s with m := { s.m with eps := t.m.eps } }) ∧
    ((s.m.ep e.val).error = false → ∃ t, exec (.ackTimeout e) s = .next t ∧ (∀ j, j ≠ e.val → t.m.ep j = s.m.ep j) ∧
      ((s.m.ep e.val).retries < 7 → t.m.ep e.val = { s.m.ep e.val with retries := (s.m.ep e.val).retries + 1 }) ∧
      (7 ≤ (s.m.ep e.val).retries → t.m.ep e.val = { s.m.ep e.val with error := true } ∧ t.m.irqPending 0 108 = true) ∧
      t = { s with m := { s.m with eps := t.m.eps, regs := t.m.regs } }))

/-- R359 to R362, R321. -/
def Obligations.RdmaMovesBytes : Prop :=
  (∀ (s : State) (r : RdmaReq) (e : TableEntry) (o : Obj) (pa k n : Nat), s.m.linkUp = true → r.cls ≠ 7#3 →
    (∀ y ∈ s.m.rxWait, y.req.cls ≠ r.cls) → k = r.session.toNat → n = r.data.length →
    s.m.rdmaServed k = true → s.m.safe = false → s.m.rkeyOk r.rkey = true → r.ecnCe = false →
    0 < n → r.va.toNat + n ≤ 2 ^ 48 → r.va.toNat % 65536 + n ≤ 65536 →
    s.m.tableLeaf (r.rkey.toNat % 4096) r.va.toNat = some e → o = s.m.obj e.obj → o.present = true → e.rdmaW = true →
    s.m.isControl e.obj = false → pa = e.addr + r.va.toNat % o.leaf → s.m.heldIn pa n = none →
    (∀ x, pa ≤ x → x < pa + n → s.m.isFailed x = false) → s.m.under = [] →
    (∃ z, s.m.readTables (r.rkey.toNat % 4096) r.va.toNat = .ok () z) →
    ∃ t, exec (.rdmaWrite r) s = .next t ∧ t.m.nearBytes pa n = r.data ∧
      (∀ x, x < pa ∨ pa + n ≤ x → t.m.nearByte x = s.m.nearByte x) ∧ (t.m.obj e.obj).accessed = true ∧
      (e.watch = true → o.state = 3#3 → o.src = 1#2 → (t.m.obj e.obj).abandon = true) ∧
      (s.m.pfcStopped.getLsbD r.cls.toNat = false → t.m.out = (txMark r.cls r.tagged, .rdma k 0 []) :: s.m.out) ∧
      t.m.sessions = s.m.sessions ∧ t.m.ctxs = s.m.ctxs ∧ t.m.maps = s.m.maps) ∧
  (∀ (s : State) (r : RdmaReq) (k x : Nat) (b : Bool) (l : List Byte) (y : Mach), s.m.linkUp = true → r.cls ≠ 7#3 →
    (∀ y ∈ s.m.rxWait, y.req.cls ≠ r.cls) → k = r.session.toNat →
    s.m.rdmaServed k = true → s.m.rkeyOk r.rkey = true → r.ecnCe = false → r.va.toNat + r.len ≤ 2 ^ 48 →
    rdmaLoad (r.rkey.toNat % 4096) (rangePieces r.va.toNat r.len) [] (s.m.bump (portReg 0x10) 1) = (.ok x, b, l, y) →
    ∃ t, exec (.rdmaRead r) s = .next t ∧ l.length = r.len ∧
      (s.m.pfcStopped.getLsbD r.cls.toNat = false → t.m.out = (txMark r.cls r.tagged, .rdma k 0 l) :: s.m.out) ∧
      t.m.near = s.m.near ∧ t.m.sessions = s.m.sessions ∧ t.m.ctxs = s.m.ctxs ∧
      (∀ a n : Nat, rangePieces r.va.toNat r.len = [(a, n)] → ∃ e, s.m.tableLeaf (r.rkey.toNat % 4096) a = some e ∧ e.rdmaR = true ∧
        l = s.m.nearBytes (e.addr + a % (s.m.obj e.obj).leaf) n)) ∧
  (∀ (s : State) (i : Instr) (r : RdmaReq) (k syn : Nat), s.m.linkUp = true → r.cls ≠ 7#3 → k = r.session.toNat →
    (∀ y ∈ s.m.rxWait, y.req.cls ≠ r.cls) → s.m.rdmaServed k = true → r.ecnCe = false →
    ((i = .rdmaWrite r ∧ syn = 2 ∧ (s.m.safe = true ∨ s.m.rkeyOk r.rkey = false ∨ 2 ^ 48 < r.va.toNat + r.data.length)) ∨
      (i = .rdmaRead r ∧ syn = 2 ∧ (s.m.rkeyOk r.rkey = false ∨ 2 ^ 48 < r.va.toNat + r.len)) ∨
      (i = .rdmaRead r ∧ syn = 2 ∧ 0 < r.len ∧ s.m.tableLeaf (r.rkey.toNat % 4096) r.va.toNat = none ∧
        ∀ p ∈ s.m.pcs, p.2.state ≠ 1#2) ∨
      (i = .unsupportedRdmaOp r.session (r.cls, r.ecnCe) ∧ r.tagged = false ∧ syn = 1)) →
    ∃ t, exec i s = .next t ∧ t.m.session k = { s.m.session k with qpError := true } ∧
      (∀ j, j ≠ k → t.m.session j = s.m.session j) ∧ t.m.reg (portReg 0x34) = satAdd (s.m.reg (portReg 0x34)) 1 ∧
      t.m.irqPending 0 107 = true ∧
      (s.m.pfcStopped.getLsbD r.cls.toNat = false → t.m.out = (txMark r.cls r.tagged, .rdma k syn []) :: s.m.out) ∧
      (((s.m.safe = true ∧ i = .rdmaWrite r) ∨ s.m.rkeyOk r.rkey = false ∨ i = .unsupportedRdmaOp r.session (r.cls, r.ecnCe)) →
        t = { s with m := { s.m with sessions := t.m.sessions, regs := t.m.regs, out := t.m.out, txHeld := t.m.txHeld } }) ∧
      t = { s with m := { s.m with
        sessions := t.m.sessions, regs := t.m.regs, out := t.m.out, txHeld := t.m.txHeld, cache := t.m.cache,
        under := t.m.under, slag := t.m.slag, objs := t.m.objs, cores := t.m.cores, recordsDue := t.m.recordsDue } }) ∧
  (∀ (s : State) (i : Instr) (r : RdmaReq), s.m.linkUp = true → s.m.rdmaServed r.session.toNat = false → r.cls ≠ 7#3 →
    (∀ y ∈ s.m.rxWait, y.req.cls ≠ r.cls) →
    (i = .rdmaWrite r ∨ i = .rdmaRead r ∨ i = .unsupportedRdmaOp r.session (r.cls, r.ecnCe)) →
    exec i s = .next { s with m := s.m.bump (portReg 0x10) 1 }) ∧
  (∀ (s : State) (i : Instr) (r : RdmaReq), (i = .rdmaWrite r ∨ i = .rdmaRead r ∨
      i = .unsupportedRdmaOp r.session (r.cls, r.ecnCe)) →
    (s.m.linkUp = false → exec i s = .next s) ∧
    (s.m.linkUp = true → r.cls = 7#3 → exec i s = .next { s with m := (s.m.bump (portReg 0x10) 1).bump (portReg 0x30) 1 }))

/-! ## The flasks (16) -/

/-- R396, R397, R403, R391's timers: what an event of a source does to the pending bits of its die. A timer given a compare value
that the flask-cycle counter has now expires at once; the counter counts nanoseconds (the model's choice, log entry 2). -/
def Obligations.InterruptEventsSetPendingBits : Prop :=
  (∀ (s : State) (d : DieNo) (n : SourceNo), srcReserved d.toNat n.toNat = false →
    ∃ t, exec (.interruptEvent d n) s = .next t ∧ EventTaken d.toNat n.toNat s.m t.m ∧
      t = { s with m := { s.m with regs := t.m.regs } }) ∧
  (∀ (s : State) (d : DieNo) (n : SourceNo), srcReserved d.toNat n.toNat = true → exec (.interruptEvent d n) s = .next s) ∧
  (∀ (s : State) (d : DieNo) (n : SourceNo), 512 ≤ n.toNat →
    ∃ t, exec (.irqSwset d n) s = .next t ∧ EventTaken d.toNat n.toNat s.m t.m ∧
      t = { s with m := { s.m with regs := t.m.regs } }) ∧
  (∀ (s : State) (d : DieNo) (n : SourceNo), n.toNat < 512 → exec (.irqSwset d n) s = .next s) ∧
  (∀ (s : State) (d : DieNo) (i : BitVec 4) (v : DWord),
    ∃ t, exec (.flaskTimerExpiry d (i, v)) s = .next t ∧
      tabGet (fun _ => 0) t.m.timers (16 * d.toNat + i.toNat) = v.toNat ∧
      (∀ j, j ≠ 16 * d.toNat + i.toNat → tabGet (fun _ => 0) t.m.timers j = tabGet (fun _ => 0) s.m.timers j) ∧
      (v.toNat = s.m.nowNs % 2 ^ 64 → EventTaken d.toNat (144 + i.toNat) s.m t.m) ∧
      (v.toNat ≠ s.m.nowNs % 2 ^ 64 → t.m.regs = s.m.regs) ∧
      t = { s with m := { s.m with regs := t.m.regs, timers := t.m.timers } })

/-- R399 and the first sentences of R400; R400's last paragraph for source 4 + p. -/
def Obligations.ClaimThenCompletion : Prop :=
  (∀ (s : State) (d : DieNo) (p : PairNo) (n : SourceNo), s.m.pairRuns d.toNat p.toNat = true →
    (s.m.pair d.toNat p.toNat).inService = none → s.m.irqPending d.toNat n.toNat = true →
    s.m.inServiceAny d.toNat n.toNat = false → (s.m.routeMask d.toNat n.toNat).contains p.toNat = true →
    srcReserved d.toNat n.toNat = false →
    ∃ t, exec (.irqClaim d p n) s = .next t ∧
      t.m.pair d.toNat p.toNat = { s.m.pair d.toNat p.toNat with inService := some n.toNat, claimed := (true, n.toNat) } ∧
      (∀ d' p' : Nat, 4 * d' + p' ≠ 4 * d.toNat + p.toNat → t.m.pair d' p' = s.m.pair d' p') ∧
      (∀ (d' : DieNo) (n' : SourceNo), t.m.irqPending d'.toNat n'.toNat =
        (s.m.irqPending d'.toNat n'.toNat && !decide (d' = d ∧ n' = n))) ∧
      (if 4 ≤ n.toNat ∧ n.toNat ≤ 7 then
        t.m.faultN = true ∧ t.m.recordsDue.length = s.m.recordsDue.length + 1 ∧
        t = { s with m := { s.m with regs := t.m.regs, pairs := t.m.pairs, recordsDue := t.m.recordsDue, danger := true } }
      else
        (∀ a, a ≠ flaskReg d.toNat (0x100 + 4 * (n.toNat / 32)) → t.m.reg a = s.m.reg a) ∧
        t = { s with m := { s.m with regs := t.m.regs, pairs := t.m.pairs } })) ∧
  (∀ (s : State) (d : DieNo) (p : PairNo) (n : SourceNo), s.m.pairRuns d.toNat p.toNat = true →
    (s.m.pair d.toNat p.toNat).inService = some n.toNat →
    ∃ t, exec (.irqEoi d p n) s = .next t ∧
      t.m.pair d.toNat p.toNat = { s.m.pair d.toNat p.toNat with inService := none } ∧
      (∀ d' p' : Nat, 4 * d' + p' ≠ 4 * d.toNat + p.toNat → t.m.pair d' p' = s.m.pair d' p') ∧
      t = { s with m := { s.m with pairs := t.m.pairs } })

/-- R403: a write to IRQ_ROUTE after READY, or to the mask of a source from 0 to 11, is ignored. R399's refusal and the three completion-order faults of R400. -/
def Obligations.RoutesRefusedClaimsOrderFaults : Prop :=
  ((∀ (s : State) (d : DieNo) (n : SourceNo) (mask : BitVec 4), s.m.isReady = false → 11 < n.toNat →
    ∃ t, exec (.irqRouteSet d n mask) s = .next t ∧ t.m.routeReg d.toNat n.toNat = mask.toNat ∧
      (∀ (d' : DieNo) (n' : SourceNo), ¬ (d' = d ∧ n' = n) →
        t.m.routeReg d'.toNat n'.toNat = s.m.routeReg d'.toNat n'.toNat) ∧
      (∀ a, a ≠ flaskReg d.toNat (0x200 + 4 * (n.toNat / 8)) → t.m.reg a = s.m.reg a) ∧
      t = { s with m := { s.m with regs := t.m.regs } }) ∧
  (∀ (s : State) (d : DieNo) (n : SourceNo) (mask : BitVec 4), s.m.isReady = true ∨ n.toNat ≤ 11 →
    exec (.irqRouteSet d n mask) s = .next s)) ∧
  ((∀ (s : State) (d : DieNo) (p : PairNo) (n : SourceNo), s.m.pairRuns d.toNat p.toNat = true →
    (s.m.pair d.toNat p.toNat).inService = none →
    (s.m.irqPending d.toNat n.toNat = false ∨ s.m.inServiceAny d.toNat n.toNat = true ∨
      (s.m.routeMask d.toNat n.toNat).contains p.toNat = false ∨ srcReserved d.toNat n.toNat = true) →
    ∃ t, exec (.irqClaim d p n) s = .next t ∧
      (∀ d' p' : Nat, (t.m.pair d' p').inService = (s.m.pair d' p').inService) ∧
      t.m.reg (flaskReg d.toNat 0x34) = satAdd (s.m.reg (flaskReg d.toNat 0x34)) 1 ∧
      (∀ a, a ≠ flaskReg d.toNat 0x34 → t.m.reg a = s.m.reg a) ∧
      t = { s with m := { s.m with regs := t.m.regs, pairs := t.m.pairs } }) ∧
  (∀ (s : State) (d : DieNo) (p : PairNo) (n : SourceNo) (c : Instr), s.m.pairRuns d.toNat p.toNat = true →
    (c = .irqEoi d p n ∧ (s.m.pair d.toNat p.toNat).inService ≠ some n.toNat ∨
      c = .irqClaim d p n ∧ (s.m.pair d.toNat p.toNat).inService ≠ none) →
    ∃ t, exec c s = .next t ∧
      (∀ d' p' : Nat, (t.m.pair d' p').inService = (s.m.pair d' p').inService) ∧
      t.m.reg (flaskReg d.toNat 0x38) = satAdd (s.m.reg (flaskReg d.toNat 0x38)) 1 ∧
      (∀ (d' : DieNo) (n' : SourceNo), t.m.irqPending d'.toNat n'.toNat =
        (s.m.irqPending d'.toNat n'.toNat || decide (d' = d ∧ n'.toNat = 4 + p.toNat))) ∧
      ((s.m.reg (flaskReg d.toNat 0x20)).toNat.testBit 31 = true →
        t.m.reg (flaskReg d.toNat 0x20) = s.m.reg (flaskReg d.toNat 0x20)) ∧
      t = { s with m := { s.m with regs := t.m.regs, pairs := t.m.pairs } }))

/-- R392 to R395 with the dangerous failures of R404 and R411. What KIND a differing write to the interface of R403 has, and where
the flask's memories lie, are the model's readings (log entries 74 and 75). -/
def Obligations.LockstepAndWatchdogs : Prop :=
  (∀ (s : State) (d : DieNo) (p : PairNo) (cope drag : PairOut) (x : PairSt), s.m.pair d.toNat p.toNat = x →
    ((x.halted = true ∨ x.jtagHalt = true) → exec (.lockstepMismatch d p (cope, drag)) s = .next s) ∧
    (x.halted = false → x.jtagHalt = false → x.buffer.length < 2 → ∃ t, exec (.lockstepMismatch d p (cope, drag)) s = .next t ∧
      t.m.pair d.toNat p.toNat = { x with buffer := x.buffer ++ [cope] } ∧
      (∀ d' p' : Nat, 4 * d' + p' ≠ 4 * d.toNat + p.toNat → t.m.pair d' p' = s.m.pair d' p') ∧
      t = { s with m := { s.m with pairs := t.m.pairs } }) ∧
    (∀ nx l, x.halted = false → x.jtagHalt = false → x.buffer = drag :: nx :: l →
      (∀ (w : FlaskWrite) (c : Instr), drag.iface = some w →
        ((∃ n, w = .claim n ∧ c = .irqClaim d p n) ∨ (∃ n, w = .eoi n ∧ c = .irqEoi d p n) ∨
          (∃ d' n, w = .swset d' n ∧ c = .irqSwset d' n) ∨ (∃ n k, w = .routeSet n k ∧ c = .irqRouteSet d n k) ∨
          w = .kick ∧ c = .safWdogKick d p) →
        exec (.lockstepMismatch d p (cope, drag)) s = exec c { s with
          m := pairStore (s.m.setPair d.toNat p.toNat { x with buffer := [nx, cope] }) d.toNat p.toNat drag }) ∧
      (drag.iface = none → ∃ t, exec (.lockstepMismatch d p (cope, drag)) s = .next t ∧
        t.m.pair d.toNat p.toNat = { x with buffer := [nx, cope] } ∧
        (∀ d' p' : Nat, 4 * d' + p' ≠ 4 * d.toNat + p.toNat → t.m.pair d' p' = s.m.pair d' p') ∧
        (∀ a, a < 2 ^ 24 → t.m.flaskByte d.toNat a =
          if drag.store.toNat ≤ a ∧ a < drag.store.toNat + 8 ∧ drag.enables.getLsbD (a - drag.store.toNat) = true ∧
              flaskWrites p.toNat a = true
          then drag.data.extractLsb' (8 * (a - drag.store.toNat)) 8 else s.m.flaskByte d.toNat a) ∧
        (∀ (d' : DieNo) (a : Nat), d' ≠ d → t.m.flaskByte d'.toNat a = s.m.flaskByte d'.toNat a) ∧
        t = { s with m := { s.m with pairs := t.m.pairs, flaskRam := t.m.flaskRam } }))) ∧
  (∀ (s : State) (d : DieNo) (p : PairNo) (cope drag out nx : PairOut) (l : List PairOut) (kind : Nat) (tree : Bool) (c : Instr),
    (c = .lockstepMismatch d p (cope, drag) ∧ (s.m.pair d.toNat p.toNat).jtagHalt = false ∧
        (s.m.pair d.toNat p.toNat).buffer = out :: nx :: l ∧ out ≠ drag ∧ kind = lockstepKind out drag ∨
      c = .checkerTreeTest d p tree false ∧ kind = 3) → (s.m.pair d.toNat p.toNat).halted = false →
    ∃ t, exec c s = .next t ∧
      t.m.pair d.toNat p.toNat = { s.m.pair d.toNat p.toNat with halted := true, buffer := [], inService := none } ∧
      (t.m.reg (flaskReg d.toNat 0)).toNat.testBit (4 + p.toNat) = true ∧
      t.m.reg (flaskReg d.toNat 4) = (if (s.m.reg (flaskReg d.toNat 4)).toNat.testBit 31 then s.m.reg (flaskReg d.toNat 4)
        else w32 (2 ^ 31 + p.toNat * 2 ^ 29 + kind * 2 ^ 27)) ∧
      (∀ d' p' : Nat, 4 * d' + p' ≠ 4 * d.toNat + p.toNat → t.m.pair d' p' = s.m.pair d' p') ∧
      (∀ n : SourceNo, (s.m.pair d.toNat p.toNat).inService = some n.toNat → t.m.irqPending d.toNat n.toNat = true) ∧
      t.m.irqPending d.toNat p.toNat = true ∧ t.m.irqPending 0 (96 + d.toNat) = true ∧ t.m.faultN = true ∧
      t.m.recordsDue.length = s.m.recordsDue.length + 1 ∧
      t = { s with m := { s.m with regs := t.m.regs, pairs := t.m.pairs, recordsDue := t.m.recordsDue, danger := true } }) ∧
  (∀ (s : State) (d : DieNo) (p : PairNo) (tree : Bool), exec (.checkerTreeTest d p tree true) s = .next s) ∧
  (∀ (s : State) (d : DieNo) (p : PairNo), s.m.pairRuns d.toNat p.toNat = true →
    ∃ t, exec (.safWdogKick d p) s = .next t ∧
      t.m.pair d.toNat p.toNat = { s.m.pair d.toNat p.toNat with wdogCycles := 0 } ∧
      (∀ d' p' : Nat, 4 * d' + p' ≠ 4 * d.toNat + p.toNat → t.m.pair d' p' = s.m.pair d' p') ∧
      t = { s with m := { s.m with pairs := t.m.pairs } }) ∧
  (∀ (s : State) (d : DieNo) (p : PairNo), ((s.m.pair d.toNat p.toNat).jtagHalt = true ∨
      (s.m.pair d.toNat p.toNat).wdogCycles ≠ 2000000) → exec (.watchdogExpiry d p) s = .next s) ∧
  (∀ (s : State) (d : DieNo) (p : PairNo), (s.m.pair d.toNat p.toNat).jtagHalt = false →
    (s.m.pair d.toNat p.toNat).wdogCycles = 2000000 →
    ∃ t, exec (.watchdogExpiry d p) s = .next t ∧
      t.m.pair d.toNat p.toNat = { s.m.pair d.toNat p.toNat with wdogCycles := 2000001 } ∧
      (∀ d' p' : Nat, 4 * d' + p' ≠ 4 * d.toNat + p.toNat → t.m.pair d' p' = s.m.pair d' p') ∧
      t.m.irqPending d.toNat (8 + p.toNat) = true ∧ (t.m.reg (flaskReg d.toNat 0)).toNat.testBit (12 + p.toNat) = true ∧
      t.m.faultN = true ∧ t.m.recordsDue.length = s.m.recordsDue.length + 1 ∧
      t = { s with m := { s.m with regs := t.m.regs, pairs := t.m.pairs, recordsDue := t.m.recordsDue, danger := true } })

/-! ## Functional safety (17) -/

/-- R407 to R410, R448. -/
def Obligations.ChecksAnswerByTheirMechanism : Prop :=
  (∀ (s : State) (a : SramArray), exec (.sramScrub a .clean) s = .next s ∧
    exec (.sramScrub a .corrected) s = .next { s with m := s.m.bump (safReg 0x1C) 1 }) ∧
  (∀ (s : State) (a : SramArray) (c : CoreNo), (a = .scratchpad c ∨ a = .castPlan c ∨ a = .translation c) →
    ((s.m.core c.toNat).fenced = true → exec (.sramScrub a .uncorrectable) s = .next { s with m := s.m.bump (safReg 0x20) 1 }) ∧
    ((s.m.core c.toNat).fenced = false → exec (.sramScrub a .uncorrectable) s = exec (.coreFence c .sram) s)) ∧
  (∀ (s : State) (e : EngineNo) (slot row : BitVec 5) (c : CoreNo) (m : Mach), e.toNat / 4 = c.toNat →
    accumulatorUe s.m e.toNat slot.toNat row.toNat = m →
    ((m.core c.toNat).fenced = true →
      exec (.sramScrub (.accumulator e slot row) .uncorrectable) s = .next { s with m := m.bump (safReg 0x20) 1 }) ∧
    ((m.core c.toNat).fenced = false →
      exec (.sramScrub (.accumulator e slot row) .uncorrectable) s = exec (.coreFence c .sram) { s with m := m }) ∧
    m.reg (engReg e.toNat 0x60) = satAdd (s.m.reg (engReg e.toNat 0x60)) 1 ∧
    (m.reg (engReg e.toNat 0x68)).toNat.testBit 31 = true ∧
    (∃ x, m.recordsDue = s.m.recordsDue ++ [x] ∧ x.req.mech = 0x10#8 ∧ x.req.unit = w32 e.toNat) ∧ m.near = s.m.near ∧
    (∀ (u : EngTile) (x : Cmd), (s.m.eng e.toNat).mode = false →
      slot.toNat * 32 + row.toNat ∈ ((s.m.eng e.toNat).quarter 0).pendingRows →
      (((s.m.eng e.toNat).quarter 0).tiles.find? fun t => t.drain && decide (t.slot ≤ slot.toNat) &&
        decide (slot.toNat < t.slot + ceilDiv t.rows t.side)) = some u →
      s.m.cmd? u.cmd = some x → x.replays < 16 →
      (∃ z, m.cmd? u.cmd = some z ∧ z.st = .replay ∧ z.slots = [] ∧ z.cks = x.cks + 1) ∧
      ∀ v ∈ ((m.eng e.toNat).quarter 0).tiles, v.same u.cmd u.item u.entry = false)) ∧
  (∀ (s : State) (a : SramArray) (k : ClusterNo), (a = .clusterBuffer k ∨ a = .commandProcessor k) →
    ((s.m.cluster k.toNat).fenced = true → exec (.sramScrub a .uncorrectable) s = .next { s with m := s.m.bump (safReg 0x20) 1 }) ∧
    ((s.m.cluster k.toNat).fenced = false → exec (.sramScrub a .uncorrectable) s = exec (.clusterFence k) s)) ∧
  (∀ (s : State) (g : SliceNo) (set : BitVec 11) (way : BitVec 4) (sectors : BitVec 2) (j : Nat) (ls : List Line) (l : Line),
    j = 2048 * g.toNat + set.toNat → ls = tabGet (fun _ => []) s.m.cache j → ls[way.toNat]? = some l →
    ∃ t, exec (.sramScrub (.sharedCache g set way sectors) .uncorrectable) s = .next t ∧
      tabGet (fun _ => []) t.m.cache j = ls.eraseIdx way.toNat ∧
      (∀ i, i ≠ j → tabGet (fun _ => []) t.m.cache i = tabGet (fun _ => []) s.m.cache i) ∧
      t.m.reg (safReg 0x20) = satAdd (s.m.reg (safReg 0x20)) 1 ∧ t.m.near = s.m.near ∧ t.m.faultN = s.m.faultN ∧
      (∃ x rest, t.m.recordsDue = s.m.recordsDue ++ x :: rest ∧ x.req.mech = 0x14#8 ∧ x.req.unit = w32 g.toNat) ∧
      (∀ a, a / 128 ≠ l.tag → t.m.slagBit a = s.m.slagBit a) ∧
      (l.dirty = true → ∀ i, i < 2 → sectors.getLsbD i = true → t.m.slagBit (128 * l.tag + 64 * i) = true) ∧
      (l.dirty = false → t = { s with m := { s.m with cache := t.m.cache, regs := t.m.regs, recordsDue := t.m.recordsDue } })) ∧
  (∀ (s : State) (d : DieNo) (p : PairNo), ∃ t, exec (.sramScrub (.flask d p) .uncorrectable) s = .next t ∧
    FaultTaken ⟨0x0A#8, w32 (4 * d.toNat + p.toNat), d, 0x3FF#10, 0#16, []⟩ s.m t.m ∧
    t.m.reg (safReg 0x20) = satAdd (s.m.reg (safReg 0x20)) 1 ∧ OnlyRegs [safReg 0, safReg 4, safReg 0x20] s.m t.m ∧
    t = { s with m := { s.m with regs := t.m.regs, recordsDue := t.m.recordsDue, danger := true } }) ∧
  (∀ (s : State) (c : CoreNo), ∃ t x, exec (.residueMismatch (.core c)) s = .next t ∧
    t.m.reg (safReg 0x28) = satAdd (s.m.reg (safReg 0x28)) 1 ∧ t.m.recordsDue = s.m.recordsDue ++ [x] ∧
    x.req.mech = 0x11#8 ∧ x.req.unit = w32 c.toNat ∧
    (t.m.core c.toNat).mismatches = s.m.uptime :: (s.m.core c.toNat).mismatches.take 1 ∧
    t.m.irqPending (c.toNat / 128) (16 + 4 * (c.toNat / 16 % 8)) = true ∧ t.m.near = s.m.near ∧
    (∀ z, s.m.coreCmd c.toNat = some z → z.working = true → z.replays < 16 → ∃ y, t.m.cmd? z.id = some y ∧ y.st = .replay ∧
      y.slots = [] ∧ y.desc = z.desc ∧ y.pins = z.pins ∧ y.cks = z.cks + 1) ∧
    ((∀ z, s.m.coreCmd c.toNat = some z → z.working = false) →
      t = { s with m := { s.m with regs := t.m.regs, recordsDue := t.m.recordsDue, cores := t.m.cores } })) ∧
  (∀ (s : State) (g : SliceNo) (page : Bool) (on : Option Cmd), (s.m.cmds.find? fun c =>
      (c.st == .check || c.st == .checked || (c.st == .work && c.shares.contains g.toNat)) && isPageOp (dOp c.desc) == page) = on →
    ∃ t x, exec (.residueMismatch (.ladle g page)) s = .next t ∧
      t.m.reg (safReg 0x28) = satAdd (s.m.reg (safReg 0x28)) 1 ∧ t.m.recordsDue = s.m.recordsDue ++ [x] ∧
      x.req.mech = 0x16#8 ∧ x.req.unit = w32 g.toNat ∧ t.m.near = s.m.near ∧
      (on = none → t = { s with m := { s.m with regs := t.m.regs, recordsDue := t.m.recordsDue } }) ∧
      (∀ c, on = some c → (c.st ≠ .work ∨ isInPlace c.desc = false) → c.replays < 16 →
        ∃ y, t.m.cmd? c.id = some y ∧ y.st = .replay ∧ y.shares = [] ∧ y.desc = c.desc ∧ y.pins = c.pins) ∧
      (∀ c, on = some c → c.st = .work → isInPlace c.desc = true → (s.m.ctx c.ctx).state = 1#2 →
        t.m.ctx c.ctx = { s.m.ctx c.ctx with state := 2#2, lastSt := stAborted, faultCmd := dCmdId c.desc } ∧
        (∀ k, k ≠ c.ctx → t.m.ctx k = s.m.ctx k) ∧ t.m.cmds = s.m.cmds)) ∧
  (∀ (s : State) (h : Hop), h.wf = true → exec (.flitRetry h) s = .next { s with m := s.m.bump (safReg 0x24) 1 }) ∧
  (∀ (s : State) (h : Hop), h.wf = false → exec (.flitRetry h) s = .fault (.illFormed "link") ∧
    exec (.retryExhaustion h) s = .fault (.illFormed "link")) ∧
  (∀ (s : State) (h : Hop) (d : DieNo) (u : Nat) (l : List Word),
    ((∃ b : DieNo, h = .link d b ∧ d ≠ b ∧ u = 4 * min d.toNat b.toNat + max d.toNat b.toNat ∧ l = []) ∨
      (∃ hop : Byte, h = .mesh d hop ∧ u = 2 ^ 28 ∧ l = [w32 hop.toNat])) →
    ∃ t, exec (.retryExhaustion h) s = .next t ∧ FaultTaken ⟨0x09#8, w32 u, d, 15#10, 0#16, l⟩ s.m t.m ∧
      t.m.irqPending d.toNat 15 = true ∧ OnlyRegs (alarmRegs d.toNat 15) s.m t.m ∧
      t = { s with m := { s.m with regs := t.m.regs, recordsDue := t.m.recordsDue, danger := true } }) ∧
  (∀ (s : State) (i : IslandNo) (khz : Word) (g off set : Nat), g = i.val → set = (s.m.reg (clkReg g 4)).toNat →
    off = (khz.toNat - set) + (set - khz.toNat) →
    (islandClocked g = false → exec (.clockMonitorWindow i khz) s = .next s) ∧
    (islandClocked g = true → ∃ t, exec (.clockMonitorWindow i khz) s = .next t ∧ (∀ j, j ≠ g → t.m.island j = s.m.island j) ∧
      ((s.m.island g).announced ≠ none → t.m.island g = { s.m.island g with announced := none } ∧
        t = { s with m := { s.m with islands := t.m.islands } }) ∧
      ((s.m.island g).announced = none → 20 * off ≤ set → khz ≠ 0#32 → t.m.island g = { s.m.island g with bad := 0 } ∧
        t = { s with m := { s.m with islands := t.m.islands } }) ∧
      ((s.m.island g).announced = none → (set < 20 * off ∨ khz = 0#32) →
        t.m.island g = { s.m.island g with bad := (s.m.island g).bad + 1 } ∧
        ((s.m.monFault g = true ∨ ((s.m.island g).bad = 0 ∧ khz ≠ 0#32)) → t = { s with m := { s.m with islands := t.m.islands } }) ∧
        (s.m.monFault g = false → ((s.m.island g).bad ≠ 0 ∨ khz = 0#32) → ∃ (u : Nat) (l : List Word),
          FaultTaken ⟨0x06#8, w32 u, BitVec.ofNat 2 (g / 20), 12#10, 0#16, l⟩ s.m t.m ∧ t.m.irqPending (g / 20) 12 = true ∧
          t.m.monFault g = true ∧ (s.m.monFault (watcherOf g) = false → u = g ∧ l = []) ∧
          (s.m.monFault (watcherOf g) = true → g % 20 ≠ 16 → g % 20 ≠ 17 → u = watcherOf g ∧ l = []) ∧
          OnlyRegs (clkReg g 0 :: alarmRegs (g / 20) 12) s.m t.m ∧
          t = { s with m := { s.m with regs := t.m.regs, islands := t.m.islands, recordsDue := t.m.recordsDue, danger := true } }))))

/-- R412 to R421. Which relation a late audit names, and which monitor reports a violation of the ratings and of what, the spec and
the command do not say (log entry 1). -/
def Obligations.SafeStateRecordsAudits : Prop :=
  (∀ s : State, (s.m.safe = true ∨ s.m.danger = false) → exec .safeStateEntry s = .next s) ∧
  (∀ s : State, s.m.safe = false → s.m.danger = true → ∃ t, exec .safeStateEntry s = .next t ∧ t = { s with m := t.m } ∧
    t.m.safe = true ∧ t.m.isReady = s.m.isReady ∧ t.m.sweep = none ∧ t.m.retrainReq = none ∧
    (∀ c : Nat, ((s.m.ctx c).state = 1#2 ∨ (s.m.ctx c).state = 2#2) → (t.m.ctx c).state = 3#2) ∧
    (∀ c : Nat, (s.m.ctx c).state = 1#2 → (t.m.ctx c).lastSt = stAborted) ∧
    (∀ c : Nat, (s.m.ctx c).state = 0#2 ∨ (s.m.ctx c).state = 3#2 → t.m.ctx c = s.m.ctx c) ∧
    (∀ x ∈ t.m.cmds, (s.m.ctx x.ctx).state ≠ 1#2 ∧ (s.m.ctx x.ctx).state ≠ 2#2) ∧
    (bits (s.m.reg (devReg 0x200)).toNat 31 30 = 1 → bits (t.m.reg (devReg 0x200)).toNat 31 30 = 3)) ∧
  (∀ (s : State) (r : RecordReq) (x : Due) (l1 l2 : List Due) (n : Nat), s.m.recordsDue = l1 ++ x :: l2 → x.req = r →
    (∀ y ∈ l1, y.req ≠ r) → recordWaits l1 r = false → (∃ p, p < 4 ∧ s.m.pairRuns r.die.toNat p = true) → (∃ p, p < 4 ∧ s.m.pairRuns 0 p = true) →
    n = (s.m.reg (safReg 8)).toNat + 1 →
    ∃ t v, exec (.safetyRecord r) s = .next t ∧ t.m.recordsDue = l1 ++ l2 ∧ t.m.reg (safReg 8) = w32 n ∧
      (∀ j, j < 64 → t.m.reg (0x25000000 + 256 * (n % 256) + 4 * j) = wordOf v j) ∧
      bits v 31 0 = 0x53465452 ∧ bits v 39 32 = 1 ∧ bits v 47 40 = r.mech.toNat ∧ bits v 49 48 = mechClass r.mech.toNat ∧
      bits v 50 50 = b2n x.asserted ∧ bits v 59 56 = x.flags % 16 ∧ bits v 95 64 = n % 2 ^ 32 ∧ bits v 127 96 = x.ms % 2 ^ 32 ∧
      bits v 159 128 = boundUs r.mech.toNat x.pools ∧ bits v 169 160 = r.source.toNat ∧ bits v 171 170 = r.die.toNat ∧
      bits v 207 176 = r.unit.toNat ∧ bits v 223 208 = r.status.toNat ∧
      (∀ j, j < 48 → wordOf v (16 + j) = r.detail.getD j 0#32) ∧
      (∀ (d : DieNo) (i : SourceNo), t.m.irqPending d.toNat i.toNat =
        (s.m.irqPending d.toNat i.toNat || decide (r.die ≠ 0#2 ∧ d = 0#2 ∧ i.toNat = 96 + r.die.toNat))) ∧
      (∀ k : Nat, (s.m.session k).isOpen = false → t.m.session k = s.m.session k) ∧
      (∀ k : Nat, (s.m.session k).isOpen = true → (s.m.session k).events.length < 1024 → ∃ e rest, (t.m.session k).events =
        (s.m.session k).events ++ e :: rest ∧ e.opcode = 0x0103 ∧ e.status = stOk ∧ e.body = v) ∧
      t = { s with m := { s.m with
        regs := t.m.regs, recordsDue := t.m.recordsDue, sessions := t.m.sessions, out := t.m.out, txHeld := t.m.txHeld } }) ∧
  (∀ (s : State) (r : RecordReq), (∀ y ∈ s.m.recordsDue, y.req ≠ r) → exec (.safetyRecord r) s = .next s) ∧
  (∀ (s : State) (r : RecordReq) (x : Due) (l1 l2 : List Due), s.m.recordsDue = l1 ++ x :: l2 → x.req = r →
    (∀ y ∈ l1, y.req ≠ r) → r.mech = 0x30#8 → (∃ y ∈ l1, mechClass y.req.mech.toNat = 1) →
    exec (.safetyRecord r) s = .next s) ∧
  (∀ s : State, (s.m.isReady = true → (∃ p, p < 4 ∧ s.m.pairRuns 0 p = true) →
      ∃ t, exec .freeze s = .next t ∧ t.m.frozen = true ∧ (∀ (d : DieNo) (n : SourceNo), t.m.irqPending d.toNat n.toNat =
          (s.m.irqPending d.toNat n.toNat || decide (n.toNat = 96))) ∧
        OnlyRegs [flaskReg 0 0x10C, flaskReg 1 0x10C, flaskReg 2 0x10C, flaskReg 3 0x10C, flaskReg 0 0x30, flaskReg 1 0x30,
          flaskReg 2 0x30, flaskReg 3 0x30] s.m t.m ∧
        t = { s with m := { s.m with frozen := true, regs := t.m.regs } }) ∧
    ((s.m.isReady = false ∨ ∀ p, p < 4 → s.m.pairRuns 0 p = false) → exec .freeze s = .next s)) ∧
  (∀ (s : State) (ns : Nat) (stuck : List AuditRel) (key : AuditRel → Nat × Nat × Nat),
    key = (fun x => (if x.relation.toNat < 4 then x.die.toNat else 0, x.relation.toNat, x.inst.toNat)) →
    (s.m.frozen = false → exec (.freezeRelease ns stuck) s = .next s) ∧
    (s.m.frozen = true → ∃ y : Mach, exec (.freezeRelease ns stuck) s = .next { s with m := y.resendSyncs } ∧ y.frozen = false ∧
      (∀ d, d < 4 → y.audit.applied.getD d 0 = (if ∃ x ∈ stuck, key x = (0, 6, d) then s.m.audit.applied else s.m.appliedNow).getD d 0 ∧
        y.audit.sent.getD d 0 = (if ∃ x ∈ stuck, key x = (0, 6, d) then s.m.audit.sent else s.m.sentNow).getD d 0) ∧
      y.audit.ticks = (if ∃ x ∈ stuck, key x = (0, 7, 0) then s.m.audit.ticks else s.m.ticks) ∧
      y.audit.charged = (if ∃ x ∈ stuck, key x = (0, 7, 0) then s.m.audit.charged else s.m.chargedNow) ∧
      y.reg (safReg 0x18) = satAdd (s.m.reg (safReg 0x18)) stuck.length ∧
      (y.reg (safReg 0x10)).toNat = max (s.m.reg (safReg 0x10)).toNat (min ns (2 ^ 32 - 1)) ∧
      (stuck = [] → (∀ x ∈ relations s.m, x.2 = true) → y.audit.verdict = some none ∧ y.audit.deferred = []) ∧
      (∀ x ∈ relations s.m, x.2 = false → (∀ z ∈ stuck, key z ≠ (x.1.die, x.1.rel, x.1.inst)) →
        ∃ f, y.audit.verdict = some (some f) ∧ (f, false) ∈ relations s.m ∧ ∀ z ∈ stuck, key z ≠ (f.die, f.rel, f.inst)) ∧
      (∀ x ∈ stuck, (key x, ((s.m.audit.deferred.find? fun z => z.1 == key x).map fun z => z.2).getD 0 + 1) ∈ y.audit.deferred) ∧
      ((∀ x ∈ relations s.m, x.2 = true ∨ ∃ z ∈ stuck, key z = (x.1.die, x.1.rel, x.1.inst)) →
        (∃ x ∈ stuck, 7 ≤ ((s.m.audit.deferred.find? fun z => z.1 == key x).map fun z => z.2).getD 0) →
        ∃ f, y.audit.verdict = some (some f) ∧ f.late = true ∧ ∃ z ∈ stuck, key z = (f.die, f.rel, f.inst)) ∧
      (∀ (d : DieNo) (n : SourceNo), y.irqPending d.toNat n.toNat =
        (s.m.irqPending d.toNat n.toNat || decide (n.toNat = 96 ∨ (d = 0#2 ∧ 96 ≤ n.toNat ∧ n.toNat ≤ 99)))) ∧
      y = { s.m with frozen := false, audit := y.audit, regs := y.regs })) ∧
  (∀ m : Mach, m.syncDue = [] → m.resendSyncs = m) ∧
  (∀ (s : State) (us : Nat), s.m.audit.verdict = none → exec (.conservationAudit us) s = .next s) ∧
  (∀ (s : State) (us : Nat), s.m.audit.verdict = some none →
    ∃ t, exec (.conservationAudit us) s = .next t ∧ t.m.audit = { s.m.audit with verdict := none } ∧
      (us ≤ 500 → t = { s with m := { s.m with audit := t.m.audit, regs := t.m.regs } } ∧
        t.m.reg (safReg 0x14) = satAdd (s.m.reg (safReg 0x14)) 1 ∧ OnlyRegs [safReg 0x14] s.m t.m) ∧
      (500 < us → FaultAsserted 0x05#8 s.m t.m ∧ t.m.danger = true ∧
        ((s.m.reg (safReg 0xC)).toNat.testBit 31 = false → bits (t.m.reg (safReg 0xC)).toNat 31 31 = 1 ∧
          bits (t.m.reg (safReg 0xC)).toNat 28 28 = 1))) ∧
  (∀ (s : State) (us : Nat) (f : AuditFail), s.m.audit.verdict = some (some f) → f.die < 4 → f.rel < 16 → f.inst < 2 ^ 24 →
    ∃ t w, exec (.conservationAudit us) s = .next t ∧ t.m.reg (safReg 0xC) = w ∧
      ((s.m.reg (safReg 0xC)).toNat.testBit 31 = true → w = s.m.reg (safReg 0xC)) ∧
      ((s.m.reg (safReg 0xC)).toNat.testBit 31 = false →
        w.toNat = 2 ^ 31 + f.die * 2 ^ 29 + b2n f.late * 2 ^ 28 + f.rel * 2 ^ 24 + f.inst) ∧
      FaultTaken ⟨0x05#8, w32 (f.rel * 2 ^ 24 + f.inst), BitVec.ofNat 2 f.die, 0x3FF#10, 0#16, w :: f.detail⟩ s.m t.m ∧
      t.m.audit = { s.m.audit with verdict := none } ∧ OnlyRegs [safReg 0, safReg 4, safReg 0xC] s.m t.m) ∧
  (∀ (s : State) (live : List Nat), live = (s.m.pools.filter fun p => p.2.live && !p.2.stash).map (fun p => p.1) →
    (live = [] → exec .ledgerSweep s = .next s) ∧
    (∀ p : Nat, ((s.m.audit.swept = none ∧ live.head? = some p) ∨
        ∃ n, s.m.audit.swept = some n ∧ ((live.find? fun q => decide (n < q)) = some p ∨
          ((∀ q ∈ live, q ≤ n) ∧ live.head? = some p))) →
      (s.m.poolWorks p = true → exec .ledgerSweep s = .next s) ∧
      (s.m.poolWorks p = false → ∃ t, exec .ledgerSweep s = .next t ∧ t.m.audit = { s.m.audit with swept := some p } ∧
        t.m.reg (safReg 0x2C) = satAdd (s.m.reg (safReg 0x2C)) (if live.getLast? = some p then 1 else 0) ∧
        (ledgerOk s.m p = true → t = { s with m := { s.m with audit := t.m.audit, regs := t.m.regs } } ∧
          OnlyRegs [safReg 0x2C] s.m t.m) ∧
        (ledgerOk s.m p = false → FaultTaken ⟨0x26#8, w32 p, 0#2, 0x3FF#10, 0#16, []⟩ s.m t.m)))) ∧
  (∀ (s : State) (c : Condition) (b n : Nat), conditionBit c = (b, n) →
    ((s.m.reg (safReg 0)).toNat.testBit b = false → exec (.conditionLoss c) s = .next s) ∧
    (c = .outsideRatings → (s.m.reg (safReg 0)).toNat.testBit 28 = true → ∃ t x y, exec (.conditionLoss c) s = .next t ∧
      FaultAsserted x.req.mech s.m t.m ∧ (x.req.mech = 0x07#8 ∨ x.req.mech = 0x08#8) ∧ t.m.danger = true ∧
      (t.m.reg (safReg 0)).toNat.testBit 28 = false ∧ (t.m.reg (safReg 0)).toNat.testBit 29 = false ∧
      t.m.recordsDue = s.m.recordsDue ++ [x, y] ∧ y.req.mech = 0x30#8 ∧ y.req.unit = w32 3 ∧
      x.asserted = !s.m.faultN ∧ y.asserted = false ∧ OnlyRegs [safReg 0, safReg 4] s.m t.m ∧
      t = { s with m := { s.m with regs := t.m.regs, recordsDue := t.m.recordsDue, danger := true, free := t.m.free } }) ∧
    (c ≠ .outsideRatings → (s.m.reg (safReg 0)).toNat.testBit b = true → ∃ t x, exec (.conditionLoss c) s = .next t ∧
      FaultAsserted 0x30#8 s.m t.m ∧
      (t.m.reg (safReg 0)).toNat.testBit b = false ∧ (t.m.reg (safReg 0)).toNat.testBit 29 = false ∧
      (∀ i, i ≠ b → i ≠ 29 → i ≠ 31 → (i < 8 ∨ 15 < i) →
        (t.m.reg (safReg 0)).toNat.testBit i = (s.m.reg (safReg 0)).toNat.testBit i) ∧
      t.m.recordsDue = s.m.recordsDue ++ [x] ∧ x.req.mech = 0x30#8 ∧ x.req.unit = w32 n ∧ x.asserted = !s.m.faultN ∧
      OnlyRegs [safReg 0, safReg 4] s.m t.m ∧ t = { s with m := { s.m with regs := t.m.regs, recordsDue := t.m.recordsDue } }))

/-! ## Security (18) -/

/-- R435, whole: the refusal, and that it affects its sender alone. -/
def Obligations.AttestRefusedWhileZeroised : Prop :=
  ∀ (s : State) (r : Req), Served 0x60 r s → s.m.sec 27 = false →
    ∃ t, exec (.attest r) s = .next t ∧ Sys2Proof.Safety.Answered 0x60 r stRefused 0 s t ∧
      (∀ k, k ≠ r.session.toNat → t.m.session k = s.m.session k) ∧ OnlyRegs mailboxRegs s.m t.m ∧
      (s.m.pfcStopped.getLsbD r.cls.toNat = false → t.m.out =
        (txMark r.cls r.tagged, .answer r.source 0x60 r.session.toNat r.seq.toNat stRefused 0) :: s.m.out) ∧
      t = { s with m := { s.m with
        sessions := t.m.sessions, regs := t.m.regs, out := t.m.out, txHeld := t.m.txHeld, mbxLast := r.session.toNat } }

/-- R428, R432 to R434. -/
def Obligations.PresenceSealAndVersion : Prop :=
  (∀ s : State, ∃ t, exec .presenceAssert s = .next t ∧ t.m.presLow = true ∧ t.m.privileged = s.m.sealed ∧
    t.m.reg (secReg 0x20) = w32 s.m.uptime ∧ t.m.irqPending 0 128 = true ∧
    (∀ i, i ≠ 28 → t.m.sec i = s.m.sec i) ∧ OnlyRegs [secReg 0, secReg 0x20, flaskReg 0 0x110, flaskReg 0 0x30] s.m t.m ∧
    t = { s with m := { s.m with presLow := true, regs := t.m.regs } }) ∧
  (∀ s : State, exec .presenceRelease s = .next { s with m := { s.m with presLow := false } } ∧
    ({ s.m with presLow := false } : Mach).privileged = s.m.privileged) ∧
  (∀ s : State, (s.m.presLow = true → exec .presenceWindowExpiry s = .next s) ∧
    (s.m.presLow = false → ∃ t, exec .presenceWindowExpiry s = .next t ∧ t.m.privileged = false ∧
      (∀ i, i ≠ 28 → t.m.sec i = s.m.sec i) ∧ OnlyRegs [secReg 0] s.m t.m ∧ t = { s with m := { s.m with regs := t.m.regs } })) ∧
  (∀ (s : State) (a b : BitVec 16), ∃ t, exec (.sealPattern a b) s = .next t ∧
    t.m.sealBad = (if a = b then 0 else s.m.sealBad + 1) ∧ t.m.sealed = (decide (a = b) && !s.m.sec 31) ∧
    t.m.faultN = s.m.faultN ∧ t.m.recordsDue = s.m.recordsDue ∧
    (if a ≠ b ∧ 1 ≤ s.m.sealBad ∧ s.m.sec 31 = false then
      t.m.sec 31 = true ∧ t.m.sec 27 = false ∧ t.m.irqPending 0 129 = true ∧ (∀ i, i ≠ 31 → i ≠ 29 → i ≠ 27 → t.m.sec i = s.m.sec i)
    else (∀ i, i ≠ 29 → t.m.sec i = s.m.sec i) ∧ OnlyRegs [secReg 0] s.m t.m) ∧
    t = { s with m := { s.m with sealBad := t.m.sealBad, regs := t.m.regs } }) ∧
  (∀ s : State, ∃ t, exec .svnAdvance s = .next t ∧
    ((s.m.isReady = false ∨ s.verifies false = false ∨ s.verifies true = false) → t = s) ∧
    (s.m.isReady = true → s.verifies false = true → s.verifies true = true →
      (∀ d, d < 4 → (t.fusesOf d).svn = max (s.fusesOf d).svn (min (min (imageSvn s.flash.copyA) (imageSvn s.flash.copyB)) 63) ∧
        (t.fusesOf d).revoked = (s.fusesOf d).revoked ∧ (t.fusesOf d).keys = (s.fusesOf d).keys) ∧
      (∀ d, 4 ≤ d → t.fusesOf d = s.fusesOf d) ∧ bits (t.m.reg (secReg 0)).toNat 19 14 = (t.fusesOf 0).svn % 64) ∧
    OnlyRegs [secReg 0] s.m t.m ∧ t = { s with fuses := t.fuses, m := { s.m with regs := t.m.regs } })

/-! ## Clocks, power, reset and start-up (19) -/

/-- R444 to R447 and R450. That a register write stands for firmware's programming of a PLL and of a flask's clock enables, that a PLL
whose dividers leave the ranges of R444 does not lock, and that REFCLK has edges where a PLL locks, are the model's readings (DEDUCED,
log entries 18 and 78). -/
def Obligations.SourcesAndSwitches : Prop :=
  (∀ (s : State) (i : IslandNo) (b : Bool) (g : Nat) (src : ClockSource), g = i.val → src = (if b then .pllB else .pllA) →
    (islandClocked g = true → pllOk (s.m.reg (pllReg g b)).toNat = true →
      ∃ t, exec (.pllLock i b) s = .next t ∧ t.m.sourceReady g src = true ∧ t.m.sourceReady g .bypass = true ∧ bits (t.m.reg (pllReg g b)).toNat 31 1 =
        bits (s.m.reg (pllReg g b)).toNat 31 1 ∧ t.m.runningPll g true = s.m.runningPll g true ∧
        t.m.runningPll g false = s.m.runningPll g false ∧ OnlyRegs [pllReg g b, clkReg g 0] s.m t.m ∧
        t = { s with m := { s.m with refclk := true, regs := t.m.regs } }) ∧
    ((islandClocked g = false ∨ pllOk (s.m.reg (pllReg g b)).toNat = false) →
      exec (.pllLock i b) s = .next s)) ∧
  (∀ w : Nat, (pllOk w = true ↔ 16 ≤ bits w 22 12 ∧ bits w 22 12 ≤ 1024 ∧
      3200000 * (bits w 27 23 + 1) ≤ 156250 * bits w 22 12 ∧ 156250 * bits w 22 12 ≤ 6400000 * (bits w 27 23 + 1) ∧
      156250 * bits w 22 12 ≤ 2000000 * ((bits w 27 23 + 1) * (bits w 31 28 + 1))) ∧ (pllOk w = true → pllKhz w ≤ 2000000)) ∧
  (∀ (s : State) (i : IslandNo) (src : ClockSource) (g : Nat), g = i.val →
    (islandClocked g = false → exec (.clockSwitch i src) s = .next s) ∧
    (islandClocked g = true → s.m.sourceReady g src = false →
      exec (.clockSwitch i src) s = .next { s with m := s.m.bump (clkReg g 0x18) 1 }) ∧
    (islandClocked g = true → s.m.sourceReady g src = true → ∃ t khz, exec (.clockSwitch i src) s = .next t ∧
      (t.m.reg (clkReg g 4)).toNat = khz ∧
      t.m.island g = { s.m.island g with announced := some khz, base := khz + 100000 * s.m.stepsDown g } ∧
      t.m.runningPll g false = decide (src = .pllA) ∧ t.m.runningPll g true = decide (src = .pllB) ∧
      (src = .bypass → khz = 156250) ∧
      (∀ w d : Nat, src ≠ .bypass → w = (s.m.reg (pllReg g (decide (src = .pllB)))).toNat →
        d = (bits w 27 23 + 1) * (bits w 31 28 + 1) →
        2 * khz * d ≤ 2 * 156250 * bits w 22 12 + d ∧ 2 * 156250 * bits w 22 12 < 2 * khz * d + d) ∧
      (∀ j, j ≠ g → t.m.island j = s.m.island j) ∧ OnlyRegs [clkReg g 0, clkReg g 4] s.m t.m ∧
      t = { s with m := { s.m with regs := t.m.regs, islands := t.m.islands } })) ∧
  (∀ (s : State) (i : IslandNo) (b : Bool) (g : Nat) (w : Word) (src : ClockSource), g = i.val → islandClocked g = true →
    src = (if b then .pllB else .pllA) →
    (s.m.runningPll g b = true →
      exec (.registerWrite (w32 (pllReg g b)) w) s = .next { s with m := s.m.bump (clkReg g 0x18) 1 }) ∧
    (s.m.runningPll g b = false → ∃ t, exec (.registerWrite (w32 (pllReg g b)) w) s = .next t ∧
      bits (t.m.reg (pllReg g b)).toNat 31 12 = bits w.toNat 31 12 ∧ (t.m.reg (pllReg g b)).getLsbD 0 = false ∧
      t.m.sourceReady g src = false ∧ t.m.runningPll g true = s.m.runningPll g true ∧
      t.m.runningPll g false = s.m.runningPll g false ∧ OnlyRegs [pllReg g b, clkReg g 0] s.m t.m ∧
      t = { s with m := { s.m with regs := t.m.regs } })) ∧
  (∀ (s : State) (i : IslandNo) (w : Word), i.val % 20 = 17 → ∃ t, exec (.registerWrite (w32 (clkReg i.val 0x10)) w) s = .next t ∧
    (∀ n, n < 2 → (t.m.gateBits i.val).testBit n = w.getLsbD n) ∧
    (∀ n, 2 ≤ n → (t.m.gateBits i.val).testBit n = (s.m.gateBits i.val).testBit n) ∧ OnlyRegs [clkReg i.val 0x10] s.m t.m ∧
    t = { s with m := { s.m with regs := t.m.regs } }) ∧
  (∀ (s : State) (a w : Word), (∀ g b, islandClocked g = true → a.toNat ≠ pllReg g b) →
    (∀ d, d < 4 → a.toNat ≠ clkReg (20 * d + 17) 0x10) → exec (.registerWrite a w) s = .next s) ∧
  (∀ (s : State) (i : IslandNo) (b : Bool) (g : Nat) (src : ClockSource), g = i.val → islandClocked g = true →
    s.m.runningPll g b = true → src = (if b then .pllB else .pllA) →
    ∃ t, exec (.pllLockLoss i) s = .next t ∧ t.m.sourceReady g src = false ∧ t.m.runningPll g b = true ∧
      FaultTaken ⟨0x06#8, w32 g, BitVec.ofNat 2 (g / 20), 12#10, 0#16, []⟩ s.m t.m ∧ t.m.irqPending (g / 20) 12 = true ∧
      OnlyRegs (pllReg g b :: clkReg g 0 :: alarmRegs (g / 20) 12) s.m t.m ∧
      t = { s with m := { s.m with regs := t.m.regs, recordsDue := t.m.recordsDue, danger := true } }) ∧
  (∀ (s : State) (i : IslandNo), (islandClocked i.val = false ∨ (s.m.runningPll i.val false = false ∧ s.m.runningPll i.val true = false)) →
    exec (.pllLockLoss i) s = .next s) ∧
  (∀ (s : State) (i : IslandNo) (b : Bool) (g : Nat) (src : ClockSource), g = i.val → src = (if b then .pllB else .pllA) →
    ((islandClocked g = false ∨ s.m.runningPll g b = true) → exec (.standbyPllLockLoss i b) s = .next s) ∧
    (islandClocked g = true → s.m.runningPll g b = false → ∃ t, exec (.standbyPllLockLoss i b) s = .next t ∧
      t.m.sourceReady g src = false ∧ t.m.runningPll g true = s.m.runningPll g true ∧
      t.m.runningPll g false = s.m.runningPll g false ∧ OnlyRegs [pllReg g b, clkReg g 0] s.m t.m ∧
      t = { s with m := { s.m with regs := t.m.regs } })) ∧
  (∀ s : State, (s.m.refclk = false → exec .refclkLoss s = .next s) ∧
    (s.m.refclk = true → ∃ t, exec .refclkLoss s = .next t ∧ t.m.refclk = false ∧ FaultAsserted 0x06#8 s.m t.m ∧ t.m.danger = true ∧
      (∀ d, d < 4 → t.m.irqPending d 12 = true) ∧ (∀ g, t.m.sourceReady g .bypass = false) ∧
      (∀ g, g < 80 → t.m.sourceReady g .pllA = s.m.sourceReady g .pllA ∧ t.m.sourceReady g .pllB = s.m.sourceReady g .pllB) ∧
      (t.m.recordsDue.map fun x => x.req) = (s.m.recordsDue.map fun x => x.req) ++ (List.range 4).map fun d =>
        ⟨0x06#8, w32 (20 * d + 17), BitVec.ofNat 2 d, 12#10, 0#16, []⟩)) ∧
  (∀ (s : State) (i : IslandNo) (block : BitVec 5) (wr : Bool),
    (block.toNat < gatedBlocks i.val ∧ (s.m.gateBits i.val).testBit block.toNat = false →
      exec (.gatedBlockAccess i block wr) s = .next { s with m := s.m.bump (clkReg i.val 0x14) 1 }) ∧
    ((gatedBlocks i.val ≤ block.toNat ∨ (s.m.gateBits i.val).testBit block.toNat = true) →
      exec (.gatedBlockAccess i block wr) s = .next s))

/-- R451 to R454. When IN_RATINGS returns is the model's reading (DEDUCED, log entry 24). -/
def Obligations.RailsTemperaturesPower : Prop :=
  (∀ (s : State) (r : RailNo) (mv : BitVec 20) (lo hi a : Nat), railWindow r.val = (lo, hi) → s.m.life ≠ .off →
    a = devReg (0xC0 + 4 * r.val) →
    (r.val = 0 → mv.toNat < 46000 ∨ 62000 < mv.toNat → exec (.railOutOfWindow r mv) s = exec .vinShutdown s) ∧
    ((r.val = 0 → 46000 ≤ mv.toNat ∧ mv.toNat ≤ 62000) → (mv.toNat < lo ∨ hi < mv.toNat) → r.val ∉ s.m.railsBad → ∃ t x rest, exec (.railOutOfWindow r mv) s = .next t ∧
      t.m.railsBad = s.m.railsBad ++ [r.val] ∧ (t.m.reg a).toNat = mv.toNat ∧ bits (t.m.reg (devReg 0x80)).toNat 31 31 = 0 ∧
      bits (t.m.reg (devReg 0x80)).toNat 7 0 =
        (if bits (s.m.reg (devReg 0x80)).toNat 7 0 = 255 then r.val else bits (s.m.reg (devReg 0x80)).toNat 7 0) ∧
      FaultAsserted 0x07#8 s.m t.m ∧ t.m.danger = true ∧ t.m.irqPending (railDie r.val) 13 = true ∧
      t.m.recordsDue = s.m.recordsDue ++ x :: rest ∧ x.asserted = (!s.m.faultN) ∧
      x.req = ⟨0x07#8, w32 r.val, BitVec.ofNat 2 (railDie r.val), 13#10, 0#16, [w32 mv.toNat]⟩ ∧
      (t.m.reg (safReg 0)).toNat.testBit 28 = false ∧
      ((s.m.reg (safReg 0)).toNat.testBit 28 = true → (t.m.reg (safReg 0)).toNat.testBit 29 = false ∧
        ∃ y, rest = [y] ∧ y.req.mech = 0x30#8 ∧ y.req.unit = 3#32 ∧ y.asserted = false) ∧
      t = { s with m := { s.m with railsBad := t.m.railsBad, regs := t.m.regs, recordsDue := t.m.recordsDue, danger := true } }) ∧
    ((r.val = 0 → 46000 ≤ mv.toNat ∧ mv.toNat ≤ 62000) → (mv.toNat < lo ∨ hi < mv.toNat) → r.val ∈ s.m.railsBad →
      exec (.railOutOfWindow r mv) s = .next { s with m := s.m.setReg a (w32 mv.toNat) }) ∧
    (lo ≤ mv.toNat → mv.toNat ≤ hi → ∃ t, exec (.railOutOfWindow r mv) s = .next t ∧
      t.m.railsBad = s.m.railsBad.filter (fun x => x != r.val) ∧ (t.m.reg a).toNat = 2 ^ 31 + mv.toNat ∧
      (s.m.life ≠ .held → t.m.reg (devReg 0x80) = s.m.reg (devReg 0x80)) ∧
      (s.m.life = .held → t.m.railsBad = [] → bits (t.m.reg (devReg 0x80)).toNat 31 31 = 1) ∧
      (s.m.life = .held → t.m.railsBad ≠ [] → t.m.reg (devReg 0x80) = s.m.reg (devReg 0x80)) ∧
      (s.m.life ≠ .held → r.val ∈ s.m.railsBad → t.m.railsBad = [] → s.m.beyond = [] →
        (t.m.reg (safReg 0)).toNat.testBit 28 = true) ∧
      t = { s with m := { s.m with railsBad := t.m.railsBad, regs := t.m.regs } })) ∧
  (∀ (s : State) (r : RailNo) (mv : BitVec 20), s.m.life = .off → exec (.railOutOfWindow r mv) s = .next s) ∧
  (∀ (s : State) (x : Sensor) (v : BitVec 16) (k : Nat) (lim : Int × Int × Int), k = sensorUnit x → lim = sensorLimits k →
    (lim.2.2 < v.toInt → ∃ t y rest, exec (.temperatureLimit x v) s = .next t ∧ k ∈ t.m.beyond ∧ FaultAsserted 0x08#8 s.m t.m ∧
      t.m.danger = true ∧ t.m.irqPending (sensorDie x) 14 = true ∧ t.m.recordsDue = s.m.recordsDue ++ y :: rest ∧
      y.asserted = (!s.m.faultN) ∧ y.req = ⟨0x08#8, w32 k, BitVec.ofNat 2 (sensorDie x), 14#10, 0#16, [v.setWidth 32]⟩ ∧
      (t.m.reg (safReg 0)).toNat.testBit 28 = false ∧
      (lim.2.1 ≤ v.toInt → bits (t.m.reg (devReg 0x80)).toNat 29 29 = 1) ∧
      ((∀ i : IslandNo, x = .island i → islandClocked i.val = true) → t.m.reading k = v.toInt) ∧
      t = { s with m := { s.m with
        beyond := t.m.beyond, regs := t.m.regs, recordsDue := t.m.recordsDue, readings := t.m.readings, danger := true } }) ∧
    (v.toInt ≤ lim.2.2 → ∃ t, exec (.temperatureLimit x v) s = .next t ∧ t.m.beyond = s.m.beyond.filter (fun y => y != k) ∧
      (k ∈ s.m.beyond → t.m.beyond = [] → s.m.railsBad = [] → (t.m.reg (safReg 0)).toNat.testBit 28 = true) ∧
      t = { s with m := { s.m with beyond := t.m.beyond, regs := t.m.regs, readings := t.m.readings } }) ∧
    ∃ t, exec (.thermAlertN x v) s = .next t ∧
      ((∀ i : IslandNo, x = .island i → islandClocked i.val = true) → t.m.reading k = v.toInt) ∧
      (∀ j, j ≠ k → t.m.reading j = s.m.reading j) ∧
      (lim.2.1 ≤ v.toInt → bits (t.m.reg (devReg 0x80)).toNat 29 29 = 1) ∧
      (v.toInt < lim.2.1 → (∀ j, j < 80 ∨ 2 ^ 28 ≤ j → t.m.reading j ≤ (sensorLimits j).2.1 - 80) → bits (t.m.reg (devReg 0x80)).toNat 29 29 = 0) ∧
      (v.toInt < lim.2.1 → (∃ y, (sensorLimits (sensorUnit y)).2.1 - 80 < t.m.reading (sensorUnit y)) →
        t.m.reg (devReg 0x80) = s.m.reg (devReg 0x80)) ∧
      (∀ i, i ≠ 29 → (t.m.reg (devReg 0x80)).toNat.testBit i = (s.m.reg (devReg 0x80)).toNat.testBit i) ∧
      t = { s with m := { s.m with regs := t.m.regs, readings := t.m.readings } }) ∧
  (∀ (s : State) (i : IslandNo) (v : BitVec 16) (g n b : Nat), g = i.val → isClusterIsland g = true → n = (s.m.island g).throttle →
    b = (s.m.island g).base →
    ((95 * 16 ≤ v.toInt ∨ s.m.dieHot (g / 20) (16 * 85) = true) → 100000 * (n + 11) ≤ b → ∃ t, exec (.thermalThrottle i v) s = .next t ∧
      (t.m.island g).throttle = n + 1 ∧ t.m.reading g = v.toInt ∧
      (s.m.refclk = true → (s.m.runningPll g false = true ∨ s.m.runningPll g true = true) → b % 100000 = 0 → b ≤ 2000000 →
        1000000 + 100000 * s.m.cap.steps ≤ b →
        (t.m.reg (clkReg g 4)).toNat = b - 100000 * max (n + 1) s.m.cap.steps) ∧
      t.m.reg (clkReg g 0x1C) = satAdd (s.m.reg (clkReg g 0x1C)) 1 ∧ (∀ j, j ≠ g → t.m.island j = s.m.island j) ∧
      (∀ j, j < 80 → j ≠ g → t.m.reg (clkReg j 4) = s.m.reg (clkReg j 4)) ∧
      t = { s with m := { s.m with islands := t.m.islands, regs := t.m.regs } }) ∧
    ((v.toInt < 95 * 16 ∧ s.m.dieHot (g / 20) (16 * 85) = false ∨ b < 100000 * (n + 11)) →
      ∃ t, exec (.thermalThrottle i v) s = .next t ∧ t.m.reading g = v.toInt ∧ OnlyRegs [clkReg g 0x20, devReg 0x80] s.m t.m ∧
      t = { s with m := { s.m with regs := t.m.regs } }) ∧
    (0 < n → s.m.reading g ≤ 90 * 16 → s.m.dieHot (g / 20) (16 * 80 + 1) = false → ∃ t, exec (.throttleRestore i) s = .next t ∧
      (t.m.island g).throttle = n - 1 ∧
      (s.m.refclk = true → (s.m.runningPll g false = true ∨ s.m.runningPll g true = true) → b % 100000 = 0 → b ≤ 2000000 →
        1000000 + 100000 * max (n - 1) s.m.cap.steps ≤ b →
        (t.m.reg (clkReg g 4)).toNat = b - 100000 * max (n - 1) s.m.cap.steps) ∧
      (∀ j, j ≠ g → t.m.island j = s.m.island j) ∧ (∀ j, j < 80 → j ≠ g → t.m.reg (clkReg j 4) = s.m.reg (clkReg j 4)) ∧
      t = { s with m := { s.m with islands := t.m.islands, regs := t.m.regs } }) ∧
    ((n = 0 ∨ 90 * 16 < s.m.reading g ∨ s.m.dieHot (g / 20) (16 * 80 + 1) = true) → exec (.throttleRestore i) s = .next s)) ∧
  (∀ (s : State) (w : BitVec 16) (l : List Nat) (sum : Nat), l = (w.toNat :: s.m.cap.watts).take 10 → sum = l.sum →
    ∃ t, exec (.powerCapSample w) s = .next t ∧ t.m.cap.watts = (w.toNat :: s.m.cap.watts).take 1000 ∧
      bits (t.m.reg (devReg 0x84)).toNat 15 0 = sum / l.length % 2 ^ 16 ∧
      bits (t.m.reg (devReg 0x80)).toNat 30 30 = (if 0 < t.m.cap.steps then 1 else 0) ∧
      ((s.m.cap.phase + 1) % 10 ≠ 0 → t.m.cap.steps = s.m.cap.steps ∧ OnlyRegs [devReg 0x80, devReg 0x84] s.m t.m) ∧
      ((s.m.cap.phase + 1) % 10 = 0 →
        (1500 * l.length < sum → t.m.cap.overs = s.m.cap.overs + 1 ∧
          t.m.cap.steps = (if 1 ≤ s.m.cap.overs ∧ s.m.cap.steps < 10 then s.m.cap.steps + 1 else s.m.cap.steps) ∧
          t.m.reg (devReg 0x88) = satAdd (s.m.reg (devReg 0x88)) (t.m.cap.steps - s.m.cap.steps)) ∧
        (sum ≤ 1500 * l.length → t.m.cap.overs = 0) ∧
        (sum ≤ 1400 * l.length → 99 ≤ s.m.cap.under → t.m.cap.steps = s.m.cap.steps - 1) ∧
        (sum ≤ 1500 * l.length → (1400 * l.length < sum ∨ s.m.cap.under < 99) → t.m.cap.steps = s.m.cap.steps)) ∧
      (t.m.cap.steps ≠ s.m.cap.steps → s.m.refclk = true → ∀ g b r, g < 80 → isClusterIsland g = true → b = (s.m.island g).base →
        r = b - 100000 * max (s.m.island g).throttle t.m.cap.steps → (s.m.runningPll g false = true ∨ s.m.runningPll g true = true) →
        b % 100000 = 0 → b ≤ 2000000 → 1000000 ≤ r → (t.m.reg (clkReg g 4)).toNat = r) ∧
      t = { s with m := { s.m with cap := t.m.cap, islands := t.m.islands, regs := t.m.regs } })

/-- R457 to R461, R424. What FIRST_MECH reads after a failure without a mechanism is not stated (log entry 1). -/
def Obligations.ResetsAndStartUp : Prop :=
  (∀ (s : State) (ns : Nat),
    (ns < 500 → exec (.resetNFall ns) s = .next s) ∧
    (s.m.life ≠ .off → 1000 ≤ ns → ∃ t, exec (.resetNFall ns) s = .next t ∧ Sys2Proof.Safety.Reset .held s.m t.m ∧ t = { s with m := t.m } ∧
      t.m.railsBad = s.m.railsBad ∧ (s.m.railsBad = [] → t.m.reg (devReg 0x80) = regReset (devReg 0x80)) ∧
      (s.m.railsBad ≠ [] → bits (t.m.reg (devReg 0x80)).toNat 31 31 = 0)) ∧
    (500 ≤ ns → ns < 1000 → ∃ t, exec (.resetNFall ns) s = .next t ∧ t = { s with m := t.m } ∧
      (t.m = { s.m with free := t.m.free } ∨ Sys2Proof.Safety.Reset .held s.m t.m)) ∧
    (s.m.life = .off → 1000 ≤ ns → exec (.resetNFall ns) s = .next s)) ∧
  (∀ s : State, (s.m.resetDue = true → exec .delayedModuleReset s = exec (.resetNFall 1000) s) ∧
    (s.m.resetDue = false → exec .delayedModuleReset s = .next s)) ∧
  (∀ s : State, ∃ t, exec .vinShutdown s = .next t ∧ Sys2Proof.Safety.Reset .off s.m t.m ∧ t.m.railsBad = [] ∧
    bits (t.m.reg (devReg 0x80)).toNat 31 31 = 0 ∧ t = { s with m := t.m }) ∧
  (∀ s : State, (s.m.life = .held → bits (s.m.reg (devReg 0x80)).toNat 31 31 = 1 → exec .internalResetRelease s =
      .next { s with m := { s.m with life := .starting, refclk := true, uptime := 0, upNs := 0 } }) ∧
    ((s.m.life ≠ .held ∨ bits (s.m.reg (devReg 0x80)).toNat 31 31 = 0) → exec .internalResetRelease s = .next s)) ∧
  (∀ (s : State) (r : StartReport), (s.m.life = .ready ∨ s.m.life = .test ∨ s.m.life = .halted) → exec (.startUp r) s = .next s) ∧
  (∀ (s : State) (r : StartReport) (dead many gone : Prop) (first go : Bool),
    (s.m.life = .starting ∨ s.m.life = .held ∨ s.m.life = .off) →
    (go = true ↔ r.railsOk = true ∧ (s.m.life = .off ∨ bits (s.m.reg (devReg 0x80)).toNat 31 31 = 1 ∧ s.m.railsBad = [])) →
    gone = (r.sramHalt = true ∨ ∃ d, d < 4 ∧ ∀ i, i < 8 → ∃ k ∈ r.badClusters, k.toNat = 8 * d + i) →
    dead = (∃ i ∈ r.deadIslands, islandClocked i.val = true ∧ isClusterIsland i.val = false) →
    many = (∃ d, d < 4 ∧ 8 < ((r.badChannels.map fun n => n.toNat).eraseDups.filter fun n => n / 256 == d).length) →
    first = (if r.bootSel then !s.flash.preferred else s.flash.preferred) →
    ∃ t, exec (.startUp r) s = .next t ∧ t = { s with fuses := t.fuses, m := t.m } ∧
      (go = false → t.m.life = .halted ∧ t.fuses = s.fuses ∧ t.m.faultN = true ∧
        bits (t.m.reg (devReg 0x80)).toNat 31 31 = 0 ∧ (s.m.life = .off → t.m.isReady = false) ∧
        (s.m.life ≠ .off → t = { s with m := { s.m with life := .halted, regs := t.m.regs } })) ∧
      (go = true → strapsOk r.straps = false → t.m.life = .halted ∧ t.m.faultN = true ∧ t.fuses = s.fuses ∧
        (∀ d p, d < 4 → p < 4 → (t.m.pair d p).halted = true) ∧ (s.m.isReady = false → t.m.isReady = false)) ∧
      (go = true → strapsOk r.straps = true → t.fuses = (harmonise s).fuses) ∧
      (go = true → strapsOk r.straps = true → (∀ b : Bool, (harmonise s).verifies b = false ∨ r.flashError.getLsbD (b2n b) = true) →
        t.m.life = .halted ∧ t.m.faultN = true ∧ (∀ d p, d < 4 → p < 4 → (t.m.pair d p).halted = true) ∧
        (s.m.isReady = false → t.m.isReady = false)) ∧
      (∀ b fb : Bool, go = true → strapsOk r.straps = true →
        ((b = first ∧ fb = false) ∨ (b = !first ∧ fb = true ∧
          ((harmonise s).verifies first = false ∨ r.flashError.getLsbD (b2n first) = true))) →
        (harmonise s).verifies b = true → r.flashError.getLsbD (b2n b) = false →
        t.m.sec 24 = b ∧ t.m.sec 25 = fb ∧ t.m.boot.svn = imageSvn (s.flash.copy b) ∧
        t.m.boot.digest = ofBytes (imageDigest (s.flash.copy b)) ∧
        t.m.conf = (match s.flash.confInForce with | some (_, c) => c.body | none => factoryConf) ∧
        t.m.repair = (!t.m.conf.testBit 456) ∧
        (r.sealOk = true → s.m.sec 31 = false → t.m.sealed = true ∧ (s.m.sec 30 = false → t.m.sec 27 = true)) ∧
        ((r.sealOk = false ∨ s.m.life ≠ .off ∧ s.m.sec 31 = true) → t.m.sealed = false ∧ t.m.sec 31 = true ∧ t.m.sec 30 = true) ∧
        (r.linkUp = true → ¬dead → t.m.linkUp = true) ∧
        (∀ cause : Nat, (dead ∧ cause = 1 ∨ ¬dead ∧ r.sensorBad = true ∧ cause = 2 ∨
            ¬dead ∧ r.sensorBad = false ∧ (many ∨ r.badChannels ≠ [] ∧ t.m.repair = false) ∧ cause = 3 ∨
            ¬dead ∧ r.sensorBad = false ∧ ¬many ∧ (r.badChannels = [] ∨ t.m.repair = true) ∧ gone ∧ cause = 4) →
          t.m.life = .halted ∧ t.m.faultN = true ∧ bits (t.m.reg (devReg 0)).toNat 23 16 = cause ∧
          bits (t.m.reg (devReg 0)).toNat 30 30 = 1 ∧ (s.m.isReady = false → t.m.isReady = false)) ∧
        (¬dead → r.sensorBad = false → ¬many → (r.badChannels = [] ∨ t.m.repair = true) → ¬gone →
          (∀ i : IslandNo, islandClocked i.val = true → t.m.reading i.val = (r.islandTemps.getD i.val 0#16).toInt) ∧
          t.m.life = .ready ∧ t.m.isReady = true ∧ bits (t.m.reg (devReg 0)).toNat 27 24 = 8 ∧
          t.m.reg (devReg 0x30) = w32 t.m.uptime ∧ (t.m.reg (safReg 0)).toNat.testBit 28 = r.inRatings ∧
          (t.m.reg (safReg 0)).toNat.testBit 26 = t.m.boot.prod ∧
          (t.m.reg (safReg 0)).toNat.testBit 29 = decide (bits (t.m.reg (safReg 0)).toNat 28 26 = 7) ∧
          ((t.m.reg (safReg 0)).toNat.testBit 29 = false → t.m.faultN = true))))

/-! ## Test access (21) -/

/-- R439 and R479. The order of the boundary cells is the model's reading (DEDUCED, log entry 19), and the levels of the three pins
the state does not hold are not stated (log entry 1); where the flask's memories lie, and that a low TRST_N ends the halts, are the
model's choices (log entries 74 and 77). -/
def Obligations.TestAccessPorts : Prop :=
  (∀ (s : State) (d : DieNo), s.m.tapLive = true →
    (∃ t, exec (.bypass d) s = .next t ∧ t.m.tap d.toNat = 0xFF ∧ (∀ j, j ≠ d.toNat → t.m.tap j = s.m.tap j) ∧
      t = { s with m := { s.m with tapIr := t.m.tapIr, extest := s.m.extest && d != 0#2, out := (8, .jtag d.toNat 0 1) :: s.m.out } }) ∧
    (∃ t v, exec (.idcode d) s = .next t ∧ t.m.tap d.toNat = 1 ∧ (∀ j, j ≠ d.toNat → t.m.tap j = s.m.tap j) ∧
      t = { s with m := { s.m with
        tapIr := t.m.tapIr, extest := s.m.extest && d != 0#2, out := (8, .jtag d.toNat v 32) :: s.m.out } } ∧
      v < 2 ^ 32 ∧ bits v 0 0 = 1 ∧ bits v 11 1 = 0x2E5 ∧ bits v 27 12 = 0x4032 + d.toNat ∧ bits v 31 28 = Config.revision.toNat % 16) ∧
    (∃ t, exec (.secBoot d) s = .next t ∧ t.m.tap d.toNat = 0x10 ∧ (∀ j, j ≠ d.toNat → t.m.tap j = s.m.tap j) ∧
      t = { s with m := { s.m with
        tapIr := t.m.tapIr, extest := s.m.extest && d != 0#2, out := (8, .jtag d.toNat (s.m.reg (secReg (0x10 + 4 * d.toNat))).toNat 32) :: s.m.out } })) ∧
  (∀ (s : State) (c : Instr) (d : DieNo) (v : Option (BitVec 9)) (w : BitVec 9) (p : PairNo) (h : Option Bool) (n : Nat) (a : Word),
    (s.m.jtagOpen = false ∧ (c = .samplePreload d v ∨ c = .extest d w ∨ c = .flaskDebug d p h n ∨ c = .gatedRead d a) ∨
      d ≠ 0#2 ∧ (c = .samplePreload d v ∨ c = .extest d w) ∨ s.m.life ≠ .test ∧ c = .extest d w) →
    exec c s = exec (.bypass d) s) ∧
  (∀ (s : State) (c : Instr) (d : DieNo) (v : Option (BitVec 9)) (w : BitVec 9) (p : PairNo) (h : Option Bool) (n : Nat) (a : Word),
    s.m.tapLive = false → (c = .bypass d ∨ c = .idcode d ∨ c = .secBoot d ∨ c = .samplePreload d v ∨ c = .extest d w ∨
      c = .flaskDebug d p h n ∨ c = .gatedRead d a) → exec c s = .next s) ∧
  (∀ (s : State) (v : Option (BitVec 9)), s.m.tapLive = true → s.m.jtagOpen = true →
    ∃ t x, exec (.samplePreload 0#2 v) s = .next t ∧ t.m.boundary = v.getD x ∧ t.m.tap 0 = 2 ∧
      x.getLsbD 0 = decide (s.m.life ≠ .held) ∧ x.getLsbD 1 = (s.m.reg (devReg 0x80)).getLsbD 31 ∧ x.getLsbD 2 = s.m.isReady ∧
      x.getLsbD 3 = !s.m.faultN ∧ x.getLsbD 4 = !(s.m.reg (devReg 0x80)).getLsbD 29 ∧ x.getLsbD 5 = !s.m.presLow ∧
      t = { s with m := { s.m with
        free := t.m.free, boundary := v.getD x, extest := false, tapIr := t.m.tapIr, out := (8, .jtag 0 x.toNat 9) :: s.m.out } }) ∧
  (∀ (s : State) (w : BitVec 9), s.m.tapLive = true → s.m.jtagOpen = true → s.m.life = .test →
    ∃ t x, exec (.extest 0#2 w) s = .next t ∧ t.m.boundary = w ∧ t.m.extest = true ∧ t.m.tap 0 = 0 ∧ x < 512 ∧
      t = { s with m := { s.m with
        free := t.m.free, boundary := w, extest := true, tapIr := t.m.tapIr, out := (8, .jtag 0 x 9) :: s.m.out } }) ∧
  (∀ (s : State) (d : DieNo) (p : PairNo) (h : Option Bool) (n : Nat), s.m.tapLive = true → s.m.jtagOpen = true →
    ∃ t, exec (.flaskDebug d p h n) s = .next t ∧ t.m.tap d.toNat = 0x20 ∧
      (h = some true → t.m.out = s.m.out ∧ t.m.pairRuns d.toNat p.toNat = false ∧
        (t.m.pair d.toNat p.toNat).halted = (s.m.pair d.toNat p.toNat).halted ∧
        (∀ d' p' : Nat, 4 * d' + p' ≠ 4 * d.toNat + p.toNat → t.m.pair d' p' = s.m.pair d' p')) ∧
      (h = some false → t.m.out = s.m.out ∧ t.m.pairs = s.m.pairs) ∧
      (h = none → t.m.pairs = s.m.pairs ∧
        t.m.out = (8, .jtag d.toNat (ofBytes ((List.range 8).map fun i => s.m.flaskByte d.toNat (n + i))) 64) :: s.m.out) ∧
      t = { s with m := { s.m with
        pairs := t.m.pairs, tapIr := t.m.tapIr, extest := s.m.extest && d != 0#2, out := t.m.out } }) ∧
  (∀ (s : State) (d : DieNo) (a : Word), s.m.tapLive = true → s.m.jtagOpen = true →
    ∃ t, exec (.gatedRead d a) s = .next t ∧ t.m.tap d.toNat = 0x21 ∧
      t.m.out = (8, .jtag d.toNat (s.m.view (a.toNat / 4 * 4)).toNat 32) :: s.m.out ∧
      (isRc (a.toNat / 4 * 4) = true → t.m.reg (a.toNat / 4 * 4) = 0#32) ∧ OnlyRegs [a.toNat / 4 * 4] s.m t.m ∧
      (isRc (a.toNat / 4 * 4) = false → t.m.regs = s.m.regs) ∧
      t = { s with m := { s.m with
        free := t.m.free, regs := t.m.regs, tapIr := t.m.tapIr, extest := s.m.extest && d != 0#2, out := t.m.out } }) ∧
  (∀ s : State, (∃ t, exec (.trst true) s = .next t ∧ t.m.tapLive = false ∧ (∀ d : Nat, t.m.tap d = 1) ∧
      (∀ d p : Nat, t.m.pair d p = { s.m.pair d p with jtagHalt := false }) ∧
      t = { s with m := { s.m with trstLow := true, tapIr := [], extest := false, pairs := t.m.pairs } }) ∧
    exec (.trst false) s = .next { s with m := { s.m with trstLow := false } })
end

