-- ==== Sys2Proof/Laws/Bits.lean ====
section
/-! SUPPORT. Laws/Bits.lean: what reading and replacing a bit field of a number do, little-endian bytes, saturating counts. -/

namespace Sys2Proof.Laws

open Sys2Proof.Machine

/-- A replaced field as high part, field and low part. -/
theorem setBits_eq (n hi lo v : Nat) :
    setBits n hi lo v =
      2 ^ (lo + (hi + 1 - lo)) * (n / 2 ^ (lo + (hi + 1 - lo))) + (2 ^ lo * (v % 2 ^ (hi + 1 - lo)) + n % 2 ^ lo) := by
  set w := hi + 1 - lo with hw
  have h1 : n = 2 ^ (lo + w) * (n / 2 ^ (lo + w)) + (2 ^ lo * (n / 2 ^ lo % 2 ^ w) + n % 2 ^ lo) := by
    have a := Nat.div_add_mod n (2 ^ lo)
    have b := Nat.div_add_mod (n / 2 ^ lo) (2 ^ w)
    rw [Nat.div_div_eq_div_mul, ← pow_add] at b
    calc n = 2 ^ lo * (n / 2 ^ lo) + n % 2 ^ lo := a.symm
      _ = 2 ^ lo * (2 ^ w * (n / 2 ^ (lo + w)) + n / 2 ^ lo % 2 ^ w) + n % 2 ^ lo := by rw [b]
      _ = _ := by rw [pow_add]; ring
  have h2 : bits n hi lo <<< lo = 2 ^ lo * (n / 2 ^ lo % 2 ^ w) := by
    simp only [bits, Nat.shiftRight_eq_div_pow, Nat.shiftLeft_eq, ← hw]; ring
  have h3 : (v % 2 ^ w) <<< lo = 2 ^ lo * (v % 2 ^ w) := by rw [Nat.shiftLeft_eq]; ring
  rw [setBits, h2, ← hw, h3]
  omega

/-- The low part of a replaced field fits below the high part. -/
theorem setBits_low_lt (n lo w v : Nat) : 2 ^ lo * (v % 2 ^ w) + n % 2 ^ lo < 2 ^ (lo + w) := by
  have h1 : v % 2 ^ w < 2 ^ w := Nat.mod_lt _ (by positivity)
  have h2 : n % 2 ^ lo < 2 ^ lo := Nat.mod_lt _ (by positivity)
  calc 2 ^ lo * (v % 2 ^ w) + n % 2 ^ lo < 2 ^ lo * (v % 2 ^ w) + 2 ^ lo := by omega
    _ = 2 ^ lo * (v % 2 ^ w + 1) := by ring
    _ ≤ 2 ^ lo * 2 ^ w := Nat.mul_le_mul_left _ h1
    _ = 2 ^ (lo + w) := by rw [pow_add]

/-- A bit of a number with a field replaced. -/
theorem testBit_setBits (n hi lo v i : Nat) (h : lo ≤ hi) :
    (setBits n hi lo v).testBit i = if lo ≤ i ∧ i ≤ hi then v.testBit (i - lo) else n.testBit i := by
  set w := hi + 1 - lo with hw
  rw [setBits_eq, ← hw, Nat.testBit_two_pow_mul_add _ (setBits_low_lt n lo w v)]
  by_cases h1 : i < lo + w
  · rw [if_pos h1, Nat.testBit_two_pow_mul_add _ (Nat.mod_lt _ (by positivity))]
    by_cases h2 : i < lo
    · rw [if_pos h2, if_neg (by omega), Nat.testBit_mod_two_pow]
      simp [h2]
    · rw [if_neg h2, if_pos (by omega), Nat.testBit_mod_two_pow]
      have : i - lo < w := by omega
      simp [this]
  · rw [if_neg h1, if_neg (by omega), ← Nat.shiftRight_eq_div_pow, Nat.testBit_shiftRight]
    congr 1; omega

/-- A bit of a field. -/
theorem testBit_bits (n hi lo i : Nat) (h : lo ≤ hi) :
    (bits n hi lo).testBit i = (decide (i ≤ hi - lo) && n.testBit (lo + i)) := by
  rw [bits, Nat.testBit_mod_two_pow, Nat.testBit_shiftRight]
  congr 2
  apply propext; omega

/-- The field just replaced. -/
theorem bits_setBits_same (n hi lo v : Nat) (h : lo ≤ hi) :
    bits (setBits n hi lo v) hi lo = v % 2 ^ (hi + 1 - lo) := by
  apply Nat.eq_of_testBit_eq
  intro i
  rw [testBit_bits _ _ _ _ h, testBit_setBits _ _ _ _ _ h, Nat.testBit_mod_two_pow]
  by_cases hi' : i ≤ hi - lo
  · have a : lo ≤ lo + i ∧ lo + i ≤ hi := by omega
    have b : i < hi + 1 - lo := by omega
    simp [a, b, hi']
  · have b : ¬ i < hi + 1 - lo := by omega
    simp [b, hi']

/-- A field that the replaced one does not meet. -/
theorem bits_setBits_other (n hi lo v a b : Nat) (h : lo ≤ hi) (hab : b ≤ a) (hd : a < lo ∨ hi < b) :
    bits (setBits n hi lo v) a b = bits n a b := by
  apply Nat.eq_of_testBit_eq
  intro i
  rw [testBit_bits _ _ _ _ hab, testBit_bits _ _ _ _ hab, testBit_setBits _ _ _ _ _ h]
  by_cases hi' : i ≤ a - b
  · have : ¬ (lo ≤ b + i ∧ b + i ≤ hi) := by omega
    simp [this]
  · simp [hi']

/-- A replaced field keeps a number below its bound. -/
theorem setBits_lt (n hi lo v k : Nat) (h : lo ≤ hi) (hk : hi < k) (hn : n < 2 ^ k) : setBits n hi lo v < 2 ^ k := by
  apply Nat.lt_pow_two_of_testBit
  intro i hi'
  rw [testBit_setBits _ _ _ _ _ h, if_neg (by omega)]
  exact Nat.testBit_lt_two_pow (lt_of_lt_of_le hn (Nat.pow_le_pow_right (by omega) hi'))

/-- A bit of a register word with a field replaced. -/
theorem testBit_w32_setBits (w : Word) (hi lo v i : Nat) (h : lo ≤ hi) (h31 : hi ≤ 31) :
    (w32 (setBits w.toNat hi lo v)).toNat.testBit i = if lo ≤ i ∧ i ≤ hi then v.testBit (i - lo) else w.toNat.testBit i := by
  have : setBits w.toNat hi lo v < 2 ^ 32 := setBits_lt _ _ _ _ 32 h (by omega) w.isLt
  rw [w32, BitVec.toNat_ofNat, Nat.mod_eq_of_lt this, testBit_setBits _ _ _ _ _ h]

/-- A register word with a field replaced, as a number. -/
theorem toNat_w32_setBits (w : Word) (hi lo v : Nat) (h : lo ≤ hi) (h31 : hi ≤ 31) :
    (w32 (setBits w.toNat hi lo v)).toNat = setBits w.toNat hi lo v := by
  have : setBits w.toNat hi lo v < 2 ^ 32 := setBits_lt _ _ _ _ 32 h (by omega) w.isLt
  rw [w32, BitVec.toNat_ofNat, Nat.mod_eq_of_lt this]

/-- A counter stops at its largest value (00 R16). -/
theorem toNat_satAdd (w : Word) (n : Nat) : (satAdd w n).toNat = min (w.toNat + n) (2 ^ 32 - 1) := by
  have hw := w.isLt
  rw [satAdd]
  split
  · have : (0xFFFFFFFF#32).toNat = 2 ^ 32 - 1 := rfl
    omega
  · rw [BitVec.toNat_add, w32, BitVec.toNat_ofNat]
    omega

/-- No events leave a counter. -/
@[simp] theorem satAdd_zero (w : Word) : satAdd w 0 = w := by
  apply BitVec.eq_of_toNat_eq
  have := w.isLt
  rw [toNat_satAdd]; omega

/-- The bytes of a number are as many as asked for. -/
@[simp] theorem length_toBytes (n v : Nat) : (toBytes n v).length = n := by
  induction n generalizing v with
  | zero => rfl
  | succ n ih => simp [toBytes, ih]

/-- The number that its bytes spell. -/
theorem ofBytes_toBytes (n v : Nat) : ofBytes (toBytes n v) = v % 2 ^ (8 * n) := by
  induction n generalizing v with
  | zero => simp [toBytes, ofBytes, Nat.mod_one]
  | succ n ih =>
    rw [toBytes, ofBytes, ih, BitVec.toNat_ofNat, show 8 * (n + 1) = 8 + 8 * n by ring, pow_add,
      show (2 : Nat) ^ 8 = 256 by norm_num, Nat.mod_mul]

/-- The bytes of the number that bytes spell. -/
theorem toBytes_ofBytes (l : List Byte) : toBytes l.length (ofBytes l) = l := by
  induction l with
  | nil => rfl
  | cons b l ih =>
    have hb := b.isLt
    have h1 : BitVec.ofNat 8 (b.toNat + 256 * ofBytes l) = b := by
      apply BitVec.eq_of_toNat_eq
      rw [BitVec.toNat_ofNat]; omega
    have h2 : (b.toNat + 256 * ofBytes l) / 256 = ofBytes l := by omega
    rw [List.length_cons, toBytes, ofBytes, h1, h2, ih]

end Sys2Proof.Laws
end

