-- ==== Sys2Proof/Laws/Tab.lean ====
section
/-! SUPPORT. Laws/Tab.lean: what reading and writing a sparse table do. Reading back what was written holds of every table;
the canonical form is kept by every write. -/

namespace Sys2Proof.Laws

open Sys2Proof.Machine

/-- The empty table holds the defaults. -/
@[simp] theorem tabGet_nil {α : Type} (d : Nat → α) (k : Nat) : tabGet d [] k = d k := rfl

/-- A key that is not listed has its default. -/
theorem tabGet_of_not_mem {α : Type} (d : Nat → α) (t : Tab α) (k : Nat) (h : ∀ p ∈ t, p.1 ≠ k) : tabGet d t k = d k := by
  induction t with
  | nil => rfl
  | cons p t ih => simp [tabGet, h p (by simp), ih (fun q hq => h q (by simp [hq]))]

/-- Dropping the entries of another key changes no reading. -/
theorem tabGet_filter_other {α : Type} (d : Nat → α) (t : Tab α) (k i : Nat) (h : i ≠ k) :
    tabGet d (t.filter fun p => p.1 != k) i = tabGet d t i := by
  induction t with
  | nil => rfl
  | cons p t ih =>
    by_cases hp : p.1 = k
    · have : ¬ k = i := fun e => h e.symm
      simp [tabGet, hp, this, ih]
    · simp [tabGet, hp, ih]

/-- The listed pair is read back. -/
theorem tabGet_tabIns_same {α : Type} (d : Nat → α) (t : Tab α) (k : Nat) (v : α) : tabGet d (tabIns t k v) k = v := by
  induction t with
  | nil => simp [tabIns, tabGet]
  | cons p t ih =>
    rcases Nat.lt_trichotomy k p.1 with h | h | h
    · simp [tabIns, tabGet, h]
    · simp [tabIns, tabGet, h]
    · have h1 : ¬ k < p.1 := by omega
      have h2 : ¬ k = p.1 := by omega
      have h3 : ¬ p.1 = k := by omega
      simp [tabIns, tabGet, h1, h2, h3, ih]

/-- Listing a pair changes no other reading. -/
theorem tabGet_tabIns_other {α : Type} (d : Nat → α) (t : Tab α) (k i : Nat) (v : α) (h : i ≠ k) :
    tabGet d (tabIns t k v) i = tabGet d t i := by
  have hki : ¬ k = i := fun e => h e.symm
  induction t with
  | nil => simp [tabIns, tabGet, hki]
  | cons p t ih =>
    rcases Nat.lt_trichotomy k p.1 with h | h | h
    · simp [tabIns, tabGet, h, hki]
    · have hpi : ¬ p.1 = i := h ▸ hki
      simp [tabIns, tabGet, h, hpi]
    · have h1 : ¬ k < p.1 := by omega
      have h2 : ¬ k = p.1 := by omega
      simp [tabIns, tabGet, h1, h2, ih]

/-- What a table with a pair listed holds: the pair or old pairs. -/
theorem mem_tabIns {α : Type} (t : Tab α) (k : Nat) (v : α) (p : Nat × α) (h : p ∈ tabIns t k v) : p = (k, v) ∨ p ∈ t := by
  induction t with
  | nil => simpa [tabIns] using h
  | cons q t ih =>
    rcases Nat.lt_trichotomy k q.1 with hk | hk | hk
    · simpa [tabIns, hk] using h
    · rw [tabIns, if_neg (by omega), if_pos hk] at h
      rcases List.mem_cons.1 h with h | h <;> simp [h]
    · rw [tabIns, if_neg (by omega), if_neg (by omega)] at h
      rcases List.mem_cons.1 h with h | h
      · simp [h]
      · rcases ih h with h | h <;> simp [h]

variable {α : Type} [DecidableEq α] (d : Nat → α)

/-- Reading the key just written. -/
@[simp] theorem tabGet_tabSet_same (t : Tab α) (k : Nat) (v : α) : tabGet d (tabSet d t k v) k = v := by
  by_cases hv : v = d k
  · rw [tabSet, if_pos hv, hv]
    exact tabGet_of_not_mem d _ k fun p hp => by simpa using (List.mem_filter.1 hp).2
  · rw [tabSet, if_neg hv, tabGet_tabIns_same]

/-- Reading another key than the one written. -/
theorem tabGet_tabSet_other (t : Tab α) (k i : Nat) (v : α) (hne : i ≠ k) :
    tabGet d (tabSet d t k v) i = tabGet d t i := by
  by_cases hv : v = d k
  · rw [tabSet, if_pos hv, tabGet_filter_other d t k i hne]
  · rw [tabSet, if_neg hv, tabGet_tabIns_other d t k i v hne]

/-- A reading after a write, in one equation. -/
theorem tabGet_tabSet (t : Tab α) (k i : Nat) (v : α) :
    tabGet d (tabSet d t k v) i = if i = k then v else tabGet d t i := by
  by_cases h : i = k
  · subst h; simp
  · rw [if_neg h, tabGet_tabSet_other d t k i v h]

/-- What a list of values from a key on leaves at a key. -/
theorem tabGet_tabPut (t : Tab α) (a : Nat) (l : List α) (i : Nat) :
    tabGet d (tabPut d t a l) i = if h : a ≤ i ∧ i < a + l.length then l[i - a] else tabGet d t i := by
  induction l generalizing t a with
  | nil =>
    have : ¬ (a ≤ i ∧ i < a + ([] : List α).length) := by simp
    simp only [tabPut, dif_neg this]
  | cons v l ih =>
    rw [tabPut, ih]
    by_cases hi : i = a
    · subst hi
      rw [dif_neg (by omega), dif_pos ⟨by omega, by simp⟩]
      simp
    · by_cases h : a + 1 ≤ i ∧ i < a + 1 + l.length
      · have h' : a ≤ i ∧ i < a + (v :: l).length := by simp only [List.length_cons]; omega
        rw [dif_pos h, dif_pos h']
        have e : i - a = (i - (a + 1)) + 1 := by omega
        simp only [e, List.getElem_cons_succ]
      · have h' : ¬ (a ≤ i ∧ i < a + (v :: l).length) := by simp only [List.length_cons]; omega
        rw [dif_neg h, dif_neg h', tabGet_tabSet_other d t a i v hi]

/-- A list of values is read back where it was written. -/
theorem tabRead_tabPut (t : Tab α) (a : Nat) (l : List α) : tabRead d (tabPut d t a l) a l.length = l := by
  apply List.ext_getElem
  · simp [tabRead]
  · intro i h1 h2
    have h : a ≤ a + i ∧ a + i < a + l.length := by omega
    simp only [tabRead, List.getElem_map, List.getElem_range, tabGet_tabPut]
    rw [dif_pos h]
    simp

/-- The empty table is canonical. -/
@[simp] theorem tabWf_nil : tabWf d ([] : Tab α) = true := rfl

/-- The canonical form of a listed pair and the rest. -/
theorem tabWf_cons (k : Nat) (v : α) (t : Tab α) :
    tabWf d ((k, v) :: t) = true ↔ v ≠ d k ∧ (∀ p ∈ t, k < p.1) ∧ tabWf d t = true := by
  simp [tabWf, and_assoc]

/-- Dropping entries keeps the canonical form. -/
theorem tabWf_filter (t : Tab α) (f : Nat × α → Bool) (h : tabWf d t = true) : tabWf d (t.filter f) = true := by
  induction t with
  | nil => rfl
  | cons q t ih =>
    obtain ⟨hx, hgt, ht⟩ := (tabWf_cons d q.1 q.2 t).1 h
    by_cases hf : f q = true
    · rw [List.filter_cons_of_pos hf]
      exact (tabWf_cons d q.1 q.2 _).2 ⟨hx, fun p hp => hgt p (List.mem_filter.1 hp).1, ih ht⟩
    · rw [List.filter_cons_of_neg hf]
      exact ih ht

/-- Listing a value that is no default keeps the canonical form. -/
theorem tabWf_tabIns (t : Tab α) (k : Nat) (v : α) (hv : v ≠ d k) (h : tabWf d t = true) :
    tabWf d (tabIns t k v) = true := by
  induction t with
  | nil => simp [tabIns, tabWf, hv]
  | cons q t ih =>
    obtain ⟨hx, hgt, ht⟩ := (tabWf_cons d q.1 q.2 t).1 h
    rcases Nat.lt_trichotomy k q.1 with hk | hk | hk
    · rw [tabIns, if_pos hk]
      refine (tabWf_cons d k v _).2 ⟨hv, fun p hp => ?_, h⟩
      rcases List.mem_cons.1 hp with rfl | hp
      · exact hk
      · have := hgt p hp; omega
    · rw [tabIns, if_neg (by omega), if_pos hk]
      exact (tabWf_cons d k v t).2 ⟨hv, fun p hp => hk ▸ hgt p hp, ht⟩
    · rw [tabIns, if_neg (by omega), if_neg (by omega)]
      refine (tabWf_cons d q.1 q.2 _).2 ⟨hx, fun p hp => ?_, ih ht⟩
      rcases mem_tabIns t k v p hp with rfl | hp
      · exact hk
      · exact hgt p hp

/-- A write keeps the canonical form. -/
theorem tabWf_tabSet (t : Tab α) (k : Nat) (v : α) (h : tabWf d t = true) : tabWf d (tabSet d t k v) = true := by
  by_cases hv : v = d k
  · rw [tabSet, if_pos hv]
    exact tabWf_filter d t _ h
  · rw [tabSet, if_neg hv]
    exact tabWf_tabIns d t k v hv h

/-- A write of a list of values keeps the canonical form. -/
theorem tabWf_tabPut (t : Tab α) (a : Nat) (l : List α) (h : tabWf d t = true) : tabWf d (tabPut d t a l) = true := by
  induction l generalizing t a with
  | nil => exact h
  | cons v l ih => exact ih _ _ (tabWf_tabSet d t a v h)

/-- A table passed through a function has no new keys. -/
theorem mem_tabMap (f : Nat → α → α) (t : Tab α) (p : Nat × α) (hp : p ∈ tabMap d f t) : ∃ q ∈ t, q.1 = p.1 := by
  induction t with
  | nil => cases hp
  | cons q t ih =>
    have rest : p ∈ tabMap d f t → ∃ r ∈ q :: t, r.1 = p.1 := fun h => by
      obtain ⟨r, hr, e⟩ := ih h
      exact ⟨r, by simp [hr], e⟩
    by_cases hv : f q.1 q.2 = d q.1
    · rw [tabMap, if_pos hv] at hp
      exact rest (List.mem_filter.1 hp).1
    · rw [tabMap, if_neg hv] at hp
      rcases List.mem_cons.1 hp with rfl | hp
      · exact ⟨q, by simp, rfl⟩
      · exact rest hp

/-- Passing the values of a canonical table through a function leaves it canonical. -/
theorem tabWf_tabMap (f : Nat → α → α) (t : Tab α) (h : tabWf d t = true) : tabWf d (tabMap d f t) = true := by
  induction t with
  | nil => rfl
  | cons q t ih =>
    obtain ⟨-, hgt, ht⟩ := (tabWf_cons d q.1 q.2 t).1 h
    by_cases hv : f q.1 q.2 = d q.1
    · rw [tabMap, if_pos hv]
      exact tabWf_filter d _ _ (ih ht)
    · rw [tabMap, if_neg hv]
      refine (tabWf_cons d q.1 _ _).2 ⟨hv, fun p hp => ?_, ih ht⟩
      obtain ⟨r, hr, e⟩ := mem_tabMap d f t p hp
      exact e ▸ hgt r hr

/-- What a function that keeps defaults leaves at a key. -/
theorem tabGet_tabMap (f : Nat → α → α) (t : Tab α) (k : Nat) (h0 : f k (d k) = d k) :
    tabGet d (tabMap d f t) k = f k (tabGet d t k) := by
  induction t with
  | nil => simp [tabMap, h0]
  | cons q t ih =>
    by_cases hq : q.1 = k
    · have e : tabGet d (q :: t) k = q.2 := by simp [tabGet, hq]
      rw [e]
      by_cases hv : f q.1 q.2 = d q.1
      · rw [tabMap, if_pos hv, tabGet_of_not_mem, ← hq, hv]
        intro p hp
        simpa [hq] using (List.mem_filter.1 hp).2
      · rw [tabMap, if_neg hv]
        simp [tabGet, hq]
    · have e : tabGet d (q :: t) k = tabGet d t k := by simp [tabGet, hq]
      rw [e, ← ih]
      by_cases hv : f q.1 q.2 = d q.1
      · rw [tabMap, if_pos hv, tabGet_filter_other d _ _ _ (Ne.symm hq)]
      · rw [tabMap, if_neg hv]
        simp [tabGet, hq]

end Sys2Proof.Laws
end

