-- ==== Sys2Proof/Laws/State.lean ====
section
/-! SUPPORT. Laws/State.lean: reading a part of the machine after another part was replaced. Each replaced table is read back
at its key, keeps its other keys, and leaves every other table as it was. -/

namespace Sys2Proof.Laws

open Sys2Proof.Machine

variable (s : Mach) (n : Nat)

/-! ## setEng -/

@[simp] theorem eng_setEng (x : Engine) (i : Nat) : (s.setEng n x).eng i = if i = n then x else s.eng i :=
  tabGet_tabSet _ s.engines n i x
@[simp] theorem limiter_setEng (x : Engine) (i : Nat) : (s.setEng n x).limiter i = s.limiter i := rfl
@[simp] theorem core_setEng (x : Engine) (i : Nat) : (s.setEng n x).core i = s.core i := rfl
@[simp] theorem cluster_setEng (x : Engine) (i : Nat) : (s.setEng n x).cluster i = s.cluster i := rfl
@[simp] theorem slice_setEng (x : Engine) (i : Nat) : (s.setEng n x).slice i = s.slice i := rfl
@[simp] theorem pc_setEng (x : Engine) (i : Nat) : (s.setEng n x).pc i = s.pc i := rfl
@[simp] theorem pkg_setEng (x : Engine) (i : Nat) : (s.setEng n x).pkg i = s.pkg i := rfl
@[simp] theorem repairOf_setEng (x : Engine) (i : Nat) : (s.setEng n x).repairOf i = s.repairOf i := rfl
@[simp] theorem obj_setEng (x : Engine) (i : Nat) : (s.setEng n x).obj i = s.obj i := rfl
@[simp] theorem pool_setEng (x : Engine) (i : Nat) : (s.setEng n x).pool i = s.pool i := rfl
@[simp] theorem ep_setEng (x : Engine) (i : Nat) : (s.setEng n x).ep i = s.ep i := rfl
@[simp] theorem ctx_setEng (x : Engine) (i : Nat) : (s.setEng n x).ctx i = s.ctx i := rfl
@[simp] theorem queue_setEng (x : Engine) (i : Nat) : (s.setEng n x).queue i = s.queue i := rfl
@[simp] theorem sync_setEng (x : Engine) (i : Nat) : (s.setEng n x).sync i = s.sync i := rfl
@[simp] theorem sched_setEng (x : Engine) (i : Nat) : (s.setEng n x).sched i = s.sched i := rfl
@[simp] theorem session_setEng (x : Engine) (i : Nat) : (s.setEng n x).session i = s.session i := rfl
@[simp] theorem reg_setEng (x : Engine) (i : Nat) : (s.setEng n x).reg i = s.reg i := rfl
@[simp] theorem pair_setEng (x : Engine) (d p : Nat) : (s.setEng n x).pair d p = s.pair d p := rfl

/-! ## setLimiter -/

@[simp] theorem limiter_setLimiter (x : Limiter) (i : Nat) : (s.setLimiter n x).limiter i = if i = n then x else s.limiter i :=
  tabGet_tabSet _ s.limiters n i x
@[simp] theorem eng_setLimiter (x : Limiter) (i : Nat) : (s.setLimiter n x).eng i = s.eng i := rfl
@[simp] theorem core_setLimiter (x : Limiter) (i : Nat) : (s.setLimiter n x).core i = s.core i := rfl
@[simp] theorem cluster_setLimiter (x : Limiter) (i : Nat) : (s.setLimiter n x).cluster i = s.cluster i := rfl
@[simp] theorem slice_setLimiter (x : Limiter) (i : Nat) : (s.setLimiter n x).slice i = s.slice i := rfl
@[simp] theorem pc_setLimiter (x : Limiter) (i : Nat) : (s.setLimiter n x).pc i = s.pc i := rfl
@[simp] theorem pkg_setLimiter (x : Limiter) (i : Nat) : (s.setLimiter n x).pkg i = s.pkg i := rfl
@[simp] theorem repairOf_setLimiter (x : Limiter) (i : Nat) : (s.setLimiter n x).repairOf i = s.repairOf i := rfl
@[simp] theorem obj_setLimiter (x : Limiter) (i : Nat) : (s.setLimiter n x).obj i = s.obj i := rfl
@[simp] theorem pool_setLimiter (x : Limiter) (i : Nat) : (s.setLimiter n x).pool i = s.pool i := rfl
@[simp] theorem ep_setLimiter (x : Limiter) (i : Nat) : (s.setLimiter n x).ep i = s.ep i := rfl
@[simp] theorem ctx_setLimiter (x : Limiter) (i : Nat) : (s.setLimiter n x).ctx i = s.ctx i := rfl
@[simp] theorem queue_setLimiter (x : Limiter) (i : Nat) : (s.setLimiter n x).queue i = s.queue i := rfl
@[simp] theorem sync_setLimiter (x : Limiter) (i : Nat) : (s.setLimiter n x).sync i = s.sync i := rfl
@[simp] theorem sched_setLimiter (x : Limiter) (i : Nat) : (s.setLimiter n x).sched i = s.sched i := rfl
@[simp] theorem session_setLimiter (x : Limiter) (i : Nat) : (s.setLimiter n x).session i = s.session i := rfl
@[simp] theorem reg_setLimiter (x : Limiter) (i : Nat) : (s.setLimiter n x).reg i = s.reg i := rfl
@[simp] theorem pair_setLimiter (x : Limiter) (d p : Nat) : (s.setLimiter n x).pair d p = s.pair d p := rfl

/-! ## setCore -/

@[simp] theorem core_setCore (x : CoreSt) (i : Nat) : (s.setCore n x).core i = if i = n then x else s.core i :=
  tabGet_tabSet _ s.cores n i x
@[simp] theorem eng_setCore (x : CoreSt) (i : Nat) : (s.setCore n x).eng i = s.eng i := rfl
@[simp] theorem limiter_setCore (x : CoreSt) (i : Nat) : (s.setCore n x).limiter i = s.limiter i := rfl
@[simp] theorem cluster_setCore (x : CoreSt) (i : Nat) : (s.setCore n x).cluster i = s.cluster i := rfl
@[simp] theorem slice_setCore (x : CoreSt) (i : Nat) : (s.setCore n x).slice i = s.slice i := rfl
@[simp] theorem pc_setCore (x : CoreSt) (i : Nat) : (s.setCore n x).pc i = s.pc i := rfl
@[simp] theorem pkg_setCore (x : CoreSt) (i : Nat) : (s.setCore n x).pkg i = s.pkg i := rfl
@[simp] theorem repairOf_setCore (x : CoreSt) (i : Nat) : (s.setCore n x).repairOf i = s.repairOf i := rfl
@[simp] theorem obj_setCore (x : CoreSt) (i : Nat) : (s.setCore n x).obj i = s.obj i := rfl
@[simp] theorem pool_setCore (x : CoreSt) (i : Nat) : (s.setCore n x).pool i = s.pool i := rfl
@[simp] theorem ep_setCore (x : CoreSt) (i : Nat) : (s.setCore n x).ep i = s.ep i := rfl
@[simp] theorem ctx_setCore (x : CoreSt) (i : Nat) : (s.setCore n x).ctx i = s.ctx i := rfl
@[simp] theorem queue_setCore (x : CoreSt) (i : Nat) : (s.setCore n x).queue i = s.queue i := rfl
@[simp] theorem sync_setCore (x : CoreSt) (i : Nat) : (s.setCore n x).sync i = s.sync i := rfl
@[simp] theorem sched_setCore (x : CoreSt) (i : Nat) : (s.setCore n x).sched i = s.sched i := rfl
@[simp] theorem session_setCore (x : CoreSt) (i : Nat) : (s.setCore n x).session i = s.session i := rfl
@[simp] theorem reg_setCore (x : CoreSt) (i : Nat) : (s.setCore n x).reg i = s.reg i := rfl
@[simp] theorem pair_setCore (x : CoreSt) (d p : Nat) : (s.setCore n x).pair d p = s.pair d p := rfl

/-! ## setCluster -/

@[simp] theorem cluster_setCluster (x : ClusterSt) (i : Nat) : (s.setCluster n x).cluster i = if i = n then x else s.cluster i :=
  tabGet_tabSet _ s.clusters n i x
@[simp] theorem eng_setCluster (x : ClusterSt) (i : Nat) : (s.setCluster n x).eng i = s.eng i := rfl
@[simp] theorem limiter_setCluster (x : ClusterSt) (i : Nat) : (s.setCluster n x).limiter i = s.limiter i := rfl
@[simp] theorem core_setCluster (x : ClusterSt) (i : Nat) : (s.setCluster n x).core i = s.core i := rfl
@[simp] theorem slice_setCluster (x : ClusterSt) (i : Nat) : (s.setCluster n x).slice i = s.slice i := rfl
@[simp] theorem pc_setCluster (x : ClusterSt) (i : Nat) : (s.setCluster n x).pc i = s.pc i := rfl
@[simp] theorem pkg_setCluster (x : ClusterSt) (i : Nat) : (s.setCluster n x).pkg i = s.pkg i := rfl
@[simp] theorem repairOf_setCluster (x : ClusterSt) (i : Nat) : (s.setCluster n x).repairOf i = s.repairOf i := rfl
@[simp] theorem obj_setCluster (x : ClusterSt) (i : Nat) : (s.setCluster n x).obj i = s.obj i := rfl
@[simp] theorem pool_setCluster (x : ClusterSt) (i : Nat) : (s.setCluster n x).pool i = s.pool i := rfl
@[simp] theorem ep_setCluster (x : ClusterSt) (i : Nat) : (s.setCluster n x).ep i = s.ep i := rfl
@[simp] theorem ctx_setCluster (x : ClusterSt) (i : Nat) : (s.setCluster n x).ctx i = s.ctx i := rfl
@[simp] theorem queue_setCluster (x : ClusterSt) (i : Nat) : (s.setCluster n x).queue i = s.queue i := rfl
@[simp] theorem sync_setCluster (x : ClusterSt) (i : Nat) : (s.setCluster n x).sync i = s.sync i := rfl
@[simp] theorem sched_setCluster (x : ClusterSt) (i : Nat) : (s.setCluster n x).sched i = s.sched i := rfl
@[simp] theorem session_setCluster (x : ClusterSt) (i : Nat) : (s.setCluster n x).session i = s.session i := rfl
@[simp] theorem reg_setCluster (x : ClusterSt) (i : Nat) : (s.setCluster n x).reg i = s.reg i := rfl
@[simp] theorem pair_setCluster (x : ClusterSt) (d p : Nat) : (s.setCluster n x).pair d p = s.pair d p := rfl

/-! ## setSlice -/

@[simp] theorem slice_setSlice (x : SliceSt) (i : Nat) : (s.setSlice n x).slice i = if i = n then x else s.slice i :=
  tabGet_tabSet _ s.slices n i x
@[simp] theorem eng_setSlice (x : SliceSt) (i : Nat) : (s.setSlice n x).eng i = s.eng i := rfl
@[simp] theorem limiter_setSlice (x : SliceSt) (i : Nat) : (s.setSlice n x).limiter i = s.limiter i := rfl
@[simp] theorem core_setSlice (x : SliceSt) (i : Nat) : (s.setSlice n x).core i = s.core i := rfl
@[simp] theorem cluster_setSlice (x : SliceSt) (i : Nat) : (s.setSlice n x).cluster i = s.cluster i := rfl
@[simp] theorem pc_setSlice (x : SliceSt) (i : Nat) : (s.setSlice n x).pc i = s.pc i := rfl
@[simp] theorem pkg_setSlice (x : SliceSt) (i : Nat) : (s.setSlice n x).pkg i = s.pkg i := rfl
@[simp] theorem repairOf_setSlice (x : SliceSt) (i : Nat) : (s.setSlice n x).repairOf i = s.repairOf i := rfl
@[simp] theorem obj_setSlice (x : SliceSt) (i : Nat) : (s.setSlice n x).obj i = s.obj i := rfl
@[simp] theorem pool_setSlice (x : SliceSt) (i : Nat) : (s.setSlice n x).pool i = s.pool i := rfl
@[simp] theorem ep_setSlice (x : SliceSt) (i : Nat) : (s.setSlice n x).ep i = s.ep i := rfl
@[simp] theorem ctx_setSlice (x : SliceSt) (i : Nat) : (s.setSlice n x).ctx i = s.ctx i := rfl
@[simp] theorem queue_setSlice (x : SliceSt) (i : Nat) : (s.setSlice n x).queue i = s.queue i := rfl
@[simp] theorem sync_setSlice (x : SliceSt) (i : Nat) : (s.setSlice n x).sync i = s.sync i := rfl
@[simp] theorem sched_setSlice (x : SliceSt) (i : Nat) : (s.setSlice n x).sched i = s.sched i := rfl
@[simp] theorem session_setSlice (x : SliceSt) (i : Nat) : (s.setSlice n x).session i = s.session i := rfl
@[simp] theorem reg_setSlice (x : SliceSt) (i : Nat) : (s.setSlice n x).reg i = s.reg i := rfl
@[simp] theorem pair_setSlice (x : SliceSt) (d p : Nat) : (s.setSlice n x).pair d p = s.pair d p := rfl

/-! ## setPc -/

@[simp] theorem pc_setPc (x : PcSt) (i : Nat) : (s.setPc n x).pc i = if i = n then x else s.pc i :=
  tabGet_tabSet _ s.pcs n i x
@[simp] theorem eng_setPc (x : PcSt) (i : Nat) : (s.setPc n x).eng i = s.eng i := rfl
@[simp] theorem limiter_setPc (x : PcSt) (i : Nat) : (s.setPc n x).limiter i = s.limiter i := rfl
@[simp] theorem core_setPc (x : PcSt) (i : Nat) : (s.setPc n x).core i = s.core i := rfl
@[simp] theorem cluster_setPc (x : PcSt) (i : Nat) : (s.setPc n x).cluster i = s.cluster i := rfl
@[simp] theorem slice_setPc (x : PcSt) (i : Nat) : (s.setPc n x).slice i = s.slice i := rfl
@[simp] theorem pkg_setPc (x : PcSt) (i : Nat) : (s.setPc n x).pkg i = s.pkg i := rfl
@[simp] theorem repairOf_setPc (x : PcSt) (i : Nat) : (s.setPc n x).repairOf i = s.repairOf i := rfl
@[simp] theorem obj_setPc (x : PcSt) (i : Nat) : (s.setPc n x).obj i = s.obj i := rfl
@[simp] theorem pool_setPc (x : PcSt) (i : Nat) : (s.setPc n x).pool i = s.pool i := rfl
@[simp] theorem ep_setPc (x : PcSt) (i : Nat) : (s.setPc n x).ep i = s.ep i := rfl
@[simp] theorem ctx_setPc (x : PcSt) (i : Nat) : (s.setPc n x).ctx i = s.ctx i := rfl
@[simp] theorem queue_setPc (x : PcSt) (i : Nat) : (s.setPc n x).queue i = s.queue i := rfl
@[simp] theorem sync_setPc (x : PcSt) (i : Nat) : (s.setPc n x).sync i = s.sync i := rfl
@[simp] theorem sched_setPc (x : PcSt) (i : Nat) : (s.setPc n x).sched i = s.sched i := rfl
@[simp] theorem session_setPc (x : PcSt) (i : Nat) : (s.setPc n x).session i = s.session i := rfl
@[simp] theorem reg_setPc (x : PcSt) (i : Nat) : (s.setPc n x).reg i = s.reg i := rfl
@[simp] theorem pair_setPc (x : PcSt) (d p : Nat) : (s.setPc n x).pair d p = s.pair d p := rfl

/-! ## setPkg -/

@[simp] theorem pkg_setPkg (x : PkgSt) (i : Nat) : (s.setPkg n x).pkg i = if i = n then x else s.pkg i :=
  tabGet_tabSet _ s.pkgs n i x
@[simp] theorem eng_setPkg (x : PkgSt) (i : Nat) : (s.setPkg n x).eng i = s.eng i := rfl
@[simp] theorem limiter_setPkg (x : PkgSt) (i : Nat) : (s.setPkg n x).limiter i = s.limiter i := rfl
@[simp] theorem core_setPkg (x : PkgSt) (i : Nat) : (s.setPkg n x).core i = s.core i := rfl
@[simp] theorem cluster_setPkg (x : PkgSt) (i : Nat) : (s.setPkg n x).cluster i = s.cluster i := rfl
@[simp] theorem slice_setPkg (x : PkgSt) (i : Nat) : (s.setPkg n x).slice i = s.slice i := rfl
@[simp] theorem pc_setPkg (x : PkgSt) (i : Nat) : (s.setPkg n x).pc i = s.pc i := rfl
@[simp] theorem repairOf_setPkg (x : PkgSt) (i : Nat) : (s.setPkg n x).repairOf i = s.repairOf i := rfl
@[simp] theorem obj_setPkg (x : PkgSt) (i : Nat) : (s.setPkg n x).obj i = s.obj i := rfl
@[simp] theorem pool_setPkg (x : PkgSt) (i : Nat) : (s.setPkg n x).pool i = s.pool i := rfl
@[simp] theorem ep_setPkg (x : PkgSt) (i : Nat) : (s.setPkg n x).ep i = s.ep i := rfl
@[simp] theorem ctx_setPkg (x : PkgSt) (i : Nat) : (s.setPkg n x).ctx i = s.ctx i := rfl
@[simp] theorem queue_setPkg (x : PkgSt) (i : Nat) : (s.setPkg n x).queue i = s.queue i := rfl
@[simp] theorem sync_setPkg (x : PkgSt) (i : Nat) : (s.setPkg n x).sync i = s.sync i := rfl
@[simp] theorem sched_setPkg (x : PkgSt) (i : Nat) : (s.setPkg n x).sched i = s.sched i := rfl
@[simp] theorem session_setPkg (x : PkgSt) (i : Nat) : (s.setPkg n x).session i = s.session i := rfl
@[simp] theorem reg_setPkg (x : PkgSt) (i : Nat) : (s.setPkg n x).reg i = s.reg i := rfl
@[simp] theorem pair_setPkg (x : PkgSt) (d p : Nat) : (s.setPkg n x).pair d p = s.pair d p := rfl

/-! ## setRepair -/

@[simp] theorem repairOf_setRepair (x : RepairSt) (i : Nat) : (s.setRepair n x).repairOf i = if i = n then x else s.repairOf i :=
  tabGet_tabSet _ s.repairs n i x
@[simp] theorem eng_setRepair (x : RepairSt) (i : Nat) : (s.setRepair n x).eng i = s.eng i := rfl
@[simp] theorem limiter_setRepair (x : RepairSt) (i : Nat) : (s.setRepair n x).limiter i = s.limiter i := rfl
@[simp] theorem core_setRepair (x : RepairSt) (i : Nat) : (s.setRepair n x).core i = s.core i := rfl
@[simp] theorem cluster_setRepair (x : RepairSt) (i : Nat) : (s.setRepair n x).cluster i = s.cluster i := rfl
@[simp] theorem slice_setRepair (x : RepairSt) (i : Nat) : (s.setRepair n x).slice i = s.slice i := rfl
@[simp] theorem pc_setRepair (x : RepairSt) (i : Nat) : (s.setRepair n x).pc i = s.pc i := rfl
@[simp] theorem pkg_setRepair (x : RepairSt) (i : Nat) : (s.setRepair n x).pkg i = s.pkg i := rfl
@[simp] theorem obj_setRepair (x : RepairSt) (i : Nat) : (s.setRepair n x).obj i = s.obj i := rfl
@[simp] theorem pool_setRepair (x : RepairSt) (i : Nat) : (s.setRepair n x).pool i = s.pool i := rfl
@[simp] theorem ep_setRepair (x : RepairSt) (i : Nat) : (s.setRepair n x).ep i = s.ep i := rfl
@[simp] theorem ctx_setRepair (x : RepairSt) (i : Nat) : (s.setRepair n x).ctx i = s.ctx i := rfl
@[simp] theorem queue_setRepair (x : RepairSt) (i : Nat) : (s.setRepair n x).queue i = s.queue i := rfl
@[simp] theorem sync_setRepair (x : RepairSt) (i : Nat) : (s.setRepair n x).sync i = s.sync i := rfl
@[simp] theorem sched_setRepair (x : RepairSt) (i : Nat) : (s.setRepair n x).sched i = s.sched i := rfl
@[simp] theorem session_setRepair (x : RepairSt) (i : Nat) : (s.setRepair n x).session i = s.session i := rfl
@[simp] theorem reg_setRepair (x : RepairSt) (i : Nat) : (s.setRepair n x).reg i = s.reg i := rfl
@[simp] theorem pair_setRepair (x : RepairSt) (d p : Nat) : (s.setRepair n x).pair d p = s.pair d p := rfl

/-! ## setObj -/

@[simp] theorem obj_setObj (x : Obj) (i : Nat) : (s.setObj n x).obj i = if i = n then x else s.obj i :=
  tabGet_tabSet _ s.objs n i x
@[simp] theorem eng_setObj (x : Obj) (i : Nat) : (s.setObj n x).eng i = s.eng i := rfl
@[simp] theorem limiter_setObj (x : Obj) (i : Nat) : (s.setObj n x).limiter i = s.limiter i := rfl
@[simp] theorem core_setObj (x : Obj) (i : Nat) : (s.setObj n x).core i = s.core i := rfl
@[simp] theorem cluster_setObj (x : Obj) (i : Nat) : (s.setObj n x).cluster i = s.cluster i := rfl
@[simp] theorem slice_setObj (x : Obj) (i : Nat) : (s.setObj n x).slice i = s.slice i := rfl
@[simp] theorem pc_setObj (x : Obj) (i : Nat) : (s.setObj n x).pc i = s.pc i := rfl
@[simp] theorem pkg_setObj (x : Obj) (i : Nat) : (s.setObj n x).pkg i = s.pkg i := rfl
@[simp] theorem repairOf_setObj (x : Obj) (i : Nat) : (s.setObj n x).repairOf i = s.repairOf i := rfl
@[simp] theorem pool_setObj (x : Obj) (i : Nat) : (s.setObj n x).pool i = s.pool i := rfl
@[simp] theorem ep_setObj (x : Obj) (i : Nat) : (s.setObj n x).ep i = s.ep i := rfl
@[simp] theorem ctx_setObj (x : Obj) (i : Nat) : (s.setObj n x).ctx i = s.ctx i := rfl
@[simp] theorem queue_setObj (x : Obj) (i : Nat) : (s.setObj n x).queue i = s.queue i := rfl
@[simp] theorem sync_setObj (x : Obj) (i : Nat) : (s.setObj n x).sync i = s.sync i := rfl
@[simp] theorem sched_setObj (x : Obj) (i : Nat) : (s.setObj n x).sched i = s.sched i := rfl
@[simp] theorem session_setObj (x : Obj) (i : Nat) : (s.setObj n x).session i = s.session i := rfl
@[simp] theorem reg_setObj (x : Obj) (i : Nat) : (s.setObj n x).reg i = s.reg i := rfl
@[simp] theorem pair_setObj (x : Obj) (d p : Nat) : (s.setObj n x).pair d p = s.pair d p := rfl

/-! ## setPool -/

@[simp] theorem pool_setPool (x : PoolSt) (i : Nat) : (s.setPool n x).pool i = if i = n then x else s.pool i :=
  tabGet_tabSet _ s.pools n i x
@[simp] theorem eng_setPool (x : PoolSt) (i : Nat) : (s.setPool n x).eng i = s.eng i := rfl
@[simp] theorem limiter_setPool (x : PoolSt) (i : Nat) : (s.setPool n x).limiter i = s.limiter i := rfl
@[simp] theorem core_setPool (x : PoolSt) (i : Nat) : (s.setPool n x).core i = s.core i := rfl
@[simp] theorem cluster_setPool (x : PoolSt) (i : Nat) : (s.setPool n x).cluster i = s.cluster i := rfl
@[simp] theorem slice_setPool (x : PoolSt) (i : Nat) : (s.setPool n x).slice i = s.slice i := rfl
@[simp] theorem pc_setPool (x : PoolSt) (i : Nat) : (s.setPool n x).pc i = s.pc i := rfl
@[simp] theorem pkg_setPool (x : PoolSt) (i : Nat) : (s.setPool n x).pkg i = s.pkg i := rfl
@[simp] theorem repairOf_setPool (x : PoolSt) (i : Nat) : (s.setPool n x).repairOf i = s.repairOf i := rfl
@[simp] theorem obj_setPool (x : PoolSt) (i : Nat) : (s.setPool n x).obj i = s.obj i := rfl
@[simp] theorem ep_setPool (x : PoolSt) (i : Nat) : (s.setPool n x).ep i = s.ep i := rfl
@[simp] theorem ctx_setPool (x : PoolSt) (i : Nat) : (s.setPool n x).ctx i = s.ctx i := rfl
@[simp] theorem queue_setPool (x : PoolSt) (i : Nat) : (s.setPool n x).queue i = s.queue i := rfl
@[simp] theorem sync_setPool (x : PoolSt) (i : Nat) : (s.setPool n x).sync i = s.sync i := rfl
@[simp] theorem sched_setPool (x : PoolSt) (i : Nat) : (s.setPool n x).sched i = s.sched i := rfl
@[simp] theorem session_setPool (x : PoolSt) (i : Nat) : (s.setPool n x).session i = s.session i := rfl
@[simp] theorem reg_setPool (x : PoolSt) (i : Nat) : (s.setPool n x).reg i = s.reg i := rfl
@[simp] theorem pair_setPool (x : PoolSt) (d p : Nat) : (s.setPool n x).pair d p = s.pair d p := rfl

/-! ## setEp -/

@[simp] theorem ep_setEp (x : EpSt) (i : Nat) : (s.setEp n x).ep i = if i = n then x else s.ep i :=
  tabGet_tabSet _ s.eps n i x
@[simp] theorem eng_setEp (x : EpSt) (i : Nat) : (s.setEp n x).eng i = s.eng i := rfl
@[simp] theorem limiter_setEp (x : EpSt) (i : Nat) : (s.setEp n x).limiter i = s.limiter i := rfl
@[simp] theorem core_setEp (x : EpSt) (i : Nat) : (s.setEp n x).core i = s.core i := rfl
@[simp] theorem cluster_setEp (x : EpSt) (i : Nat) : (s.setEp n x).cluster i = s.cluster i := rfl
@[simp] theorem slice_setEp (x : EpSt) (i : Nat) : (s.setEp n x).slice i = s.slice i := rfl
@[simp] theorem pc_setEp (x : EpSt) (i : Nat) : (s.setEp n x).pc i = s.pc i := rfl
@[simp] theorem pkg_setEp (x : EpSt) (i : Nat) : (s.setEp n x).pkg i = s.pkg i := rfl
@[simp] theorem repairOf_setEp (x : EpSt) (i : Nat) : (s.setEp n x).repairOf i = s.repairOf i := rfl
@[simp] theorem obj_setEp (x : EpSt) (i : Nat) : (s.setEp n x).obj i = s.obj i := rfl
@[simp] theorem pool_setEp (x : EpSt) (i : Nat) : (s.setEp n x).pool i = s.pool i := rfl
@[simp] theorem ctx_setEp (x : EpSt) (i : Nat) : (s.setEp n x).ctx i = s.ctx i := rfl
@[simp] theorem queue_setEp (x : EpSt) (i : Nat) : (s.setEp n x).queue i = s.queue i := rfl
@[simp] theorem sync_setEp (x : EpSt) (i : Nat) : (s.setEp n x).sync i = s.sync i := rfl
@[simp] theorem sched_setEp (x : EpSt) (i : Nat) : (s.setEp n x).sched i = s.sched i := rfl
@[simp] theorem session_setEp (x : EpSt) (i : Nat) : (s.setEp n x).session i = s.session i := rfl
@[simp] theorem reg_setEp (x : EpSt) (i : Nat) : (s.setEp n x).reg i = s.reg i := rfl
@[simp] theorem pair_setEp (x : EpSt) (d p : Nat) : (s.setEp n x).pair d p = s.pair d p := rfl

/-! ## setCtx -/

@[simp] theorem ctx_setCtx (x : CtxSt) (i : Nat) : (s.setCtx n x).ctx i = if i = n then x else s.ctx i :=
  tabGet_tabSet _ s.ctxs n i x
@[simp] theorem eng_setCtx (x : CtxSt) (i : Nat) : (s.setCtx n x).eng i = s.eng i := rfl
@[simp] theorem limiter_setCtx (x : CtxSt) (i : Nat) : (s.setCtx n x).limiter i = s.limiter i := rfl
@[simp] theorem core_setCtx (x : CtxSt) (i : Nat) : (s.setCtx n x).core i = s.core i := rfl
@[simp] theorem cluster_setCtx (x : CtxSt) (i : Nat) : (s.setCtx n x).cluster i = s.cluster i := rfl
@[simp] theorem slice_setCtx (x : CtxSt) (i : Nat) : (s.setCtx n x).slice i = s.slice i := rfl
@[simp] theorem pc_setCtx (x : CtxSt) (i : Nat) : (s.setCtx n x).pc i = s.pc i := rfl
@[simp] theorem pkg_setCtx (x : CtxSt) (i : Nat) : (s.setCtx n x).pkg i = s.pkg i := rfl
@[simp] theorem repairOf_setCtx (x : CtxSt) (i : Nat) : (s.setCtx n x).repairOf i = s.repairOf i := rfl
@[simp] theorem obj_setCtx (x : CtxSt) (i : Nat) : (s.setCtx n x).obj i = s.obj i := rfl
@[simp] theorem pool_setCtx (x : CtxSt) (i : Nat) : (s.setCtx n x).pool i = s.pool i := rfl
@[simp] theorem ep_setCtx (x : CtxSt) (i : Nat) : (s.setCtx n x).ep i = s.ep i := rfl
@[simp] theorem queue_setCtx (x : CtxSt) (i : Nat) : (s.setCtx n x).queue i = s.queue i := rfl
@[simp] theorem sync_setCtx (x : CtxSt) (i : Nat) : (s.setCtx n x).sync i = s.sync i := rfl
@[simp] theorem sched_setCtx (x : CtxSt) (i : Nat) : (s.setCtx n x).sched i = s.sched i := rfl
@[simp] theorem session_setCtx (x : CtxSt) (i : Nat) : (s.setCtx n x).session i = s.session i := rfl
@[simp] theorem reg_setCtx (x : CtxSt) (i : Nat) : (s.setCtx n x).reg i = s.reg i := rfl
@[simp] theorem pair_setCtx (x : CtxSt) (d p : Nat) : (s.setCtx n x).pair d p = s.pair d p := rfl

/-! ## setQueue -/

@[simp] theorem queue_setQueue (x : QueueSt) (i : Nat) : (s.setQueue n x).queue i = if i = n then x else s.queue i :=
  tabGet_tabSet _ s.queues n i x
@[simp] theorem eng_setQueue (x : QueueSt) (i : Nat) : (s.setQueue n x).eng i = s.eng i := rfl
@[simp] theorem limiter_setQueue (x : QueueSt) (i : Nat) : (s.setQueue n x).limiter i = s.limiter i := rfl
@[simp] theorem core_setQueue (x : QueueSt) (i : Nat) : (s.setQueue n x).core i = s.core i := rfl
@[simp] theorem cluster_setQueue (x : QueueSt) (i : Nat) : (s.setQueue n x).cluster i = s.cluster i := rfl
@[simp] theorem slice_setQueue (x : QueueSt) (i : Nat) : (s.setQueue n x).slice i = s.slice i := rfl
@[simp] theorem pc_setQueue (x : QueueSt) (i : Nat) : (s.setQueue n x).pc i = s.pc i := rfl
@[simp] theorem pkg_setQueue (x : QueueSt) (i : Nat) : (s.setQueue n x).pkg i = s.pkg i := rfl
@[simp] theorem repairOf_setQueue (x : QueueSt) (i : Nat) : (s.setQueue n x).repairOf i = s.repairOf i := rfl
@[simp] theorem obj_setQueue (x : QueueSt) (i : Nat) : (s.setQueue n x).obj i = s.obj i := rfl
@[simp] theorem pool_setQueue (x : QueueSt) (i : Nat) : (s.setQueue n x).pool i = s.pool i := rfl
@[simp] theorem ep_setQueue (x : QueueSt) (i : Nat) : (s.setQueue n x).ep i = s.ep i := rfl
@[simp] theorem ctx_setQueue (x : QueueSt) (i : Nat) : (s.setQueue n x).ctx i = s.ctx i := rfl
@[simp] theorem sync_setQueue (x : QueueSt) (i : Nat) : (s.setQueue n x).sync i = s.sync i := rfl
@[simp] theorem sched_setQueue (x : QueueSt) (i : Nat) : (s.setQueue n x).sched i = s.sched i := rfl
@[simp] theorem session_setQueue (x : QueueSt) (i : Nat) : (s.setQueue n x).session i = s.session i := rfl
@[simp] theorem reg_setQueue (x : QueueSt) (i : Nat) : (s.setQueue n x).reg i = s.reg i := rfl
@[simp] theorem pair_setQueue (x : QueueSt) (d p : Nat) : (s.setQueue n x).pair d p = s.pair d p := rfl

/-! ## setSync -/

@[simp] theorem sync_setSync (x : SyncSt) (i : Nat) : (s.setSync n x).sync i = if i = n then x else s.sync i :=
  tabGet_tabSet _ s.syncs n i x
@[simp] theorem eng_setSync (x : SyncSt) (i : Nat) : (s.setSync n x).eng i = s.eng i := rfl
@[simp] theorem limiter_setSync (x : SyncSt) (i : Nat) : (s.setSync n x).limiter i = s.limiter i := rfl
@[simp] theorem core_setSync (x : SyncSt) (i : Nat) : (s.setSync n x).core i = s.core i := rfl
@[simp] theorem cluster_setSync (x : SyncSt) (i : Nat) : (s.setSync n x).cluster i = s.cluster i := rfl
@[simp] theorem slice_setSync (x : SyncSt) (i : Nat) : (s.setSync n x).slice i = s.slice i := rfl
@[simp] theorem pc_setSync (x : SyncSt) (i : Nat) : (s.setSync n x).pc i = s.pc i := rfl
@[simp] theorem pkg_setSync (x : SyncSt) (i : Nat) : (s.setSync n x).pkg i = s.pkg i := rfl
@[simp] theorem repairOf_setSync (x : SyncSt) (i : Nat) : (s.setSync n x).repairOf i = s.repairOf i := rfl
@[simp] theorem obj_setSync (x : SyncSt) (i : Nat) : (s.setSync n x).obj i = s.obj i := rfl
@[simp] theorem pool_setSync (x : SyncSt) (i : Nat) : (s.setSync n x).pool i = s.pool i := rfl
@[simp] theorem ep_setSync (x : SyncSt) (i : Nat) : (s.setSync n x).ep i = s.ep i := rfl
@[simp] theorem ctx_setSync (x : SyncSt) (i : Nat) : (s.setSync n x).ctx i = s.ctx i := rfl
@[simp] theorem queue_setSync (x : SyncSt) (i : Nat) : (s.setSync n x).queue i = s.queue i := rfl
@[simp] theorem sched_setSync (x : SyncSt) (i : Nat) : (s.setSync n x).sched i = s.sched i := rfl
@[simp] theorem session_setSync (x : SyncSt) (i : Nat) : (s.setSync n x).session i = s.session i := rfl
@[simp] theorem reg_setSync (x : SyncSt) (i : Nat) : (s.setSync n x).reg i = s.reg i := rfl
@[simp] theorem pair_setSync (x : SyncSt) (d p : Nat) : (s.setSync n x).pair d p = s.pair d p := rfl

/-! ## setSched -/

@[simp] theorem sched_setSched (x : SchedSt) (i : Nat) : (s.setSched n x).sched i = if i = n then x else s.sched i :=
  tabGet_tabSet _ s.scheds n i x
@[simp] theorem eng_setSched (x : SchedSt) (i : Nat) : (s.setSched n x).eng i = s.eng i := rfl
@[simp] theorem limiter_setSched (x : SchedSt) (i : Nat) : (s.setSched n x).limiter i = s.limiter i := rfl
@[simp] theorem core_setSched (x : SchedSt) (i : Nat) : (s.setSched n x).core i = s.core i := rfl
@[simp] theorem cluster_setSched (x : SchedSt) (i : Nat) : (s.setSched n x).cluster i = s.cluster i := rfl
@[simp] theorem slice_setSched (x : SchedSt) (i : Nat) : (s.setSched n x).slice i = s.slice i := rfl
@[simp] theorem pc_setSched (x : SchedSt) (i : Nat) : (s.setSched n x).pc i = s.pc i := rfl
@[simp] theorem pkg_setSched (x : SchedSt) (i : Nat) : (s.setSched n x).pkg i = s.pkg i := rfl
@[simp] theorem repairOf_setSched (x : SchedSt) (i : Nat) : (s.setSched n x).repairOf i = s.repairOf i := rfl
@[simp] theorem obj_setSched (x : SchedSt) (i : Nat) : (s.setSched n x).obj i = s.obj i := rfl
@[simp] theorem pool_setSched (x : SchedSt) (i : Nat) : (s.setSched n x).pool i = s.pool i := rfl
@[simp] theorem ep_setSched (x : SchedSt) (i : Nat) : (s.setSched n x).ep i = s.ep i := rfl
@[simp] theorem ctx_setSched (x : SchedSt) (i : Nat) : (s.setSched n x).ctx i = s.ctx i := rfl
@[simp] theorem queue_setSched (x : SchedSt) (i : Nat) : (s.setSched n x).queue i = s.queue i := rfl
@[simp] theorem sync_setSched (x : SchedSt) (i : Nat) : (s.setSched n x).sync i = s.sync i := rfl
@[simp] theorem session_setSched (x : SchedSt) (i : Nat) : (s.setSched n x).session i = s.session i := rfl
@[simp] theorem reg_setSched (x : SchedSt) (i : Nat) : (s.setSched n x).reg i = s.reg i := rfl
@[simp] theorem pair_setSched (x : SchedSt) (d p : Nat) : (s.setSched n x).pair d p = s.pair d p := rfl

/-! ## setSession -/

@[simp] theorem session_setSession (x : Session) (i : Nat) : (s.setSession n x).session i = if i = n then x else s.session i :=
  tabGet_tabSet _ s.sessions n i x
@[simp] theorem eng_setSession (x : Session) (i : Nat) : (s.setSession n x).eng i = s.eng i := rfl
@[simp] theorem limiter_setSession (x : Session) (i : Nat) : (s.setSession n x).limiter i = s.limiter i := rfl
@[simp] theorem core_setSession (x : Session) (i : Nat) : (s.setSession n x).core i = s.core i := rfl
@[simp] theorem cluster_setSession (x : Session) (i : Nat) : (s.setSession n x).cluster i = s.cluster i := rfl
@[simp] theorem slice_setSession (x : Session) (i : Nat) : (s.setSession n x).slice i = s.slice i := rfl
@[simp] theorem pc_setSession (x : Session) (i : Nat) : (s.setSession n x).pc i = s.pc i := rfl
@[simp] theorem pkg_setSession (x : Session) (i : Nat) : (s.setSession n x).pkg i = s.pkg i := rfl
@[simp] theorem repairOf_setSession (x : Session) (i : Nat) : (s.setSession n x).repairOf i = s.repairOf i := rfl
@[simp] theorem obj_setSession (x : Session) (i : Nat) : (s.setSession n x).obj i = s.obj i := rfl
@[simp] theorem pool_setSession (x : Session) (i : Nat) : (s.setSession n x).pool i = s.pool i := rfl
@[simp] theorem ep_setSession (x : Session) (i : Nat) : (s.setSession n x).ep i = s.ep i := rfl
@[simp] theorem ctx_setSession (x : Session) (i : Nat) : (s.setSession n x).ctx i = s.ctx i := rfl
@[simp] theorem queue_setSession (x : Session) (i : Nat) : (s.setSession n x).queue i = s.queue i := rfl
@[simp] theorem sync_setSession (x : Session) (i : Nat) : (s.setSession n x).sync i = s.sync i := rfl
@[simp] theorem sched_setSession (x : Session) (i : Nat) : (s.setSession n x).sched i = s.sched i := rfl
@[simp] theorem reg_setSession (x : Session) (i : Nat) : (s.setSession n x).reg i = s.reg i := rfl
@[simp] theorem pair_setSession (x : Session) (d p : Nat) : (s.setSession n x).pair d p = s.pair d p := rfl

/-! ## setReg -/

@[simp] theorem reg_setReg (x : Word) (i : Nat) : (s.setReg n x).reg i = if i = n then x else s.reg i :=
  tabGet_tabSet _ s.regs n i x
@[simp] theorem eng_setReg (x : Word) (i : Nat) : (s.setReg n x).eng i = s.eng i := rfl
@[simp] theorem limiter_setReg (x : Word) (i : Nat) : (s.setReg n x).limiter i = s.limiter i := rfl
@[simp] theorem core_setReg (x : Word) (i : Nat) : (s.setReg n x).core i = s.core i := rfl
@[simp] theorem cluster_setReg (x : Word) (i : Nat) : (s.setReg n x).cluster i = s.cluster i := rfl
@[simp] theorem slice_setReg (x : Word) (i : Nat) : (s.setReg n x).slice i = s.slice i := rfl
@[simp] theorem pc_setReg (x : Word) (i : Nat) : (s.setReg n x).pc i = s.pc i := rfl
@[simp] theorem pkg_setReg (x : Word) (i : Nat) : (s.setReg n x).pkg i = s.pkg i := rfl
@[simp] theorem repairOf_setReg (x : Word) (i : Nat) : (s.setReg n x).repairOf i = s.repairOf i := rfl
@[simp] theorem obj_setReg (x : Word) (i : Nat) : (s.setReg n x).obj i = s.obj i := rfl
@[simp] theorem pool_setReg (x : Word) (i : Nat) : (s.setReg n x).pool i = s.pool i := rfl
@[simp] theorem ep_setReg (x : Word) (i : Nat) : (s.setReg n x).ep i = s.ep i := rfl
@[simp] theorem ctx_setReg (x : Word) (i : Nat) : (s.setReg n x).ctx i = s.ctx i := rfl
@[simp] theorem queue_setReg (x : Word) (i : Nat) : (s.setReg n x).queue i = s.queue i := rfl
@[simp] theorem sync_setReg (x : Word) (i : Nat) : (s.setReg n x).sync i = s.sync i := rfl
@[simp] theorem sched_setReg (x : Word) (i : Nat) : (s.setReg n x).sched i = s.sched i := rfl
@[simp] theorem session_setReg (x : Word) (i : Nat) : (s.setReg n x).session i = s.session i := rfl
@[simp] theorem pair_setReg (x : Word) (d p : Nat) : (s.setReg n x).pair d p = s.pair d p := rfl

/-! ## Pairs -/

@[simp] theorem pair_setPair (d p : Nat) (x : PairSt) (d' p' : Nat) :
    (s.setPair d p x).pair d' p' = if 4 * d' + p' = 4 * d + p then x else s.pair d' p' :=
  tabGet_tabSet _ s.pairs (4 * d + p) (4 * d' + p') x
@[simp] theorem eng_setPair (d p : Nat) (x : PairSt) (i : Nat) : (s.setPair d p x).eng i = s.eng i := rfl
@[simp] theorem limiter_setPair (d p : Nat) (x : PairSt) (i : Nat) : (s.setPair d p x).limiter i = s.limiter i := rfl
@[simp] theorem core_setPair (d p : Nat) (x : PairSt) (i : Nat) : (s.setPair d p x).core i = s.core i := rfl
@[simp] theorem cluster_setPair (d p : Nat) (x : PairSt) (i : Nat) : (s.setPair d p x).cluster i = s.cluster i := rfl
@[simp] theorem slice_setPair (d p : Nat) (x : PairSt) (i : Nat) : (s.setPair d p x).slice i = s.slice i := rfl
@[simp] theorem pc_setPair (d p : Nat) (x : PairSt) (i : Nat) : (s.setPair d p x).pc i = s.pc i := rfl
@[simp] theorem pkg_setPair (d p : Nat) (x : PairSt) (i : Nat) : (s.setPair d p x).pkg i = s.pkg i := rfl
@[simp] theorem repairOf_setPair (d p : Nat) (x : PairSt) (i : Nat) : (s.setPair d p x).repairOf i = s.repairOf i := rfl
@[simp] theorem obj_setPair (d p : Nat) (x : PairSt) (i : Nat) : (s.setPair d p x).obj i = s.obj i := rfl
@[simp] theorem pool_setPair (d p : Nat) (x : PairSt) (i : Nat) : (s.setPair d p x).pool i = s.pool i := rfl
@[simp] theorem ep_setPair (d p : Nat) (x : PairSt) (i : Nat) : (s.setPair d p x).ep i = s.ep i := rfl
@[simp] theorem ctx_setPair (d p : Nat) (x : PairSt) (i : Nat) : (s.setPair d p x).ctx i = s.ctx i := rfl
@[simp] theorem queue_setPair (d p : Nat) (x : PairSt) (i : Nat) : (s.setPair d p x).queue i = s.queue i := rfl
@[simp] theorem sync_setPair (d p : Nat) (x : PairSt) (i : Nat) : (s.setPair d p x).sync i = s.sync i := rfl
@[simp] theorem sched_setPair (d p : Nat) (x : PairSt) (i : Nat) : (s.setPair d p x).sched i = s.sched i := rfl
@[simp] theorem session_setPair (d p : Nat) (x : PairSt) (i : Nat) : (s.setPair d p x).session i = s.session i := rfl
@[simp] theorem reg_setPair (d p : Nat) (x : PairSt) (i : Nat) : (s.setPair d p x).reg i = s.reg i := rfl

end Sys2Proof.Laws
end

