-- ==== Sys2Proof/Laws/Ops.lean ====
section
/-! SUPPORT. Laws/Ops.lean: what the shared operations on registers, interrupts, sending and alarms can do: what each writes,
and that it leaves the rest of the machine as it was. -/

namespace Sys2Proof.Laws

open Sys2Proof.Machine

variable (s : Mach)

/-! ## Registers and counters -/

/-- A counter after n events. -/
@[simp] theorem reg_bump (a n b : Nat) : (s.bump a n).reg b = if b = a then satAdd (s.reg a) n else s.reg b := by
  by_cases h : n = 0
  · subst h
    rw [Mach.bump, if_pos rfl]
    split
    · subst b; simp
    · rfl
  · rw [Mach.bump, if_neg h, reg_setReg]

/-- Counting changes plain registers only. -/
theorem bump_frame (a n : Nat) : s.bump a n = { s with regs := (s.bump a n).regs } := by
  rw [Mach.bump]; split <;> rfl

/-- A register after one of its fields is set. -/
@[simp] theorem reg_setField (a hi lo v b : Nat) :
    (s.setField a hi lo v).reg b = if b = a then w32 (setBits (s.reg a).toNat hi lo v) else s.reg b := reg_setReg s a _ b

/-- Setting a field changes plain registers only. -/
theorem setField_frame (a hi lo v : Nat) : s.setField a hi lo v = { s with regs := (s.setField a hi lo v).regs } := rfl

/-- Counting in a half-word counter changes plain registers only. -/
theorem bump16_frame (a lo : Nat) : s.bump16 a lo = { s with regs := (s.bump16 a lo).regs } := rfl

/-- Two changes of plain registers only are one. -/
theorem regs_trans {a b c : Mach} (h1 : b = { a with regs := b.regs }) (h2 : c = { b with regs := c.regs }) :
    c = { a with regs := c.regs } := by
  rw [h1] at h2
  exact h2

/-! ## Interrupts (16 R397) -/

/-- A pending bit after one is written. -/
theorem irqPending_setPending (d n d' n' : Nat) (v : Bool) (hn : n < 1024) (hn' : n' < 1024) :
    (s.setPending d n v).irqPending d' n' = if d' = d ∧ n' = n then v else s.irqPending d' n' := by
  rw [Mach.irqPending, Mach.setPending, reg_setField]
  by_cases h : flaskReg d' (0x100 + 4 * (n' / 32)) = flaskReg d (0x100 + 4 * (n / 32))
  · rw [if_pos h, testBit_w32_setBits _ _ _ _ _ (le_refl _) (by omega)]
    have h2 : d' = d ∧ n' / 32 = n / 32 := by simp only [flaskReg] at h; omega
    by_cases h3 : n' % 32 = n % 32
    · have h4 : d' = d ∧ n' = n := by omega
      rw [if_pos (by omega), if_pos h4, h3]
      cases v <;> simp [b2n]
    · have h4 : ¬ (d' = d ∧ n' = n) := by omega
      rw [if_neg (by omega), if_neg h4, Mach.irqPending, h]
  · have h4 : ¬ (d' = d ∧ n' = n) := fun e => h (by rw [e.1, e.2])
    rw [if_neg h, if_neg h4, Mach.irqPending]

/-- An interrupt event changes plain registers only. -/
theorem raise_frame (d n : Nat) : s.raise d n = { s with regs := (s.raise d n).regs } := by
  rw [Mach.raise]
  split
  · rfl
  · split
    · exact bump_frame s _ _
    · rfl

/-- An interrupt event changes no register but the word of its pending bit and the merge counter of its die. -/
theorem reg_raise_other (d n a : Nat) (h1 : a ≠ flaskReg d (0x100 + 4 * (n / 32))) (h2 : a ≠ flaskReg d 0x30) :
    (s.raise d n).reg a = s.reg a := by
  rw [Mach.raise]
  split
  · rfl
  · split
    · simp [h2]
    · rw [Mach.setPending, reg_setField, if_neg h1]

/-- An interrupt event sets its pending bit and no other. -/
theorem irqPending_raise (d n d' n' : Nat) (hn : n < 1024) (hn' : n' < 1024) :
    (s.raise d n).irqPending d' n' = (s.irqPending d' n' || (decide (d' = d ∧ n' = n) && !srcReserved d n)) := by
  rw [Mach.raise]
  by_cases hr : srcReserved d n = true
  · simp [hr]
  · have hr' : srcReserved d n = false := by simpa using hr
    rw [if_neg (by simp [hr']; omega)]
    by_cases hp : s.irqPending d n = true
    · rw [if_pos hp]
      have e : (s.bump (flaskReg d 0x30) 1).irqPending d' n' = s.irqPending d' n' := by
        rw [Mach.irqPending, Mach.irqPending, reg_bump, if_neg (by simp only [flaskReg]; omega)]
      rw [e]
      by_cases h : d' = d ∧ n' = n
      · rw [h.1, h.2, hp]; rfl
      · simp [h]
    · rw [if_neg hp, irqPending_setPending s d n d' n' true hn hn']
      by_cases h : d' = d ∧ n' = n
      · simp [h, hr']
      · simp [h]

/-! ## Sending (15 R354, R357) -/

/-- Sending changes what was sent, what waits to be sent and the count of frames sent. -/
theorem sendOn_frame (cls : Nat) (x : Sent) : s.sendOn cls x =
    { s with out := (s.sendOn cls x).out, txHeld := (s.sendOn cls x).txHeld, regs := (s.sendOn cls x).regs } := by
  rw [Mach.sendOn]
  split
  · rfl
  · split
    · rfl
    · rw [bump_frame]; rfl

/-- Sending changes no register but the count of frames sent. -/
theorem reg_sendOn_other (cls : Nat) (x : Sent) (a : Nat) (h : a ≠ portReg 0x14) : (s.sendOn cls x).reg a = s.reg a := by
  rw [Mach.sendOn]
  split
  · rfl
  · split
    · rfl
    · rw [reg_bump, if_neg h]; rfl

/-- On a link that is up, in a class no PFC frame stops, a message leaves at once. -/
theorem sendOn_out (cls : Nat) (x : Sent) (hl : s.linkUp = true) (hp : (cls % 16 < 7 && s.pfcStopped.getLsbD (cls % 16)) = false) :
    (s.sendOn cls x).out = (cls, x) :: s.out ∧ (s.sendOn cls x).txHeld = s.txHeld := by
  have hp' : ¬ (decide (cls % 16 < 7) && s.pfcStopped.getLsbD (cls % 16)) = true := by simpa using hp
  rw [Mach.sendOn, if_neg (by simp [hl]), if_neg hp', bump_frame]
  exact ⟨rfl, rfl⟩

/-! ## Alarms (17 R404, R411, R413) -/

/-- A record that becomes due joins the end of those due, as things stood at the event. -/
theorem recordDueAs_eq (r : RecordReq) (a : Bool) : s.recordDueAs r a =
    { s with recordsDue := s.recordsDue ++ [⟨r, s.uptime, bits (s.reg (safReg 0)).toNat 29 26, s.livePools, a⟩] } := rfl

/-- FAULT_N asserted earlier keeps its first event. -/
theorem assertFault_again (mech : Byte) (h : s.faultN = true) : s.assertFault mech = s := by
  rw [Mach.assertFault, if_pos h]

/-- Asserting FAULT_N changes plain registers only. -/
theorem assertFault_frame (mech : Byte) : s.assertFault mech = { s with regs := (s.assertFault mech).regs } := by
  rw [Mach.assertFault]
  split
  · rfl
  · exact regs_trans (regs_trans (setField_frame s _ _ _ _) (setField_frame _ _ _ _ _)) rfl

/-- Asserting FAULT_N changes no register but SAF_STATUS and SAF_FIRST_MS. -/
theorem reg_assertFault_other (mech : Byte) (a : Nat) (h1 : a ≠ safReg 0) (h2 : a ≠ safReg 4) :
    (s.assertFault mech).reg a = s.reg a := by
  rw [Mach.assertFault]
  split
  · rfl
  · simp [h1, h2]

/-- FAULT_N is asserted afterwards. -/
theorem faultN_assertFault (mech : Byte) : (s.assertFault mech).faultN = true := by
  by_cases h : s.faultN = true
  · rw [assertFault_again s mech h, h]
  · rw [Mach.assertFault, if_neg h, Mach.faultN]
    have : safReg 0 ≠ safReg 4 := by decide
    rw [reg_setReg, if_neg this, reg_setField, if_pos rfl, testBit_w32_setBits _ _ _ _ _ (le_refl _) (by omega)]
    simp

/-- A dangerous failure: its record is due, the failure is noted, FAULT_N is asserted. -/
theorem dangerous_frame (r : RecordReq) : s.dangerous r =
    { s with recordsDue := s.recordsDue ++ [⟨r, s.uptime, bits (s.reg (safReg 0)).toNat 29 26, s.livePools, !s.faultN⟩], danger := true,
             regs := (s.dangerous r).regs } := by
  rw [Mach.dangerous, assertFault_frame]; rfl

/-- FAULT_N is asserted after a dangerous failure. -/
theorem faultN_dangerous (r : RecordReq) : (s.dangerous r).faultN = true := faultN_assertFault _ _

/-- A dangerous failure changes no register but SAF_STATUS and SAF_FIRST_MS. -/
theorem reg_dangerous_other (r : RecordReq) (a : Nat) (h1 : a ≠ safReg 0) (h2 : a ≠ safReg 4) :
    (s.dangerous r).reg a = s.reg a := reg_assertFault_other _ _ _ h1 h2

end Sys2Proof.Laws
end

