-- ==== Sys2Proof/Laws/Mailbox.lean ====
section
/-! SUPPORT. Laws/Mailbox.lean: what the arrival of a request that is next of its session does (15 R363 to R366). -/

namespace Sys2Proof.Laws

open Sys2Proof.Machine Sys2Proof.Safety

variable (op : Nat) (r : Req) (s : State)

/-- A filter by a number that no buffered request has keeps the ring. -/
theorem ring_filter (l : List Buffered) (q : Nat) (h : ∀ b ∈ l, b.seq ≠ q) : l.filter (fun b => b.seq != q) = l :=
  List.filter_eq_self.2 fun b hb => by simpa using h b hb

/-- An acknowledgement changes what the session holds of its events only. -/
theorem acked_eq (m : Mach) (k ack : Nat) :
    ∃ ev, m.acked k ack = m.setSession k { m.session k with events := ev } := ⟨_, rfl⟩

/-- The execution of the request a session expects, found in its ring. -/
theorem serveRing_eq (k : Nat) (x : Buffered)
    (hf : s.m.nextReq k = some x) (ho : (s.m.session k).isOpen = true)
    (hd : doorbellWaits s.m x.opcode k (reqBody x.req) = none) :
    serveRing k s =
      (let y := handle x.opcode k x { s with m := { s.m.setSession k { s.m.session k with
                  ring := (s.m.session k).ring.filter fun b => b.seq != x.seq } with mbxLast := k } }
       let z := y.1.m.session k
       let done := { z with expected := (x.seq + 1) % 2 ^ 32,
                            answers := (⟨x.seq, x.opcode, y.2.1, y.2.2⟩ :: z.answers).take 64 }
       let m := if z.isOpen then y.1.m.setSession k done else y.1.m
       { y.1 with m := ((m.bump (portReg 0x40) 1).answer x.req x.opcode y.2.1 y.2.2).afterAnswer x.opcode y.2.1 (reqBody x.req) }) := by
  unfold serveRing
  dsimp only
  rw [hf]
  dsimp only
  rw [if_neg (by simp [ho]), hd, ite_self]

/-- What a request meets when it is handled: the machine as it was but for mailbox registers and its own session's events. -/
theorem atService_facts :
    atService op r s = { s.m with regs := (atService op r s).regs, sessions := (atService op r s).sessions,
                                  mbxLast := r.session.toNat } ∧
      (∀ a, a ∉ mailboxRegs → (atService op r s).reg a = s.m.reg a) ∧
      (atService op r s).session r.session.toNat =
        { s.m.session r.session.toNat with events := ((atService op r s).session r.session.toNat).events } ∧
      (∀ j, j ≠ r.session.toNat → (atService op r s).session j = s.m.session j) := by
  set k := r.session.toNat with hkdef
  obtain ⟨ev, hev⟩ := acked_eq (s.m.bump (portReg 0x10) 1) k r.ack.toNat
  set m := (s.m.bump (portReg 0x10) 1).acked k r.ack.toNat with hm
  have hsess : ∀ j, (s.m.bump (portReg 0x10) 1).session j = s.m.session j := fun j => by rw [bump_frame]; rfl
  have hmf : m = { s.m with regs := m.regs, sessions := m.sessions } := by rw [hev, bump_frame]; rfl
  have hmk : m.session k = { s.m.session k with events := ev } := by rw [hev, session_setSession, if_pos rfl, hsess]
  have hmo : ∀ j, j ≠ k → m.session j = s.m.session j := fun j hj => by rw [hev, session_setSession, if_neg hj, hsess]
  set b : Buffered := { seq := r.seq.toNat, opcode := op, priv := m.privileged, req := r } with hb
  set mb := (m.setSession k { m.session k with ring := (m.session k).ring ++ [b] }).raise 0 105 with hmb
  have hmbf : mb = { s.m with regs := mb.regs, sessions := mb.sessions } := by rw [hmb, raise_frame, hmf]; rfl
  have hmbs : ∀ j, j ≠ k → mb.session j = s.m.session j := fun j hj => by
    have : mb.session j = (m.setSession k { m.session k with ring := (m.session k).ring ++ [b] }).session j := by
      rw [hmb, raise_frame]; rfl
    rw [this, session_setSession, if_neg hj, hmo j hj]
  have e : atService op r s = { mb.setSession k (m.session k) with mbxLast := k } := rfl
  rw [e]
  refine ⟨?_, fun a ha => ?_, ?_, fun j hj => ?_⟩
  · rw [hmbf]; rfl
  · have h1 : a ≠ portReg 0x10 := fun e => ha (by simp [mailboxRegs, e])
    have h2 : a ≠ flaskReg 0 0x10C := fun e => ha (by simp [mailboxRegs, e])
    have h3 : a ≠ flaskReg 0 0x30 := fun e => ha (by simp [mailboxRegs, e])
    show mb.reg a = s.m.reg a
    rw [hmb, reg_raise_other _ _ _ _ h2 h3, reg_setSession, hev, reg_setSession, reg_bump, if_neg h1]
  · have : ({ mb.setSession k (m.session k) with mbxLast := k } : Mach).session k = m.session k := by
      show (mb.setSession k _).session k = _
      rw [session_setSession, if_pos rfl]
    rw [this, hmk]
  · show (mb.setSession k _).session j = _
    rw [session_setSession, if_neg hj, hmbs j hj]

/-- What the mailbox finds in the ring of a session whose next request has arrived. -/
theorem atArrival_next (he : (s.m.session r.session.toNat).expected = r.seq.toNat)
    (hring : ∀ b ∈ (s.m.session r.session.toNat).ring, b.seq ≠ r.seq.toNat) :
    ∃ y : Session, y = ((s.m.bump (portReg 0x10) 1).acked r.session.toNat r.ack.toNat).session r.session.toNat ∧
      y.isOpen = (s.m.session r.session.toNat).isOpen ∧ y.expected = r.seq.toNat ∧ (∀ b ∈ y.ring, b.seq ≠ r.seq.toNat) ∧
      (atArrival op r s).session r.session.toNat = { y with ring := y.ring ++ [⟨r.seq.toNat, op, s.m.privileged, r⟩] } ∧
      (atArrival op r s).nextReq r.session.toNat = some ⟨r.seq.toNat, op, s.m.privileged, r⟩ := by
  obtain ⟨ev, hev⟩ := acked_eq (s.m.bump (portReg 0x10) 1) r.session.toNat r.ack.toNat
  have hsess : ∀ j, (s.m.bump (portReg 0x10) 1).session j = s.m.session j := fun j => by rw [bump_frame]; rfl
  have hpriv : ((s.m.bump (portReg 0x10) 1).acked r.session.toNat r.ack.toNat).privileged = s.m.privileged := by
    simp only [Mach.privileged, Mach.sealed, Mach.sec]
    rw [hev, reg_setSession, reg_bump, if_neg (by decide)]
  have hy : ((s.m.bump (portReg 0x10) 1).acked r.session.toNat r.ack.toNat).session r.session.toNat =
      { s.m.session r.session.toNat with events := ev } := by rw [hev, session_setSession, if_pos rfl, hsess]
  have hs : (atArrival op r s).session r.session.toNat = { s.m.session r.session.toNat with
      events := ev, ring := (s.m.session r.session.toNat).ring ++ [⟨r.seq.toNat, op, s.m.privileged, r⟩] } := by
    unfold atArrival
    dsimp only
    rw [raise_frame, hy, hpriv]
    show (Mach.setSession _ _ _).session _ = _
    rw [session_setSession, if_pos rfl]
  refine ⟨_, rfl, by rw [hy], by rw [hy]; exact he, by rw [hy]; exact hring, by rw [hs, hy], ?_⟩
  rw [Mach.nextReq, hs]
  have h0 : (s.m.session r.session.toNat).ring.find? (fun x => x.seq == r.seq.toNat) = none :=
    List.find?_eq_none.2 fun x hx => by simpa using hring x hx
  simp only [he]
  rw [List.find?_append, h0]
  simp

/-- The service of a session whose next request has arrived: `atService`, then `afterHandling`. -/
theorem serve_atArrival (ho : (s.m.session r.session.toNat).isOpen = true)
    (he : (s.m.session r.session.toNat).expected = r.seq.toNat)
    (hring : ∀ b ∈ (s.m.session r.session.toNat).ring, b.seq ≠ r.seq.toNat)
    (hd : doorbellWaits (atArrival op r s) op r.session.toNat (reqBody r) = none) :
    serveRing r.session.toNat { s with m := atArrival op r s } = afterHandling op r
      (handle op r.session.toNat ⟨r.seq.toNat, op, s.m.privileged, r⟩ { s with m := atService op r s }) := by
  obtain ⟨y, hy, hyo, hye, hyr, hs, hn⟩ := atArrival_next op r s he hring
  rw [serveRing_eq { s with m := atArrival op r s } _ _ hn (by rw [hs]; exact hyo.trans ho) hd]
  have hf : (y.ring ++ [(⟨r.seq.toNat, op, s.m.privileged, r⟩ : Buffered)]).filter (fun x => x.seq != r.seq.toNat) = y.ring := by
    rw [List.filter_append, ring_filter y.ring _ hyr]
    simp
  have em : ({ (atArrival op r s).setSession r.session.toNat { (atArrival op r s).session r.session.toNat with
      ring := ((atArrival op r s).session r.session.toNat).ring.filter fun x => x.seq != r.seq.toNat } with
      mbxLast := r.session.toNat } : Mach) = atService op r s := by
    rw [hs]
    simp only [hf]
    rw [hy]
    rfl
  dsimp only
  rw [em]
  rfl

/-- A request that is next of its session enters the ring and is served. -/
theorem arriveRing_served (he : (s.m.session r.session.toNat).expected = r.seq.toNat)
    (hring : ∀ b ∈ (s.m.session r.session.toNat).ring, b.seq ≠ r.seq.toNat)
    (hturn : (atArrival op r s).mbxNext = some r.session.toNat) :
    arriveRing op r true { s with m := s.m.bump (portReg 0x10) 1 } = serveRing r.session.toNat { s with m := atArrival op r s } := by
  obtain ⟨y, hy, -, hye, hyr, -, -⟩ := atArrival_next op r s he hring
  have hany : (y.ring.any fun x => x.seq == r.seq.toNat) = false := by
    rw [List.any_eq_false]
    intro x hx
    simpa using hyr x hx
  have hwin : wrap 32 ((r.seq.toNat : Int) - (y.expected : Int)) < 64 := by rw [hye]; simp [wrap]
  have ha : (((s.m.bump (portReg 0x10) 1).acked r.session.toNat r.ack.toNat).setSession r.session.toNat { y with
      ring := y.ring ++ [⟨r.seq.toNat, op, ((s.m.bump (portReg 0x10) 1).acked r.session.toNat r.ack.toNat).privileged, r⟩] }).raise
      0 105 = atArrival op r s := by rw [hy]; rfl
  have hb : ∀ x : State, x = { s with m := s.m.bump (portReg 0x10) 1 } →
      arriveRing op r true x = serveRing r.session.toNat { x with m := atArrival op r s } := by
    intro x hx
    have hxa : x.m.acked r.session.toNat r.ack.toNat = (s.m.bump (portReg 0x10) 1).acked r.session.toNat r.ack.toNat := by rw [hx]
    clear hx
    unfold arriveRing
    extract_lets k m z q b t
    have hz : z = y := by rw [hy]; show (x.m.acked _ _).session _ = _; rw [hxa]
    have hm : m = (s.m.bump (portReg 0x10) 1).acked r.session.toNat r.ack.toNat := hxa
    have ht : t = { x with m := atArrival op r s } := by rw [← ha, ← hz, ← hm]
    clear_value t
    subst ht
    clear_value z m
    subst hz hm
    rw [if_pos hwin, if_neg (by rw [hany]; exact Bool.false_ne_true), if_pos]
    simp only [Bool.true_and, Bool.and_eq_true, beq_iff_eq]
    exact ⟨hye.symm, hturn⟩
  exact hb _ rfl

/-- A request that is next of its session is handled when it arrives. -/
theorem message_served (h : Served op r s) (hg : isGateOp op = false) (h1 : op ≠ 1) :
    message op r s = afterHandling op r
      (handle op r.session.toNat ⟨r.seq.toNat, op, s.m.privileged, r⟩ { s with m := atService op r s }) := by
  obtain ⟨hl, hp, hc, hr, -, hcls, hm, hk, -, he, hring, hturn, hd⟩ := h
  have reg_port : ∀ a, a ≠ portReg 0x10 → (s.m.bump (portReg 0x10) 1).reg a = s.m.reg a := fun a ha => by simp [ha]
  have hsess : ∀ j, (s.m.bump (portReg 0x10) 1).session j = s.m.session j := fun j => by rw [bump_frame]; rfl
  have hlb : (s.m.bump (portReg 0x10) 1).linkUp = true := by rw [Mach.linkUp, reg_port _ (by decide)]; exact hl
  have hrb : (s.m.bump (portReg 0x10) 1).isReady = true := by rw [Mach.isReady, reg_port _ (by decide)]; exact hr
  have hcb : (s.m.bump (portReg 0x10) 1).controlAlive = true := by rw [bump_frame]; exact hc
  have hpb : r.port.toNat = (s.m.bump (portReg 0x10) 1).gctPort := by rw [bump_frame]; exact hp
  have hkb : (s.m.bump (portReg 0x10) 1).known r = true := by rw [Mach.known, hsess]; exact hk
  have ho : (s.m.session r.session.toNat).isOpen = true := by
    simp only [Mach.known, Bool.and_eq_true] at hk
    exact hk.1.1
  rw [message, if_pos hl, arrive]
  dsimp only
  rw [if_neg (by simp [hlb, hpb]), if_neg (by simp [hcls]), if_neg (by simp [hcb]), if_neg (by simp [hm]), if_neg (by simp [hrb]),
    if_neg (by simp [hg]), if_neg h1, if_neg (by simp [hkb]), arriveRing_served op r s he hring hturn,
    serve_atArrival op r s ho he hring hd]

/-- An answered request: the answer stored and sent, and nothing else. -/
theorem answered_facts (y : SecReply) :
    answered op r y = { y.1.m with
        out := (answered op r y).out, txHeld := (answered op r y).txHeld, regs := (answered op r y).regs,
        sessions := (answered op r y).sessions } ∧
      (∀ a, a ∉ mailboxRegs → (answered op r y).reg a = y.1.m.reg a) ∧
      ((y.1.m.session r.session.toNat).isOpen = true → (answered op r y).session r.session.toNat =
        { y.1.m.session r.session.toNat with
          expected := (r.seq.toNat + 1) % 2 ^ 32,
          answers := (⟨r.seq.toNat, op, y.2.1, y.2.2⟩ :: (y.1.m.session r.session.toNat).answers).take 64 }) ∧
      ((y.1.m.session r.session.toNat).isOpen = false →
        (answered op r y).session r.session.toNat = y.1.m.session r.session.toNat) ∧
      (∀ j, j ≠ r.session.toNat → (answered op r y).session j = y.1.m.session j) := by
  set k := r.session.toNat with hk
  set done : Session := { y.1.m.session k with
    expected := (r.seq.toNat + 1) % 2 ^ 32,
    answers := (⟨r.seq.toNat, op, y.2.1, y.2.2⟩ :: (y.1.m.session k).answers).take 64 } with hdone
  set m := if (y.1.m.session k).isOpen then y.1.m.setSession k done else y.1.m with hm
  have hmf : m = { y.1.m with sessions := m.sessions } := by rw [hm]; split <;> rfl
  have hmr : ∀ a, m.reg a = y.1.m.reg a := fun a => by rw [hm]; split <;> rfl
  set x : Sent := .answer r.source op r.session.toNat r.seq.toNat y.2.1 y.2.2 with hx
  set n := (m.bump (portReg 0x40) 1).answer r op y.2.1 y.2.2 with hn
  have hne : n = ((m.bump (portReg 0x40) 1).sendOn (txMark r.cls r.tagged) x).bump (portReg 0x4C) (if y.2.1 = stOk then 0 else 1) := rfl
  have hnf : n = { m with out := n.out, txHeld := n.txHeld, regs := n.regs } := by
    rw [hne, bump_frame, sendOn_frame, bump_frame]
  have hns : ∀ j, n.session j = m.session j := fun j => by rw [hnf]; rfl
  have e : answered op r y = n := rfl
  rw [e]
  refine ⟨?_, fun a ha => ?_, fun h => ?_, fun h => ?_, fun j hj => ?_⟩
  · rw [hnf, hmf]
  · have h1 : a ≠ portReg 0x40 := fun e => ha (by simp [mailboxRegs, e])
    have h2 : a ≠ portReg 0x4C := fun e => ha (by simp [mailboxRegs, e])
    have h3 : a ≠ portReg 0x14 := fun e => ha (by simp [mailboxRegs, e])
    show n.reg a = _
    rw [hne, reg_bump, if_neg h2, reg_sendOn_other _ _ _ _ h3, reg_bump, if_neg h1, hmr]
  · show n.session k = _
    rw [hns, hm, if_pos h, session_setSession, if_pos rfl]
  · show n.session k = _
    rw [hns, hm, if_neg (by simp [h])]
  · show n.session j = _
    rw [hns, hm]
    split
    · rw [session_setSession, if_neg hj]
    · rfl

/-- After any answer but that of an OBJECT_PLACE with ST_OK nothing follows. -/
theorem afterHandling_eq (y : SecReply) (h : op = 0x21 → y.2.1 ≠ stOk) :
    afterHandling op r y = { y.1 with m := answered op r y } := by
  rw [afterHandling, Mach.afterAnswer, if_neg fun e => h e.1 e.2]

end Sys2Proof.Laws
end

