-- ==== Sys2Proof/Laws/Memory.lean ====
section
/-! SUPPORT. Laws/Memory.lean: what the operations on the module's memories can do: a read after a write, the bytes a write
leaves alone, what poisoning an object touches, and that every operation keeps the canonical form of the memories. -/

namespace Sys2Proof.Laws

open Sys2Proof.Machine

variable (s : Mach)

/-! ## Reads after writes -/

/-- A byte of the near tier after a store of bytes. -/
theorem nearByte_putBytes (a : Nat) (l : List Byte) (x : Nat) :
    (s.putBytes a l).nearByte x = if h : a ≤ x ∧ x < a + l.length then l[x - a] else s.nearByte x :=
  tabGet_tabPut (fun _ => 0#8) s.near a l x

/-- Stored bytes read back. -/
theorem nearBytes_putBytes (a : Nat) (l : List Byte) : (s.putBytes a l).nearBytes a l.length = l :=
  tabRead_tabPut (fun _ => 0#8) s.near a l

/-- Module-tier bytes read back. -/
theorem lpBytes_lpPut (m : Nat) (l : List Byte) : (s.lpPut m l).lpBytes m l.length = l :=
  tabRead_tabPut (fun _ => 0#8) s.lp m l

/-- Scratchpad bytes read back. -/
theorem scrBytes_scrPut (c a : Nat) (l : List Byte) : (s.scrPut c a l).scrBytes c a l.length = l :=
  tabRead_tabPut (fun _ => 0#8) s.scratch (c * 2 ^ 20 + a) l

/-- Cluster-buffer bytes read back. -/
theorem cbBytes_cbPut (k a : Nat) (l : List Byte) : (s.cbPut k a l).cbBytes k a l.length = l :=
  tabRead_tabPut (fun _ => 0#8) s.cbuf (k * 2 ^ 23 + a) l

/-- An accumulator element after a write of one. -/
theorem accGet_accSet (i j : Nat) (w : Word) : (s.accSet i w).accGet j = if j = i then w else s.accGet j :=
  tabGet_tabSet (fun _ => 0#32) s.acc i j w

/-! ## What poisoning touches -/

/-- Dropping translations changes translation caches and registers only. -/
theorem invalidateObj_frame (n : Nat) :
    s.invalidateObj n = { s with cores := (s.invalidateObj n).cores, regs := (s.invalidateObj n).regs } := by
  unfold Mach.invalidateObj
  extract_lets
  split
  · rfl
  · rw [raise_frame, bump_frame]

/-- Poisoning an object changes objects, registers, records due and translation caches only. -/
theorem poisonObj_frame (n : Nat) : s.poisonObj n = { s with
    objs := (s.poisonObj n).objs, regs := (s.poisonObj n).regs, recordsDue := (s.poisonObj n).recordsDue,
    cores := (s.poisonObj n).cores } := by
  have key : ∀ (o : Obj) (r : RecordReq), ((s.setObj n o).bump (tierReg 0x24) 1).recordDue r = { s with
      objs := (s.setObj n o).objs, regs := ((s.setObj n o).bump (tierReg 0x24) 1).regs,
      recordsDue := (((s.setObj n o).bump (tierReg 0x24) 1).recordDue r).recordsDue } := by
    intro o r
    rw [bump_frame]
    rfl
  unfold Mach.poisonObj
  extract_lets o again y z
  split
  · rfl
  · have hz : z = { s with objs := z.objs, regs := z.regs, recordsDue := z.recordsDue } := key _ _
    clear_value z
    split
    · rw [hz]
    · rw [invalidateObj_frame, hz]
      rfl

/-! ## The canonical form -/

/-- The module's memories after reset are in canonical form. -/
theorem wf_reset : Memory.wf State.reset.m = true := by decide

/-- The form of the memories, one part for each. -/
structure MemParts (s : Mach) : Prop where
  near : tabWf (fun _ => 0#8) s.near = true
  slag : tabWf (fun _ => false) s.slag = true
  spare : tabWf (fun _ => 0#513) s.spare = true
  lpSpare : tabWf (fun _ => none) s.lpSpare = true
  lp : tabWf (fun _ => 0#8) s.lp = true
  lpSlag : tabWf (fun _ => false) s.lpSlag = true
  scratch : tabWf (fun _ => 0#8) s.scratch = true
  stage : tabWf (fun _ => 0#8) s.stage = true
  cbuf : tabWf (fun _ => 0#8) s.cbuf = true
  acc : tabWf (fun _ => 0#32) s.acc = true
  accAdds : tabWf (fun _ => 0) s.accAdds = true
  under : tabWf (fun _ => false) s.under = true
  flaskRam : tabWf (fun _ => none) s.flaskRam = true

/-- The form holds of the whole where it holds of every part. -/
theorem wf_iff : Memory.wf s = true ↔ MemParts s := by
  simp only [Memory.wf, Bool.and_eq_true]
  constructor
  · rintro ⟨⟨⟨⟨⟨⟨⟨⟨⟨⟨⟨⟨near, slag⟩, spare⟩, lpSpare⟩, lp⟩, lpSlag⟩, scratch⟩, stage⟩, cbuf⟩, acc⟩, accAdds⟩, under⟩, flaskRam⟩
    exact ⟨near, slag, spare, lpSpare, lp, lpSlag, scratch, stage, cbuf, acc, accAdds, under, flaskRam⟩
  · intro m
    simp only [m.near, m.slag, m.spare, m.lpSpare, m.lp, m.lpSlag, m.scratch, m.stage, m.cbuf, m.acc, m.accAdds, m.under,
      m.flaskRam, and_self]

/-- A change that touches no memory keeps the form. -/
theorem wf_congr {a b : Mach} (h : Memory.wf a = true)
    (e : b = { b with near := a.near, slag := a.slag, spare := a.spare, lpSpare := a.lpSpare, lp := a.lp, lpSlag := a.lpSlag,
                      scratch := a.scratch, stage := a.stage, cbuf := a.cbuf, acc := a.acc, accAdds := a.accAdds,
                      under := a.under, flaskRam := a.flaskRam }) : Memory.wf b = true := by
  rw [e]; exact h

/-- Counting keeps the form. -/
theorem wf_bump (a n : Nat) (h : Memory.wf s = true) : Memory.wf (s.bump a n) = true := by
  rw [bump_frame]; exact h

/-- Poisoning an object keeps the form. -/
theorem wf_poisonObj (n : Nat) (h : Memory.wf s = true) : Memory.wf (s.poisonObj n) = true := by
  rw [poisonObj_frame]; exact h

/-- A repeated operation keeps the form where each one does. -/
theorem wf_each {α : Type} (f : α → Mach → Mach) (l : List α) (hf : ∀ x m, Memory.wf m = true → Memory.wf (f x m) = true)
    (h : Memory.wf s = true) : Memory.wf (each f l s) = true := by
  unfold each
  induction l generalizing s with
  | nil => exact h
  | cons x l ih => exact ih (f x s) (hf x s h)

/-! ### The near tier -/

/-- A store of near-tier bytes keeps the form. -/
theorem wf_putBytes (a : Nat) (l : List Byte) (h : Memory.wf s = true) : Memory.wf (s.putBytes a l) = true :=
  (wf_iff _).2 { (wf_iff s).1 h with near := tabWf_tabPut _ _ _ _ ((wf_iff s).1 h).near }

/-- A write of a slag mark keeps the form. -/
theorem wf_setSlag (a : Nat) (v : Bool) (h : Memory.wf s = true) : Memory.wf (s.setSlag a v) = true := by
  have h' : Memory.wf { s with slag := tabSet (fun _ => false) s.slag (a / 64) v } = true :=
    (wf_iff _).2 { (wf_iff s).1 h with slag := tabWf_tabSet _ _ _ _ ((wf_iff s).1 h).slag }
  unfold Mach.setSlag
  extract_lets y
  split
  · split
    · exact wf_poisonObj _ _ h'
    · exact h'
  · exact h'

/-- A change of the mark beneath a line keeps the form. -/
theorem wf_setUnder (k : Nat) (v : Bool) (h : Memory.wf s = true) :
    Memory.wf { s with under := tabSet (fun _ => false) s.under k v } = true :=
  (wf_iff _).2 { (wf_iff s).1 h with under := tabWf_tabSet _ _ _ _ ((wf_iff s).1 h).under }

/-- A sector found uncorrectable keeps the form. -/
theorem wf_stackSlag (a : Nat) (h : Memory.wf s = true) : Memory.wf (s.stackSlag a) = true := by
  unfold Mach.stackSlag
  split
  · exact wf_setUnder _ _ _ h
  · exact wf_setSlag _ _ _ h

/-- A write within a sector keeps the form. -/
theorem wf_writeSector (a : Nat) (l : List Byte) (mark : Bool) (h : Memory.wf s = true) :
    Memory.wf (s.writeSector a l mark) = true := by
  have h' := wf_putBytes s a l h
  unfold Mach.writeSector
  extract_lets whole y
  split
  · exact wf_bump _ _ _ h
  · split
    · split
      · exact wf_setSlag _ _ _ h'
      · exact h'
    · split
      · exact wf_setSlag _ _ _ h'
      · exact h'

/-- A write of bytes at a physical address keeps the form. -/
theorem wf_writeNear (a : Nat) (l : List Byte) (mark : Bool) (h : Memory.wf s = true) :
    Memory.wf (s.writeNear a l mark) = true :=
  wf_each s _ _ (fun p m hm => wf_writeSector m p.1 p.2 mark hm) h

/-- A read keeps the form: it counts the slag it delivers. -/
theorem wf_readNear (a n : Nat) (h : Memory.wf s = true) : Memory.wf (s.readNear a n).2.2 = true :=
  wf_each s _ _ (fun _ m hm => wf_bump m _ _ hm) h

/-- A line that leaves its cache keeps the form. -/
theorem wf_dropLine (l : Line) (h : Memory.wf s = true) : Memory.wf (s.dropLine l) = true := by
  apply wf_each _ _ _ _ h
  intro k m hm
  dsimp only
  split
  · exact hm
  · split
    · exact wf_setUnder m _ _ hm
    · exact wf_setSlag _ _ _ (wf_setUnder m _ _ hm)

/-- A set of a cache that takes new lines keeps the form. -/
theorem wf_replaceSet (g set : Nat) (l : List Line) (h : Memory.wf s = true) : Memory.wf (s.replaceSet g set l) = true :=
  wf_each _ _ _ (fun x m hm => wf_dropLine m x hm) (wf_congr h rfl)

/-- An access to a line of a shared cache keeps the form. -/
theorem wf_touchLine (pa : Nat) (write : Bool) (hint : Hint) (h : Memory.wf s = true) :
    Memory.wf (s.touchLine pa write hint) = true := by
  have h1 : ∀ a, Memory.wf (s.bump a 1) = true := fun a => wf_bump s a 1 h
  unfold Mach.touchLine
  extract_lets g set l tag hit y other kind most kept line
  split
  · exact h1 _
  · clear_value line kept kind
    split
    · split
      · exact wf_bump _ _ _ (wf_replaceSet _ _ _ _ (h1 _))
      · exact wf_replaceSet _ _ _ _ (h1 _)
    · exact wf_replaceSet _ _ _ _ (h1 _)

/-- An access that passes through the shared caches keeps the form. -/
theorem wf_touch (pa n : Nat) (write : Bool) (hint : Hint) (h : Memory.wf s = true) : Memory.wf (s.touch pa n write hint) = true := by
  unfold Mach.touch
  extract_lets y
  split
  · exact h
  · split
    · exact wf_congr h rfl
    · exact wf_each _ _ _ (fun _ m hm => wf_touchLine m _ _ _ hm) h

/-- Zero-filling keeps the form. -/
theorem wf_clearNear (a n : Nat) (h : Memory.wf s = true) : Memory.wf (s.clearNear a n) = true := by
  unfold Mach.clearNear
  extract_lets bad keep y
  have hy : Memory.wf y = true := (wf_iff _).2 { (wf_iff s).1 h with
    near := tabWf_filter _ _ _ ((wf_iff s).1 h).near, slag := tabWf_filter _ _ _ ((wf_iff s).1 h).slag }
  exact wf_touch _ _ _ _ _ (wf_each _ _ _ (fun _ m hm => wf_bump m _ _ hm) hy)

/-! ### The module tier and the sectors no address reaches -/

/-- A store of module-tier bytes keeps the form. -/
theorem wf_lpPut (m : Nat) (l : List Byte) (h : Memory.wf s = true) : Memory.wf (s.lpPut m l) = true :=
  (wf_iff _).2 { (wf_iff s).1 h with lp := tabWf_tabPut _ _ _ _ ((wf_iff s).1 h).lp }

/-- A write of a module-tier slag mark keeps the form. -/
theorem wf_lpSetSlag (m : Nat) (v : Bool) (h : Memory.wf s = true) : Memory.wf (s.lpSetSlag m v) = true := by
  have h' : Memory.wf { s with lpSlag := tabSet (fun _ => false) s.lpSlag (m / 64) v } = true :=
    (wf_iff _).2 { (wf_iff s).1 h with lpSlag := tabWf_tabSet _ _ _ _ ((wf_iff s).1 h).lpSlag }
  unfold Mach.lpSetSlag
  extract_lets y
  split
  · split
    · exact wf_poisonObj _ _ h'
    · exact h'
  · exact h'

/-- Replacing an unmapped sector keeps the form. -/
theorem wf_spare (k : Nat) (v : BitVec 513) (h : Memory.wf s = true) :
    Memory.wf { s with spare := tabSet (fun _ => 0#513) s.spare k v } = true :=
  (wf_iff _).2 { (wf_iff s).1 h with spare := tabWf_tabSet _ _ _ _ ((wf_iff s).1 h).spare }

/-- Replacing a sector of a test area keeps the form. -/
theorem wf_lpSpare (k : Nat) (v : Option (BitVec 513)) (h : Memory.wf s = true) :
    Memory.wf { s with lpSpare := tabSet (fun _ => none) s.lpSpare k v } = true :=
  (wf_iff _).2 { (wf_iff s).1 h with lpSpare := tabWf_tabSet _ _ _ _ ((wf_iff s).1 h).lpSpare }

/-- Replacing a stored sector keeps the form. -/
theorem wf_store (a : SectorAt) (x : Stored) (h : Memory.wf s = true) : Memory.wf (s.store a x) = true := by
  unfold Mach.store
  split
  · split
    · extract_lets b y
      have hb : Memory.wf b = true := wf_putBytes _ _ _ h
      have hy : Memory.wf y = true := wf_setUnder b _ _ hb
      split
      · exact wf_setSlag _ _ _ hy
      · exact hy
    · exact wf_spare _ _ _ h
  · split
    · exact wf_lpSpare _ _ _ h
    · extract_lets m y
      split
      · exact wf_lpSetSlag _ _ _ (wf_lpPut _ _ _ h)
      · exact wf_lpPut _ _ _ h

/-- Rewriting an uncorrectable sector keeps the form. -/
theorem wf_storeBad (a : SectorAt) (x : Stored) (h : Memory.wf s = true) : Memory.wf (s.storeBad a x) = true := by
  unfold Mach.storeBad
  split
  · split
    · split
      · exact wf_stackSlag _ _ h
      · exact wf_store _ _ _ h
    · exact wf_store _ _ _ h
  · exact wf_store _ _ _ h

/-! ### The memories of cores, clusters and flasks -/

/-- A store of scratchpad bytes keeps the form. -/
theorem wf_scrPut (c a : Nat) (l : List Byte) (h : Memory.wf s = true) : Memory.wf (s.scrPut c a l) = true :=
  (wf_iff _).2 { (wf_iff s).1 h with scratch := tabWf_tabPut _ _ _ _ ((wf_iff s).1 h).scratch }

/-- A store of cluster-buffer bytes keeps the form. -/
theorem wf_cbPut (k a : Nat) (l : List Byte) (h : Memory.wf s = true) : Memory.wf (s.cbPut k a l) = true :=
  (wf_iff _).2 { (wf_iff s).1 h with cbuf := tabWf_tabPut _ _ _ _ ((wf_iff s).1 h).cbuf }

/-- A byte that enters a core's line stage keeps the form. -/
theorem wf_stageSet (c cmd i : Nat) (b : Byte) (h : Memory.wf s = true) : Memory.wf (s.stageSet c cmd i b) = true := by
  unfold Mach.stageSet
  split
  · exact (wf_iff _).2 { (wf_iff s).1 h with stage := tabWf_tabSet _ _ _ _ ((wf_iff s).1 h).stage }
  · exact wf_cbPut _ _ _ _ h

/-- A write of an accumulator element keeps the form. -/
theorem wf_accSet (i : Nat) (w : Word) (h : Memory.wf s = true) : Memory.wf (s.accSet i w) = true :=
  (wf_iff _).2 { (wf_iff s).1 h with acc := tabWf_tabSet _ _ _ _ ((wf_iff s).1 h).acc }

/-- A row's commit keeps the form: its elements and the counts of their additions. -/
theorem wf_commitWrite (e q slot r : Nat) (t : EngTile) (vals : List Word) (adds : List Nat) (h : Memory.wf s = true) :
    Memory.wf (s.commitWrite e q slot r t vals adds) = true := by
  refine wf_each s _ _ (fun p m hm => ?_) h
  have h1 := (wf_iff _).1 (wf_accSet m (accIndex e t.quarter q slot r p.1) p.2.1 hm)
  exact (wf_iff _).2 { h1 with accAdds := tabWf_tabSet _ _ _ _ h1.accAdds }

/-- A byte of a flask's memories that is written keeps the form. -/
theorem wf_flaskRam (k : Nat) (v : Option Byte) (h : Memory.wf s = true) :
    Memory.wf { s with flaskRam := tabSet (fun _ => none) s.flaskRam k v } = true :=
  (wf_iff _).2 { (wf_iff s).1 h with flaskRam := tabWf_tabSet _ _ _ _ ((wf_iff s).1 h).flaskRam }

/-- A store that leaves a lockstep pair keeps the form. -/
theorem wf_pairStore (d p : Nat) (x : PairOut) (h : Memory.wf s = true) : Memory.wf (pairStore s d p x) = true := by
  unfold pairStore
  refine wf_each s _ _ ?_ h
  intro i m hm
  split
  · exact wf_flaskRam m _ _ hm
  · exact hm

end Sys2Proof.Laws
end

