-- ==== Sys2Proof/Laws/Xlate.lean ====
section
/-! SUPPORT. Laws/Xlate.lean: what a walk of the tables finds (13_tiers_and_residency.md R295 to R297), so that no proof descends
through the levels again. -/

namespace Sys2Proof.Laws
open Sys2Proof.Machine

variable (s : Mach)

/-- The leaf entry of a mapping for an address (R296). -/
def leafEntry (m : Mapping) (va : Nat) : TableEntry :=
  let o := s.obj m.obj
  { valid := true, leaf := true, present := o.present, write := m.write, rdmaR := m.rdmaR, rdmaW := m.rdmaW, watch := o.watch,
    addr := (o.pa ((va - m.va) / o.leaf * o.leaf)).getD 0, obj := m.obj }

/-- No entry on the way to an address that no mapping covers is a leaf. -/
theorem descend_not_leaf (ctx va : Nat) (h : s.leafAt ctx va = none) (n : Nat) :
    ∀ level, (s.descend ctx va n level).2.leaf = false := by
  have e : ∀ level, (s.tableEntry ctx va level).leaf = false := by
    intro level
    simp only [Mach.tableEntry, h]
    split <;> rfl
  induction n with
  | zero => exact e
  | succ n ih =>
    intro level
    simp only [Mach.descend]
    split
    · exact ih _
    · exact e level

/-- A walk of an address that no mapping covers finds no leaf. -/
theorem tableLeaf_none (ctx va : Nat) (h : s.leafAt ctx va = none) : s.tableLeaf ctx va = none := by
  rw [Mach.tableLeaf]
  simp [descend_not_leaf s ctx va h]

/-- A walk of an address that a mapping covers finds its leaf. -/
theorem tableLeaf_some (ctx va : Nat) (m : Mapping) (h : s.leafAt ctx va = some m) :
    s.tableLeaf ctx va = some (leafEntry s m va) := by
  have e : ∀ level, s.tableEntry ctx va level = if level = (s.obj m.obj).leafLevel then leafEntry s m va
      else if level < (s.obj m.obj).leafLevel then { valid := true, addr := s.tableBase ctx (level + 1) va } else {} := by
    intro level
    simp only [Mach.tableEntry, h, leafEntry]
  rw [Mach.tableLeaf]
  cases hl : (s.obj m.obj).leaf64k <;> simp [Mach.descend, e, Obj.leafLevel, hl, leafEntry]

end Sys2Proof.Laws
end

