-- ==== Sys2Proof/Tests/Slice0.lean ====
section
/-! SUPPORT. Tests/Slice0.lean: the model's own tests. The well-formedness checks refuse an ill-formed operand each; small steps
agree with the worked examples and tables of spec/; and for every statement with hypotheses a theorem `wit_…` names a state and
operands that meet them, clause by clause, on small machines built by the helpers below. -/

namespace Sys2Proof.Tests

open Sys2Proof Sys2Proof.Machine Sys2Proof.Safety

set_option Elab.async false

/-! ## Helpers -/

/-- A state that holds a machine, with nothing waiting. -/
def on (m : Mach) : State := { State.reset with m := m }
/-- Whether a result succeeds. -/
def isOk {α : Type} (r : Res α) : Bool := match r with
  | .ok _ _ => true
  | .err _ _ => false
/-- A result that succeeds has a value and a state: what the statements assume of it. -/
theorem ok_of_isOk {α : Type} (r : Res α) (h : isOk r = true) : ∃ a s, r = .ok a s := by
  cases r with
  | ok a s => exact ⟨a, s, rfl⟩
  | err f s => simp [isOk] at h
/-- Whether a command goes on to a state with a property. -/
def goes (c : Instr) (s : State) (p : State → Bool) : Bool := match exec c s with
  | .next t => p t
  | _ => false
/-- Whether a command changes nothing. -/
def stays (c : Instr) (s : State) : Bool := goes c s fun t => decide (t = s)

/-! ## Well-formed operands -/

/-- A sector of a pseudo-channel has a number below 12,582,912 (12 R262). -/
theorem test_wf_hbm_sector : (Instr.sectorRead (.hbm 0 12582911) []).wf = true ∧ (Instr.sectorRead (.hbm 0 12582912) []).wf = false := by
  decide
/-- A sector of a package lies in its 30 GiB of data or in the test area, its last 128 MiB (12 R284 to R286). -/
theorem test_wf_lpddr_sector : ∀ n ∈ [503316479, 503316480, 534773759, 534773760, 536870911],
    (Instr.sectorWrite (.lpddr 0 (BitVec.ofNat 29 n)) 0 0 false []).wf = [503316479, 534773760, 536870911].contains n := by decide
/-- A link joins two dies (01 R21). -/
theorem test_wf_hop : (Instr.flitRetry (.link 0 1)).wf = true ∧ (Instr.flitRetry (.link 2 2)).wf = false ∧
    (Instr.retryExhaustion (.link 1 1)).wf = false := by decide
/-- Symbol errors are differences (12 R268). -/
theorem test_wf_error_differs : (Instr.patrolRead (.stack 0) [(3, 1)]).wf = true ∧ (Instr.patrolRead (.stack 0) [(3, 0)]).wf = false := by decide
/-- Symbol errors lie at distinct positions (12 R268). -/
theorem test_wf_error_positions :
    (Instr.sectorRead (.hbm 0 0) [(3, 1), (4, 1)]).wf = true ∧ (Instr.sectorRead (.hbm 0 0) [(3, 1), (3, 2)]).wf = false := by decide
/-- An ill-formed operand is a fault by its name. -/
theorem test_ill_formed_faults : exec (.patrolRead (.stack 0) [(3, 0)]) State.reset = .fault (.illFormed "symbol errors") := rfl


/-! ## The block as a whole -/

/-- Hypotheses of StepTakesFrontCommand, FusesOnlyGrow and NumbersStayFresh: a step with a command and one without. -/
theorem wit_steps : (∃ t, step { State.reset with pending := [.accessedSweep] } = .next t ∧ t.pending = []) ∧
    (∃ t, step State.reset = .next t ∧ t.m.upNs = 1) ∧ State.reset.m.life ≠ .off ∧ State.reset.m.life ≠ .held ∧
    State.reset.m.upNs < 1000000 ∧ NumbersFresh State.reset.m :=
  ⟨⟨_, rfl, rfl⟩, ⟨_, rfl, by decide +kernel⟩, by decide, by decide, by decide, fun c h => by cases h⟩
/-- Both outcomes of CommandsKeepTheQueue occur. -/
theorem wit_CommandsKeepTheQueue : (∃ t, exec .accessedSweep State.reset = .next t ∧ t.pending = State.reset.pending) ∧
    (Instr.patrolRead (.stack 0) [(3, 0)]).wf = false := ⟨⟨_, rfl, rfl⟩, by decide⟩


/-! ## Engines (04) -/

/-- A tile of one row and one pattern in quarter mode: BF16 by BF16, column 0 alone, operands and output in the scratchpad. -/
def tile : EngTile :=
  { cmd := 0, core := 0, item := 0, entry := 1, rank := 0, quarter := true, slot := 0, rows := 1, pats := 1, depth := 16,
    pat := 0, str := 0, accum := false, drain := true, transpose := false, rowMask := 0xFFFF, colMask := 1, stoch := false,
    seedRow := 0, seedCol := 0, tr := 0, tc := 0, parity := 0, patAddr := (1, 0), strAddr := (1, 0x1000), rowStride := 1,
    patStride := 1, outAddr := (1, 0x2000), outStride := 4, runEntry := 0, factor := 0x3F800000 }
/-- A command in flight. -/
def cmd : Cmd := { id := 0, ctx := 1, queue := 0, pos := 0, die := 0, desc := 1 }
/-- A machine with that command and an engine. -/
def withEng (n : Engine) : Mach := { ({} : Mach) with cmds := [cmd], nextCmd := 1 } |>.setEng 0 n
/-- An engine in quarter mode with a quarter. -/
def engOf (x : Quarter) : Engine := { mode := true, q := [(0, x)] }

/-- Hypotheses of LoadsFillTheNextPattern, for both commands, with a swap that waits and with none. -/
theorem wit_LoadsFillTheNextPattern : ∀ tr w : Bool, let u := { tile with transpose := tr }
    let x : Quarter := { tiles := [u], swapWait := w }
    let m := withEng (engOf x)
    (m.eng 0).quarter 0 = x ∧ ([u].find? fun t => t.loaded < t.pats) = some u ∧ x.valid = false ∧
      x.stream.isSome = true ∧ u.streamed = false ∧ (m.eng 0).uses 0 = true ∧ u.quarter = (m.eng 0).mode ∧ (m.eng 0).stopped = false ∧ u.transpose = tr ∧ m.cmd? u.cmd = some cmd ∧
      isOk (m.coreRead u.core cmd.ctx u.cmd (u.patAddr.1, u.patAddr.2 + u.loaded * 512) 512) = true := by decide +kernel
/-- BF16 1.0 at element 0 of the streamed row and of the pattern image. -/
def withOnes (m : Mach) : Mach := (m.scrPut 0 0 [0x80, 0x3F]).scrPut 0 0x1000 [0x80, 0x3F]
/-- PATTERN_LOAD puts element (0, 0) of the image into the next pattern (R80). -/
theorem test_patternLoad : goes (.patternLoad 0 0) (on (withOnes (withEng (engOf { tiles := [tile] })))) (fun t =>
    ((t.m.eng 0).quarter 0).valid && nth ((t.m.eng 0).quarter 0).next.codes 0 == 0x3F80) = true := by decide +kernel

/-- The tile with its pattern loaded, then swapped in. -/
def loadedTile : EngTile := { tile with loaded := 1 }
/-- The tile once its pattern is the running one. -/
def swappedTile : EngTile := { loadedTile with swapped := 1 }
/-- A bank with 1.0 at (0, 0). -/
def oneBank : Bank := { codes := [0x3F80], c := [0x3F800000], g := [0x3F800000] }

/-- Hypotheses of SwapsAndModeChanges: a swap with VALID set and clear, a mode change allowed, one to the same mode, one with
rows in flight. -/
theorem wit_SwapsAndModeChanges :
    (∀ b : Bool, let x : Quarter := { tiles := [loadedTile], valid := b, next := oneBank }
      (engOf x).quarter 0 = x ∧ x.stream = some loadedTile ∧ (engOf x).uses 0 = true ∧ loadedTile.quarter = (engOf x).mode ∧
        (engOf x).stopped = false ∧ loadedTile.swapped ≠ loadedTile.pats ∧ loadedTile.swapped = 0) ∧
    ((engOf {}).mode ≠ false ∧ ∀ p ∈ (engOf {}).q, p.2.flight = [] ∧ p.2.pendingRows = []) ∧ (engOf {}).mode = true ∧
    (∃ p ∈ (engOf { pendingRows := [0] }).q, p.2.flight ≠ [] ∨ p.2.pendingRows ≠ []) := by decide +kernel
/-- SWAP exchanges the banks and clears VALID (R83). -/
theorem test_swap : goes (.swap 0 0) (on (withEng (engOf { tiles := [loadedTile], valid := true, next := oneBank }))) (fun t =>
    ((t.m.eng 0).quarter 0).pattern == oneBank && !((t.m.eng 0).quarter 0).valid) = true := by decide +kernel
/-- MODE_CHANGE waits for drain-pending rows (R94). -/
theorem test_modeChange_waits : stays (.modeChange 0 false) (on (withEng (engOf { pendingRows := [0] }))) = true := by decide +kernel

/-- The engine at level 1 with the tile's pattern running. -/
def rowEng : Engine := { engOf { tiles := [swappedTile], pattern := oneBank } with level := 1 }
/-- A tile that engine 1 shares with engine 0, with `l` rows in its row queue. -/
def shares (l : Nat) : Engine := { engOf { tiles := [{ swappedTile with queue := List.replicate l [] }] } with level := 1 }
/-- Hypotheses of RealAndBallastRows for a row: it waits in the row queue, it is to be read, and there is no room for it in another
engine's queue. -/
theorem wit_RealAndBallastRows : ∀ k ∈ [0, 1, 2],
    let u : EngTile := { swappedTile with queue := if k = 0 then [[0x80, 0x3F]] else [] }
    let x : Quarter := { tiles := [u], pattern := oneBank }
    let n : Engine := { engOf x with level := 1 }
    let m := (withEng n).setEng 1 (shares (if k = 2 then 8 else 7))
    (m.eng 0).quarter 0 = x ∧ x.stream = some u ∧ (m.eng 0).uses 0 = true ∧ u.quarter = (m.eng 0).mode ∧ (m.eng 0).stopped = false ∧
      u.swapped ≠ 0 ∧ u.issued < u.rows ∧ x.swapWait = false ∧ x.accWait = false ∧ x.used < (m.eng 0).level ∧
      m.cmd? u.cmd = some cmd ∧ (u.queue = [] ↔ k ≠ 0) ∧ (rowRoom m 0 0 u = true ↔ k ≠ 2) ∧
      isOk (m.coreRead u.core cmd.ctx u.cmd
        (u.strAddr.1, u.strAddr.2 + u.fetched % u.rows * u.rowStride * 64 + u.fetched / u.rows * u.patStride * 64)
        (ceilDiv (u.side * u.planes * u.strF.width) 8)) = true := by decide +kernel
/-- Hypotheses of the same for a ballast row, and for one refused at both limits. -/
theorem wit_RealAndBallastRows_ballast :
    (({ engOf {} with level := 1 } : Engine).busy < ({ engOf {} with level := 1 } : Engine).level ∧
      rowReady (withEng { engOf {} with level := 1 }) 0 = false) ∧
    (engOf {}).level ≤ (engOf {}).busy ∧ rowReady (withEng rowEng) 0 = true := by decide +kernel
/-- STREAMED_ROW puts 1.0 × 1.0 into flight (R85). -/
theorem test_streamedRow : goes (.streamedRow 0 0) (on (withOnes (withEng rowEng))) (fun t =>
    (((t.m.eng 0).quarter 0).flight.map fun f => f.slices) == [[[0x3F800000#32]]]) = true := by decide +kernel
/-- BALLAST_ROW uses an admitted cycle and counts (R103). -/
theorem test_ballastRow : goes (.ballastRow 0) (on (withEng { engOf {} with level := 1 })) (fun t =>
    ((t.m.eng 0).quarter 0).used == 1 && t.m.reg (engReg 0 0x54) == 1#32) = true := by decide +kernel

/-- The row of the tile in flight, its check value and bound with it. -/
def flying : Flight :=
  { cmd := 0, item := 0, entry := 1, pat := 0, row := 0, slices := [[0x3F800000]], cks := [0x3F800000], bound := [0x3F800000],
    ovf := 0, nans := 0, elems := [0x3F80], bank := oneBank }
/-- The quarter with that row in flight, drain-pending rows as given. -/
def flyingQ (pend : List Nat) : Quarter :=
  { tiles := [{ swappedTile with issued := 1 }], pattern := oneBank, flight := [flying], pendingRows := pend }
/-- Hypotheses of CommitsWriteTheirRow, with the row clear and drain-pending. -/
theorem wit_CommitsWriteTheirRow : ∀ b : Bool, let x := flyingQ (if b then [0] else [])
    let u := { swappedTile with issued := 1 }
    let m := withEng (engOf x)
    (m.eng 0).quarter 0 = x ∧ x.flight = [flying] ∧ (x.tiles.find? fun t => t.same flying.cmd flying.item flying.entry) = some u ∧
      m.cmd? flying.cmd = some cmd ∧ x.pendingRows.contains ((u.slot + flying.row / u.side) * 32 + flying.row % u.side) = b := by
  decide +kernel
/-- ACCUMULATOR_COMMIT writes the slice value into row 0, column 0 (R87, R88). -/
theorem test_commit : goes (.accumulatorCommit 0 0 0) (on (withEng (engOf (flyingQ [])))) (fun t =>
    t.m.accGet 0 == 0x3F800000#32 && ((t.m.eng 0).quarter 0).pendingRows == [0] && t.m.reg (engReg 0 0x60) == 0#32) = true := by
  decide +kernel
/-- A commit disturbed in storage fails its row check (R97, R99). -/
theorem test_commit_flip : goes (.accumulatorCommit 0 0 0x00400000) (on (withEng (engOf (flyingQ [])))) (fun t =>
    t.m.reg (engReg 0 0x60) == 1#32 && t.m.recordsDue.length == 1) = true := by decide +kernel

/-- The tile with its pattern committed; `rows` of them. -/
def committedTile (rows : Nat) : EngTile := { tile with loaded := 1, swapped := 1, issued := rows, rows := rows, comPat := 1 }
/-- The quarter whose committed row waits for its drain: 1.0 in column 0, its checksum beside it. -/
def drainQ (rows : Nat) : Quarter :=
  { tiles := [committedTile rows], pendingRows := [0], rowY := [(0, 0x3F800000)], rowG := [(0, 0x3F800000)], rowS := [(0, 1)] }
/-- That machine. -/
def drainM (rows : Nat) : Mach := (withEng (engOf (drainQ rows))).accSet 0 0x3F800000
/-- The stored value of the row to drain, disturbed by `flip`. -/
def drainVal (rows : Nat) (flip : Word) : List Word := [(drainM rows).accGet 0 ^^^ flip]
/-- The row as its empty program leaves it. -/
def drainRow' (rows : Nat) : RunRow := { vals := [(0, f32Mul ((drainVal rows 0).getD 0 0) (committedTile rows).factor)] }
/-- Hypotheses of DrainsCheckThenWrite: the row of a tile with more rows and of one with none left, the check that passes, and the
check that fails because an element is disturbed. -/
theorem wit_DrainsCheckThenWrite_row : ∀ rows ∈ [1, 2],
    let m := drainM rows
    let x := drainQ rows
    let u := committedTile rows
    (m.eng 0).quarter 0 = x ∧ (x.tiles.find? fun t => t.drain && t.drained < t.rows) = some u ∧ m.cmd? u.cmd = some cmd ∧
      u.comPat = u.pats ∧ u.cols = [0] ∧ accIndex 0 u.quarter 0 (u.slot + u.drained / u.side) (u.drained % u.side) 0 = 0 ∧
      u.isInt = false ∧ u.runEntry = 0 ∧ (rows = 2 ↔ u.drained + 1 < u.rows) := by decide +kernel
/-- Its check and its output: into the scratchpad, and by transactions into device virtual space. -/
theorem wit_DrainsCheckThenWrite_check : ∀ rows ∈ [1, 2],
    let m := drainM rows
    let x := drainQ rows
    let u := committedTile rows
    let y := (eachRes (fun w s => s.coreWrite u.core cmd.ctx u.cmd (u.outAddr.1, u.outAddr.2 + u.drained * u.outStride * 16 + w.1) w.2)
        (rowBytes u (drainRow' rows)) m).state
    checkPass false (ckSum false (drainVal rows 0)) (tw x.rowY 0) (tw x.rowG 0) (tn x.rowS 0) = 1 ∧
      checkPass false (ckSum false (drainVal rows 0x40000000)) (tw x.rowY 0) (tw x.rowG 0) (tn x.rowS 0) = 0 ∧
      isOk (discardMask u cmd [] m) = true ∧ isOk (emptyRow u cmd u.drained (drainRow' rows) m) = true ∧
      isOk (eachRes (fun w s => s.coreWrite u.core cmd.ctx u.cmd (u.outAddr.1, u.outAddr.2 + u.drained * u.outStride * 16 + w.1) w.2)
        (rowBytes u (drainRow' rows)) m) = true ∧
      (∀ c ∈ m.cmds, c.st ≠ .waiting ∧ c.st ≠ .branching) ∧ (∀ c ∈ y.cmds, c.st ≠ .waiting ∧ c.st ≠ .branching) ∧
      (y.cmd? u.cmd).all (fun z => z.st != .stopped) = true ∧
      (∀ c ∈ (addTrans m u.core u.item u.entry 2 ((rowBytes u (drainRow' rows)).flatMap fun w => putMoves w.1 w.2 .stream)).cmds,
        c.st ≠ .waiting ∧ c.st ≠ .branching) := by decide +kernel
/-- DRAIN_ROW of the last row writes the output and the tile leaves (R90, R91). -/
theorem test_drainRow : goes (.drainRow 0 0 0) (on (drainM 1)) (fun t =>
    t.m.scrBytes 0 0x2000 4 == [0x00, 0x00, 0x80, 0x3F] && ((t.m.eng 0).quarter 0).tiles == []) = true := by decide +kernel
/-- A disturbed row is not written (R99). -/
theorem test_drainRow_flip : goes (.drainRow 0 0 0x40000000) (on (drainM 1)) (fun t =>
    t.m.scrBytes 0 0x2000 4 == [0, 0, 0, 0] && t.m.reg (engReg 0 0x60) == 1#32) = true := by decide +kernel

/-- An engine that waits for a grant. -/
def waitingEng : Engine := { engOf { tiles := [loadedTile] } with rampReq := true }
/-- Hypotheses of RampsAndTheirLimiter: every kind of step boundary, a grant of the first engine after the pointer and of the
last one round, no grant for want of a token and of a request, a return and an empty return. -/
theorem wit_RampsAndTheirLimiter :
    (0 < rowEng.level ∧ rowEng.rowWaiting = true) ∧ (0 < ({ engOf {} with level := 1 } : Engine).level ∧ (engOf {}).realRow = false ∧
      ({ engOf {} with level := 1 } : Engine).rowWaiting = false) ∧
    ((engOf {}).level = 0 ∧ (({} : Mach).core 0).fenced = false ∧ (({} : Mach).core 0).closing = false ∧ (engOf {}).stopped = false ∧
      (engOf {}).granted = false ∧ ({ engOf {} with granted := true } : Engine).granted = true) ∧
    ((({} : Mach).setCore 0 { fenced := true }).core 0).fenced = true ∧
    (let m := withEng waitingEng
     0 < (m.limiter 0).tokens ∧ (m.eng (512 * 0 + ((m.limiter 0).last + 1 + 0) % 512)).rampReq = true ∧
      (m.eng (512 * 0 + ((m.limiter 0).last + 1 + 0) % 512)).granted = false) ∧
    (let m := (withEng waitingEng).setLimiter 0 { last := 0 }
     0 < (m.limiter 0).tokens ∧ (∀ j, j < 511 → (m.eng (512 * 0 + ((m.limiter 0).last + 1 + j) % 512)).rampReq = false) ∧
      (m.eng (512 * 0 + ((m.limiter 0).last + 1 + 511) % 512)).rampReq = true ∧
      (m.eng (512 * 0 + ((m.limiter 0).last + 1 + 511) % 512)).granted = false) ∧
    ((({} : Mach).setLimiter 0 { tokens := 0 }).limiter 0).tokens = 0 ∧ (∀ i, i < 512 → (({} : Mach).eng (512 * 0 + i)).rampReq = false) ∧
    ((({} : Mach).setLimiter 0 { out := [3] }).limiter 0).out = [3] ∧ (({} : Mach).limiter 0).out = [] := by decide +kernel
/-- A grant goes to the engine after the pointer (R104). -/
theorem test_startLimiterGrant : goes (.startLimiterGrant 0) (on (withEng waitingEng)) (fun t =>
    (t.m.eng 0).granted && t.m.limiter 0 == ⟨63, 0, [0]⟩) = true := by decide +kernel
/-- A granted engine rises to level 1 and one that runs rises by one (R103). -/
theorem test_rampStepBoundary : goes (.rampStepBoundary 0) (on (withEng rowEng)) (fun t => (t.m.eng 0).level == 2) = true ∧
    goes (.rampStepBoundary 0) (on (withEng { waitingEng with granted := true })) (fun t => (t.m.eng 0).level == 1) = true := by
  decide +kernel


/-! ## Memory, commands and plans of the tests -/

/-- A number made of fields: (low bit, value). -/
def fl (l : List (Nat × Nat)) : Nat := l.foldl (fun a p => a + p.2 <<< p.1) 0
/-- What a result that succeeds answers. -/
def val? {α : Type} (r : Res α) : Option α := match r with
  | .ok a _ => some a
  | .err _ _ => none
/-- An object of 64 KiB in the near tier at 32 MiB. -/
def anObj : Obj := { state := 1#3, size64k := 1, leaf64k := true, present := true, near := [(0x2000000, 65536)], owner := 1#12 }
/-- A machine whose context 1 is active and has that object at address 0x10000, with write right. -/
def mem : Mach := (({ ({} : Mach) with maps := [⟨1, 0x10000, 1, true, true, true⟩] }).setObj 1 anObj).setCtx 1 { state := 1#2, client := 1, share := 1 }
/-- Bytes at an offset of the object. -/
def putObj (m : Mach) (off : Nat) (l : List Byte) : Mach := m.putBytes (0x2000000 + off) l
/-- A descriptor of an opcode whose cast plan lies at the object's start. -/
def planDesc (op : Nat) : Nat := fl [(0, op), (128, 0x10000)]
/-- A command of that descriptor with one slot on cluster 0. -/
def coreCmd (op : Nat) : Cmd :=
  { id := 0, ctx := 1, queue := 0, pos := 0, die := 0, desc := planDesc op, slots := [{ cluster := 0, place := 0 }] }
/-- A cast plan of one phase of one work item and one entry: constants none, tundishes at 0x11000, CB_RES 1, generators 0 in the
scratchpad and 1 at the object's start. -/
def planOf (e : Nat) : List Byte :=
  toBytes 64 (fl [(4, 5), (16, 0x10000), (80, 1), (128, 0x11000)]) ++
    toBytes 64 (fl [(48, 1), (128, 0x10000)]) ++ toBytes 64 0 ++
    toBytes 64 (fl [(0, 6), (72, 1)]) ++ toBytes 64 e
/-- A VECTOR entry: ADD of a group of FP32, all at the scratchpad's start. -/
def vecE : Nat := fl [(0, 4), (12, 1)]
/-- A DMA entry: 64 bytes from the object to the scratchpad. -/
def dmaE : Nat := fl [(0, 3), (12, 1)]
/-- An EXPAND entry: one pixel of one channel of 2 bytes into a row of 32 elements. -/
def expE : Nat := fl [(0, 5), (18, 1), (80, 1), (96, 1), (112, 1), (208, 1), (224, 1), (240, 1), (280, 2), (296, 1), (320, 32)]
/-- A TILE entry: one row of depth 16 on engine 0 in quarter mode, BF16 by BF16. -/
def tileE : Nat := fl [(0, 1), (12, 1), (16, 1), (64, 1), (96, 0xFFFF), (128, 0xFFFF), (160, 0xFFFF)]
/-- A machine that holds a command with its plan in memory. -/
def plan (op e : Nat) : Mach := putObj { mem with cmds := [coreCmd op], nextCmd := 1 } 0 (planOf e)
/-- A request of session 3 on class 2. -/
def gct (seq : Word) (len : BitVec 16) (body : Nat) : Req :=
  { source := 9, cls := 2, magic := 0x47435431, version := 1, flags := 0, hdrReserved := 0, session := 3, cookie := 77, seq := seq, ack := 0,
    length := len, payload := len.toNat, body := body, env := { remote := none, bist := [], flashReadBack := true, sealBreak := none } }

/-! ## Cores (05, 08, 09) -/

/-- Whether a command does not wait on a held channel for a part of a unit. -/
def noWait (m : Mach) (id unit no : Nat) : Bool := (m.cmd? id).all fun x => !(x.heldOn.any fun h => h.is unit no)

/-- The plan's command waits for admission on cluster 0, beside reservations as given. -/
def waitingSlot (res : List ((Nat × Nat) × Nat × Nat)) : Mach :=
  (plan 1 vecE).setCluster 0 { waiting := [(0, 0)], res := res }
/-- Hypotheses of AdmissionAndJoining for admission: with room beside a reservation, and with none. -/
theorem wit_AdmissionAndJoining_admission :
    (∀ n ∈ [1, 2048], let s := waitingSlot [((9, 0), 0, n)]
      let r := readRes (coreCmd 1) s
      (s.cluster 0).waiting = (0, 0) :: [] ∧ s.cmd? 0 = some (coreCmd 1) ∧ (s.cluster 0).fenced = false ∧ s.runs 1 = true ∧
        s.safe = false ∧ s.frozen = false ∧ val? r = some 1 ∧ r.state.cmd? 0 = some (coreCmd 1) ∧ (coreCmd 1).slots[0]? = some ⟨0, 0, false, [], 0, 0⟩ ∧
        lowBase ((r.state.cluster 0).res.map fun r => r.2) 1 = if n = 1 then some 1 else none) := by decide +kernel
/-- ADMISSION takes the lowest base (R132). -/
theorem test_admission : goes (.admission 0) (on (waitingSlot [((9, 0), 0, 1)])) (fun t =>
    (t.m.cluster 0).res == [((9, 0), 0, 1), ((0, 0), 1, 1)] && (t.m.cluster 0).waiting == []) = true := by decide +kernel

/-- The slot as admitted. -/
def openSlot : Slot := { cluster := 0, place := 0, admitted := true }
/-- The command admitted, with its reservation. -/
def admittedM : Mach := { plan 1 vecE with cmds := [{ coreCmd 1 with slots := [openSlot] }] }
  |>.setCluster 0 { res := [((0, 0), 0, 1)] }
/-- Hypotheses of AdmissionAndJoining for joining, and for each reason not to join. -/
theorem wit_AdmissionAndJoining_join :
    (let s := admittedM
     let cmd := { coreCmd 1 with slots := [openSlot] }
     let j := joinAs s 0 cmd 0 openSlot
     let r := loadPlan j.1 0 j.2
     s.coreFree 0 = true ∧ s.joinSlot (0 / 16) = some (cmd, 0, openSlot) ∧ 0 < cmd.slots.length ∧
      s.frozen = false ∧ isOk r = true ∧ noWait r.state 0 0 3 = true) ∧
    (({} : Mach).setCore 0 { fenced := true }).coreFree 0 = false ∧ (({} : Mach).setCore 0 { closing := true }).coreFree 0 = false ∧
    (({} : Mach).setCore 0 { cmd := some 3 }).coreFree 0 = false ∧ (({} : Mach).setCluster 0 { fenced := true }).coreFree 0 = false := by
  decide +kernel
/-- CORE_JOIN writes the tundish: LIMIT 1, TOTAL 1 (R137). -/
theorem test_coreJoin : goes (.coreJoin 0) (on admittedM) (fun t =>
    (t.m.core 0).cmd == some 0 && val? (t.m.readWord 1 0x11000 17) == some (2 ^ 32 + 2 ^ 96)) = true := by decide +kernel

/-- A tundish with two of three indexes handed out, `r` of them returned. -/
def tund (r : Nat) : Nat := fl [(0, 2), (32, 3), (64, 1), (96, 3), (128, r), (256, 1)]
/-- Hypotheses of TundishOperations, clause by clause, and what R135 gives. -/
theorem wit_TundishOperations :
    (tund 0 < 2 ^ 2048 ∧ bits (tund 0) 135 128 = 0 ∧ bits (tund 0) 31 0 < bits (tund 0) 63 32) ∧
    (let g := setBits (tund 0) 31 0 3
     bits g 135 128 = 0 ∧ bits g 63 32 ≤ bits g 31 0 ∧ tundClaim g = (g, none)) ∧
    (bits (tund 55) 135 128 < 56 ∧ 56 ≤ bits (tund 56) 135 128 ∧ tundReturn (tund 56) 1 = none) ∧
    (tundClaim (tund 0)).2 = some 2 ∧ (tundClaim (tund 1)).2 = some 1 ∧ (tundRetire (tund 0)).2 = false ∧
    (tundRetire (tundRetire (tund 0)).1).2 = true := by decide +kernel

/-- Core 0 at work on a command whose plan it has loaded, an item in hand or none, the tundish `g`. -/
def working (op e : Nat) (k : CoreSt) (g : Nat) : Mach :=
  let m := putObj { mem with cmds := [{ coreCmd op with slots := [{ openSlot with cores := [0] }], planned := true }], nextCmd := 1 }
    0x1000 (toBytes 256 g)
  ((m.scrPut 0 0xF0000 (planOf e)).setCluster 0 { res := [((0, 0), 0, 1)] }).setCore 0 { k with cmd := some 0 }
/-- The command that core works on. -/
def workCmd (op : Nat) : Cmd := { coreCmd op with slots := [{ openSlot with cores := [0] }], planned := true }
/-- Its one phase. -/
def onePhase : Phase := ⟨0, fl [(0, 6), (72, 1)], 3, [4]⟩
/-- A fresh tundish of one index. -/
def tund1 : Nat := fl [(32, 1), (96, 1)]
/-- Hypotheses of WorkItemsClaimedReturnedRetired for CLAIM, with an index to give and with EMPTY, and for the claim after a
RETURN. -/
theorem wit_WorkItems_claim :
    ∀ g ∈ [tund1, setBits tund1 31 0 1, fl [(0, 1), (32, 1), (96, 1), (128, 1)]], let k : CoreSt := { empty := g != tund1, returned := g != tund1 }
      let s := working 1 vecE k g
      s.coreCmd 0 = some (workCmd 1) ∧ (workCmd 1).st = .running ∧ (workCmd 1).planned = true ∧ (s.core 0).items.length < 2 ∧
        s.frozen = false ∧ (s.core 0).fenced = false ∧ dOp (workCmd 1).desc ≠ 6 ∧ slotPhase (workCmd 1) (s.phases 0) (s.core 0).slot = some onePhase ∧
        (s.core 0).phase = onePhase.no ∧ ((s.core 0).empty = true → (s.core 0).returned = true) ∧
        val? (tundAtomic s 0 1 (tundVa s 0 (workCmd 1) onePhase 0) (fun g => (tundClaim g).1)) = some g ∧
        ((tundClaim g).2 = none ↔ g = setBits tund1 31 0 1) := by decide +kernel
/-- CLAIM takes index 0 (R135). -/
theorem test_claim : goes (.claim 0) (on (working 1 vecE {} tund1)) (fun t => (t.m.core 0).items == [⟨0, 0, false, []⟩] &&
    val? (t.m.readWord 1 0x11000 4) == some 1) = true := by decide +kernel
/-- A core that met EMPTY claims again once a RETURN was made (R136). -/
theorem test_reclaim : goes (.reclaimAfterReturn 0) (on (working 1 vecE { empty := true, returned := true }
    (fl [(0, 1), (32, 1), (96, 1), (128, 1)]))) (fun t => ((t.m.core 0).items.map fun x => x.index) == [0]) = true := by decide +kernel
/-- An item all of whose entries have completed. -/
def doneItem : Item := { index := 0, parity := 0, entries := [⟨4, 0, 0, true⟩] }
/-- Hypotheses of WorkItemsClaimedReturnedRetired for RETURN, of the last claim and of one before it, and for the retirement of the
older and of the younger item. -/
theorem wit_WorkItems_return_retire :
    (∀ last : Bool, let k : CoreSt := { fenced := true, shut := true, items := doneItem :: if last then [] else [{ doneItem with index := 1 }] }
     let s := working 1 vecE k (setBits tund1 31 0 1)
     let r := s.atomic (512 + 0 / 16) 1 (tundVa s 0 (workCmd 1) onePhase 0) 256 (fun g => (tundReturn g 0).getD g) true false
     (s.core 0).shut = true ∧ s.frozen = false ∧ s.coreCmd 0 = some (workCmd 1) ∧ dOp (workCmd 1).desc ≠ 6 ∧
      (s.phases 0)[(s.core 0).phase]? = some onePhase ∧
      ((s.core 0).items.any fun x => x.index == 0) = true ∧ val? r = some (setBits tund1 31 0 1) ∧
      (((r.state.core 0).items.filter fun x => x.index != 0) = [] ↔ last = true) ∧
      (tundReturn (setBits tund1 31 0 1) 0).isSome = true) ∧
    (working 1 vecE { closing := true, fenced := true } 0 |>.core 0).shut = false ∧
    (let s := working 1 vecE { items := [doneItem, doneItem] } (setBits tund1 31 0 1)
     s.coreCmd 0 = some (workCmd 1) ∧ (s.core 0).fenced = false ∧ (∀ n ∈ [0, 1], (s.core 0).items[n]? = some doneItem) ∧
      (s.phases 0)[(s.core 0).phase]? = some onePhase ∧ itemDone s 0 onePhase doneItem = true ∧
      isOk (tundAtomic s 0 1 (tundVa s 0 (workCmd 1) onePhase 0) (fun g => (tundRetire g).1)) = true) := by decide +kernel
/-- RETURN of the last claim of a fenced core counts in its cluster and ends its part in the command (R136). -/
theorem test_tundishReturn : goes (.tundishReturn 0 0)
    (on (working 1 vecE { fenced := true, shut := true, items := [doneItem] } (setBits tund1 31 0 1)))
    (fun t => (t.m.core 0).items == [] && (t.m.core 0).cmd == none && t.m.reg (clReg 0 0x1C) == 1#32) = true := by decide +kernel
/-- RETIRE of the last item answers DONE (R135, R136). -/
theorem test_tundishRetire : goes (.tundishRetire 0) (on (working 1 vecE { items := [doneItem] } (setBits tund1 31 0 1)))
    (fun t => (t.m.core 0).report && (t.m.core 0).items == []) = true := by decide +kernel
/-- WORK_ITEM_RETIRE of an item with an entry left does nothing (R120). -/
theorem test_workItemRetire_early :
    stays (.workItemRetire 0 false) (on (working 1 vecE { items := [⟨0, 0, false, []⟩] } tund1)) = true := by decide +kernel

/-- A claimed item with nothing issued. -/
def newItem : Item := { index := 0, parity := 0 }
/-- An entry's core: its item claimed, scratchpad and object empty. -/
def atEntry (e : Nat) : Mach := working 1 e { items := [newItem] } (setBits tund1 31 0 1)
/-- Hypotheses of EntriesRunInTurn for the four kinds of entry. -/
theorem wit_EntriesRunInTurn_units :
    ∀ x : Fin 4, let e := [tileE, dmaE, vecE, expE].getD x 0
      let f := [tileEntry 0 0 4, dmaEntry 0 0 4, vecEntry 0 0 4, expEntry 0 0 4].getD x (tileEntry 0 0 4)
      let s := atEntry e
      let r := f (workCmd 1) onePhase newItem (s.planEntry 0 4) s
      s.coreCmd 0 = some (workCmd 1) ∧ (s.phases 0)[(s.core 0).phase]? = some onePhase ∧ (s.core 0).items[0]? = some newItem ∧
        eKind (s.planEntry 0 4) = [1, 3, 4, 5].getD x 0 ∧ entryReady s 0 onePhase 0 4 = true ∧ isOk r = true ∧
        noWait r.state 0 0 260 = true := by decide +kernel
/-- Hypotheses of its clauses for an entry of another kind, one already issued and a command that does not run, and for the
barrier. -/
theorem wit_EntriesRunInTurn_rest :
    eKind ((atEntry vecE).planEntry 0 4) ≠ 1 ∧
    entryReady (working 1 vecE { items := [doneItem] } tund1) 0 onePhase 0 4 = false ∧
    (let s := working 1 vecE { report := true } tund1
     s.coreCmd 0 = some (workCmd 1) ∧ (s.phases 0)[(s.core 0).phase]? = some onePhase ∧ onePhase.no = (s.core 0).phase ∧
      (s.core 0).report = true ∧ (workCmd 1).slots[(s.core 0).slot]? = some { openSlot with cores := [0] } ∧
      ({ openSlot with cores := [0] } : Slot).barriers = onePhase.no) := by decide +kernel
/-- TILE puts one tile on engine 0 (R121). -/
theorem test_tile : goes (.tile 0 false 4) (on (atEntry tileE)) (fun t =>
    (((t.m.eng 0).quarter 0).tiles.map fun x => (x.rows, x.pats, x.depth)) == [(1, 1, 16)]) = true := by decide +kernel
/-- DMA leaves a transaction outstanding; its response moves the 64 bytes (R111). -/
theorem test_dma : goes (.dma 0 false 4) (on (putObj (atEntry dmaE) 0 [7, 8])) (fun t =>
    (t.m.core 0).trans.length == 1 && t.m.scrBytes 0 0 3 == [0, 0, 0]) = true := by decide +kernel
/-- VECTOR ADD doubles 1.0 added to itself (R124). -/
theorem test_vector : goes (.vector 0 false 4) (on ((atEntry vecE).scrPut 0 0 [0, 0, 0x80, 0x3F])) (fun t =>
    t.m.scrBytes 0 0 8 == [0, 0, 0, 0x40, 0, 0, 0, 0]) = true := by decide +kernel
/-- EXPAND of one pixel from the scratchpad writes it and zeros (R167, R168). -/
theorem test_expand : goes (.expand 0 false 4) (on ((atEntry (expE + 0x1000 <<< 56)).scrPut 0 0 [0x80, 0x3F] |> fun m =>
    m.scrPut 0 0x1000 [1, 1, 1, 1]))
    (fun t => t.m.scrBytes 0 0x1000 4 == [0x80, 0x3F, 0, 0] && t.m.reg (coreReg 0 0x20) == 1#32) = true := by decide +kernel
/-- PHASE_BARRIER reports DONE once (R136). -/
theorem test_phaseBarrier : goes (.phaseBarrier 0) (on (working 1 vecE { report := true } tund1)) (fun t =>
    !(t.m.core 0).report && (t.m.cmds.map fun x => x.slots.map fun y => y.barriers) == [[1]]) = true := by decide +kernel

/-- A fetch of the object's first granule to the scratchpad, with a slot or waiting for one. -/
def fetch1 (u : Nat) (b : Bool) : Trans := ⟨u, 0, 4, u, .fetch 0x10000 64 (1, 0) .none, b⟩
/-- A core that works on an entry with one response to come, its transactions as given. -/
def transM (e : Nat) (l : List Trans) : Mach :=
  working 1 e { items := [{ doneItem with entries := [⟨4, 1, 0, false⟩] }], trans := l } tund1
/-- Hypotheses of TransactionsAndWalks for the slots: a grant to the next unit, past an older one of another unit, and none for want
of a slot or of a request. -/
theorem wit_TransactionsAndWalks_slots :
    (let k := (transM dmaE [fetch1 5 false, fetch1 2 false]).core 0
     0 < k.slotsFree ∧ k.trans = [fetch1 5 false] ++ fetch1 2 false :: [] ∧
      (∀ y ∈ [fetch1 5 false], y.slot = true ∨ y.unit ≠ 2) ∧ 2 = (k.slotLast + 1 + 2) % 6 ∧
      ∀ j < 2, ∀ y ∈ k.trans, y.slot = true ∨ y.unit ≠ (k.slotLast + 1 + j) % 6) ∧
    (({} : Mach).setCore 0 { slotsFree := 0 } |>.core 0).slotsFree = 0 ∧
    (∀ y ∈ ((transM dmaE [fetch1 5 true]).core 0).trans, y.slot = true) := by decide +kernel
/-- Hypotheses of the same for a response: of a DMA entry, and the last of an EXPAND entry. -/
theorem wit_TransactionsAndWalks_response : ∀ b : Bool,
    let e := if b then expE + 1 <<< 12 + 0x1000 <<< 56 else dmaE
    let x : Trans := if b then ⟨0, 0, 4, 4, .stage 0x10000 64 0 0, true⟩ else fetch1 5 true
    let s := transM e [fetch1 5 false, x]
    let it : Item := { doneItem with entries := [⟨4, 1, 0, false⟩] }
    let r := runMove 0 (workCmd 1) (s.planEntry 0 x.entry) x.move s
    (s.core 0).trans = [fetch1 5 false] ++ x :: [] ∧ x.slot = true ∧ s.waitsHeld (workCmd 1) 0 x.key = false ∧ (s.core 0).fenced = false ∧ s.coreCmd 0 = some (workCmd 1) ∧
      isOk r = true ∧ (r.state.phases 0)[(r.state.core 0).phase]? = some onePhase ∧
      ((r.state.core 0).items.find? fun i => i.index == x.item) = some it ∧
      (((r.state.core 0).items.any fun i => i.index == x.item && i.entries.any fun e => e.no == x.entry && e.left == 1) = true) ∧
      (eKind (r.state.planEntry 0 x.entry) = 5 ↔ b = true) ∧
      (b = true → isOk (expBody 0 (workCmd 1) onePhase it (r.state.planEntry 0 x.entry) r.state) = true) ∧
      ((if b then expBody 0 (workCmd 1) onePhase it (r.state.planEntry 0 x.entry) r.state else r).state.cmd? 0).all
        (fun z => z.st != .stopped) = true := by decide +kernel
/-- Hypotheses of the same for a walk: a leaf held, and one to be walked. -/
theorem wit_TransactionsAndWalks_walk : ∀ h : Bool, let s := working 1 vecE { xlate := if h then [0x10000] else [] } tund1
    let r := (s.bump (coreReg 0 0x14) 1).readTables 1 0x10004
    s.coreCmd 0 = some (workCmd 1) ∧ (workCmd 1).heldOn = [] ∧ s.frozen = false ∧ (s.core 0).fenced = false ∧ s.under = [] ∧ (s.leafAt 1 0x10004).map (fun p => p.obj) = some 1 ∧
      s.leafUse = .walk ∧ (0x10000 + (0x10004 - 0x10000) / (s.obj 1).leaf * (s.obj 1).leaf ∈ (s.core 0).xlate ↔ h = true) ∧
      isOk r = true ∧ val? (r.state.walkEnd 1 0x10004 .read false) = some 0x2000004 := by decide +kernel
/-- The response moves its bytes and completes the entry (R111, R120). -/
theorem test_transactionResponse : goes (.transactionResponse 0) (on (putObj (transM dmaE [fetch1 5 true]) 0 [7, 8])) (fun t =>
    (t.m.core 0).trans == [] && (t.m.core 0).items == [doneItem] && t.m.scrBytes 0 0 3 == [7, 8, 0]) = true := by decide +kernel
/-- The slot goes to the next unit's oldest transaction, round robin (R111; 14 R349). -/
theorem test_transactionSlotGrant : goes (.transactionSlotGrant 0) (on (transM dmaE [fetch1 5 false, fetch1 2 false])) (fun t =>
    (t.m.core 0).trans == [fetch1 5 false, fetch1 2 true] && (t.m.core 0).slotLast == 2) = true := by decide +kernel
/-- TABLE_WALK enters the leaf (R112). -/
theorem test_tableWalk : goes (.tableWalk 0 0x10004 .read) (on (working 1 vecE {} tund1)) (fun t =>
    (t.m.core 0).xlate == [0x10000] && (t.m.obj 1).accessed) = true := by decide +kernel

/-! ## Recurrent streams and retirement (09, 14) -/

/-- A state object of one slot of one 64-element vector at 0x12000, and its stream. -/
def withState (m : Mach) : Mach := putObj m 0x2000 (toBytes 256 (fl [(16, 1), (64, 1)]))
/-- A GATED_STEP (cell code 3: one gate) or SCAN_CHUNK over it: its regions in three units of the reservation, its outputs at
0x13000. -/
def recDesc (op steps : Nat) : Nat :=
  if op = 6 then fl [(0, 6), (128, 0x10000), (192, 0x12000), (240, 0x12F00), (336, 0x13000), (406, 3), (410, steps - 1), (440, 1), (451, 2), (427, 1)]
  else fl [(0, 7), (128, 0x10000), (192, 0x12000), (240, 0x12F00), (336, 0x13000), (384, 0x14000), (432, 0x15000), (509, 1)]
/-- A recurrent command on core 0 whose plan has one phase, its barrier reached as given. -/
def recCmd (op steps barriers : Nat) (loaded : Bool) (lt : List Nat) : Cmd :=
  { coreCmd op with desc := recDesc op steps, slots := [{ openSlot with cores := [0], barriers := barriers }], planned := true,
                    loaded := loaded, fixed := if loaded then [0] else [], lt := lt }
/-- Its machine; core 0 alone is unfenced on the cluster. -/
def recM (c : Cmd) : Mach :=
  let m := withState { mem with cmds := [c], nextCmd := 1 }
  let m := (List.range 15).foldl (fun m i => m.setCore (1 + i) { fenced := true }) m
  ((m.scrPut 0 0xF0000 (planOf vecE)).setCluster 0 { res := [((0, 0), 0, 8)] }).setCore 0 { cmd := some 0 }
/-- Hypotheses of RecurrentPhasesAndRetirement for the state load. -/
theorem wit_RecurrentPhases_load :
    let cmd := recCmd 6 1 0 false [0]
    let s := recM cmd
    let x : Slot := { openSlot with cores := [0] }
    let r := stateLoad cmd 0 (s.setCmd { cmd with loaded := true, fixed := (List.range 512).filter fun c => x.cores.contains c })
    s.cmd? 0 = some cmd ∧ cmd.slots = [x] ∧ dOp cmd.desc = 6 ∧ cmd.st = .running ∧ cmd.loaded = false ∧ cmd.planned = true ∧
      min (dCores cmd.desc) ((List.range 16).filter fun c => !(s.core (16 * x.cluster + c)).fenced).length ≤ x.cores.length ∧
      isOk r = true ∧ noWait r.state 0 512 32 = true := by decide +kernel
/-- Hypotheses of the same for a cell phase, before the last step and after it. -/
theorem wit_RecurrentPhases_cell : ∀ n ∈ [1, 2],
    let cmd := recCmd 6 n 1 true [0]
    let s := recM cmd
    let r := cellStep cmd 0 cmd.step s
    let y := r.state
    let x : Slot := { openSlot with cores := [0], barriers := 1 }
    let next := { cmd with step := cmd.step + 1, slots := [{ x with barriers := gPro cmd.desc }] }
    let z := if cmd.step + 1 < gSteps cmd.desc then
        startPhases next (cmd.fixed.headD 0) (((y.bump (clReg 0 0x2C) 1).phases (cmd.fixed.headD 0)).drop (gPro cmd.desc))
          ((freshPhase (y.bump (clReg 0 0x2C) 1) 0).setCmd next)
      else stateStore cmd 0 ((y.bump (clReg 0 0x2C) 1).setCmd { cmd with step := cmd.step + 1 })
    s.cmd? 0 = some cmd ∧ cmd.slots = [x] ∧ dOp cmd.desc = 6 ∧ cmd.st = .running ∧ cmd.loaded = true ∧
      cmd.step < gSteps cmd.desc ∧ (cmd.step + 1 < gSteps cmd.desc ↔ n = 2) ∧ allBarriers s cmd = true ∧ isOk r = true ∧
      isOk z = true ∧ noWait z.state 0 512 33 = true := by decide +kernel
/-- Hypotheses of the same for a scan. -/
theorem wit_RecurrentPhases_scan :
    let cmd := recCmd 7 1 1 false [1 <<< 32]
    let s := recM cmd
    let r := readState 1 (bits cmd.desc 239 192) s
    (s.cmd? 0 = some cmd ∧ cmd.slots = [{ openSlot with cores := [0], barriers := 1 }] ∧ dOp cmd.desc = 7 ∧ cmd.st = .running ∧
      cmd.step = 0 ∧ allBarriers s cmd = true ∧ cmd.heldOn = [] ∧ isOk r = true) ∧
    ∀ o ∈ val? r, isOk (eachRes (fun (p : Nat × Nat) m => scanStream cmd 0 o p.1 p.2 m) cmd.lt.zipIdx r.state) = true := by
  decide +kernel
/-- A command whose work is complete. -/
def doneM : Mach := { mem with cmds := [{ coreCmd 1 with st := .complete }] }
/-- Hypotheses of the same for a retirement, and for each reason not to retire. -/
theorem wit_RecurrentPhases_retire :
    (doneM.cmd? 0 = some { coreCmd 1 with st := .complete } ∧ doneM.safe = false ∧ doneM.runs 1 = true ∧
      workDone doneM { coreCmd 1 with st := .complete } = true ∧ (∀ c ∈ doneM.cmds, c.st ≠ .waiting ∧ c.st ≠ .branching) ∧
      ({ coreCmd 1 with st := .complete } : Cmd).walkers = []) ∧
    (doneM.setReg (safReg 0) 0x40000000#32).safe = true ∧ (doneM.setCtx 1 { state := 2#2 }).runs 1 = false ∧
    workDone (plan 1 vecE) (coreCmd 1) = false := by decide +kernel
/-- GATED_STEP_STATE_LOAD fixes the joined cores (R214). -/
theorem test_gatedStepStateLoad : goes (.gatedStepStateLoad 0) (on (recM (recCmd 6 1 0 false [0]))) (fun t =>
    (t.m.cmds.map fun c => (c.loaded, c.fixed)) == [(true, [0])]) = true := by decide +kernel
/-- CELL_PHASE of the last step takes gate 0 as the next state of cell code 3 and stores it (R212, R213). -/
theorem test_cellPhase : goes (.cellPhase 0) (on ((recM (recCmd 6 1 1 true [0])).cbPut 0 0 [0, 0, 0x80, 0x3F])) (fun t =>
    val? (t.m.readWord 1 0x13000 8) == some 0x3F800000 && t.m.reg (clReg 0 0x2C) == 1#32) = true := by decide +kernel
/-- SCAN_PHASE of one token: y = a · carry + b (R218). -/
theorem test_scanPhase : goes (.scanPhase 0) (on (putObj (recM (recCmd 7 1 1 false [1 <<< 32])) 0x5000 [0, 0, 0x80, 0x3F])) (fun t =>
    val? (t.m.readWord 1 0x13000 8) == some 0x3F800000) = true := by decide +kernel
/-- COMMAND_RETIRE removes the command (R332). -/
theorem test_commandRetire : goes (.commandRetire 0) (on doneM) (fun t => t.m.cmds == [] && (t.m.sched 0).retired == 1) = true := by
  decide +kernel

/-! ## Ladle units, atomic units and shared caches (06) -/

/-- A ZERO of 64 bytes at the object's start, standing as given. -/
def zeroCmd (id : Nat) (st : CmdSt) : Cmd :=
  { coreCmd 16 with id := id, desc := fl [(0, 16), (128, 1), (256, 0x10000)], slots := [], st := st }
/-- A machine with ladle commands. -/
def ladle (l : List Cmd) : Mach := { mem with cmds := l, nextCmd := 9 }
/-- Hypotheses of LadleCommandsRun for a delivery to idle units and to busy ones. -/
theorem wit_LadleCommandsRun_delivery :
    (let s := ladle [zeroCmd 0 .offered]
     let c := zeroCmd 0 .offered
     let b := ({ c with st := .check } : Cmd).begin (s.reg (memReg 0)).toNat
     let x : Mach := { s with ladleDie := 1, cmds := [b] }
     let r := ladleCheck b { x with leafUse := .check [] }
     s.issues = true ∧ ([0, 1, 2, 3].map fun i => (s.ladleDie + i) % 4).findSome? (fun d => offeredOf s d) = some c ∧
      classHead s (isPageOp (dOp c.desc)) = none ∧ isLadleOp (dOp c.desc) = true ∧
      x = { s with ladleDie := (c.die + 1) % 4, cmds := (s.cmds.filter fun v => v.id != c.id) ++ [b] } ∧
      isOk r = true) ∧
    (let s := ladle [zeroCmd 3 .work, zeroCmd 0 .offered]
     s.issues = true ∧ ([0, 1, 2, 3].map fun i => (s.ladleDie + i) % 4).findSome? (fun d => offeredOf s d) = some (zeroCmd 0 .offered) ∧
      classHead s (isPageOp (dOp (zeroCmd 0 .offered).desc)) = some (zeroCmd 3 .work) ∧ (zeroCmd 3 .work).id ≠ (zeroCmd 0 .offered).id ∧
      (zeroCmd 3 .work).st ≠ .check) := by decide +kernel
/-- An ATTN_NORM after a pass of its three. -/
def normCmd (l : List Nat) : Cmd := { zeroCmd 0 .work with desc := fl [(0, 4)], pass := 1, shares := l }
/-- Hypotheses of LadleCommandsRun for its barriers, and for a stop of all issue. -/
theorem wit_LadleCommandsRun_barriers :
    ((ladle [zeroCmd 0 .checked]).issues = true ∧ classHead (ladle [zeroCmd 0 .checked]) false = some (zeroCmd 0 .checked)) ∧
    (let c := normCmd []
     (ladle [c]).issues = true ∧ classHead (ladle [c]) false = some c ∧ (ladle [c]).cmd? c.id = some c ∧
      c.pass + 1 < passes c.desc ∧ c.shares = []) ∧
    ({ ladle [] with frozen := true } : Mach).issues = false := by decide +kernel
/-- Hypotheses of LadleCommandsRun for a share with others left and for the last, and for one whose pseudo-channel is held. -/
theorem wit_LadleCommandsRun_shares :
    (∀ l ∈ [[4], [4, 6]], let c := { zeroCmd 0 .work with shares := l }
      let s := ladle [c]
      let r := ladleShare c 4 { s with leafUse := .kept c.leaves }
      let y := ({ r.state with leafUse := .walk } : Mach).dropWaits c.id (fun h => h.is (544 + 4) 2)
      s.issues = true ∧ classHead s false = some c ∧ passes c.desc ≤ c.pass + 1 ∧ 4 ∈ c.shares ∧ isOk r = true ∧
        y.cmd? c.id = some c ∧ y.runs c.ctx = true ∧ (∀ c ∈ y.cmds, c.st ≠ .waiting ∧ c.st ≠ .branching) ∧ c.free = none ∧
        ((c.shares.filter fun x => x != 4) = [] ↔ l = [4]) ∧ (∀ x ∈ y.cmds, x.id = c.id)) ∧
    (let c := { zeroCmd 0 .work with shares := [4, 6] }
     let s := (ladle [c]).setPc 128 { state := 1#2, reason := 0#2 }
     s.issues = true ∧ classHead s false = some c ∧ s.cmd? c.id = some c ∧ passes c.desc ≤ c.pass + 1 ∧ 4 ∈ c.shares ∧ c.heldOn = [] ∧
      (match ladleShare c 4 { s with leafUse := .kept c.leaves } with
        | .err (.held n) _ => n == 128
        | _ => false) = true) := by decide +kernel
/-- LADLE_BARRIER of ZERO gives each of the 32 units its share, whichever holds the sector (R144, R165). -/
theorem test_ladleBarrier : goes (.ladleBarrier false) (on (putObj (ladle [zeroCmd 0 .checked]) 0 [7])) (fun t =>
    t.m.near.length == 1 && (t.m.cmds.map fun c => c.shares.length) == [32]) = true := by decide +kernel
/-- LADLE_DELIVERY puts a command at its check barrier (R144, R340). -/
theorem test_ladleDelivery : goes .ladleDelivery (on (ladle [zeroCmd 0 .offered])) (fun t =>
    (t.m.cmds.map fun c => c.st) == [.checked] && t.m.ladleDie == 1) = true := by decide +kernel
/-- The share of the sector's home unit clears it, and the last share completes the command (R157, R165). -/
theorem test_ladleShareComplete : goes (.ladleShareComplete 4 false)
    (on (putObj (ladle [{ zeroCmd 0 .work with shares := [4] }]) 0 [7])) (fun t =>
    t.m.near == [] && (t.m.cmds.map fun c => c.st) == [.complete] && t.m.reg (ldlReg 4 0x10) == 1#32) = true := by decide +kernel

/-- The ladle unit of slice 0 asks for the word at an address. -/
def req (va : VA) : AtomReq := { requester := 544, ctx := 1, va := va }
/-- Hypotheses of AtomicsReplaceAWord: every word size, under a credit that is free, held by nobody, or with another requester
waiting; and a misaligned request. -/
theorem wit_AtomicsReplaceAWord :
    homeSlice mem 1 0x10000 = 4 ∧
    (∀ x ∈ [(2, 2, true), (4, 4, true), (8, 8, true), (8, 8, false), (64, 48, true)],
      let r := mem.piece 1 (if x.2.2 then .write else .read) false (0x10000, x.2.1)
      (req 0x10000).va.toNat % x.1 = 0 ∧ val? r = some 0x2000000 ∧ r.state.sliceOf 0x2000000 = 4 ∧
      (mem.slice 4).admits 544 mem.frozen = true ∧ r.state.isSlag 0x2000000 = false) ∧
    ((mem.setSlice 4 { atomWait := [3] }).slice 4).admits 544 mem.frozen = false ∧
    (req 0x10002).va.toNat % 4 ≠ 0 ∧ 512 ≤ (req 0x10002).requester.val ∧ (mem.ctx 1).state = 1#2 := by decide +kernel
/-- What an atomic on a word of the object leaves in it. -/
def word (c : Instr) (l : List Byte) (n : Nat) : Nat := match exec c (on (putObj mem 0 l)) with
  | .next t => ofBytes (t.m.nearBytes 0x2000000 n)
  | _ => 0
/-- The additions: 1.0 + 1.0, BF16 1.0 + 1.0, −1 + 2, and a carry across 64 bits (R162). -/
theorem test_atomic_adds : word (.addF32 (req 0x10000) 0x3F800000) [0, 0, 0x80, 0x3F] 4 = 0x40000000 ∧
    word (.addBf16 (req 0x10000) 0x3F80) [0x80, 0x3F] 2 = 0x4000 ∧
    word (.addI32 (req 0x10000) 2) [255, 255, 255, 255] 4 = 1 ∧
    word (.addWide (req 0x10000) 1) [255, 255, 255, 255, 255, 255, 255, 255] 48 = 2 ^ 64 := by decide +kernel
/-- Maxima and minima are signed (R162). -/
theorem test_atomic_orders : word (.maxF32 (req 0x10000) 0xBF800000) [0, 0, 0x80, 0x3F] 4 = 0x3F800000 ∧
    word (.minF32 (req 0x10000) 0xBF800000) [0, 0, 0x80, 0x3F] 4 = 0xBF800000 ∧
    word (.maxI32 (req 0x10000) 0xFFFFFFFF) [5] 4 = 5 ∧ word (.minI32 (req 0x10000) 0xFFFFFFFF) [5] 4 = 0xFFFFFFFF := by decide +kernel
/-- The logical operations, FETCH_INC's wrap, READ (R162). -/
theorem test_atomic_logic : word (.atomicAnd (req 0x10000) false 6) [3] 4 = 2 ∧ word (.atomicOr (req 0x10000) true 4) [3] 8 = 7 ∧
    word (.fetchInc (req 0x10000)) [255, 255, 255, 255] 4 = 0 ∧ word (.atomicRead (req 0x10000)) [9] 8 = 9 := by decide +kernel

/-- Hypotheses of CreditsAndCacheLines for credits: a waiting requester with fewer than two, a freeze, no credit free, and the
two requesters of the mailbox's rounds. -/
theorem wit_CreditsAndCacheLines_credits :
    (let x : SliceSt := { atomWait := [3, 7], credits := [3, 3], free := 62 }
     0 < x.free ∧ ∃ w ∈ x.atomWait, (x.credits.filter fun c => c == w).length < 2) ∧
    ({ ({} : Mach) with frozen := true } : Mach).frozen = true ∧ ({ free := 0 } : SliceSt).free = 0 ∧
    (∀ last ∈ [2, 5, 1024],
      let s := (({ ({} : Mach) with mbxLast := last }).setSession 3 { isOpen := true, ring := [⟨1, 0x10, true, gct 1 0 0⟩] }).setSession 7
        { isOpen := true, ring := [⟨1, 0x10, true, gct 1 0 0⟩] }
      let k := if last = 5 then 7 else 3
      s.mbxNext = some k ∧ s.readySessions.Pairwise (· < ·) ∧ ∀ j ∈ s.readySessions, j < 1024) ∧
    ((({} : Mach).channel 5).wait = [] ∧ (let x : Channel := { free := 3, wait := [9, 2], last := 4 }
      0 < x.free ∧ x.wait ≠ [] ∧ ({} : Mach).frozen = false)) := by decide +kernel
/-- A set of a cache with a line of the address and others. -/
def aSet (k : LineKind) : List Line := [⟨1, .keep, true⟩, ⟨0x40000, k, true⟩, ⟨2, .ordinary, false⟩]
/-- Hypotheses of CreditsAndCacheLines for an access: a miss with and without STREAM, a hit, a final and an earlier count of a
LAST line, and an address beyond the near tier. -/
theorem wit_CreditsAndCacheLines_access :
    (∀ x ∈ [LineKind.ordinary, .keep, .last 1, .last 2], (aSet x).length ≤ 16 ∧
      ((aSet x).find? fun y => y.tag == 0x2000000 / 128) = some ⟨0x40000, x, true⟩ ∧
      ((aSet x).filter fun x => x.kind == .keep).length ≤ 12 ∧ hintKind .none (some x) = x) ∧
    ((aSet .keep).find? fun y => y.tag == 0x2000080 / 128) = none ∧ 0x2000000 < ({} : Mach).nt ∧ ({} : Mach).heldAt 0x2000000 = none ∧
    ({} : Mach).nt ≤ 0xFFFFFFFFFF ∧ ((({} : Mach).setPc 128 { state := 1#2 }).heldAt 0x2000000).isSome = true := by decide +kernel
/-- A miss allocates its line (R161). -/
theorem test_cacheAccess : goes (.cacheAccess ⟨0x2000000, true, false, .keep⟩) (on {}) (fun t =>
    t.m.cacheSet (t.m.sliceOf 0x2000000) 0 == [⟨0x40000, .keep, true⟩]) = true := by decide +kernel
/-- The credit goes to the next after the last served (R164). -/
theorem test_atomicCreditGrant : goes (.atomicCreditGrant 0) (on (({} : Mach).setSlice 0 { atomWait := [3, 7], atomLast := 3 })) (fun t =>
    t.m.slice 0 == { credits := [7], free := 63, atomWait := [3], atomLast := 7 }) = true := by decide +kernel
/-- CREDIT_GRANT of an atomic unit is its grant (R349). -/
theorem test_creditGrant : goes (.creditGrant (.atomicUnit 0)) (on (({} : Mach).setSlice 0 { atomWait := [3] })) (fun t =>
    (t.m.slice 0).credits == [3]) = true := by decide +kernel

/-! ## Memory (12) -/

/-- A sector of bytes all 0x5A. -/
def sector : Stored := { bytes := List.replicate 64 0x5A, slag := false }
/-- The symbols of a word of the code whose metadata byte is 2. -/
def badMeta : List Nat := (List.replicate 64 0 ++ [2]) ++ rsCheck (List.replicate 64 0 ++ [2])
/-- Hypotheses of SectorCodeCorrectsOneDetectsTwo, clause by clause. -/
theorem wit_SectorCodeCorrectsOneDetectsTwo : sector.bytes.length = 64 ∧ (1#8 ≠ 0#8) ∧ ((67 : Fin 68) ≠ 0) ∧ badMeta.length = 68 ∧
    (∀ v ∈ badMeta, v < 256) ∧ (∀ j, j < 3 → rsSyndrome badMeta j = 0) ∧ 2 ≤ badMeta.getD 64 0 := by decide +kernel
/-- One wrong symbol of a sector is corrected, two are not (R268). -/
theorem test_code : rsDecode (withErrors (symbolsOf sector) [(67, 9)]) = .corrected (symbolsOf sector) ∧
    rsDecode (withErrors (symbolsOf sector) [(67, 9), (0, 9)]) = .uncorrectable := by decide +kernel

/-- Pseudo-channel 5, and package 2, in a state. -/
def withPc (x : PcSt) : Mach := { ({} : Mach) with uptime := 1000 }.setPc 5 x
/-- A package. -/
def withPkg (x : PkgSt) : Mach := { ({} : Mach) with uptime := 1000 }.setPkg 2 x
/-- A sector of pseudo-channel 5 that the map reaches, one that it does not, and of package 2 the last of its data and the first
of its test area. -/
def sectors : List SectorAt := [.hbm 5 0, .hbm 5 12582911, .lpddr 2 503316479, .lpddr 2 534773760]
/-- Hypotheses of SectorReadsAndWrites for reads: each state of the channel, each outcome of the code. -/
theorem wit_SectorReadsAndWrites_read : ∀ a ∈ sectors,
    (∀ e ∈ [[], [((3 : Fin 68), (1 : Byte))], [(3, 1), (4, 1)]], (Instr.sectorRead a e).wf = true) ∧
    ({} : Mach).sectorState a ≠ 1#2 ∧ ({} : Mach).sectorState a ≠ 2#2 ∧
    ((withPc { state := 1#2 }).setPkg 2 { state := 1#2 }).sectorState a = 1#2 ∧
    ((withPc { state := 2#2 }).setPkg 2 { state := 2#2 }).sectorState a = 2#2 ∧
    rsDecode (withErrors (symbolsOf (({} : Mach).stored a)) []) = .clean ∧
    rsDecode (withErrors (symbolsOf (({} : Mach).stored a)) [(3, 1)]) = .corrected (symbolsOf (({} : Mach).stored a)) ∧
    spelled (symbolsOf (({} : Mach).stored a)) = ({} : Mach).stored a ∧
    rsDecode (withErrors (symbolsOf (({} : Mach).stored a)) [(3, 1), (4, 1)]) = .uncorrectable := by decide +kernel
/-- Hypotheses of SectorReadsAndWrites for writes: whole and in part, to a mapped sector and to one the map does not reach. -/
theorem wit_SectorReadsAndWrites_write :
    (∀ a ∈ sectors, (Instr.sectorWrite a 0 (BitVec.allOnes 64) false []).wf = true ∧ (Instr.sectorWrite a 0 1 false []).wf = true ∧
      spelled (withErrors (symbolsOf (({} : Mach).stored a)) []) = ({} : Mach).stored a) ∧
    (({} : Mach).sectorAddr 5 0).isSome = true ∧ ({} : Mach).sectorAddr 5 12582911 = none := by decide +kernel
/-- An uncorrectable sector is written back as slag and counted (R269). -/
theorem test_sectorRead : goes (.sectorRead (.lpddr 2 7) [(3, 1), (4, 1)]) (on {}) (fun t =>
    (t.m.stored (.lpddr 2 7)).slag && t.m.reg (lpdReg 2 8) == 1#32 && t.m.recordsDue.length == 1) = true := by decide +kernel
/-- A write of one byte keeps the rest (R270). -/
theorem test_sectorWrite : goes (.sectorWrite (.hbm 5 0) 0x0909 2 false []) (on {}) (fun t =>
    (t.m.stored (.hbm 5 0)).bytes.take 3 == [0, 9, 0]) = true := by decide +kernel

/-- A margining sweep of pseudo-channel 5 with 16 clean steps in one direction. -/
def sweepOf (up : Bool) : Sweep :=
  { lpddr := false, unit := 5, chan := 0, kind := 0, pos := if up then 16 else 3, neg := if up then 3 else 16, lastHold := some 990 }
/-- Its machine. -/
def sweeping (up : Bool) : Mach := { withPc {} with sweep := some (sweepOf up) }
/-- Hypotheses of PatrolMarginsAndPackages for margining, in both directions: a full hold, a failed step and the last step. -/
theorem wit_PatrolMarginsAndPackages_margin : ∀ up : Bool, ∀ h ∈ [MarginHold.mk up 16 false, .mk up 3 true], let x := sweepOf up
    (sweeping up).safe = false ∧ (sweeping up).sweep = some x ∧ (if h.up then x.posDone else x.negDone) = false ∧
      (if h.up then x.negDone else x.posDone) = false ∧ x.lastHold = some 990 ∧ 990 + 10 ≤ (sweeping up).uptime ∧
      x.lpddr = false ∧ (sweeping up).mayHold x.unit false = true ∧ h.clean.toNat + b2n h.failed ≤ 16 ∧
      (if h.up then x.pos else x.neg) + h.clean.toNat ≤ 32 ∧
      (h.clean.toNat = 16 ∨ h.failed = true ∨ (if h.up then x.pos else x.neg) + h.clean.toNat = 32) := by decide +kernel
/-- Hypotheses of its clauses for a package's failure and for a stack's patrol: at a held channel, at a clean or a failed sector, at
the end of a pass and with a sector noted. -/
theorem wit_PatrolMarginsAndPackages_stack :
    (({} : Mach).pkg 2).state ≠ 2#2 ∧ ((withPkg { state := 2#2 }).pkg 2).state = 2#2 ∧ errorsWf [] = true ∧
    (let s := (({} : Mach).setSlice 0 { patrol := 5 * pcSectors }).setPc 5 { state := 1#2 }
     (s.slice 0).skipped = [] ∧ (s.slice 0).patrol < stackSectors ∧ s.sectorState (patrolAt 0 (s.slice 0).patrol) = 1#2) ∧
    (∀ k ∈ [0, stackSectors - 1], let s := ({} : Mach).setSlice 0 { patrol := k }
      (s.slice 0).skipped = [] ∧ ((s.slice 0).patrol + 1 = stackSectors ↔ k ≠ 0) ∧ (s.slice 0).patrol < stackSectors ∧
        s.sectorState (patrolAt 0 k) ≠ 1#2 ∧ rsDecode (withErrors (symbolsOf (s.stored (patrolAt 0 k))) []) = .clean) ∧
    (({} : Mach).setPc 31 { state := 2#2 }).sectorState (patrolAt 0 (stackSectors - 1)) = 2#2 ∧
    (({} : Mach).setSlice 0 { skipped := [7], patrol := 9 }).slice 0 = { skipped := 7 :: [], patrol := 9 } ∧
    ({} : Mach).sectorState (patrolAt 0 7) = 0#2 ∧
    rsDecode (withErrors (symbolsOf (({} : Mach).stored (patrolAt 0 7))) []) = .clean := by decide +kernel
/-- Hypotheses of its clauses for a package's patrol: held, failed, and a clean sector within a pass and at its end. -/
theorem wit_PatrolMarginsAndPackages_package :
    ((withPkg { state := 1#2 }).pkg 2).state = 1#2 ∧ ((withPkg { state := 2#2 }).pkg 2).state = 2#2 ∧
    (∀ k ∈ [505413630, 505413631], let s := withPkg { patrol := k }
      (s.pkg 2).state ≠ 1#2 ∧ rsDecode (withErrors (symbolsOf (s.stored (pkgPatrolAt 2 (s.pkg 2).patrol))) []) = .clean ∧
        (505413632 ≤ (s.pkg 2).patrol + 1 ↔ k = 505413631)) := by decide +kernel
/-- MARGIN_STEP_HOLD that passes 16 more steps ends its direction (R289). -/
theorem test_marginStepHold : goes (.marginStepHold (.mk true 16 false)) (on (sweeping true)) (fun t =>
    (t.m.sweep.map fun x => (x.pos, x.posDone, x.negDone)) == some (32, true, false)) = true := by decide +kernel
/-- A pass ends after the last sector, of a stack and of a package (R272, R287). -/
theorem test_patrolRead : goes (.patrolRead (.stack 0) []) (on (({} : Mach).setSlice 0 { patrol := stackSectors - 1 })) (fun t =>
      (t.m.slice 0).patrol == 0 && t.m.reg (ldlReg 0 0x114) == 1#32) = true ∧
    goes (.patrolRead (.package 2) []) (on (withPkg { patrol := 505413631, cePass := 3 })) (fun t =>
      t.m.pkg 2 == {} && t.m.reg (lpdReg 2 0x14) == 1#32) = true := by decide +kernel
/-- The package fails, the module tier leaves (R288, 13 R318). -/
theorem test_lpddrPackageFail : goes (.lpddrPackageFail 2) (on {}) (fun t => (t.m.pkg 2).state == 2#2 && t.m.moduleOut) = true := by
  decide +kernel

/-- A migration on die 0 of pseudo-channel 5 onto lane 0, its regions as given. -/
def migrating (l : List Region) : Mach := (withPc {}).setRepair 0 { lanesTaken := [0], mig := some { target := 5, lane := 0, regions := l } }
/-- Hypotheses of HoldsAndRetraining for holds: each reason, and each reason not to hold. -/
theorem wit_HoldsAndRetraining_holds :
    ((withPc { trainDue := true }).safe = false ∧ (withPc { trainDue := true }).mayHold 5 true = true ∧
      ((withPc { trainDue := true }).pc 5).trainDue = true ∧ (withPc { trainDue := true }).lowerDue 5 = false ∧
      (withPc {}).mayHold 5 false = true ∧ ((migrating [.logical 0]).pc 5).state = 0#2 ∧ (migrating [.logical 0]).migrates 5 = true) ∧
    ((withPc {}).setReg (safReg 0) 0x40000000#32).safe = true ∧ ((withPc { state := 1#2 }).pc 5).state ≠ 0#2 ∧
    (let s := (withPc {}).setPc 6 { state := 1#2, reason := 1#2 }
     6 / 32 = 5 / 32 ∧ 6 ≠ 5 ∧ (s.pc 6).state = 1#2 ∧ (s.pc 6).reason ≠ 2#2) := by decide +kernel
/-- Hypotheses of HoldsAndRetraining for retraining: its triggers at their bounds, its outcomes, and a package. -/
theorem wit_HoldsAndRetraining_training :
    ((({} : Mach).pc 5).state ≠ 2#2 ∧ (({} : Mach).pc 5).state ≠ 3#2 ∧ (({} : Mach).pc 5).temp.toNat + 10 ≤ (35#8).toNat ∧
      (15#8).toNat + 10 ≤ (({} : Mach).pc 5).temp.toNat ∧ (34#8).toNat < (({} : Mach).pc 5).temp.toNat + 10 ∧
      (({} : Mach).pc 5).temp.toNat < (16#8).toNat + 10) ∧
    (({ ({} : Mach) with uptime := 86400000 } : Mach).pc 5).lastTrain + 86400000 ≤ 86400000 ∧
    (∀ k ∈ [14, 15], let s := withPc { parityErrs := List.replicate k 1 }
      (((s.pc 5).parityErrs.filter fun e => decide (s.uptime < e + 1000)).length < 15 ↔ k = 14)) ∧
    (∀ b : Bool, (withPc { state := 1#2, trainDue := true, trainParity := b }).retraining 5 = true ∧
      ((withPc { state := 1#2, trainDue := true, trainParity := b }).pc 5).trainParity = b) ∧
    ((withPc { state := 1#2 }).retraining 5 = true ∧ (withPc { state := 1#2 }).retrainReq ≠ some (false, 5) ∧
      (withPc { state := 1#2 }).canRetire (5 / 256) = true) ∧
    (({} : Mach).pkg 2).state = 0#2 := by decide +kernel
/-- HOLD_BEGIN holds (R273). -/
theorem test_holdBegin : goes (.holdBegin 5 .margining) (on (withPc {})) (fun t => (t.m.pc 5).state == 1#2 && (t.m.pc 5).reason == 1#2) = true := by
  decide +kernel
/-- A hold for retraining comes 100 ms after the last at the earliest (R273). -/
theorem test_holdBegin_early : stays (.holdBegin 5 .retraining) (on (withPc { trainDue := true, lastHoldEnd := some 901 })) = true := by
  decide +kernel
/-- HOLD_RELEASE keeps the time (R273). -/
theorem test_holdRelease : goes (.holdRelease 5) (on (withPc { state := 1#2 })) (fun t => (t.m.pc 5).lastHoldEnd == some 1000) = true := by
  decide +kernel
/-- 10 °C call for retraining (R276). -/
theorem test_retrainTrigger : goes (.retrainTrigger 5 (.temperature 35)) (on (withPc {})) (fun t => (t.m.pc 5).trainDue) = true := by
  decide +kernel
/-- RETRAIN_COMPLETE keeps the temperature (R276). -/
theorem test_retrainComplete : goes (.retrainComplete 5 40) (on (withPc { state := 1#2, trainDue := true })) (fun t =>
    (t.m.pc 5).temp == 40#8 && !(t.m.pc 5).trainDue) = true := by decide +kernel
/-- RETRAIN_FAIL (R277). -/
theorem test_retrainFail : goes (.retrainFail 5) (on (withPc { state := 1#2 })) (fun t => (t.m.pc 5).state == 2#2) = true := by decide +kernel
/-- LPDDR_RETRAIN (R287). -/
theorem test_lpddrRetrain : goes (.lpddrRetrain 2 40) (on (withPkg {})) (fun t => (t.m.pkg 2).temp == 40#8) = true := by decide +kernel

/-- A machine under production firmware. -/
def prodM (x : PcSt) : Mach := (withPc x).setReg (safReg 0) (BitVec.ofNat 32 (2 ^ 26))
/-- Hypotheses of RetirementAndMigration: a retirement due by the count and by failure, and each reason for none. -/
theorem wit_RetirementAndMigration_retire :
    (∀ x ∈ [({ retireDue := true } : PcSt), { state := 2#2 }], (prodM x).safe = false ∧ (prodM x).canRetire (5 / 256) = true ∧
      bit ((prodM x).reg (safReg 0)).toNat 26 = true ∧ (((prodM x).pc 5).retireDue = true ∨ ((prodM x).pc 5).state = 2#2) ∧
      ((prodM x).goneOn (5 / 256)).contains (5 % 256) = false ∧ ((prodM x).repairOf (5 / 256)).mig = none) ∧
    (∀ k ∈ [1, 7], let s := (prodM { state := 2#2 }).setRepair 0 { lanesTaken := List.range k, mig := some { target := 9, lane := 0, regions := [] } }
      s.canRetire (5 / 256) = true ∧ (s.goneOn (5 / 256)).contains (5 % 256) = false ∧ (s.repairOf (5 / 256)).mig ≠ none ∧
        ((s.repairOf (5 / 256)).lanesTaken.length < 7 ↔ k = 1) ∧ (s.pc 5).state = 2#2 ∧
        (∀ i, i < 256 → (s.pc (256 * (5 / 256) + i)).state = 2#2 → i = 5 % 256)) ∧
    ({ ({} : Mach) with repair := false } : Mach).repair = false ∧ bit ((withPc {}).reg (safReg 0)).toNat 26 = false ∧
    8 ≤ ((({} : Mach).setRepair 0 { lanesTaken := List.range 8 }).repairOf 0).lanesTaken.length ∧
    (((withPc {}).pc 5).retireDue = false ∧ ((withPc {}).pc 5).state ≠ 2#2) := by decide +kernel
/-- Hypotheses of RetirementAndMigration for a step, from the first watermark and to the last. -/
theorem wit_RetirementAndMigration_step : ∀ w ∈ [0, 3038208], let g : Migration := { target := 5, lane := 0, regions := [.logical 0], w := w }
    let s := (withPc {}).setRepair 0 { lanesTaken := [0], mig := some g }
    s.safe = false ∧ (s.repairOf 0).mig = some g ∧ g.regions = .logical 0 :: [] ∧ g.w + 4096 < 3047424 ∧ (s.pc g.target).state = 0#2 ∧
      (∀ k, k < 248 → (s.pc (256 * 0 + s.spread 0 g.lane k)).state ≠ 1#2) ∧ s.cmds = [] := by decide +kernel
/-- The first retirement takes lane 0 (R279). -/
theorem test_pseudoChannelRetire : goes (.pseudoChannelRetire 5) (on (prodM { retireDue := true })) (fun t =>
    (t.m.repairOf 0).lanesTaken == [0] && t.m.recordsDue.length == 1) = true := by decide +kernel
/-- MIGRATION_STEP moves the watermark (R280). -/
theorem test_migrationStep : goes (.migrationStep 0) (on (migrating [.logical 0])) (fun t =>
    ((t.m.repairOf 0).mig.map fun g => g.w) == some 4096 && t.m.reg (memReg 0) == 1#32) = true := by decide +kernel

/-! ## Tiers and residency (13) -/

/-- 1,024 sectors of zeros without slag. -/
def zeroSectors : List Sector := List.replicate 1024 (List.replicate 64 0#8, false)
/-- The CRC of 64 KiB of zeros. -/
def zeroCrc : Nat := crc32c (zeroSectors.flatMap fun x => x.1)
/-- A bar header of EW 0, BAR_LEN 448, no dictionary and a CRC (13 R309). -/
def headOf (c : Nat) : Nat := 0x01C0000154474E49 + c * 2 ^ 96
/-- The header of the bar of zeros. -/
def barHead : Nat := headOf zeroCrc
/-- The bar of zeros: every sector of mode ZERO. -/
def barOfZeros : List Byte := toBytes 64 barHead ++ List.replicate 384 0#8
/-- A step of the CRC keeps 32 bits. -/
theorem crcBits_lt : ∀ (k c : Nat), c < 2 ^ 32 → crcBits k c < 2 ^ 32 := by
  intro k
  induction k with
  | zero => intro c h; exact h
  | succ n ih =>
    intro c h
    apply ih
    split
    · exact Nat.xor_lt_two_pow (by omega) (by omega)
    · omega
/-- A CRC has 32 bits. -/
theorem crc32c_lt (l : List Byte) : crc32c l < 2 ^ 32 := by
  have h : ∀ (l : List Byte) (c : Nat), c < 2 ^ 32 → l.foldl (fun c b => crcBits 8 (c ^^^ b.toNat)) c < 2 ^ 32 := by
    intro l
    induction l with
    | nil => intro c h; exact h
    | cons b l ih => intro c h; exact ih _ (crcBits_lt _ _ (Nat.xor_lt_two_pow h (by omega)))
  exact Nat.xor_lt_two_pow (h l _ (by decide)) (by decide)
/-- The sectors the bar spells. -/
theorem rebuild_zero : rebuildAll 1 0 0 0 1024 0 [] = some (zeroSectors, true) := by decide +kernel
/-- It has no payload. -/
theorem zero_len : ((List.range 1024).foldl (fun a s => a + payLen 1 (bits 0 (3 * s + 1) (3 * s))) 0) = 0 := by decide +kernel
/-- Its header has 64 bytes. -/
theorem barHead_len : (toBytes 64 barHead).length = 64 := by simp only [toBytes, List.length_cons, List.length_nil]
/-- It has 448 bytes. -/
theorem barOfZeros_len : barOfZeros.length = 448 := by
  rw [barOfZeros, List.length_append, barHead_len, List.length_replicate]
/-- The header has 512 bits. -/
theorem headOf_lt (c : Nat) (h : c < 2 ^ 32) : headOf c < 2 ^ (8 * 64) := by unfold headOf; omega
/-- The fields of the header. -/
theorem headOf_bits (c : Nat) (h : c < 2 ^ 32) : bits (headOf c) 260 256 = 0 ∧ bits (headOf c) 255 128 = 0 ∧
    bits (headOf c) 31 0 = 0x54474E49 ∧ bits (headOf c) 39 32 = 1 ∧ bits (headOf c) 41 40 = 0 ∧ bits (headOf c) 64 48 = 448 ∧
    bits (headOf c) 127 96 = c ∧ zeroFields (headOf c) [(511, 261), (95, 65), (47, 42)] = true := by
  simp only [zeroFields, List.all_cons, List.all_nil, Bool.and_true, Bool.and_eq_true, beq_iff_eq]
  unfold bits headOf
  simp only [Nat.shiftRight_eq_div_pow]
  exact ⟨by omega, by omega, by omega, by omega, by omega, by omega, by omega, by omega, by omega, by omega⟩
/-- The bar of zeros expands to zeros (13 R311). -/
theorem expand_zero : expandBar 0 barOfZeros = some zeroSectors := by
  have hc : zeroCrc < 2 ^ 32 := crc32c_lt _
  have h1 : barOfZeros.take 64 = toBytes 64 barHead := List.take_left' barHead_len
  have h2 : ofBytes ((barOfZeros.drop 64).take 384) = 0 := by
    rw [barOfZeros, List.drop_left' barHead_len]; decide +kernel
  have h3 : barOfZeros.drop 448 = [] := List.drop_eq_nil_of_le (by rw [barOfZeros_len])
  have hh : barHead < 2 ^ (8 * 64) := headOf_lt _ hc
  have h4 : ofBytes (toBytes 64 barHead) = barHead := by rw [Sys2Proof.Laws.ofBytes_toBytes, Nat.mod_eq_of_lt hh]
  unfold expandBar
  rw [h1, h2, h3, h4]
  obtain ⟨b1, b2, b3, b4, b5, b6, b7, b8⟩ : bits barHead 260 256 = 0 ∧ bits barHead 255 128 = 0 ∧ bits barHead 31 0 = 0x54474E49 ∧
      bits barHead 39 32 = 1 ∧ bits barHead 41 40 = 0 ∧ bits barHead 64 48 = 448 ∧ bits barHead 127 96 = zeroCrc ∧
      zeroFields barHead [(511, 261), (95, 65), (47, 42)] = true := headOf_bits _ hc
  have e : ewBytes 0 = 1 := rfl
  have l : ¬ barOfZeros.length < 448 := by rw [barOfZeros_len]; omega
  simp only [e, if_neg l, b1, b2, rebuild_zero, zero_len, b3, b4, b5, b6, b7, b8]
  rw [show crc32c (zeroSectors.flatMap fun x => x.1) = zeroCrc from rfl]
  simp

/-- An object of one bar of 1-byte elements that moves: the bar's module-tier frames begin at frame 0. -/
def mover (st : BitVec 3) (src dst : BitVec 2) : Obj :=
  { anObj with state := st, src := src, dst := dst, ew := 0#2, bars := [(0, (0, 17))], present := false }
/-- Its machine. -/
def moving (o : Obj) : Mach := mem.setObj 1 o
/-- Where a byte of its near copy lies. -/
theorem mover_pa (st : BitVec 3) (src dst : BitVec 2) (i p : Nat) (h : (mover st src dst).pa i = some p) : p = 0x2000000 + i := by
  simp only [Obj.pa, mover, anObj, extAt] at h
  split at h
  · exact (Option.some.inj h).symm
  · exact absurd h (by simp)
/-- A machine whose link is up. -/
def linked (m : Mach) : Mach := m.setReg (portReg 0) 0x80000000#32
/-- Hypotheses of BarsMoveAndRefetchEnds for a compression to either tier. -/
theorem wit_BarsMove_compress : ∀ d ∈ [2#2, 3#2], let o := mover 3#3 1#2 d
    let m := linked (moving o)
    m.obj 1 = o ∧ o.state = 3#3 ∧ o.src = 1#2 ∧ 0 < o.nbars ∧ barHeld m o 0 = false ∧ m.under = [] ∧
      (tabGet (fun _ => (0, 0)) o.bars 0).2 ≠ 0 ∧ (∀ n ∈ [448, 65984], (m.barPlace o 0 n).isSome = true) ∧
      (∀ p : PkgNo, (m.pkg p.toNat).state ≠ 2#2) ∧ m.linkUp = true ∧ (m.ep o.ep.toNat).error = false ∧
      (moving o).linkUp = false := by decide +kernel
/-- The machine whose object moves up from a module tier that holds the bar of zeros. -/
def upFrom (o : Obj) (l : List Byte) : Mach := (moving o).lpPut 0 l
/-- Hypotheses of BarsMoveAndRefetchEnds for an expansion: a bar of zero bytes reads, and expands to slag. -/
theorem wit_BarsMove_expand :
    (let o := mover 2#3 2#2 1#2
     let m := upFrom o []
     m.obj 1 = o ∧ o.state = 2#3 ∧ o.src = 2#2 ∧ o.near ≠ [] ∧ 0 < o.nbars ∧ barHeld m o 0 = false ∧
      moduleBar m o 0 = some (List.replicate 448 0#8) ∧ (expandBar o.ew.toNat (List.replicate 448 0#8)).isSome = true ∧
      (∀ i, i < 1024 → (0x2000000 + 64 * i) % 64 = 0 ∧ m.isFailed (0x2000000 + 64 * i) = false)) ∧
    (∀ i j p, i < 1024 → j < 1024 → (mover 2#3 2#2 1#2).pa (65536 * 0 + 64 * i) = some p →
      (mover 2#3 2#2 1#2).pa (65536 * 0 + 64 * j) = some p → i = j) := by
  refine ⟨by decide +kernel, fun i j p _ _ hi hj => ?_⟩
  have := mover_pa _ _ _ _ _ hi
  have := mover_pa _ _ _ _ _ hj
  omega
/-- An object in the near tier that refetches, its first sector slag. -/
def refetching : Mach := linked { moving { anObj with ew := 0#2, refetch := true, poison := true, clean := true, origin := true } with slag := [(0x80000, true)] }
/-- What the origin answers: an entry of that many frames at once, its bytes. -/
def barRead (frames : Nat) (l : Option (List Byte)) : BarRead := { entry := BitVec.ofNat 64 (frames <<< 36), data := l }
/-- Hypotheses of BarsMoveAndRefetchEnds for a refetch: data without slag, none, data that do not expand and data that bring
slag; and an object that does not refetch. -/
theorem wit_BarsMove_refetch :
    (let o := refetching.obj 1
     (refetching.ep o.ep.toNat).error = false ∧ ((refetching.setEp 0 { error := true }).ep o.ep.toNat).error = true ∧
      refetching.linkUp = true ∧ o.nearHas 0 = true ∧ barHeld refetching o 0 = false ∧ refetching.under = [] ∧
      (∀ k ∈ [0, 1, 18], bits (barRead k none).entry.toNat 63 41 = 0 ∧ bits (barRead k none).entry.toNat 40 36 = k) ∧
      o.refetch = true ∧ 0 < o.nbars ∧ o.state ≠ 0#3 ∧ o.near ≠ [] ∧ barSlag refetching o 0 = true ∧ o.ew.toNat = 0 ∧
      expandBar 0 [] = none ∧ ((expandBar 0 (List.replicate 448 0#8)).map fun ss => ss.any fun x => x.2) = some true) ∧
    (expandBar 0 (barOfZeros.take (4096 * 1)) = some zeroSectors ∧ (zeroSectors.any fun x => x.2) = false) ∧ (mem.obj 1).refetch = false :=
  ⟨by decide +kernel, ⟨by rw [List.take_of_length_le (by rw [barOfZeros_len]; omega)]; exact expand_zero, by decide +kernel⟩,
    by decide +kernel⟩
/-- A refetch that brings nothing loses the object (R316). -/
theorem test_refetch_fails : goes (.refetch 1 0 (barRead 1 none)) (on refetching) (fun t => !(t.m.obj 1).present && !(t.m.obj 1).clean) = true := by
  decide +kernel
/-- INGOT_COMPRESS of a bar that is not the object's does nothing (R309). -/
theorem test_ingotCompress_range : stays (.ingotCompress 1 1) (on (moving (mover 3#3 1#2 2#2))) = true := by decide +kernel
/-- INGOT_EXPAND of a held object does nothing (12 R274). -/
theorem test_ingotExpand_down : stays (.ingotExpand 1 0) (on (moving (mover 3#3 1#2 2#2))) = true := by decide +kernel

/-- Hypotheses of MovesStepAndCommit for the steps: down to either tier from either, up to either. -/
theorem wit_MovesStep :
    (∀ x ∈ [((1 : BitVec 2), (2 : BitVec 2)), (1, 3), (2, 3)], let o := mover 3#3 x.1 x.2
      (linked (moving o)).linkUp = true ∧ (moving o).under = [] ∧ (moving o).obj 1 = o ∧ (moving o).safe = false ∧ o.state = 3#3 ∧ o.abandon = false ∧ o.wmark.toNat < o.steps ∧
        (o.dst = 2#2 ∧ o.src = 1#2 ∨ o.dst = 3#2) ∧ (stepBars o).any (barHeld (moving o) o) = false ∧
        (moving o).ladleHolds none 1 = false ∧ ((moving o).ep o.ep.toNat).error = false) ∧
    (∀ x ∈ [((2 : BitVec 2), (1 : BitVec 2)), (3, 1), (3, 2)], let o := mover 2#3 x.1 x.2
      (linked (moving o)).linkUp = true ∧ (moving o).obj 1 = o ∧ (moving o).safe = false ∧ o.state = 2#3 ∧ o.wmark.toNat < o.steps ∧ o.near ≠ [] ∧
        (stepBars o).any (barHeld (moving o) o) = false) := by decide +kernel
/-- Hypotheses of MovesStepAndCommit for the commits. -/
theorem wit_MovesCommit :
    (∀ d ∈ [2#2, 3#2], let o := { mover 3#3 1#2 d with wmark := 1#20 }
      (moving o).obj 1 = o ∧ (moving o).safe = false ∧ o.state = 3#3 ∧ o.abandon = false ∧ o.steps ≤ o.wmark.toNat ∧
        o.syncEn = false ∧ (moving o).ladleHolds none 1 = false) ∧
    (let o := { mover 2#3 2#2 1#2 with wmark := 1#20 }
     (moving o).obj 1 = o ∧ (moving o).safe = false ∧ o.state = 2#3 ∧ o.dst = 1#2 ∧ o.steps ≤ o.wmark.toNat ∧ o.syncEn = false ∧
      o.refetch = false ∧ ∀ p ∈ (moving o).pcs, p.2.state ≠ 2#2) := by
  decide +kernel
/-- MOVE_DOWN_COMMIT leaves the near tier (R303). -/
theorem test_moveDownCommit : goes (.moveDownCommit 1) (on (moving { mover 3#3 1#2 2#2 with wmark := 1#20 })) (fun t =>
    (t.m.obj 1).state == 4#3 && (t.m.obj 1).near == [] && t.m.reg (tierReg 0x18) == 1#32) = true := by decide +kernel
/-- MOVE_UP_COMMIT makes the leaves present (R304). -/
theorem test_moveUpCommit : goes (.moveUpCommit 1) (on (moving { mover 2#3 2#2 1#2 with wmark := 1#20 })) (fun t =>
    (t.m.obj 1).state == 1#3 && (t.m.obj 1).present && (t.m.obj 1).bars == []) = true := by decide +kernel
/-- MOVE_UP_STEP has no step after the last (R303). -/
theorem test_moveUpStep : stays (.moveUpStep 1 []) (on (moving { mover 2#3 2#2 1#2 with wmark := 1#20 })) = true := by decide +kernel
/-- MOVE_DOWN_STEP waits once asked to abandon (R306). -/
theorem test_moveDownStep : stays (.moveDownStep 1) (on (moving { mover 3#3 1#2 2#2 with abandon := true })) = true := by decide +kernel

/-- A command that waits for the object. -/
def awaiting : Mach := { moving (mover 2#3 2#2 1#2) with cmds := [{ coreCmd 1 with st := .stopped, cause := some (.residency 1) }] }
/-- Hypotheses of TimeoutsAbandonsSweepsInvalidations. -/
theorem wit_TimeoutsAbandonsSweepsInvalidations :
    ((awaiting.obj 1).state = 2#3 ∧ (awaiting.waitersOf 1).map (fun c => c.ctx) = [1] ∧ (awaiting.ctx 1).state = 1#2 ∧
      (awaiting.ctx 2).state ≠ 1#2) ∧ (mem.obj 1).state ≠ 2#3 ∧ ((moving (mover 3#3 1#2 2#2)).obj 1).state = 3#3 ∧
      ((moving (mover 3#3 1#2 2#2)).obj 1).src = 1#2 ∧ ((moving (mover 3#3 2#2 3#2)).obj 1).src ≠ 1#2 ∧ (mem.obj 1).state ≠ 3#3 ∧ ((({} : Mach).setCore 3 { xctx := 1, xlate := [0x10000] }).core 3).xctx = (1#12).toNat := by
  decide +kernel
/-- PROMOTION_TIMEOUT (R304). -/
theorem test_promotionTimeout : goes (.promotionTimeout 1) (on awaiting) (fun t =>
    (t.m.obj 1).state == 4#3 && (t.m.ctx 1).lastSt == stTierTimeout) = true := by decide +kernel
/-- ABANDON_REQUEST (R305). -/
theorem test_abandonRequest : goes (.abandonRequest 1) (on (moving (mover 3#3 1#2 2#2))) (fun t => (t.m.obj 1).abandon) = true := by
  decide +kernel
/-- ACCESSED_SWEEP (R307). -/
theorem test_accessedSweep : goes .accessedSweep (on (moving { anObj with accessed := true })) (fun t => !(t.m.obj 1).accessed) = true := by
  decide +kernel
/-- INVALIDATION (R298). -/
theorem test_invalidation : goes (.invalidation 1 0x10000 1) (on (mem.setCore 3 { xctx := 1, xlate := [0x10000, 0x20000] })) (fun t =>
    (t.m.core 3).xlate == [0x20000]) = true := by decide +kernel

/-! ## Commands of queues (14, 05) -/

/-- `MayIssue` as a computation. -/
def mayIssue (q d : Nat) (s : Mach) : Bool :=
  (s.cmds.all fun c => decide (c.id < s.nextCmd)) && (s.toReplay q).isNone && !(s.queue q).skipping (s.queue q).rd && s.issues &&
    s.runs (s.queue q).ctx && s.readyAt q d && (headerCode s q d).isNone
/-- It decides it. -/
theorem mayIssue_iff (q d : Nat) (s : Mach) : mayIssue q d s = true ↔ MayIssue q d s := by
  simp [mayIssue, MayIssue, NumbersFresh, and_assoc, List.all_eq_true]
/-- A machine whose queue 0, of context 1 on die 0, has `n` entries in its ring at the object's start. -/
def queued (n : Nat) : Mach := mem.setQueue 0 { state := 1#2, ctx := 1, ringVa := 0x10000, sizeLog2 := 4, dieMask := 1, wr := n }
/-- A length table of one empty sequence and the state object with its stream, as the core commands read them. -/
def issueMem : Mach := putObj (withState (queued 1)) 0x1000 (toBytes 64 1)
/-- The seven core commands, each with a body that passes its checks. -/
def coreRows : List Instr :=
  [.matmul 0 (BitVec.ofNat 512 (planDesc 1)), .conv 0 (BitVec.ofNat 512 (planDesc 2)),
   .attnScore 0 (BitVec.ofNat 512 (fl [(0, 3), (192, 0x11000)])), .attnApply 0 (BitVec.ofNat 512 (fl [(0, 5), (192, 0x11000)])),
   .attnApplyBackward 0 (BitVec.ofNat 512 (fl [(0, 5), (192, 0x11000)])),
   .gatedStep 0 (BitVec.ofNat 512 (recDesc 6 1)), .scanChunk 0 (BitVec.ofNat 512 (recDesc 7 1))]
/-- The entry a row stands for. -/
def entryOf (c : Instr) : Nat := ((queueEntryOf c).map fun x => x.2).getD 0
/-- Hypotheses of CoreCommandsIssue for each of its rows. -/
theorem wit_CoreCommandsIssue : ∀ c ∈ coreRows, let e := entryOf c
    let s := issueMem
    let g := grantPlaces (enterCmd s 0 e .running).2 s.nextCmd [0]
    let r := coreIssueCheck s.nextCmd g
    queueEntryOf c = some (0, e) ∧ mayIssue 0 e s = true ∧ homeDie (s.queue 0).dieMask = 0 ∧
      s.choosePlaces (s.queue 0).dieMask (dSlots e) (keptPlaces s 0 1) = some [0] ∧
      (s.queue 0).pinDue.contains (s.queue 0).rd = false ∧ isOk r = true ∧ noWait r.state s.nextCmd 0 0 = true := by decide +kernel
/-- MATMUL takes a place and waits for admission (R335). -/
theorem test_matmul : goes (.matmul 0 (BitVec.ofNat 512 (planDesc 1))) (on issueMem) (fun t =>
    (t.m.cluster 0).waiting == [(0, 0)] && (t.m.queue 0).rd == 1) = true := by decide +kernel
/-- Each of the others runs. -/
theorem test_coreRows : (coreRows.all fun c => goes c (on issueMem) fun t => t.m.cmds.length == 1) = true := by decide +kernel

/-- Hypotheses of FlaskAndLadleCommandsIssue for the flask's commands: an import of a blob that is none. -/
theorem wit_FlaskCommandsIssue : let d := fl [(0, 12), (160, 0x12000), (208, 0x12F00), (272, 0x13000), (320, 3), (352, 0x14000)]
    let c := Instr.stateImport 0 (BitVec.ofNat 512 d)
    let x := enterCmd issueMem 0 (entryOf c) .running
    queueEntryOf c = some (0, entryOf c) ∧ mayIssue 0 (entryOf c) issueMem = true ∧ isOk (flaskWork x.1 x.2) = true := by decide +kernel
/-- The same for an export of one stream. -/
theorem wit_FlaskCommandsIssue_export : let d := fl [(0, 11), (160, 0x12000), (208, 0x12F00), (272, 0x13000), (320, 3)]
    let c := Instr.stateExport 0 (BitVec.ofNat 512 d)
    let x := enterCmd issueMem 0 (entryOf c) .running
    queueEntryOf c = some (0, entryOf c) ∧ mayIssue 0 (entryOf c) issueMem = true ∧ isOk (flaskWork x.1 x.2) = true := by decide +kernel
/-- The blob that is none gives ST_VERSION at STATUS_VA (09 R226). -/
theorem test_stateImport : goes (.stateImport 0 (BitVec.ofNat 512 (fl [(0, 12), (160, 0x12000), (208, 0x12F00), (272, 0x13000), (320, 3),
    (352, 0x14000)]))) (on issueMem) (fun t => val? (t.m.readWord 1 0x14000 8) == some stVersion) = true := by decide +kernel
/-- Memory for the rows of the ladle units: the same with an update block, a gradient record, a source table, and, in an object
of its own, the control object of a page pool of one free page, whose list 0 is live and empty and whose list 1 is free. -/
def ladleMem : Mach :=
  let m := putObj (putObj issueMem 0x4000 (toBytes 64 (0x3F800000 + 0x16000 <<< 384))) 0x5000 (toBytes 16 0x13000)
  let m := putObj m 0x6000 (toBytes 128 (fl [(0, 0x3F800000), (160, 2), (164, 2), (176, 2)]))
  let m := ({ m with maps := m.maps ++ [Mapping.mk 1 0x20000 2 true false false] }.setObj 2 { anObj with near := [(0x2010000, 65536)] }).setSync 2
    { owner := 1#12, live := true }
  let m := (m.putBytes 0x2010000 (toBytes 64 (fl [(0, 1), (32, 1), (160, 1), (176, 2), (272, 0x10000)]))).putBytes 0x2010300 (toBytes 8 0x20000000)
  putObj (m.setPool 1 { live := true, ctx := 1, control := 2, ctrlVa := 0x20000 }) 0x7000 (toBytes 8 (1 <<< 32))
/-- Rows of the ladle units that pass their checks: ZERO, COPY, ATTN_NORM in both forms over one empty sequence, REDUCE (the sum of
one element), its HIST and, of no record, its ADAPT form, OPT_UPDATE of one element, FORK and FREE_LIST of the empty list, APPEND_PAGE of one
page to it. -/
def ladleRows : List Instr :=
  [.zero 0 (BitVec.ofNat 512 (fl [(0, 16), (128, 1), (256, 0x10000)])),
   .copy 0 (BitVec.ofNat 512 (fl [(0, 15), (128, 1), (192, 0x11000), (256, 0x10000)])),
   .attnNorm 0 (BitVec.ofNat 512 (fl [(0, 4), (128, 0x11000)])), .attnNormBackward 0 (BitVec.ofNat 512 (fl [(0, 4), (128, 0x11000)])),
   .reduce 0 (BitVec.ofNat 512 (fl [(0, 14), (144, 1), (208, 0x15000), (256, 0x13400), (352, 1), (448, 0x15100)])),
   .reduceAdapt 0 (BitVec.ofNat 512 (fl [(0, 14), (208, 0x15000), (352, 1)])),
   .reduceHist 0 (BitVec.ofNat 512 (fl [(0, 14), (144, 1), (208, 0x15000), (256, 0x13400), (352, 1), (448, 0x15100)])),
   .optUpdate 0 (BitVec.ofNat 512 (fl [(0, 13), (130, 1), (144, 1), (176, 0x13000), (224, 0x13400), (272, 0x13800), (368, 0x14000)])),
   .fork 0 (BitVec.ofNat 512 (fl [(0, 8), (128, 1), (176, 0x17000), (224, 0x17100), (272, 1), (312, 1)])),
   .freeList 0 (BitVec.ofNat 512 (fl [(0, 10), (128, 1), (224, 0x17200)])),
   .appendPage 0 (BitVec.ofNat 512 (fl [(0, 9), (128, 1), (224, 0x17000), (272, 1)]))]
/-- Hypotheses of FlaskAndLadleCommandsIssue for the issue of a row: its checks, what they leave, the class idle. -/
theorem wit_LadleCommandsIssue_issue :
    (ladleRows.all fun c =>
      let e := entryOf c
      let s := ladleMem
      let x := enterCmd s 0 e .offered
      match ladleIssue x.1 x.2 with
      | .err _ _ => false
      | .ok x1 y1 => queueEntryOf c == some (0, e) && mayIssue 0 e s && y1.cmds == x.2.cmds && y1.ctxs == x.2.ctxs && x1.id == x.1.id &&
          x1.ctx == x.1.ctx && x1.die == x.1.die && x1.desc == x.1.desc && x1.st == x.1.st && s.cmds == [] &&
          (classHead s (isPageOp (dOp e))).isNone) = true := by decide +kernel
/-- Hypotheses of the same for the delivery that follows. -/
theorem wit_LadleCommandsIssue_delivery :
    (ladleRows.all fun c =>
      let e := entryOf c
      let s := ladleMem
      let x := enterCmd s 0 e .offered
      match ladleIssue x.1 x.2 with
      | .err _ _ => false
      | .ok x1 y1 =>
        let z := noteIdle (y1.setCmd x1) 0 1
        z.issues && match ladleCheck { x1 with st := .check, mapGen := (z.reg (memReg 0)).toNat }
            { z with ladleDie := (x1.die + 1) % 4, cmds := s.cmds ++ [{ x1 with st := .check }], leafUse := .check [] } with
          | .err _ _ => false
          | .ok x2 y2 => x2.id == x1.id && x2.ctx == x1.ctx && x2.desc == x1.desc && y2.cmds == s.cmds ++ [{ x1 with st := .check }] &&
              y2.ctxs == z.ctxs && y2.issues) = true := by decide +kernel
/-- Hypotheses of FlaskAndLadleCommandsIssue for a busy class and for another command offered. -/
theorem wit_LadleCommandsIssue_busy :
    ∀ st ∈ [CmdSt.work, .offered], let s := { ladleMem with cmds := [zeroCmd 3 st], nextCmd := 9 }
      (∀ c ∈ ladleRows, mayIssue 0 (entryOf c) s = true) ∧ ((classHead s false).isSome = true ∨ ∃ x ∈ s.cmds, x.st = .offered) := by
  decide +kernel
/-- COPY passes its check barrier; its bytes are the work of 32 shares (06 R144, R157). -/
theorem test_copy : goes (.copy 0 (BitVec.ofNat 512 (fl [(0, 15), (128, 1), (192, 0x11000), (256, 0x10000)]))) (on issueMem) (fun t =>
    (t.m.cmds.map fun c => (c.st, c.shares.length)) == [(.work, 32)]) = true := by decide +kernel

/-- Descriptors of a WAIT for object 2 to reach 1, of a SIGNAL that adds 1 to it, of a BRANCH on it with an entry on path B, of a
BRANCH with a deadline, of a stash branch. -/
def waitD : Nat := fl [(0, 17), (128, 1), (160, 2), (177, 1)]
/-- SIGNAL. -/
def signalD : Nat := fl [(0, 18), (128, 1), (160, 2), (174, 1)]
/-- BRANCH. -/
def branchD : Nat := fl [(0, 19), (128, 1), (198, 2), (272, 1)]
/-- A machine whose context 1 owns synchronisation object 2, at a count, and has three entries queued. -/
def syncM (n : Word) : Mach := (queued 3).setSync 2 { count := n, owner := 1#12, live := true }
/-- Hypotheses of WaitsAndSignals. -/
theorem wit_WaitsAndSignals :
    (let e := entryOf (.wait 0 (BitVec.ofNat 512 waitD))
     mayIssue 0 e (syncM 0) = true ∧ mayIssue 0 e (syncM 1) = true ∧ waitBad e = false ∧ (syncM 0).cmds = [] ∧ (syncM 1).cmds = [] ∧
      (syncM 0).syncNews = [] ∧ (∀ b : Bool, let s := syncM (if b then 1 else 0)
        let x := enterCmd (noteReady s 0 1) 0 e .waiting
        val? (waitHolds x.1 x.2) = some b)) ∧
    ((syncM 0).frozen = false ∧ (syncM 0).slag = [] ∧ (syncM 0).under = [] ∧ (syncM 0).pcs = [] ∧ (syncM 0).slices = []) ∧
    (let e := entryOf (.signal 0 (BitVec.ofNat 512 signalD))
     mayIssue 0 e (syncM 0) = true ∧ signalBad e = false ∧ (syncM 0).cmds = []) := by decide +kernel
/-- WAIT stops the queue (R333). -/
theorem test_wait : goes (.wait 0 (BitVec.ofNat 512 waitD)) (on (syncM 0)) (fun t => (t.m.queue 0).state == 2#2) = true := by decide +kernel
/-- SIGNAL adds (R334). -/
theorem test_signal : goes (.signal 0 (BitVec.ofNat 512 signalD)) (on (syncM 5)) (fun t => (t.m.sync 2).count == 6#32) = true := by
  decide +kernel

/-- A stash pool of context 1 whose header is at the object's start, its QUEUE queue 0. -/
def stashM : Mach := (queued 3).setPool 4 { live := true, stash := true, ctx := 1, control := 1, ctrlVa := 0x10000 }
/-- Hypotheses of RefusedSkippedAndBranches for an entry refused, one skipped, and the reasons to wait. -/
theorem wit_RefusedSkipped :
    (let s := queued 1
     s.toReplay 0 = none ∧ (s.queue 0).skipping (s.queue 0).rd = false ∧ s.issues = true ∧ s.runs (s.queue 0).ctx = true ∧
      s.readyAt 0 (fl [(0, 1), (10, 1)]) = true ∧ headerCode s 0 (fl [(0, 1), (10, 1)]) = some stShape) ∧
    (let s := (queued 1).setQueue 0 { (queued 1).queue 0 with skips := [(0, 1)] }
     s.toReplay 0 = none ∧ (s.queue 0).skipping (s.queue 0).rd = true ∧ s.issues = true ∧ s.runs (s.queue 0).ctx = true ∧
      (s.queue 0).state = 1#2 ∧ (s.queue 0).rd < (s.queue 0).wr ∧ s.cmds = []) ∧
    ((queued 1).setReg (safReg 0) 0x40000000#32).issues = false ∧ (queued 0).readyAt 0 1 = false ∧
    ((queued 1).setCtx 1 { state := 2#2 }).runs 1 = false := by decide +kernel
/-- Hypotheses of RefusedSkippedAndBranches for BRANCH, with and without its condition, and STASH_BRANCH. -/
theorem wit_Branches :
    (∀ x ∈ [(syncM 0, Instr.branch 0 (BitVec.ofNat 512 branchD)), (syncM 1, .branch 0 (BitVec.ofNat 512 branchD)),
        (stashM, .stashBranch 0 (BitVec.ofNat 512 (fl [(0, 19), (198, 4)])))],
      let e := entryOf x.2
      let s := x.1
      let c := { (enterCmd s 0 e .branching).1 with decider := 0 }
      let y0 := (enterCmd s 0 e .branching).2.setCmd c
      let r := branchRun c false y0
      queueEntryOf x.2 = some (0, e) ∧ mayIssue 0 e s = true ∧ s.cmds = [] ∧ branchCode s 0 e = none ∧
        s.decider (homeDie (s.queue 0).dieMask) = some 0 ∧ ((val? r).bind fun a => a).isSome = true ∧ r.state.queues = y0.queues ∧
        r.state.cmds = y0.cmds) ∧
    (let c : Cmd := { coreCmd 19 with desc := branchD + 1 <<< 194 + 7 <<< 212, st := .branching, waited := 7 }
     let s := { syncM 0 with cmds := [c], nextCmd := 1 }
     bits c.desc 235 212 ≤ c.waited ∧ ({ c with waited := 6 } : Cmd).waited < bits c.desc 235 212 ∧ s.safe = false ∧ (s.cmds.find? fun x => x.queue == 0 && x.st == .branching && bit x.desc 194) = some c ∧ s.runs c.ctx = true ∧
      c.walkers = [] ∧ val? (branchRun c true s) = some (some false) ∧ (branchRun c true s).state.queues = s.queues ∧
      (branchRun c true s).state.cmds = s.cmds) := by decide +kernel
/-- BRANCH whose condition holds skips path B (05 R139, R140). -/
theorem test_branch : goes (.branch 0 (BitVec.ofNat 512 branchD)) (on (syncM 1)) (fun t =>
    (t.m.queue 0).skips == [(1, 2)] && (t.m.queue 0).rd == 1) = true := by decide +kernel
/-- STASH_BRANCH of a pool of no pages (10 R239). -/
theorem test_stashBranch : goes (.stashBranch 0 (BitVec.ofNat 512 (fl [(0, 19), (198, 4)]))) (on stashM) (fun t => (t.m.queue 0).rd == 1) =
    true := by decide +kernel
/-- BRANCH_DEADLINE decides (05 R139). -/
theorem test_branchDeadline : goes (.branchDeadline 0) (on { syncM 0 with cmds := [{ coreCmd 19 with desc := branchD + 1 <<< 194, st := .branching }] })
    (fun t => t.m.cmds == [] && t.m.reg (clReg 0 0x18) == 1#32) = true := by decide +kernel

/-- A context ready on die 0 with ticks left, and a deferred free of an empty list of pool 1. -/
def ready : Mach := (queued 1).setCtx 1 (({ state := 1#2, client := 1, share := 1 } : CtxSt).setRemain 0 5)
/-- The deferred free. -/
def freeM : Mach := { mem.setPool 1 { live := true, ctx := 1, control := 1, ctrlVa := 0x10000 } with deferred := [(1, 0x10200)] }
/-- Hypotheses of DispatchersChoose. -/
theorem wit_DispatchersChoose :
    (let r := survey ready 0
     ready.issues = true ∧ r.2.1 = [(0, .entry 0)] ∧ r.2.2 = [1] ∧ (r.1.queue 0).ctx = 1 ∧ (r.1.sched 0).holder = none ∧
      0 < (r.1.ctx 1).remainAt 0 ∧ 0 < r.1.sliceTicks 0) ∧
    ({ ({} : Mach) with frozen := true } : Mach).issues = false ∧
    (∀ b : Bool, let s := { freeM with cmds := if b then [{ zeroCmd 3 .checked with desc := fl [(0, 10)] }] else [], nextCmd := 9 }
      let c : Cmd := { id := s.nextCmd, ctx := (s.pool 1).ctx, queue := noQueue, pos := 0, die := 0, desc := dSet (1 <<< 128) 10 false,
                       st := .check, free := some (1, 0x10200) }
      s.deferred = (1, 0x10200) :: [] ∧ s.issues = true ∧ (classHead s true).map (fun h => h.st) = (if b then some .checked else none) ∧
        s.runs c.ctx = true ∧ (b = false → isOk (ladleCheck { c with mapGen := (s.reg (memReg 0)).toNat }
          { s with deferred := [], nextCmd := s.nextCmd + 1, cmds := s.cmds ++ [c], leafUse := .check [] }) = true)) := by decide +kernel
/-- An ordinary holder and an urgent context newly ready, and one that was so before. -/
def urgentM (b : Bool) : Mach :=
  ((queued 1).setCtx 1 (({ state := 1#2, priority := true } : CtxSt).setEligible 0 b)).setSched 0 { holder := some 5 }
/-- Hypotheses of DispatchersChoose for URGENT_PREEMPT. -/
theorem wit_DispatchersChoose_urgent : ∀ b : Bool, let s := urgentM b
    let r := candidates s.retest 0
    s.issues = true ∧ (r.1.sched 0).holder = some 5 ∧ (r.1.ctx 5).priority = false ∧
      r.2.map (fun p => ((r.1.ctx (r.1.queue p.1).ctx).priority, (r.1.ctx (r.1.queue p.1).ctx).eligibleAt 0)) = [(true, b)] := by
  decide +kernel
/-- SELECT_CONTEXT gives the ready context the slice (R338). -/
theorem test_selectContext : goes (.selectContext 0) (on ready) (fun t => (t.m.sched 0).holder == some 1) = true := by decide +kernel
/-- URGENT_PREEMPT ends an ordinary slice when an urgent context becomes eligible, and only then (R339). -/
theorem test_urgentPreempt : ∀ b : Bool, goes (.urgentPreempt 0) (on (urgentM b)) (fun t =>
    (t.m.sched 0).holder == if b then some 5 else none) = true := by decide +kernel
/-- DEFERRED_FREE delivers a page command of the list's context (08 R205). -/
theorem test_deferredFree : goes .deferredFree (on freeM) (fun t => t.m.deferred == [] &&
    (t.m.cmds.map fun c => (c.ctx, c.free, c.st)) == [(1, some (1, 0x10200), .checked)]) = true := by decide +kernel

/-! ## Faults, replays, teardown and fencing (13, 14) -/

/-- The command on core 0, waiting on pseudo-channel 5 with a deadline, replayed so often. -/
def heldCmd (n : Nat) : Cmd := { workCmd 1 with desc := planDesc 1 + 1 <<< 114, heldOn := [⟨0, 0, 5, 1025⟩, ⟨0, 1, 6, 1024⟩], replays := n }
/-- The command with a budget of nine cycles, `n` more than those used by its one slot. -/
def overrun (n : Nat) : Cmd := { workCmd 1 with desc := planDesc 1 + 8 <<< 48, slots := [{ openSlot with cores := [0], cycles := 9 + n }] }
/-- A machine that runs it. -/
def heldM (n : Nat) : Mach := { working 1 vecE { items := [newItem] } tund1 with cmds := [heldCmd n] }
/-- The command, working, in a machine whose object 1 is as given. -/
def faultM (o : Obj) (n : Nat) : Mach := { moving o with cmds := [{ workCmd 1 with replays := n }], nextCmd := 1 }
/-- An object in the module tier. -/
def lowObj : Obj := { anObj with state := 4#3, present := false, near := [], ew := 0#2 }
/-- Hypotheses of FaultsStopAndReplay for the three faults, below the limit of replays and at it. -/
theorem wit_FaultsStop : ∀ n ∈ [15, 16],
    ((heldM n).cmd? 0 = some (heldCmd n) ∧ (heldCmd n).working = true ∧ (heldM n).runs 1 = true ∧ dHoldDl (heldCmd n).desc ≠ 0 ∧
      (∃ w ∈ (heldCmd n).heldOn, 1024 * dHoldDl (heldCmd n).desc < w.cycles) ∧
      isCoreOp (dOp (heldCmd n).desc) = true ∧ ((heldM n).ctx 1).state = 1#2 ∧ (heldM n).inFlight 0 = false) ∧
    (let s := faultM lowObj n
     s.cmd? 0 = some { workCmd 1 with replays := n } ∧ (workCmd 1).working = true ∧ s.runs 1 = true ∧ (s.obj 1).present = false ∧
      (s.obj 1).poison = false ∧
      ((s.setCtx 1 { s.ctx 1 with misses := (s.ctx 1).misses + 1 }).residencyMiss 1).1 = .restart (.residency 1)) ∧
    (let s := faultM { anObj with clean := true, origin := true } n
     s.cmd? 0 = some { workCmd 1 with replays := n } ∧ s.runs 1 = true ∧ (s.obj 1).clean = true ∧ (s.obj 1).origin = true ∧
      (workCmd 1).st ≠ .work) ∧
    (let k : CoreSt := { items := [{ newItem with entries := [⟨4, 0, 1, false⟩] }], trans := [fetch1 5 true] }
     let s := { working 1 vecE k tund1 with cmds := [heldCmd n] }
     s.inFlight 0 = true ∧ s.cmd? 0 = some (heldCmd n) ∧ (heldCmd n).st = .running) := by decide +kernel
/-- Hypotheses of FaultsStopAndReplay for a residency miss by itself, for slag of an object without a clean origin, for budgets and
deadlines below and beyond, and for a context that does not run. -/
theorem wit_FaultsStop_rest :
    (((moving lowObj).obj 1).state = 4#3 ∧ ((moving lowObj).obj 1).near = [] ∧ ((moving lowObj).allocNear lowObj).isSome = true) ∧
    ((mem.obj 1).clean = false ∧ (mem.obj 1).origin = false) ∧
    dBudget (overrun 1).desc < (overrun 1).maxCycles ∧ (overrun 1).working = true ∧ (overrun 0).maxCycles ≤ dBudget (overrun 0).desc ∧
    dHoldDl (workCmd 1).desc = 0 ∧ (∀ w ∈ [(⟨0, 1, 6, 1024⟩ : HeldWait)], w.cycles ≤ 1024 * dHoldDl (heldCmd 0).desc) ∧
    ((faultM anObj 0).setCtx 1 { state := 2#2 }).runs 1 = false := by decide +kernel
/-- A command stopped, its cause resolved; a queue that it is of. -/
def stoppedM (c : Cmd) : Mach := { queued 1 with cmds := [{ c with st := .stopped, cause := some (.residency 1), slots := [] }], nextCmd := 1 }
/-- Hypotheses of FaultsStopAndReplay for replays: of a ladle command and of a MATMUL. -/
theorem wit_Replays : ∀ c ∈ [zeroCmd 0 .work, coreCmd 1], let z := { c with st := .stopped, cause := some (.residency 1), slots := [] }
    let s := stoppedM c
    s.cmd? 0 = some z ∧ s.toReplay z.queue = some z ∧ s.issues = true ∧ s.runs z.ctx = true ∧ s.replayable z = true ∧
      (isLadleOp (dOp z.desc) = true ∨ dOp z.desc = 1 ∧ (noteReady s z.die z.ctx).choosePlaces (s.queue z.queue).dieMask (dSlots z.desc) (keptPlaces (noteReady s z.die z.ctx) z.die z.ctx) = some [0] ∧
        bits z.desc 511 192 = 0 ∧ z.slots = []) := by decide +kernel
/-- The checks of its ladle command's new issue pass. -/
theorem wit_Replays_ladle : let s := stoppedM (zeroCmd 0 .work)
    let c := { zeroCmd 0 .work with st := .stopped, cause := some (.residency 1), slots := [] }
    let v : Cmd := { c with st := .offered, replays := c.replays + 1, cause := none, heldOn := [], aux := [] }
    let s := noteReady s c.die c.ctx
    isOk (ladleIssue v (((s.setCmd v).setCtx c.ctx { s.ctx c.ctx with replays := (s.ctx c.ctx).replays + 1 }).bump (schReg c.die 0x1C) 1)) =
      true := by decide +kernel
/-- HELD_WAIT_DEADLINE stops the command and frees its core (12 R275, 13 R320). -/
theorem test_heldWaitDeadline : goes (.heldWaitDeadline 0) (on (heldM 0)) (fun t =>
    (t.m.cmds.map fun c => (c.st, c.heldOn)) == [(.stopped, [⟨0, 0, 5, 1025⟩])] && (t.m.core 0).cmd == none) = true := by decide +kernel
/-- A residency miss counts and starts the promotion (13 R305, R319). -/
theorem test_restartableFault : goes (.restartableFault 0 (.residency 1)) (on (faultM lowObj 0)) (fun t =>
    (t.m.obj 1).state == 2#3 && t.m.reg (tierReg 0x10) == 1#32 && (t.m.cmds.map fun c => c.cause) == [some (.residency 1)]) = true := by
  decide +kernel
/-- REPLAY counts (R343). -/
theorem test_replay : goes (.replay 0) (on (stoppedM (coreCmd 1))) (fun t =>
    (t.m.cmds.map fun c => (c.st, c.replays)) == [(.running, 1)] && t.m.reg (schReg 0 0x1C) == 1#32) = true := by decide +kernel
/-- BUDGET_OVERRUN (R341). -/
theorem test_budgetOverrun : goes (.budgetOverrun 0) (on { faultM anObj 0 with cmds := [overrun 1] }) (fun t => (t.m.ctx 1).lastSt == stBudget) = true := by
  decide +kernel

/-- A context tearing down with a queue, a command, a job, a pool and a synchronisation object. -/
def tearing : Mach :=
  let m := { queued 3 with cmds := [coreCmd 1], nextCmd := 1, jobs := [⟨1, 1, 1, 3⟩] }
  ((m.setCtx 1 { m.ctx 1 with state := 2#2 }).setPool 1 { live := true, ctx := 1 }).setSync 2 { owner := 1#12, live := true, count := 7 }
/-- Hypotheses of TeardownIsOneContexts, inner clauses with them. -/
theorem wit_TeardownIsOneContexts : (mem.ctx 1).state ≠ 2#2 ∧ (tearing.ctx 1).state = 2#2 ∧ (tearing.queue 0).ctx = 1 ∧
    (tearing.queue 0).state = 1#2 ∧ (tearing.pool 1).live = true ∧ (tearing.pool 1).ctx = 1 ∧ (tearing.sync 2).live = true ∧
    (tearing.sync 2).owner.toNat = 1 ∧ (tearing.sync 3).live = false := by decide +kernel
/-- TEARDOWN (R344). -/
theorem test_teardown : goes (.teardown 1) (on tearing) (fun t => (t.m.ctx 1).state == 3#2 && (t.m.queue 0).rd == 3 && t.m.cmds == [] &&
    t.m.jobs == [] && (t.m.sync 2).count == 7#32 && (t.m.sync 2).status == 9#16) = true := by decide +kernel

/-- A core at work on an entry that has made no progress for `n` cycles. -/
def hungM (n : Nat) : Mach := working 1 vecE { items := [newItem], idleCycles := n } (setBits tund1 31 0 1)
/-- Hypotheses of FencesAndGates for core fences: each cause met and each not met. -/
theorem wit_CoreFences :
    ((({} : Mach).core 0).fenced = false ∧ ((List.range 16).filter fun i => (({} : Mach).core (16 * (0 / 16) + i)).fenced).length ≤ 3) ∧
    2 ≤ ((withPc {}).setCore 0 { mismatches := [900, 800] }).recentMismatches 0 ∧ (hungM 4194304).holdsWork 0 = true ∧
    2 ^ 22 ≤ ((hungM 4194304).core 0).idleCycles ∧ ((hungM 4194303).core 0).idleCycles < 2 ^ 22 ∧
    (hungM 4194304).coreCmd 0 = some (workCmd 1) ∧ (workCmd 1).working = true ∧ (workCmd 1).replays < 16 ∧
    (({} : Mach).setCore 0 { mismatches := [0] }).recentMismatches 0 < 2 ∧ ({} : Mach).holdsWork 0 = false ∧
    (({} : Mach).setCore 0 { fenced := true }).core 0 = { fenced := true } := by decide +kernel
/-- A core whose gate closes with one index in hand, in a tundish whose unit answers, or does not for want of a credit. -/
def closingM (b : Bool) : Mach :=
  let m := working 1 vecE { fenced := true, closing := true, items := [newItem] } (setBits tund1 31 0 1)
  if b then m else m.setSlice 4 { atomWait := [3] }
/-- What FENCE_GATE_CLOSE makes of it before the core leaves. -/
def closedM (b : Bool) : Mach :=
  (((closingM b).core 0).items.foldl (fun (m : Mach) (x : Item) => returnIndex m 0 x.index)
    (reportDone ((closingM b).setCore 0 { (closingM b).core 0 with closing := false, shut := true, trans := [] }) 0))
/-- Hypotheses of FencesAndGates for gates: every index returned, and one that waits. -/
theorem wit_Gates : ∀ b : Bool, ((closingM b).core 0).closing = true ∧ (closingM b).frozen = false ∧
    ((closedM b).core 0).shut = true ∧ (((closedM b).core 0).items = [] ↔ b = true) ∧
    ((closedM b).coreCmd 0).any (fun x => dOp x.desc != 6) = true := by decide +kernel
/-- Hypotheses of FencesAndGates for the gate of a core whose command is stopped: its last entry in flight there. -/
theorem wit_Gates_stopped :
    let s : Mach := { closingM true with cmds := [{ workCmd 1 with st := .stopped, cause := some .heldWait, slots := [openSlot] }] }
    let y := (s.core 0).items.foldl (fun (m : Mach) (x : Item) => returnIndex m 0 x.index)
      (reportDone (s.setCore 0 { s.core 0 with closing := false, shut := true, trans := [], slotsFree :=
        (s.core 0).slotsFree + (s.core 0).slotsHeld }) 0)
    (y.core 0).shut = true ∧ (y.core 0).items = [] ∧ (y.coreCmd 0).any (fun x => x.st == .stopped && x.slots != []) = true ∧
      y.cores.all (fun p => p.1 == 0) = true := by decide +kernel
/-- Hypotheses of FencesAndGates for clusters, and for a gate that does not close. -/
theorem wit_GatesAndClusters :
    ((({} : Mach).core 0).closing = false ∧ (({} : Mach).core 0).shut = false) ∧
    (((plan 1 vecE).cluster 0).fenced = false ∧ ((plan 1 vecE).cmds.map fun c => c.id).Nodup ∧
      (∀ c ∈ (plan 1 vecE).cmds, c.st = .running ∧ ∃ x ∈ c.slots, x.cluster = 0)) ∧
    ((({} : Mach).setCluster 0 { fenced := true }).cluster 0).fenced = true := by decide +kernel
/-- CORE_FENCE after a hang leaves the command at work (R346). -/
theorem test_coreHang : goes (.coreHang 0) (on (hungM 4194304)) (fun t => (t.m.core 0).fenced && (t.m.cmds.map fun c => c.st) == [.running] &&
    t.m.reg (schReg 0 0x24) == 1#32) = true := by decide +kernel
/-- One mismatch fences nothing (R346). -/
theorem test_coreFence_one : stays (.coreFence 0 .mismatch) (on (({} : Mach).setCore 0 { mismatches := [0] })) = true := by decide +kernel
/-- FENCE_GATE_CLOSE returns the index (R347; 05 R136). -/
theorem test_fenceGateClose : goes (.fenceGateClose 0) (on (closingM true)) (fun t => (t.m.core 0).cmd == none &&
    val? (t.m.readWord 1 0x11010 1) == some 1) = true := by decide +kernel
/-- CLUSTER_FENCE replays (R348). -/
theorem test_clusterFence : goes (.clusterFence 0) (on (plan 1 vecE)) (fun t => (t.m.cmds.map fun c => c.st) == [.replay]) = true := by
  decide +kernel

/-! ## The mailbox (15) -/

/-- `Served` as a computation. -/
def served (op : Nat) (r : Req) (s : State) : Bool :=
  s.m.linkUp && r.port.toNat == s.m.gctPort && s.m.controlAlive && s.m.isReady && !s.m.safe && r.cls != 7#3 && !malformed r && s.m.known r && fieldsOk op r &&
    (s.m.session r.session.toNat).expected == r.seq.toNat &&
    (s.m.session r.session.toNat).ring.all (fun b => b.seq != r.seq.toNat) &&
    (atArrival op r s).mbxNext == some r.session.toNat && (doorbellWaits (atArrival op r s) op r.session.toNat (reqBody r)).isNone
/-- It decides it. -/
theorem served_iff (op : Nat) (r : Req) (s : State) : served op r s = true ↔ Served op r s := by
  simp [served, Served, and_assoc, List.all_eq_true]
/-- A machine with its link up, GCT_PORT 47329 and READY raised. -/
def upOf (m : Mach) : Mach :=
  { (m.setReg (portReg 0) 0x80000000#32).setReg (devReg 0) 0x80000000#32 with life := .ready, conf := 47329 <<< 32 }
/-- Session 3, which expects number 5 and keeps the answer of number 4 and two events. -/
def sess : Session :=
  { isOpen := true, cookie := 77, source := 9, jobLimit := 4, maxBody := 1024, expiry := 7, expected := 5, eventNo := 2,
    answers := [⟨4, 3, 0, 0⟩], events := [⟨1, 0x0102, 0, 0, true⟩, ⟨2, 0x0102, 0, 0, true⟩] }
/-- A machine that serves session 3, whose client context 1 is. -/
def serving (m : Mach) : Mach := (upOf (m.setCtx 1 { state := 1#2, client := 3, share := 1, sessions := [3] })).setSession 3 sess
/-- The same with a presence window open and the seal intact. -/
def present (m : Mach) : Mach := (serving m).setReg (secReg 0) 0x30000000#32
/-- The link without a running pair on die 0. -/
def deadM : Mach := (List.range 4).foldl (fun m p => m.setPair 0 p { halted := true }) (serving mem)
/-- The machine of a served request whose message answers OK. -/
def answersOk (c : Instr) (s : State) : Bool := goes c s fun t => match t.m.out with
  | (2, .answer _ _ 3 5 0 _) :: _ => (t.m.session 3).expected == 6
  | _ => false
/-- The status a request of session 3 is answered with. -/
def status? (c : Instr) (s : State) : Option Nat := match exec c s with
  | .next t => (match t.m.out with
    | (_, .answer _ _ _ _ st _) :: _ => some st
    | _ => none)
  | _ => none

/-- Hypotheses of ServedRequestsAreAnswered: a NOP, and a privileged message without presence. -/
theorem wit_ServedRequests : served 3 (gct 5 0 0) (on (serving mem)) = true ∧ served 0x71 (gct 5 1 1) (on (serving mem)) = true ∧
    isPrivOp 0x71 = true ∧ (serving mem).privileged = false ∧ messageOf (.nop (gct 5 0 0)) = some (3, gct 5 0 0) ∧
    portReg 0 ∉ mailboxRegs ∧ (serving mem).linkUp = true ∧ (serving mem).pfcStopped.getLsbD 2 = false ∧
    ((serving mem).session 3).isOpen = true := by decide +kernel
/-- NOP is answered with ST_OK and the next number is expected (R365). -/
theorem test_nop : answersOk (.nop (gct 5 0 0)) (on (serving mem)) = true := by decide +kernel
/-- DEBUG_UNLOCK without presence (R387). -/
theorem test_presence : status? (.debugUnlock (gct 5 1 1)) (on (serving mem)) = some stPresence := by decide +kernel

/-- Hypotheses of RequestsTurnedAwayAndEvents for the messages, clause by clause; at the window's edge 64 numbers back. -/
theorem wit_RequestsTurnedAway : let m := serving mem
    mem.linkUp = false ∧ (deadM.linkUp = true ∧ deadM.controlAlive = false) ∧ (m.linkUp = true ∧ m.controlAlive = true) ∧
    isGateOp 3 = false ∧ malformed { gct 5 0 0 with magic := 0 } = true ∧ malformed (gct 5 0 0) = false ∧
    (m.setReg (devReg 0) 0#32).isReady = false ∧ m.isReady = true ∧ m.known { gct 5 0 0 with cookie := 1 } = false ∧
    m.known (gct 5 0 0) = true ∧
    (64 ≤ wrap 32 ((69 : Int) - (5 : Int)) ∧ 64 < wrap 32 ((5 : Int) - (69 : Int))) ∧
    (64 ≤ wrap 32 ((4 : Int) - (5 : Int)) ∧ wrap 32 ((5 : Int) - (4 : Int)) ≤ 64 ∧
      (m.session 3).answers.find? (fun v => v.seq == 4) = some ⟨4, 3, 0, 0⟩) := by decide +kernel
/-- Hypotheses of the same for class 7: a gate message, one that is none, and a gate buffer with room for a datagram and without. -/
theorem wit_RequestsTurnedAway_gate : let r := { gct 5 0 0 with cls := 7 }
    r.cls = 7#3 ∧ isGateOp 3 = false ∧ isGateOp 0x31 = true ∧
      (deadM.gateKept.map fun x => datagramBytes x.2).sum + datagramBytes r ≤ 65536 ∧
      65536 < (((List.replicate 8 (0x50, { gct 5 0 0 with payload := 8192 })).map fun x => datagramBytes x.2).sum + datagramBytes r : Nat) ∧
      (gct 5 0 0).port.toNat = (serving mem).gctPort ∧ (({ gct 5 0 0 with port := 1 } : Req).port.toNat ≠ (serving mem).gctPort) := by decide +kernel
/-- A session with its next request in the ring, and one that has lost events. -/
def ringM : Mach := (serving mem).setSession 3 { sess with ring := [⟨5, 3, false, gct 5 0 0⟩], lost := 2 }
/-- An unmap of the object. -/
def unmapReq : Req := gct 5 14 (fl [(0, 1), (16, 1), (32, 1), (64, 0x10000)])
/-- A machine in which a ladle command keeps a translation of that object. -/
def unmapM : Mach := serving { mem with cmds := [{ zeroCmd 0 .work with leaves := [1] }], nextCmd := 9 }
/-- Hypotheses of the same for the rings, the events and the announcement. -/
theorem wit_RingsAndEvents :
    ((ringM.session 3).isOpen = true ∧ ringM.controlAlive = true ∧
      (ringM.session 3).ring.find? (fun b => b.seq == (ringM.session 3).expected) = some ⟨5, 3, false, gct 5 0 0⟩ ∧
      (gct 5 0 0).session.toNat = 3 ∧ (gct 5 0 0).seq.toNat = 5 ∧ ringM.mbxNext = some 3 ∧ mem.mbxNext = none ∧
      doorbellWaits ringM 3 3 (reqBody (gct 5 0 0)) = none) ∧
    unmapM.unmapWaits 0x22 3 (reqBody unmapReq) = true ∧
    ((serving mem).session 3).ring = [] ∧ (ringM.session 3).lost ≠ 0 ∧ (ringM.session 3).events.length < 1024 ∧
    ((serving mem).session 3).lost = 0 ∧ mem.isReady = false ∧ (ringM.isReady = true ∧ ringM.linkUp = true ∧ ringM.readySent < 3) ∧
    ringM.pfcStopped.getLsbD ringM.origClass = false ∧ bits ringM.conf 415 288 = 0 ∧ bits ({ ringM with conf := 1 <<< 288 } : Mach).conf 415 288 ≠ 0 := by decide +kernel
/-- REQUEST_RING_EXECUTE answers the request (R366). -/
theorem test_ringExecute : answersOk (.requestRingExecute 3) (on ringM) = true := by decide +kernel
/-- EVENT_REPEAT sends both events (R367). -/
theorem test_eventRepeat : goes (.eventRepeat 3) (on ringM) (fun t => t.m.out.length == 2) = true := by decide +kernel
/-- EVENT_LOST stores the count (R367). -/
theorem test_eventLost : goes (.eventLost 3) (on ringM) (fun t =>
    (t.m.session 3).lost == 0 && ((t.m.session 3).events.map fun e => e.body) == [0, 0, 2]) = true := by decide +kernel
/-- READY_ANNOUNCE (R367). -/
theorem test_readyAnnounce : goes .readyAnnounce (on { ringM with conf := 1 <<< 288 }) (fun t => t.m.out.length == 1) = true := by
  decide +kernel

/-- The body of a SESSION_OPEN: 4 jobs, 1,024 bytes, path MTU code 3; and of a reconnect. -/
def openBodyOf (again : Nat) : Nat := fl [(0, 4), (32, 1024), (48, again), (120, 3)]
/-- Hypotheses of SessionsOpenAndClose for SESSION_OPEN, at the limits of BODY and PMTU. -/
theorem wit_SessionOpen : (∀ x ∈ [0, 1], let r := gct 1 32 (openBodyOf x)
    let m := serving mem
    m.linkUp = true ∧ m.controlAlive = true ∧ m.isReady = true ∧ malformed r = false ∧ fieldsOk 1 r = true ∧
      openFieldsOk (reqBody r) = true ∧ ({ m with opens := [r] } : Mach).mbxNext = some 1024 ∧ r.port.toNat = m.gctPort ∧ m.opens = [] ∧ m.opened = [] ∧ (reqBody r).testBit 48 = (x == 1)) ∧
    lowestFree (serving mem).openSessions 1024 = some 0 ∧ ((serving mem).session 3).cookie = 77 := by decide +kernel
/-- Hypotheses of the same for the close, the expiry and what a close leaves. -/
theorem wit_SessionClose : served 2 (gct 5 0 0) (on (serving mem)) = true ∧ ((serving mem).session 3).expiry ≠ 0 ∧
    ((serving mem).session 4).isOpen = false ∧ (∀ p ∈ mem.ctxs, p.2.state ≠ 0#2 → p.2.client ≠ 7) ∧ (∀ b ∈ mem.blobs, b.session ≠ 7) := by
  decide +kernel
/-- SESSION_OPEN opens the lowest number (R370). -/
theorem test_sessionOpen : goes (.sessionOpen (gct 1 32 (openBodyOf 0))) (on (serving mem)) (fun t =>
    (t.m.session 0).isOpen && (t.m.session 0).expected == 1) = true := by decide +kernel
/-- SESSION_CLOSE releases the session's context (R368). -/
theorem test_sessionClose : goes (.sessionClose (gct 5 0 0)) (on (serving mem)) (fun t =>
    !(t.m.session 3).isOpen && (t.m.ctx 1).state != 1#2) = true := by decide +kernel

/-- The bodies of the rows that make and release, in the order of TablesAreMadeAndReleased. -/
def ctxBodies : List Nat := [fl [(16, 1)], fl [(0, 1), (32, 1)], fl [(0, 2), (32, 1)]]
/-- A machine with a queue, a synchronisation object, an endpoint and an object of its own. -/
def madeM : Mach := ((serving (queued 0)).setSync 2 { owner := 1#12, live := true }).setEp 7 { configured := true }
/-- Hypotheses of TablesAreMadeAndReleased for contexts. -/
theorem wit_ContextCreate : let m := serving mem
    (∀ b ∈ ctxBodies, served 0x10 (gct 5 8 b) (on m) = true) ∧ m.ctxNos.length < 4096 ∧ m.life ≠ .test ∧ m.newCtxNo.isSome = true ∧
    (m.ctx 1).state ≠ 0#2 ∧ (m.ctx 1).client = 3 ∧ (∀ p ∈ m.maps, p.ctx = 1) := by decide +kernel
/-- Hypotheses of the same for queues, the smallest ring among them, and for synchronisation objects. -/
theorem wit_QueueSyncCreate : let m := madeM
    served 0x11 (gct 5 14 (fl [(4, 1), (8, 6), (16, 1), (64, 0x20000)])) (on m) = true ∧ m.mayName 3 1 = true ∧
      0x20000 % (64 * 2 ^ 6) = 0 ∧
      lowestFree ((m.queues.filter fun p => p.2.state != 0#2).map fun p => p.1) 65536 = some 1 ∧
    served 0x11 (gct 5 14 (fl [(0, 1)])) (on m) = true ∧ m.mayNameQueue 3 0 = true ∧ (m.queue 0).state ≠ 0#2 ∧
      (m.queue 0).wr = (m.queue 0).rd ∧
    served 0x23 (gct 5 12 (fl [(16, 1), (64, 9)])) (on m) = true ∧ tabGet (fun _ => 0) m.syncNext 0 < 4096 ∧
    served 0x23 (gct 5 12 (fl [(0, 1), (32, 2)])) (on m) = true ∧ m.mayNameSync 3 2 = true ∧ (m.sync 2).live = true ∧
      m.syncBusy 2 = false := by decide +kernel
/-- Hypotheses of the same for endpoints, at both ends of PMTU. -/
theorem wit_EndpointSet : (∀ p ∈ [3, 5], served 0x24 (gct 5 48 (fl [(8, 7), (72, p)])) (on madeM) = true) ∧
    served 0x24 (gct 5 48 (fl [(0, 1), (8, 7)])) (on madeM) = true ∧ (madeM.ep 7).configured = true ∧
    (∀ o ∈ madeM.objs, o.2.onEp 7 = false) := by decide +kernel
/-- CONTEXT_CREATE in its three forms (R372). -/
theorem test_contextCreate : (ctxBodies.all fun b => answersOk (.contextCreate (gct 5 8 b)) (on (serving mem))) = true := by decide +kernel
/-- QUEUE_CREATE, SYNC_CREATE and ENDPOINT_SET (R373, R378, R380). -/
theorem test_tables : (answersOk (.queueCreate (gct 5 14 (fl [(4, 1), (8, 6), (16, 1), (64, 0x20000)]))) (on madeM) &&
    answersOk (.syncCreate (gct 5 12 (fl [(16, 1), (64, 9)]))) (on madeM) &&
    answersOk (.endpointSet (gct 5 48 (fl [(8, 7), (72, 3)]))) (on madeM)) = true := by decide +kernel
/-- A ring of fewer than 64 entries is refused (R373). -/
theorem test_queueCreate_small : status? (.queueCreate (gct 5 14 (fl [(4, 1), (8, 5), (16, 1), (64, 0x20000)]))) (on madeM) =
    some stRefused := by decide +kernel

/-- The body of an OBJECT_ALLOC of one unit in a tier. -/
def allocBody (tier : Nat) : Nat := fl [(0, 1), (15, 1), (18, tier)]
/-- The body of one of a page pool of one page and one list, its area and its control object. -/
def poolBody (stash : Nat) : Nat :=
  fl [(0, 1), (12, 1 + stash), (15, 1), (18, 1), (128, 1), (160, 1 - stash), (192, 1 - stash), (224, 0x100000), (272, 0x200000)]
/-- Hypotheses of ObjectsAreMadeMappedPlaced for objects: near tier, module tier, and one with an origin at an endpoint. -/
theorem wit_ObjectAlloc : let m := serving mem
    (∀ t ∈ [1, 2], served 0x20 (gct 5 16 (allocBody t)) (on m) = true ∧ badTier m t 0 = false) ∧ m.mayName 3 1 = true ∧
    lowestFree m.objNos 524288 = some 0 ∧ (m.allocNear { size64k := 1, leaf64k := true }).isSome = true ∧
    badTier m 3 0 = true ∧ (∀ p ∈ m.pcs, p.2.state ≠ 2#2) ∧ (createObj m 0 { size64k := 1, leaf64k := true } 1).isSome = true ∧
    (createObj (m.setObj 9 { anObj with near := [(0, 2 ^ 40)] }) 0 { size64k := 1, leaf64k := true } 1).isNone = true := by
  decide +kernel
/-- Hypotheses of the same for an object with an origin, whose header agrees. -/
theorem wit_OriginAlloc : let m := (serving mem).setEp 7 { configured := true, body := 1 <<< 192 }
    let b := fl [(0, 1), (15, 1), (16, 1), (18, 1), (56, 7), (64, 1)]
    let o : Obj := { pref := 1#2, leaf64k := true, origin := true, clean := true, ew := 1#2, ep := 7#8, size64k := 1, owner := 1#12 }
    let h := fl [(0, 0x49474E49), (32, 1), (40, 1), (64, o.nbars)]
    served 0x20 (gct 5 16 b) (on m) = true ∧ badTier m 3 7 = false ∧ 0 < m.epRegion 7 ∧ originOk (some (BitVec.ofNat 2048 h)) o = true := by
  decide +kernel
/-- Hypotheses of the same for pools and for a release. -/
theorem wit_PoolAlloc : let m := serving (mem.setQueue 0 { state := 1#2, ctx := 1 })
    (∀ x ∈ [0, 1], served 0x20 (gct 5 43 (poolBody x)) (on m) = true) ∧
    served 0x20 (gct 5 43 (fl [(12, 3), (320, 2)])) (on (m.setObj 2 { anObj with near := [] })) = true ∧
    (let z := m.setObj 2 { anObj with near := [] }
     z.mayNameObj 3 2 = true ∧ (z.obj 2).state ≠ 0#3 ∧ z.poolOfArea 2 = none ∧ (z.obj 2).idle = true ∧ (∀ p ∈ z.maps, p.obj ≠ 2) ∧
       z.isControl 2 = false) := by decide +kernel
/-- The pool's message passes its checks. -/
theorem wit_PoolAlloc_ok : ∀ x ∈ [0, 1], (allocPool (serving (mem.setQueue 0 { state := 1#2, ctx := 1 })) 3 (poolBody x)).2.1 = stOk := by
  decide +kernel
/-- Hypotheses of the same for MAP: an entry and its removal. -/
theorem wit_Map : let m := serving mem
    served 0x22 (gct 5 14 (fl [(1, 1), (16, 1), (32, 1), (64, 0x30000)])) (on m) = true ∧ m.mayName 3 1 = true ∧
    m.mayNameObj 3 1 = true ∧ (m.obj 1).state ≠ 0#3 ∧ 0x30000 % (m.obj 1).leaf = 0 ∧ 0x30000 + (m.obj 1).bytes ≤ 2 ^ 48 ∧ m.overlaps 1 0x30000 (m.obj 1).bytes = false ∧
    served 0x22 (gct 5 14 (fl [(0, 1), (16, 1), (32, 1), (64, 0x10000)])) (on m) = true ∧
    (m.maps.find? fun v => v.ctx == 1 && v.va == 0x10000 && v.obj == 1).isSome = true ∧ (m.obj 1).pins = 0#16 ∧
    (m.obj 1).present = true ∧ (m.obj 1).poison = false ∧ ((m.setObj 1 { anObj with poison := true }).obj 1).poison = true := by
  decide +kernel
/-- Hypotheses of the same for an unmap that waits for a ladle command. -/
theorem wit_Map_waits : let m := unmapM
    m.linkUp = true ∧ m.controlAlive = true ∧ m.isReady = true ∧ unmapReq.cls ≠ 7#3 ∧ malformed unmapReq = false ∧
      m.known unmapReq = true ∧ (m.session 3).expected = 5 ∧ (m.session 3).ring = [] ∧
      m.unmapWaits 0x22 3 (reqBody unmapReq) = true := by decide +kernel
/-- Hypotheses of the same for OBJECT_PLACE: down, in place, moving up, pinned, and up from the module tier. -/
theorem wit_ObjectPlace : let m := serving mem
    (∀ t ∈ [1, 2], served 0x21 (gct 5 6 (fl [(0, 1), (20, t)])) (on m) = true) ∧ m.mayNameObj 3 1 = true ∧ (m.obj 1).tierPin = false ∧
    m.moduleOut = false ∧ (m.obj 1).state = 1#3 ∧ (m.obj 1).pins = 0#16 ∧ m.roomBelow (m.obj 1) 2 = true ∧ (m.obj 1).syncEn = false ∧
    (m.obj 1).places = [] ∧ (m.session 3).events.length < 1024 ∧
    (let z := serving (mem.setObj 1 lowObj)
     (z.obj 1).state = 4#3 ∧ (z.obj 1).near = [] ∧ (z.allocNear (z.obj 1)).isSome = true ∧
       served 0x21 (gct 5 6 (fl [(0, 1), (20, 1)])) (on z) = true) ∧
    (m.obj 1).sound = true ∧ m.anyEp = false ∧ (madeM.anyEp = true ∧ madeM.prefOf { anObj with pref := 3#2 } = 3) := by decide +kernel
/-- Hypotheses of the same for placements refused: no room, a move up, a move down that pins bar from its own destination, pins in the
near tier, no object, and one lost. -/
theorem wit_ObjectPlace_refused :
    (∀ x ∈ [({ anObj with state := 2#3, src := 2#2, dst := 1#2 } : Obj), { anObj with pins := 1#16 },
        { anObj with state := 3#3, src := 1#2, dst := 2#2, pins := 1#16 }],
      let m := serving (mem.setObj 1 x)
      m.mayNameObj 3 1 = true ∧ x.sound = true ∧ roomIn m 1 2 = true ∧ served 0x21 (gct 5 6 (fl [(0, 1), (20, 2)])) (on m) = true) ∧
    roomIn (serving mem) 1 3 = false ∧ roomIn (serving { mem with moduleOut := true }) 1 2 = false ∧
    ((serving (mem.setObj 1 { anObj with poison := true })).obj 1).sound = false ∧ ((serving mem).obj 5).state = 0#3 := by decide +kernel
/-- MAP enters the mapping (R377). -/
theorem test_map : goes (.map (gct 5 14 (fl [(1, 1), (16, 1), (32, 1), (64, 0x30000)]))) (on (serving mem)) (fun t =>
    t.m.maps.length == 2) = true := by decide +kernel
/-- OBJECT_ALLOC in the module tier takes the lowest number (R374). -/
theorem test_objectAlloc : goes (.objectAlloc (gct 5 16 (allocBody 2))) (on (serving mem)) (fun t => (t.m.obj 0).state == 4#3) = true := by
  decide +kernel
/-- OBJECT_PLACE starts the move down under WATCH (R301). -/
theorem test_objectPlace : goes (.objectPlace (gct 5 6 (fl [(0, 1), (20, 2)]))) (on (serving mem)) (fun t =>
    (t.m.obj 1).state == 3#3 && (t.m.obj 1).watch) = true := by decide +kernel

/-- The machine of the doorbell tests: queue 0 with an empty ring. -/
def bellM : Mach := serving (queued 0)
/-- Hypotheses of DoorbellsAbortsAndBlobs for DOORBELL: past the ring, back, nothing new, one entry with and without a job to
spare, and a context torn down. -/
theorem wit_Doorbell : (∀ n ∈ [17, 0xFFFFFFFF, 0, 1, 16], served 0x30 (gct 5 8 (n <<< 32)) (on bellM) = true) ∧
    bellM.mayNameQueue 3 0 = true ∧ (bellM.queue 0).state ≠ 0#2 ∧ 2 ^ (bellM.queue 0).sizeLog2 < wrap 32 ((17 : Int) - (0 : Int)) ∧
    wrap 32 ((0 : Int) - (0 : Int)) < ((serving (queued 2)).queue 0).wr - 0 ∧ wrap 32 ((1 : Int) - (0 : Int)) = 1 ∧
    (bellM.ctx 1).state = 1#2 ∧ ((serving (queued 0)).setCtx 1 { state := 2#2, sessions := [3] }).mayNameQueue 3 0 = true ∧
    (bellM.jobs.filter fun j => j.client == 3).length < (bellM.session 3).jobLimit ∧
    (((serving mem).setSession 3 { sess with jobLimit := 0 }).session 3).jobLimit ≤ 0 := by decide +kernel
/-- Rows that pass the checks of the state messages. -/
def blobBody : Nat := fl [(0, 1), (160, 0x12000), (208, 0x12F00), (272, 0x13000), (320, 3)]
/-- Hypotheses of the same for ABORT. -/
theorem wit_Abort : let m := serving mem
    malformed (gct 5 2 1) = false ∧ m.known (gct 5 2 1) = true ∧ fieldsOk 0x31 (gct 5 2 1) = true ∧ m.safe = false ∧
    m.mayName 3 1 = true ∧ (m.ctx 1).state = 1#2 ∧ m.mayName 3 2 = false := by decide +kernel
/-- Hypotheses of the same for the state messages. -/
theorem wit_StateMessages : let m := serving issueMem
    (∀ op ∈ [0x40, 0x41], served op (gct 5 64 blobBody) (on m) = true) ∧ m.mayName 3 1 = true ∧
    (let d := blobBody / 2 ^ 128 * 2 ^ 128
     let r := blobCheck 1 d m
     bits d 399 352 = 0 ∧ isOk r = true ∧ (r.state.leafAt 1 (bits d 207 160)).isSome = true) := by decide +kernel
/-- A message accepted, its object pinned. -/
def blobM : Mach := { (serving issueMem).pin 1 with blobs := [⟨3, 5, 1, false, blobBody / 2 ^ 128 * 2 ^ 128, 1⟩] }
/-- Hypotheses of the same for PROGRESS. -/
theorem wit_Progress : (blobM.blobs.find? fun b => b.session == 3 && b.seq == 5).isSome = true ∧
    (blobRun blobM ⟨3, 5, 1, false, blobBody / 2 ^ 128 * 2 ^ 128, 1⟩).2.isSome = true ∧
    (let m := serving (mem.setObj 1 { anObj with places := [(3, 5, 2)] })
     m.blobs = [] ∧ (m.objs.find? fun p => p.2.places.any fun y => y.1 == 3 && y.2.1 == 5).isSome = true) := by decide +kernel
/-- DOORBELL moves WR_PTR and makes a job (R381). -/
theorem test_doorbell : goes (.doorbell (gct 5 8 (1 <<< 32))) (on bellM) (fun t => (t.m.queue 0).wr == 1 && t.m.jobs.length == 1) = true := by
  decide +kernel
/-- ABORT tears the context down with ST_ABORTED (R382). -/
theorem test_abort : goes (.abort (gct 9 2 1)) (on (serving mem)) (fun t => (t.m.ctx 1).state == 2#2 && (t.m.ctx 1).lastSt == stAborted) = true := by
  decide +kernel
/-- PROGRESS of a state export ends it and unpins (R383). -/
theorem test_progress : goes (.progress 3 5) (on blobM) (fun t => t.m.blobs == [] && (t.m.obj 1).pins == 0#16) = true := by decide +kernel

/-- Hypotheses of ReadsAnswerWhatIsHeld: STATUS with and without a session, TELEMETRY of both kinds, REG_READ, ATTEST. -/
theorem wit_Reads : let m := serving mem
    fieldsOk 0x50 (gct 5 0 0) = true ∧ m.known (gct 5 0 0) = true ∧ malformed { gct 5 0 0 with session := 0xFFFF } = false ∧
    (∀ x ∈ [0, 1], served 0x51 (gct 5 6 (fl [(0, x), (16, 1), (32, 4)])) (on m) = true) ∧ 64 * 1 ≤ (m.session 3).maxBody ∧ 4 * 1 ≤ (m.session 3).maxBody ∧
    served 0x52 (gct 5 5 (fl [(0, portReg 0x10)])) (on m) = true ∧ portReg 0x10 % 4 = 0 ∧
    served 0x60 (gct 5 32 1) (on m) = true ∧ m.sec 27 = false ∧ (m.setReg (secReg 0) 0x08000000#32).sec 27 = true := by decide +kernel
/-- STATUS before any session (R384). -/
theorem test_status : status? (.status { gct 5 0 0 with session := 0xFFFF }) (on (upOf mem)) = some stOk := by decide +kernel
/-- TELEMETRY and REG_READ (R385, R386). -/
theorem test_reads : (answersOk (.telemetry (gct 5 6 (fl [(16, 1)]))) (on (serving mem)) &&
    answersOk (.regRead (gct 5 5 (fl [(0, portReg 0x10)]))) (on (serving mem))) = true := by decide +kernel
/-- ATTEST without the scalars (R435). -/
theorem test_attest : status? (.attest (gct 5 32 1)) (on (serving mem)) = some stRefused := by decide +kernel

/-- Hypotheses of PrivilegedMessages, each message with presence; the image of FW_UPDATE is one that is no image. -/
theorem wit_PrivilegedMessages : let m := present mem
    m.privileged = true ∧ served 0x70 (gct 5 16 (fl [(0, 1), (48, 0x10000), (96, 16)])) (on m) = true ∧
    isOk (m.readVa 1 0x10000 16) = true ∧ m.mayName 3 1 = true ∧
    served 0x72 (gct 5 1 3) (on m) = true ∧ (on m).keySlot 0 3 = none ∧
    (∀ b ∈ [0, 1], served 0x71 (gct 5 1 b) (on m) = true) ∧ m.boot.noDebug = false ∧
    ({ m with boot := { m.boot with noDebug := true } } : Mach).boot.noDebug = true ∧
    served 0x73 (gct 5 4 0x46525354) (on m) = true ∧ served 0x74 (gct 5 58 (1000 <<< 432)) (on m) = true ∧
    confOk (1000 <<< 432) = true ∧ confOk (999 <<< 432) = false := by decide +kernel
/-- Fuses whose slot 3 holds a key hash on the four dies. -/
def keyed : State :=
  { on (present mem) with fuses := (List.range 4).map fun d => (d, { keys := [(3, some 5)] }) }
/-- Hypotheses of the same for KEY_ROTATE to a slot in use. -/
theorem wit_KeyRotate : served 0x72 (gct 5 1 3) keyed = true ∧
    (∀ d, d < 4 → keyed.keySlot d 3 ≠ none ∧ (keyed.fusesOf d).revoked.getLsbD 3 = false) := by decide +kernel
/-- DEBUG_UNLOCK opens JTAG and drops the attestation scalars (R438). -/
theorem test_debugUnlock : goes (.debugUnlock (gct 5 1 1)) (on (present mem)) (fun t => t.m.sec 26 && !t.m.sec 27) = true := by decide +kernel
/-- KEY_ROTATE to an empty slot, and to one whose key does not verify (R437). -/
theorem test_keyRotate : status? (.keyRotate (gct 5 1 3)) (on (present mem)) = some stRefused ∧
    status? (.keyRotate (gct 5 1 3)) keyed = some stSig := by decide +kernel

/-- A served bring-up request of an action; CLKOBS of the reset divider's selection, SELFTEST of core 0. -/
def bringRows : List Instr :=
  [.retrain (gct 5 8 2), .margin (gct 5 8 2), .clkobs (gct 5 8 2), .enterTest (gct 5 8 2), .exitTest (gct 5 8 2), .selftest (gct 5 8 2)]
/-- Its machine: in test mode for SELFTEST, with no context for ENTER_TEST. -/
def bringM : Mach := { (present mem) with ctxs := [] }
/-- Hypotheses of BringUpRequests for each action, refused and not. -/
theorem wit_BringUp : ∀ n ∈ [1, 2, 3, 4, 5, 6], let q := bringUpReq n (gct 5 8 2)
    let m := if n = 6 then { bringM with life := .test } else bringM
    served 0x51 q (on m) = true ∧ bits (reqBody q) 7 4 = n ∧ bits (reqBody q) 1 0 = 2 ∧
      bringUpCode m (reqBody q) m.privileged = none ∧
      (bringUpCode { m with life := .ready } (reqBody q) false).isSome = (n == 4 || n == 6) := by decide +kernel
/-- ENTER_TEST enters test mode (21 R474). -/
theorem test_enterTest : goes (.enterTest (gct 5 8 2)) (on bringM) (fun t => t.m.life == .test) = true := by decide +kernel
/-- RETRAIN, MARGIN, CLKOBS, EXIT_TEST and SELFTEST are answered with ST_OK. -/
theorem test_bringUp : (bringRows.all fun c => answersOk c (on { bringM with life := if c = .selftest (gct 5 8 2) then .test else .ready })) =
    true := by decide +kernel

/-! ## The port (15) -/

/-- A good untagged frame whose packet, to the link-local address, names a class, with a payload. -/
def frame (cls : BitVec 3) (p : Payload) : Frame :=
  { bytes := 64, tags := 0, vlan := 0, fcsOk := true, fecCorrected := 0, fecUncorrectable := 0,
    ip := { dst := .linkLocal, dscp := cls ++ 5#3 }, payload := p }
/-- An RDMA request of session 3 under the key of context 1 whose TAG is 0. -/
def rdma (va : BitVec 64) (data : List Byte) (len : Nat) : RdmaReq :=
  { session := 3, cls := 2, rkey := 1, va := va, data := data, len := len, ecnCe := false }
/-- Hypotheses of FramesLinkAndRates for frames, at the ends of the admitted sizes. -/
theorem wit_Frames : let m := serving mem
    mem.linkUp = false ∧ m.linkUp = true ∧ frameOk m (frame 2 (.pfc 1)) = true ∧
    (frameOk m { frame 2 (.pfc 1) with bytes := 63 } = false ∧ frameOk m { frame 2 (.pfc 1) with bytes := 9216 } = true ∧
      frameOk m { frame 2 (.pfc 1) with bytes := 9217 } = false) ∧ m.conf.testBit 2 = false ∧
    (∀ p ∈ [Payload.rdmaWrite (rdma 0 [] 0), .rdmaRead (rdma 0 [] 0), .rdmaOther 3 false, .cnp 7, .network, .other],
      frameOk m (frame 2 p) = true ∧ frameCls (frame 2 p) = 2#3 ∧ frameCls (frame 7 p) = 7#3) ∧
    frameCls { frame 2 (.pfc 1) with tags := 1, pcp := 6 } = 6#3 ∧ m.pfcStopped.getLsbD 2 = false ∧
    (served 3 { gct 5 0 0 with cls := frameCls (frame 2 (.gct 3 (gct 5 0 0))), tagged := false } (on m) = true ∧
      isGateOp 3 = false) := by decide +kernel
/-- A module whose configuration has an IPv4 address, and a packet to it. -/
def ipM : Mach := { serving mem with conf := 0x0A000001 <<< 104 + 47329 <<< 32 }
/-- Hypotheses of the same for packets that are not taken, field by field: R353 and the invariant CRC of R359. -/
theorem wit_Frames_refused : let h : IpHead := { dst := .ipv4 0x0A000001 }
    (∀ p ∈ [h, { h with sum := .zero }], frameOk ipM { frame 2 (.cnp 7) with ip := p } = true) ∧
    (∀ p ∈ [{ h with dst := .ipv4 0x0A000002 }, { h with dst := .multicast }, { h with fragment := true }, { h with options := true },
        { h with sum := .wrong }, { dst := .linkLocal, sum := .zero }], frameOk ipM { frame 2 (.cnp 7) with ip := p } = false) ∧
    frameOk ipM { frame 2 (.cnp 7) with icrcOk := false } = false ∧ frameOk ipM (frame 2 (.arp 0x0A000001)) = true := by decide +kernel
/-- A buffer that holds `n` bytes of class 2, whose first request waits for the held channel of its address. -/
def waitM (n : Nat) : Mach :=
  { (serving mem).setPc 128 { state := 1#2 } with rxWait := if n = 0 then [] else [⟨n, false, rdma 0x10000 [] n⟩] }
/-- Hypotheses of the same for requests that wait: the first behind a held channel, one behind another, at both bounds of the
buffer, and with and without a class to stop. -/
theorem wit_RdmaWaits : let r := rdma 0x10000 [] 4
    (waitM 0).linkUp = true ∧ rdmaReadAt ((waitM 0).bump (portReg 0x10) 1) r = none ∧ (waitM 0).xoffDue = (waitM 0).xoff ∧
    (∃ y ∈ (waitM 4194240).rxWait, y.req.cls = r.cls) ∧
    ((waitM 4194240).rxWait.foldl (fun n y => n + y.bytes) 0) + 64 ≤ 4194304 ∧
    4194304 < ((waitM 4194241).rxWait.foldl (fun n y => n + y.bytes) 0) + 64 ∧
    (waitM 524288).xoffDue = 0#8 ∧ (waitM 524289).xoffDue = 4#8 ∧ ({ waitM 262144 with xoff := 4#8 } : Mach).xoffDue = 4#8 ∧
    ({ waitM 262143 with xoff := 4#8 } : Mach).xoffDue = 0#8 := by decide +kernel
/-- A buffer that passes 512 KiB has its class stopped (R357). -/
theorem test_xoff : goes (.rdmaRead (rdma 0x10000 [] 4)) (on (waitM 524240)) (fun t =>
    t.m.xoff == 4#8 && t.m.out == [(8, .pfc 4#8)] && t.m.reg (portReg 0x24) == 1#32) = true := by decide +kernel
/-- Hypotheses of the same for the link and the endpoints. -/
theorem wit_LinkAndRates : (serving mem).linkUp = true ∧ ((mem.linkUp = false) ∧ ({ mem with life := .ready } : Mach).life = .ready) ∧
    (madeM.ep 7).configured = true ∧ (madeM.ep 7).error = false ∧ (madeM.ep 7).retries < 7 ∧
    7 ≤ ((madeM.setEp 7 { configured := true, retries := 7 }).ep 7).retries := by decide +kernel
/-- A frame brings the request it carries into the ring (R365). -/
theorem test_frameReceive : goes (.frameReceive (frame 2 (.gct 3 (gct 5 0 0)))) (on (serving mem)) (fun t =>
    ((t.m.session 3).ring.map fun b => b.seq) == [5] && t.m.out == []) = true := by decide +kernel
/-- A stopped class waits (R357). -/
theorem test_pfcXoff : goes (.pfcXoff 4) (on (serving mem)) (fun t => t.m.pfcStopped == 4#8 &&
    goes (.nop (gct 5 0 0)) t fun u => u.m.out == [] && u.m.txHeld.length == 1) = true := by decide +kernel
/-- LINK_DOWN and LINK_RETRY (R354). -/
theorem test_link : goes .linkDown (on (serving mem)) (fun t => !t.m.linkUp && goes (.linkRetry true) t fun u => u.m.linkUp) = true := by
  decide +kernel
/-- CONGESTION_NOTIFICATION halves, RATE_RESTORE adds a sixteenth, ACK_TIMEOUT counts (R359). -/
theorem test_rates : let s := on (madeM.setEp 7 { configured := true, rate := 65536 })
    (goes (.congestionNotification 7) s (fun t => (t.m.ep 7).rate == 32768 && goes (.rateRestore 7) t fun u => (u.m.ep 7).rate == 36864) &&
      goes (.ackTimeout 7) s fun t => (t.m.ep 7).retries == 1) = true := by decide +kernel

/-- Hypotheses of RdmaMovesBytes for a WRITE and a READ that move bytes. -/
theorem wit_Rdma : let m := serving mem
    m.rdmaServed 3 = true ∧ m.safe = false ∧ m.rkeyOk 1 = true ∧
    m.tableLeaf 1 0x10040 = some ⟨true, true, true, true, true, true, false, 0x2000000, 1⟩ ∧ m.rxWait = [] ∧ (m.obj 1).present = true ∧
    m.isControl 1 = false ∧ (m.obj 1).pa 0x40 = some 0x2000040 ∧ m.heldIn 0x2000040 4 = none ∧
    (∀ x ∈ [0x2000040, 0x2000041, 0x2000042, 0x2000043], m.isFailed x = false) ∧
    m.under = [] ∧ isOk (m.readTables 1 0x10040) = true ∧
    (rdmaLoad 1 (rangePieces 0x10040 4) [] (m.bump (portReg 0x10) 1)).1 = .ok 0 := by decide +kernel
/-- Hypotheses of the same for requests refused and for those that are only counted. -/
theorem wit_RdmaRefused : let m := serving mem
    m.rkeyOk 2 = false ∧ m.tableLeaf 1 0x30000 = none ∧ 2 ^ 48 < (rdma 0xFFFFFFFFFFFF [0, 0] 2).va.toNat + 2 ∧ m.rxWait = [] ∧
    (m.setReg (safReg 0) 0x40000000#32).safe = true ∧ m.rdmaServed 4 = false := by decide +kernel
/-- RDMA_WRITE stores its bytes and is acknowledged (R360). -/
theorem test_rdmaWrite : goes (.rdmaWrite (rdma 0x10040 [1, 2, 3] 0)) (on (serving mem)) (fun t =>
    t.m.nearBytes 0x2000040 4 == [1#8, 2#8, 3#8, 0#8] && t.m.out == [(2, .rdma 3 0 [])]) = true := by decide +kernel
/-- RDMA_READ answers the bytes (R360). -/
theorem test_rdmaRead : goes (.rdmaRead (rdma 0x10040 [] 2)) (on (serving (putObj mem 0x41 [9]))) (fun t =>
    t.m.out == [(2, .rdma 3 0 [0#8, 9#8])]) = true := by decide +kernel
/-- UNSUPPORTED_RDMA_OP is answered NAK Invalid Request (R359). -/
theorem test_unsupportedRdma : goes (.unsupportedRdmaOp 3 (2, false)) (on (serving mem)) (fun t =>
    t.m.out == [(2, .rdma 3 1 [])] && (t.m.session 3).qpError) = true := by decide +kernel

/-! ## Flasks, safety, security (16 to 18) -/

/-- Source n of die 1 is pending. -/
def pendM (n : Nat) : Mach := (upOf {}).setPending 1 n true
/-- Hypotheses of InterruptEventsSetPendingBits, at the ends of reserved ranges, and of ClaimThenCompletion: an ordinary source, and
source 4 + p for another pair. -/
theorem wit_Interrupts : srcReserved 1 12 = false ∧ srcReserved 1 104 = true ∧ srcReserved 0 108 = false ∧ srcReserved 0 511 = true ∧
    srcReserved 0 512 = false ∧
    (∀ x ∈ [(12, 0), (5, 2)], let (n, p) := x
      let m := pendM n
      m.pairRuns 1 p = true ∧ (m.pair 1 p).inService = none ∧ m.irqPending 1 n = true ∧ m.inServiceAny 1 n = false ∧
        (m.routeMask 1 n).contains p = true ∧ srcReserved 1 n = false) ∧
    (let m := (pendM 12).setPair 1 0 { inService := some 12 }
     m.pairRuns 1 0 = true ∧ (m.pair 1 0).inService = some 12) := by decide +kernel
/-- Hypotheses of RoutesRefusedClaimsOrderFaults: routes before READY and after it, the refused claims, the three order faults. -/
theorem wit_Routes : (({} : Mach).isReady = false ∧ (upOf {}).isReady = true) ∧
    ((pendM 12).irqPending 1 13 = false ∧ srcReserved 1 100 = true ∧ (pendM 5).inServiceAny 1 5 = false ∧
      ((pendM 5).routeMask 1 5).contains 1 = false) ∧
    (((pendM 12).setPair 1 1 { inService := some 12 }).inServiceAny 1 12 = true) ∧
    (let m := (pendM 12).setPair 1 0 { inService := some 12 }
     (m.pair 1 0).inService ≠ some 13 ∧ (m.pair 1 0).inService ≠ none ∧ (m.reg (flaskReg 1 0x20)).toNat.testBit 31 = false) := by
  decide +kernel
/-- INTERRUPT_EVENT, merged at the second (R397). -/
theorem test_interruptEvent : goes (.interruptEvent 1 12) (on {}) (fun t => t.m.irqPending 1 12 && !t.m.irqPending 0 12 &&
    goes (.interruptEvent 1 12) t fun u => u.m.reg (flaskReg 1 0x30) == 1#32) = true := by decide +kernel
/-- IRQ_CLAIM and IRQ_EOI (R399, R400). -/
theorem test_irqClaim : goes (.irqClaim 1 0 12) (on (pendM 12)) (fun t => (t.m.pair 1 0).inService == some 12 && !t.m.irqPending 1 12 &&
    goes (.irqEoi 1 0 12) t fun u => (u.m.pair 1 0).inService == none) = true := by decide +kernel
/-- IRQ_SWSET, FLASK_TIMER_EXPIRY and IRQ_ROUTE_SET (R403). -/
theorem test_irqRest : (goes (.irqSwset 2 512) (on {}) (fun t => t.m.irqPending 2 512) &&
    goes (.flaskTimerExpiry 2 (15, 0)) (on {}) (fun t => t.m.irqPending 2 159) &&
    goes (.flaskTimerExpiry 2 (15, 9)) (on {}) (fun t => !t.m.irqPending 2 159 && tabGet (fun _ => 0) t.m.timers 47 == 9) &&
    goes (.irqRouteSet 2 12 5) (on {}) (fun t => t.m.routeReg 2 12 == 5)) = true := by decide +kernel

/-- A cycle of a processor that stores a byte and writes back a value. -/
def outOf (v : DWord) : PairOut :=
  { fetch := 0, load := 0, store := 0x20, enables := 1, data := 7, back := v, iface := none, control := 0 }
/-- A pair whose buffer holds two cycles, the older with a write to the interface of R403 or without. -/
def pairM (w : Option FlaskWrite) : Mach := ({} : Mach).setPair 1 2 { buffer := [{ outOf 1 with iface := w }, outOf 2] }
/-- Hypotheses of LockstepAndWatchdogs. -/
theorem wit_Lockstep : ((pairM none).pair 1 2).buffer = [outOf 1, outOf 2] ∧ ((pairM none).pair 1 2).jtagHalt = false ∧
    ((pairM (some .kick)).pair 1 2).buffer = [{ outOf 1 with iface := some .kick }, outOf 2] ∧ outOf 1 ≠ outOf 2 ∧
    lockstepKind (outOf 1) (outOf 2) = 2 ∧ (({} : Mach).pair 1 2).buffer.length < 2 ∧
    ((({} : Mach).setPair 1 2 { wdogCycles := 2000000 }).pair 1 2).wdogCycles = 2000000 ∧ (({} : Mach).pair 1 2).halted = false ∧ ({} : Mach).pairRuns 1 2 = true ∧
    ((({} : Mach).setPair 1 2 { inService := some 12 }).pair 1 2).inService = some 12 := by decide +kernel
/-- LOCKSTEP_MISMATCH halts the pair and asserts FAULT_N (R393, R411). -/
theorem test_lockstep : goes (.lockstepMismatch 1 2 (outOf 9, outOf 3)) (on (pairM none)) (fun t => (t.m.pair 1 2).halted && t.m.faultN && t.m.irqPending 1 2) = true := by
  decide +kernel
/-- CHECKER_TREE_TEST, SAF_WDOG_KICK and WATCHDOG_EXPIRY (R394, R395). -/
theorem test_watchdogs : (goes (.checkerTreeTest 1 2 true false) (on {}) (fun t => (t.m.pair 1 2).halted) &&
    goes (.safWdogKick 1 2) (on (({} : Mach).setPair 1 2 { wdogCycles := 9 })) (fun t => (t.m.pair 1 2).wdogCycles == 0) &&
    goes (.watchdogExpiry 1 2) (on (({} : Mach).setPair 1 2 { wdogCycles := 2000000 })) (fun t => t.m.irqPending 1 10 && t.m.faultN) &&
    stays (.watchdogExpiry 1 2) (on {})) = true := by decide +kernel

/-- A cache set whose first line is dirty. -/
def lineM (dirty : Bool) : Mach := { ({} : Mach) with cache := [(2048, [{ tag := 5, kind := .ordinary, dirty := dirty }])] }
/-- Hypotheses of ChecksAnswerByTheirMechanism: fenced and not; a line there; residue with and without a command; island windows. -/
theorem wit_Checks : (({} : Mach).core 0).fenced = false ∧ ((({} : Mach).setCore 0 { fenced := true }).core 0).fenced = true ∧
    (({} : Mach).cluster 0).fenced = false ∧ ((({} : Mach).setCluster 0 { fenced := true }).cluster 0).fenced = true ∧
    (tabGet (fun _ => []) (lineM true).cache 2048)[0]? = some { tag := 5, kind := .ordinary, dirty := true } ∧
    ((atEntry vecE).coreCmd 0 = some (workCmd 1) ∧ (workCmd 1).working = true ∧ (workCmd 1).replays < 16) ∧
    (islandClocked 39 = false ∧ islandClocked 0 = true) ∧
    ((({} : Mach).setIsland 0 { announced := some 5 }).island 0).announced ≠ none ∧ (({} : Mach).island 0).announced = none ∧
    (20 * ((148438 - 156250) + (156250 - 148438)) ≤ 156250 ∧ 156250 < 20 * ((148437 - 156250) + (156250 - 148437))) ∧
    ({} : Mach).monFault 0 = false ∧ ({} : Mach).monFault (watcherOf 0) = false ∧
    ((({} : Mach).setField (clkReg (watcherOf 0) 0) 27 27 1).monFault (watcherOf 0)) = true := by decide +kernel
/-- The core whose engine holds a drain-pending row, in full mode. -/
def fullDrain : Mach := withEng { engOf { drainQ 1 with tiles := [{ committedTile 1 with quarter := false }] } with mode := false }
/-- Hypotheses of the same for an accumulator, at slot 0 and row 0, with the core fenced and not, and for links and hops. -/
theorem wit_Accumulator : (fullDrain.eng 0).mode = false ∧ 0 * 32 + 0 ∈ ((fullDrain.eng 0).quarter 0).pendingRows ∧
    (((fullDrain.eng 0).quarter 0).tiles.find? fun t => t.drain && decide (t.slot ≤ 0) &&
      decide (0 < t.slot + ceilDiv t.rows t.side)) = some { committedTile 1 with quarter := false } ∧
    fullDrain.cmd? (committedTile 1).cmd = some cmd ∧ cmd.replays < 16 ∧ ((accumulatorUe fullDrain 0 0 0).core 0).fenced = false ∧
    ((accumulatorUe (fullDrain.setCore 0 { fullDrain.core 0 with fenced := true }) 0 0 0).core 0).fenced = true ∧
    (Hop.link 0 1).wf = true ∧ (Hop.link 1 1).wf = false := by decide +kernel
/-- A ladle command that works on slice 0, in place and not; its context is active. -/
def ladleAt (c : Cmd) : Mach := { mem with cmds := [{ c with st := .work, shares := [0] }], nextCmd := 9 }
/-- Hypotheses of the same for a ladle unit's residue mismatch. -/
theorem wit_LadleResidue : let c := zeroCmd 3 .work
    let p := { c with desc := fl [(0, 13)] }
    ((ladleAt c).cmds.find? fun c => (c.st == .check || c.st == .checked || c.st == .work) && c.shares.contains 0 &&
      isPageOp (dOp c.desc) == false).isSome = true ∧ isInPlace c.desc = false ∧ c.replays < 16 ∧ isInPlace p.desc = true ∧
    ((ladleAt p).cmds.find? fun c => (c.st == .check || c.st == .checked || c.st == .work) && c.shares.contains 0 &&
      isPageOp (dOp c.desc) == false).isSome = true ∧ ((ladleAt p).ctx 1).state = 1#2 ∧ mem.cmds = [] := by decide +kernel
/-- SRAM_SCRUB of a dirty line marks its affected sector (R407). -/
theorem test_sramScrub : goes (.sramScrub (.sharedCache 1 0 0 1) .uncorrectable) (on (lineM true)) (fun t =>
    t.m.slagBit 640 && !t.m.slagBit 704 && t.m.recordsDue.length != 0) = true := by decide +kernel
/-- SRAM_SCRUB of a drain-pending accumulator row reports its row check and fences the core (R407). -/
theorem test_accumulatorUe : goes (.sramScrub (.accumulator 0 0 0) .uncorrectable) (on fullDrain) (fun t =>
    t.m.reg (engReg 0 0x60) == 1#32 && (t.m.core 0).closing) = true := by decide +kernel
/-- RESIDUE_MISMATCH, FLIT_RETRY and RETRY_EXHAUSTION (R408, R409). -/
theorem test_checks : (goes (.residueMismatch (.core 0)) (on {}) (fun t => (t.m.core 0).mismatches == [0]) &&
    goes (.flitRetry (.link 0 1)) (on {}) (fun t => t.m.reg (safReg 0x24) == 1#32) &&
    goes (.retryExhaustion (.mesh 1 3)) (on {}) (fun t => t.m.danger && t.m.irqPending 1 15)) = true := by decide +kernel
/-- CLOCK_MONITOR_WINDOW: the second bad window is reported (R410). -/
theorem test_clockMonitor : goes (.clockMonitorWindow 0 1) (on {}) (fun t => !t.m.faultN &&
    goes (.clockMonitorWindow 0 1) t fun u => u.m.faultN) = true := by decide +kernel

/-- A record of mechanism 5, due. -/
def aRecord : RecordReq := ⟨5, 0, 0, 0x3FF, 0, []⟩
/-- A dangerous failure has occurred in a machine with an active context, a command and a retraining. -/
def dangerM : Mach := { serving (plan 1 vecE) with danger := true, recordsDue := [⟨aRecord, 7, 15, 0, true⟩] }
/-- Hypotheses of SafeStateRecordsAudits for the safe state, the records and the freezes. -/
theorem wit_SafeState : (dangerM.safe = false ∧ dangerM.danger = true ∧ ({} : Mach).danger = false) ∧ (dangerM.ctx 1).state = 1#2 ∧
    (dangerM.ctx 2).state = 0#2 ∧
    recordWaits [] aRecord = false ∧ (dangerM.recordsDue = [] ++ ⟨aRecord, 7, 15, 0, true⟩ :: [] ∧ dangerM.pairRuns 0 0 = true) ∧ (dangerM.session 3).isOpen = true ∧
    (dangerM.session 4).isOpen = false ∧ (dangerM.session 3).events.length < 1024 ∧ ({} : Mach).recordsDue = [] ∧
    dangerM.isReady = true ∧ ({} : Mach).isReady = false ∧ (∀ p ∈ [0, 1, 2, 3], deadM.pairRuns 0 p = false) ∧
    bits ((dangerM.setReg (devReg 0x200) 0x40000000#32).reg (devReg 0x200)).toNat 31 30 = 1 := by decide +kernel
/-- A frozen machine whose totals agree, and one whose sent total of die 0 does not. -/
def frozenM (bad : Bool) : Mach := { upOf {} with frozen := true, ticks := if bad then 1 else 0 }
/-- Hypotheses of the same for FREEZE_RELEASE: passed, failed, deferred for the eighth time. -/
theorem wit_Audits : ({} : Mach).frozen = false ∧ (∀ x ∈ relations (frozenM false), x.2 = true) ∧
    (∃ x ∈ relations (frozenM true), x.2 = false ∧ x.1.die < 4 ∧ x.1.rel < 16 ∧ x.1.inst < 2 ^ 24) ∧
    (let m := { frozenM false with audit := { deferred := [((0, 7, 0), 7)] } }
     (∀ x ∈ relations m, x.2 = true ∨ ∃ z ∈ [(0, 7, 0)], z = (x.1.die, x.1.rel, x.1.inst)) ∧
       7 ≤ ((m.audit.deferred.find? fun y => y.1 == (0, 7, 0)).map fun y => y.2).getD 0) ∧ (frozenM false).syncDue = [] := by decide +kernel
/-- Hypotheses of the same for CONSERVATION_AUDIT, LEDGER_SWEEP and CONDITION_LOSS. -/
theorem wit_AuditsRest : ({} : Mach).audit.verdict = none ∧ (({} : Mach).reg (safReg 0xC)).toNat.testBit 31 = false ∧
    (let m := issueMem.setPool 1 { live := true, ctx := 1, control := 1, ctrlVa := 0x10000 }
     (m.pools.filter fun p => p.2.live && !p.2.stash).map (fun p => p.1) = [1] ∧ m.audit.swept = none ∧ m.poolWorks 1 = false) ∧
    ({} : Mach).pools = [] ∧ conditionBit .debugUnlocked = (27, 2) ∧ (({} : Mach).reg (safReg 0)).toNat.testBit 27 = true ∧
    (({} : Mach).reg (safReg 0)).toNat.testBit 28 = false := by decide +kernel
/-- SAFE_STATE_ENTRY tears every context down (R412). -/
theorem test_safeState : goes .safeStateEntry (on dangerM) (fun t => t.m.safe && (t.m.ctx 1).state == 3#2 && t.m.cmds == []) = true := by
  decide +kernel
/-- SAFETY_RECORD takes number 1, with its magic number in word 0, and is posted to session 3 (R413). -/
theorem test_safetyRecord : goes (.safetyRecord aRecord) (on dangerM) (fun t => t.m.reg (safReg 8) == 1#32 &&
    t.m.reg 0x25000100 == 0x53465452#32 && (t.m.session 3).events.length == 3) = true := by decide +kernel
/-- FREEZE, FREEZE_RELEASE and CONSERVATION_AUDIT of a machine at rest (R416, R417). -/
theorem test_audit : goes .freeze (on (upOf {})) (fun t => t.m.frozen && goes (.freezeRelease 100 []) t fun u =>
    goes (.conservationAudit 500) u fun v => v.m.reg (safReg 0x14) == 1#32 && !v.m.faultN) = true := by decide +kernel
/-- CONDITION_LOSS asserts FAULT_N without the safe state (R421). -/
theorem test_conditionLoss : goes (.conditionLoss .debugUnlocked) (on {}) (fun t => t.m.faultN && !t.m.danger) = true := by decide +kernel

/-- Hypotheses of AttestRefusedWhileZeroised and of PresenceSealAndVersion. -/
theorem wit_Security : served 0x60 (gct 5 32 0) (on (serving mem)) = true ∧ (serving mem).sec 27 = false ∧
    (serving mem).pfcStopped.getLsbD 2 = false ∧ ({} : Mach).presLow = false ∧ ({ ({} : Mach) with presLow := true } : Mach).presLow = true ∧
    ({} : Mach).sec 31 = false ∧ ({ ({} : Mach) with sealBad := 1 } : Mach).sealBad = 1 ∧ ({} : Mach).isReady = false := by decide +kernel
/-- PRESENCE_ASSERT, PRESENCE_RELEASE and PRESENCE_WINDOW_EXPIRY (R432). -/
theorem test_presenceWindow : goes .presenceAssert (on {}) (fun t => t.m.sec 28 && goes .presenceRelease t fun u => u.m.sec 28 &&
    goes .presenceWindowExpiry u fun v => !v.m.sec 28) = true := by decide +kernel
/-- SEAL_PATTERN: the second disagreement latches TAMPER (R433, R434). -/
theorem test_seal : goes (.sealPattern 1 2) (on (present mem)) (fun t => !t.m.sec 31 && goes (.sealPattern 1 2) t fun u => u.m.sec 31) = true := by
  decide +kernel

/-! ## Signed images (18) -/

/-- The header's first 16 bytes of an image of 4,096 bytes with PROD and SVN 3. -/
def imgHead : Nat := 0x57464354 + 1 <<< 32 + 1 <<< 40 + 3 <<< 48 + 4096 <<< 64
/-- That image, signed under the key whose scalar is 1 with the per-signature value 1, as computed by hand outside the model. -/
def img : List Byte :=
  toBytes 16 imgHead ++ toBytesBE 32 p256G.1 ++ toBytesBE 32 p256G.2 ++ toBytesBE 32 p256G.1 ++
    toBytesBE 32 0xd7a543ad1496caf1a1e18ef3289c64def3f54328e667b87072426bcbc32428d6 ++ List.replicate 3952 0#8
/-- The hash of its key. -/
def imgKey : BitVec 256 := 0x9f0db5cbf5eed6fe24dff4d80f5d2f14803ebbb0c638c7ae362223ef7ddb75d8#256
/-- SHA-256 of "abc", as FIPS 180-4 gives it. -/
theorem test_sha256 : ofBytesBE (sha256 [0x61, 0x62, 0x63]) = 0xba7816bf8f01cfea414140de5dae2223b00361a396177a9cb410ff61f20015ad := by
  decide +kernel
/-- The image verifies (R426). -/
theorem image_verifies : verifyImage img (some imgKey) 2 = 1 := by decide +kernel
/-- A module whose key slots 0 and 3 hold that hash on every die, with both copies that image and fused version 2. -/
def imaged (m : Mach) : State :=
  { on m with fuses := (List.range 4).map fun d => (d, { keys := [(0, some imgKey), (3, some imgKey)], svn := 2 })
              flash := { copyA := img, copyB := img } }
/-- What its dies hold, before and after they agree at start-up. -/
theorem imaged_fuses (m : Mach) : ∀ d ∈ List.range 4, (imaged m).keyHash d = some imgKey ∧ ((imaged m).fusesOf d).svn = 2 ∧
    (harmonise (imaged m)).keyHash d = some imgKey ∧ ((harmonise (imaged m)).fusesOf d).svn = 2 := by
  have h : ∀ d ∈ List.range 4, (imaged {}).keyHash d = some imgKey ∧ ((imaged {}).fusesOf d).svn = 2 ∧
    (harmonise (imaged {})).keyHash d = some imgKey ∧ ((harmonise (imaged {})).fusesOf d).svn = 2 := by decide +kernel
  exact h
/-- Hypotheses of PresenceSealAndVersion for SVN_ADVANCE and of ResetsAndStartUp for a copy that boots: both copies verify. -/
theorem wit_Verifies (m : Mach) (b : Bool) : (imaged m).verifies b = true ∧ (harmonise (imaged m)).verifies b = true := by
  constructor <;>
  · simp only [State.verifies, List.all_eq_true]
    intro d hd
    have h := imaged_fuses m d hd
    first
      | (rw [h.1, h.2.1]
         cases b <;> exact beq_iff_eq.mpr image_verifies)
      | (rw [h.2.2.1, h.2.2.2]
         cases b <;> exact beq_iff_eq.mpr image_verifies)
/-- Hypotheses of PrivilegedMessages for KEY_ROTATE to a slot whose key verifies the other copy. -/
theorem wit_KeyRotate_ok : served 0x72 (gct 5 1 3) (imaged (present mem)) = true ∧ (present mem).privileged = true ∧
    (∀ d, d < 4 → (imaged (present mem)).keySlot d 3 ≠ none ∧ ((imaged (present mem)).fusesOf d).revoked.getLsbD 3 = false) ∧
    ∀ d, d < 4 → verifyImage ((imaged (present mem)).flash.copy true) ((imaged (present mem)).keySlot d 3) ((imaged (present mem)).fusesOf d).svn = 1 := by
  refine ⟨by decide +kernel, by decide +kernel, by decide +kernel, fun d hd => ?_⟩
  have h : ∀ d, d < 4 → (imaged (present mem)).keySlot d 3 = some imgKey ∧ ((imaged (present mem)).fusesOf d).svn = 2 := by decide +kernel
  rw [(h d hd).1, (h d hd).2]
  exact image_verifies

/-! ## Clocks, power, reset, start-up, test access (19, 21) -/

/-- A machine whose islands' PLLs run at nominal, A selected. -/
def clocked : Mach := nominalClock (upOf {}) 0 true true
/-- Hypotheses of SourcesAndSwitches. -/
theorem wit_Sources : islandClocked 0 = true ∧ islandClocked 79 = false ∧ clocked.refclk = true ∧
    pllOk (clocked.reg (pllReg 0 true)).toNat = true ∧ pllOk ((upOf {}).reg (pllReg 0 true)).toNat = false ∧
    pllOk (pllWord 5 128 2 false).toNat = true ∧ pllOk (pllWord 5 129 2 false).toNat = false ∧
    pllOk (pllWord 1 1024 1 false).toNat = false ∧ pllOk (pllWord 1 15 1 false).toNat = false ∧
    clocked.sourceReady 0 .pllB = true ∧ (upOf {}).sourceReady 0 .pllB = false ∧ clocked.runningPll 0 false = true ∧
    clocked.runningPll 0 true = false ∧ ({ ({} : Mach) with refclk := false } : Mach).refclk = false ∧
    (gatedBlocks 0 = 16 ∧ ((({} : Mach).setCore 0 { fenced := true }).gateBits 0).testBit 0 = false ∧ (({} : Mach).gateBits 0).testBit 0 = true) := by
  decide +kernel
/-- A register that is no PLL's. -/
theorem wit_noPll : ∀ g b, islandClocked g = true → (0 : Word).toNat ≠ pllReg g b := by
  intro g b _
  simp only [pllReg, clkReg]
  cases b <;> simp
/-- CLOCK_SWITCH to the ready PLL B gives 2,000,000 kHz (R446). -/
theorem test_clockSwitch : goes (.clockSwitch 0 .pllB) (on clocked) (fun t => t.m.reg (clkReg 0 4) == 2000000#32 && t.m.runningPll 0 true) = true := by
  decide +kernel
/-- A running PLL is not programmed (R446). -/
theorem test_registerWrite : goes (.registerWrite (w32 (pllReg 0 false)) 1) (on clocked) (fun t => t.m.reg (clkReg 0 0x18) == 1#32) = true := by
  decide +kernel
/-- PLL_LOCK, PLL_LOCK_LOSS, STANDBY_PLL_LOCK_LOSS (R445, R447). -/
theorem test_plls : (goes (.pllLock 0 true) (on (clocked.setField (clkReg 0 0) 28 28 0)) (fun t => t.m.sourceReady 0 .pllB) &&
    goes (.pllLockLoss 0) (on clocked) (fun t => t.m.faultN && !t.m.sourceReady 0 .pllA) &&
    goes (.standbyPllLockLoss 0 true) (on clocked) (fun t => !t.m.faultN && !t.m.sourceReady 0 .pllB)) = true := by decide +kernel
/-- REFCLK_LOSS is one of every flask; a gated access is counted (R447, R450). -/
theorem test_refclkLoss : (goes .refclkLoss (on clocked) (fun t => t.m.recordsDue.length == 4) &&
    goes (.gatedBlockAccess 0 0 true) (on (({} : Mach).setCore 0 { fenced := true })) (fun t => t.m.reg (clkReg 0 0x14) == 1#32)) = true := by
  decide +kernel

/-- Hypotheses of RailsTemperaturesPower, at the ends of rail 2's window. -/
theorem wit_Rails : railWindow 2 = (776, 824) ∧ (upOf {}).life ≠ .off ∧ 2 ∉ (upOf {}).railsBad ∧
    (({ upOf {} with railsBad := [2] } : Mach).railsBad = [2]) ∧ ({ upOf {} with life := .off } : Mach).life = .off ∧
    ({ upOf {} with life := .held } : Mach).life = .held ∧ ((({} : Mach).setField (safReg 0) 28 28 1).reg (safReg 0)).toNat.testBit 28 = true ∧
    ((sensorLimits 0).2.2 < (1681#16).toInt ∧ (1680#16).toInt ≤ (sensorLimits 0).2.2) ∧
    ((sensorLimits 0).2.1 ≤ (1600#16).toInt ∧ (1520#16).toInt ≤ (sensorLimits 0).2.1 - 80) ∧
    sensorUnit (.island 0) = 0 ∧ (clocked.beyond = [] ∧ bits (({} : Mach).reg (devReg 0x80)).toNat 29 29 = 0) := by decide +kernel
/-- A machine whose island 0 is throttled by a step. -/
def hotM : Mach := clocked.setIsland 0 { clocked.island 0 with throttle := 1 }
/-- Hypotheses of the same for throttling, at its threshold, and for the cap. -/
theorem wit_Throttle : isClusterIsland 0 = true ∧ clocked.refclk = true ∧ clocked.cap.steps ≤ 10 ∧
    (clocked.cluster (islandCluster 0)).fenced = false ∧ 95 * 16 ≤ (1520#16).toInt ∧ (1519#16).toInt < 95 * 16 ∧
    clocked.dieHot 0 (16 * 85) = false ∧ (clocked.island 0).base = 2000000 ∧ 100000 * (0 + 11) ≤ (clocked.island 0).base ∧ (clocked.island 0).throttle < 10 ∧ 0 < (hotM.island 0).throttle ∧ hotM.reading 0 ≤ 90 * 16 ∧
    hotM.dieHot 0 (16 * 80 + 1) = false ∧ (clocked.cap.phase + 1) % 10 ≠ 0 ∧
    (let m := { clocked with cap := { phase := 9, overs := 1 } }
     (m.cap.phase + 1) % 10 = 0 ∧ 1500 * 1 < (((1501#16).toNat :: m.cap.watts).take 10).sum ∧ m.cap.steps < 10) ∧
    99 ≤ ({ phase := 9, under := 99, steps := 2 } : CapSt).under := by decide +kernel
/-- RAIL_OUT_OF_WINDOW below the window (R451). -/
theorem test_rail : goes (.railOutOfWindow 2 775) (on (upOf {})) (fun t => t.m.railsBad == [2] && t.m.faultN && t.m.irqPending 0 13) = true := by
  decide +kernel
/-- The thresholds of an island: 105 °C the rating limit, 100 °C the alert, 95 °C the throttle (R453). -/
theorem test_temperatures : (goes (.temperatureLimit (.island 0) 1681) (on clocked) (fun t => t.m.faultN) &&
    goes (.temperatureLimit (.island 0) 1680) (on clocked) (fun t => !t.m.faultN) &&
    goes (.thermAlertN (.island 0) 1600) (on clocked) (fun t => bits (t.m.reg (devReg 0x80)).toNat 29 29 == 1)) = true := by decide +kernel
/-- THERMAL_THROTTLE and THROTTLE_RESTORE move the root by 100 MHz (R453). -/
theorem test_throttle : goes (.thermalThrottle 0 1520) (on clocked) (fun t => t.m.reg (clkReg 0 4) == 1900000#32 &&
    goes (.thermalThrottle 0 1440) t fun u => goes (.throttleRestore 0) u fun v => v.m.reg (clkReg 0 4) == 2000000#32) = true := by
  decide +kernel
/-- POWER_CAP_SAMPLE after a second millisecond above 1,500 W (R454). -/
theorem test_powerCap : goes (.powerCapSample 1501) (on { clocked with cap := { phase := 9, overs := 1 } }) (fun t =>
    t.m.cap.steps == 1 && t.m.reg (clkReg 0 4) == 1900000#32) = true := by decide +kernel

/-- What a start-up reports where all is well. -/
def report : StartReport :=
  { bootSel := false, railsOk := true, straps := [some 0, some 1, some 2, some 3], sealOk := true, flashError := 0, deadIslands := [],
    sensorBad := false, badTrees := [], badChannels := [], stackTemp := 45, badPackages := [], badCores := [], sramHalt := false,
    linkUp := true, stepMs := [], inRatings := true }
/-- Hypotheses of ResetsAndStartUp: stages of life, a due reset, straps, copies that verify on no die. -/
theorem wit_Resets : (upOf {}).life ≠ .off ∧ (upOf {}).railsBad = [] ∧ ({ upOf {} with railsBad := [2] } : Mach).railsBad ≠ [] ∧
    ({ upOf {} with resetDue := true } : Mach).resetDue = true ∧ State.reset.m.life = .starting ∧ strapsOk report.straps = true ∧
    strapsOk [some 0, some 1, some 2, none] = false ∧ (∀ b ∈ [false, true], (harmonise State.reset).verifies b = false) ∧
    ({} : Mach).isReady = false ∧ bits (({} : Mach).reg (devReg 0x80)).toNat 31 31 = 1 := by decide +kernel
/-- RESET_N low for 1 µs resets; for less than 0.5 µs it does not (R457). -/
theorem test_resetN : (goes (.resetNFall 1000) (on clocked) (fun t => t.m.life == .held && !t.m.isReady) &&
    stays (.resetNFall 499) (on clocked)) = true := by decide +kernel
/-- DELAYED_MODULE_RESET, VIN_SHUTDOWN and INTERNAL_RESET_RELEASE (R452, R458). -/
theorem test_resets : (goes .delayedModuleReset (on { clocked with resetDue := true }) (fun t => t.m.life == .held &&
    goes .internalResetRelease t fun u => u.m.life == .starting) && goes .vinShutdown (on clocked) fun t => t.m.life == .off) = true := by
  decide +kernel
/-- With a rail out of its window nothing starts (R459). -/
theorem test_startUp : goes (.startUp { report with railsOk := false }) State.reset (fun t => t.m.life == .halted && t.m.faultN) = true := by
  decide +kernel

/-- JTAG open, in test mode. -/
def openM : Mach := { (upOf {}).setSec 26 true with life := .test }
/-- Hypotheses of TestAccessPorts. -/
theorem wit_Taps : openM.tapLive = true ∧ openM.jtagOpen = true ∧ openM.life = .test ∧ ({} : Mach).jtagOpen = false ∧
    ({ openM with trstLow := true } : Mach).tapLive = false ∧ ({ openM with life := .ready } : Mach).life ≠ .test := by decide +kernel
/-- IDCODE and BYPASS, and EXTEST while JTAG is closed (R439, R479). -/
theorem test_taps : (goes (.idcode 1) (on (upOf {})) (fun t => t.m.tap 1 == 1) && goes (.bypass 1) (on (upOf {})) (fun t =>
    t.m.out == [(8, .jtag 1 0 1)]) && goes (.extest 0 5) (on (upOf {})) (fun t => t.m.tap 0 == 0xFF)) = true := by decide +kernel
/-- The instructions of an open port (R479). -/
theorem test_tapsOpen : (goes (.extest 0 5) (on openM) (fun t => t.m.extest && t.m.boundary == 5#9) &&
    goes (.flaskDebug 1 2 (some true) 0) (on openM) (fun t => !t.m.pairRuns 1 2) &&
    goes (.gatedRead 1 (w32 (portReg 0))) (on openM) (fun t => t.m.out == [(8, .jtag 1 0x80000000 32)]) &&
    goes (.trst true) (on openM) (fun t => !t.m.tapLive)) = true := by decide +kernel

end Sys2Proof.Tests
end

section
/-! SUPPORT. The clock over one cycle (log entry 2): what the parts of `tick` do before time advances leaves the time since
reset as it was, so a cycle advances it by one nanosecond. -/

namespace Sys2Proof.Proofs

open Sys2Proof.Machine Sys2Proof.Laws

/-- The module's clock: milliseconds since reset and nanoseconds within the millisecond. -/
def clock (s : Mach) : Nat × Nat := (s.uptime, s.upNs)

/-! ## Folds and results -/

theorem clock_foldl {α : Type} (f : Mach → α → Mach) (h : ∀ s a, clock (f s a) = clock s) (l : List α) (s : Mach) :
    clock (l.foldl f s) = clock s := by
  induction l generalizing s with
  | nil => rfl
  | cons a l ih => exact (ih (f s a)).trans (h s a)

theorem clock_each {α : Type} (f : α → Mach → Mach) (h : ∀ a s, clock (f a s) = clock s) (l : List α) (s : Mach) :
    clock (each f l s) = clock s :=
  clock_foldl (fun s a => f a s) (fun s a => h a s) l s

theorem clock_bind {α β : Type} (r : Res α) (k : α → Mach → Res β) (h : ∀ a s, clock (k a s).state = clock s) :
    clock (r.bind k).state = clock r.state := by
  cases r with
  | ok a s => exact h a s
  | err f s => rfl

theorem clock_foldRes {α β : Type} (f : β → α → Mach → Res β) (h : ∀ b a s, clock (f b a s).state = clock s) (b : β)
    (l : List α) (s : Mach) : clock (foldRes f b l s).state = clock s := by
  induction l generalizing b s with
  | nil => rfl
  | cons a l ih =>
    have hs := h b a s
    rw [foldRes]
    cases hf : f b a s with
    | ok b' t => rw [hf] at hs; exact (ih b' t).trans hs
    | err e t => rw [hf] at hs; exact hs

theorem clock_eachRes {α : Type} (f : α → Mach → Res Unit) (h : ∀ a s, clock (f a s).state = clock s) (l : List α) (s : Mach) :
    clock (eachRes f l s).state = clock s :=
  clock_foldRes _ (fun _ => h) () l s

/-- The state of a result that is known to be a success. -/
theorem clock_of_ok {α : Type} {r : Res α} {a : α} {s t : Mach} (hr : r = .ok a t) (h : clock r.state = clock s) :
    clock t = clock s := by
  rw [hr] at h; exact h

/-- The state of a result that is known to be a failure. -/
theorem clock_of_err {α : Type} {r : Res α} {f : Flt} {s t : Mach} (hr : r = .err f t) (h : clock r.state = clock s) :
    clock t = clock s := by
  rw [hr] at h; exact h

variable (s : Mach)

/-! ## Parts of the machine and registers -/

@[simp] theorem clock_setObj (n : Nat) (x : Obj) : clock (s.setObj n x) = clock s := rfl
@[simp] theorem clock_setCtx (c : Nat) (x : CtxSt) : clock (s.setCtx c x) = clock s := rfl
@[simp] theorem clock_setQueue (q : Nat) (x : QueueSt) : clock (s.setQueue q x) = clock s := rfl
@[simp] theorem clock_setSession (k : Nat) (x : Session) : clock (s.setSession k x) = clock s := rfl
@[simp] theorem clock_setPair (d p : Nat) (x : PairSt) : clock (s.setPair d p x) = clock s := rfl
@[simp] theorem clock_setCmd (c : Cmd) : clock (s.setCmd c) = clock s := rfl
@[simp] theorem clock_dropCmd (id : Nat) : clock (s.dropCmd id) = clock s := rfl
@[simp] theorem clock_setField (a hi lo v : Nat) : clock (s.setField a hi lo v) = clock s := rfl
@[simp] theorem clock_bump16 (a lo : Nat) : clock (s.bump16 a lo) = clock s := rfl
@[simp] theorem clock_bump (a n : Nat) : clock (s.bump a n) = clock s := by rw [bump_frame]; rfl

/-! ## Interrupts, alarms, sending -/

@[simp] theorem clock_raise (d n : Nat) : clock (s.raise d n) = clock s := by rw [raise_frame]; rfl
@[simp] theorem clock_dangerous (r : RecordReq) : clock (s.dangerous r) = clock s := by rw [dangerous_frame]; rfl
@[simp] theorem clock_sendAs (cls : Nat) (x : Sent) : clock (s.sendAs cls x) = clock s := rfl
@[simp] theorem clock_sendOn (cls : Nat) (x : Sent) : clock (s.sendOn cls x) = clock s := by rw [sendOn_frame]; rfl
@[simp] theorem clock_answer (r : Req) (op st body : Nat) : clock (s.answer r op st body) = clock s := by simp [Mach.answer]

@[simp] theorem clock_postEvent (k opcode status body : Nat) (final : Bool) :
    clock (s.postEvent k opcode status body final) = clock s := by
  unfold Mach.postEvent
  extract_lets x n t
  split
  · rfl
  · split
    · rfl
    · exact clock_sendOn t _ _

@[simp] theorem clock_postAll (ks : List Nat) (opcode status body : Nat) : clock (s.postAll ks opcode status body) = clock s :=
  clock_each _ (fun k t => clock_postEvent t k _ _ _ _) ks s

/-! ## Near-tier memory and the shared cache (10, 12) -/

@[simp] theorem clock_invalidateObj (n : Nat) : clock (s.invalidateObj n) = clock s := by rw [invalidateObj_frame]; rfl
@[simp] theorem clock_poisonObj (n : Nat) : clock (s.poisonObj n) = clock s := by rw [poisonObj_frame]; rfl

@[simp] theorem clock_setSlag (a : Nat) (v : Bool) : clock (s.setSlag a v) = clock s := by
  unfold Mach.setSlag
  extract_lets t
  split
  · split
    · exact clock_poisonObj t _
    · rfl
  · rfl

@[simp] theorem clock_writeSector (a : Nat) (l : List Byte) (mark : Bool) : clock (s.writeSector a l mark) = clock s := by
  unfold Mach.writeSector
  split
  · exact clock_bump s _ _
  · extract_lets whole t
    have ht : clock t = clock s := rfl
    repeat' split
    all_goals simp [ht]

@[simp] theorem clock_writeNear (a : Nat) (l : List Byte) (mark : Bool) : clock (s.writeNear a l mark) = clock s :=
  clock_each _ (fun _ _ => clock_writeSector _ _ _ _) _ _

@[simp] theorem clock_readNear (a n : Nat) : clock (s.readNear a n).2.2 = clock s :=
  clock_each _ (fun _ t => clock_bump t _ _) _ s

@[simp] theorem clock_dropLine (l : Line) : clock (s.dropLine l) = clock s := by
  refine clock_each _ (fun k t => ?_) _ s
  split
  · rfl
  · split
    · rfl
    · exact clock_setSlag _ _ _

@[simp] theorem clock_replaceSet (g set : Nat) (l : List Line) : clock (s.replaceSet g set l) = clock s :=
  clock_each _ (fun x t => clock_dropLine t x) _ _

@[simp] theorem clock_touchLine (pa : Nat) (write : Bool) (h : Hint) : clock (s.touchLine pa write h) = clock s := by
  unfold Mach.touchLine
  extract_lets g set l tag hit t others kind kept rest line
  have ht : clock t = clock s := clock_bump s _ _
  clear_value kind
  split
  · exact ht
  · split
    · split <;> simp [ht]
    · simp [ht]

@[simp] theorem clock_touch (pa n : Nat) (write : Bool) (h : Hint) : clock (s.touch pa n write h) = clock s := by
  unfold Mach.touch
  split
  · rfl
  · extract_lets y
    split
    · rfl
    · exact clock_each _ (fun i t => clock_touchLine t _ write h) _ s

/-! ## Moves of objects (13) -/

@[simp] theorem clock_startDown (n dst : Nat) : clock (s.startDown n dst) = clock s := by
  unfold Mach.startDown
  extract_lets o src base o' t
  split
  · exact clock_invalidateObj t n
  · rfl

@[simp] theorem clock_evictLoop (x : Obj) (l : List Nat) : clock (evictLoop x l s) = clock s := by
  induction l generalizing s with
  | nil => rfl
  | cons n l ih =>
    rw [evictLoop]
    extract_lets o
    split
    · rfl
    · split
      · exact (ih _).trans (clock_startDown s n _)
      · exact ih s

theorem clock_startUp (n dst : Nat) (t : Mach) (h : s.startUp n dst = some t) : clock t = clock s := by
  unfold Mach.startUp at h
  extract_lets o src base at h
  obtain ⟨b, -, h⟩ := Option.bind_eq_some_iff.1 h
  extract_lets base' at h
  split at h
  · cases h; rfl
  · split at h
    · cases h
    · cases h; simp

@[simp] theorem clock_request (n : Nat) : clock (s.request n).1 = clock s := by
  unfold Mach.request
  extract_lets o
  split
  · split
    · next t h => exact clock_startUp s n 1 t h
    · rfl
  · rfl

@[simp] theorem clock_promote (n : Nat) : clock (s.promote n).1 = clock s := by
  unfold Mach.promote
  extract_lets o
  split
  · exact clock_request s n
  · split <;> rfl

@[simp] theorem clock_abandonReq (n : Nat) : clock (s.abandonReq n) = clock s := by
  unfold Mach.abandonReq
  extract_lets o
  split <;> rfl

@[simp] theorem clock_residencyMiss (n : Nat) : clock (s.residencyMiss n).2 = clock s := by
  unfold Mach.residencyMiss
  extract_lets o t
  have ht : clock (t.promote n).1 = clock s := by simp [t]
  split
  all_goals
    next u _ hp =>
    rw [hp] at ht
    exact ht

@[simp] theorem clock_unpin (n : Nat) : clock (s.unpin n) = clock s := rfl
@[simp] theorem clock_releaseObj (n : Nat) : clock (s.releaseObj n) = clock s := rfl

@[simp] theorem clock_reapOrphans : clock s.reapOrphans = clock s := clock_each _ (fun n t => clock_releaseObj t n) _ s

/-! ## Translation and reads through it (13 R295 to R298) -/

theorem clock_readTables (ctx va : Nat) : clock (s.readTables ctx va).state = clock s := by
  refine clock_eachRes _ (fun level t => ?_) _ s
  extract_lets pa
  split
  · rfl
  · split
    · exact clock_bump t _ _
    · exact clock_touch t _ _ _ _

theorem clock_walkEnd (ctx va : Nat) (a : Access) (own : Bool) : clock (s.walkEnd ctx va a own).state = clock s := by
  unfold Mach.walkEnd
  split
  · rfl
  · next m _ =>
    extract_lets o kept x t y u wr v pa
    split
    · split
      · rfl
      · exact clock_residencyMiss t _
    · have hu : clock u = clock s := by simp only [u]; split <;> rfl
      have hv : clock v = clock s := by simp only [v]; split <;> simp [hu]
      clear_value u v
      generalize m.grants (if own then .read else a) = granted
      split
      · exact hu
      · split <;> exact hv

theorem clock_walk (ctx va : Nat) (a : Access) (own : Bool) : clock (s.walk ctx va a own).state = clock s := by
  unfold Mach.walk
  split
  · exact clock_walkEnd s ctx va a own
  · exact (clock_bind _ _ fun _ t => clock_walkEnd t ctx va a own).trans (clock_readTables s ctx va)

theorem clock_pieceH (ctx : Nat) (a : Access) (own : Bool) (h : Hint) (p : Nat × Nat) :
    clock (s.pieceH ctx a own h p).state = clock s := by
  refine (clock_bind _ _ fun pa t => ?_).trans (clock_walk s ctx p.1 a own)
  split
  · rfl
  · exact clock_touch t _ _ _ _

theorem clock_readVa (ctx va n : Nat) : clock (s.readVa ctx va n).state = clock s := by
  refine clock_foldRes _ (fun acc p t => ?_) _ _ s
  refine (clock_bind _ _ fun pa u => ?_).trans (clock_pieceH t ctx .read false .none p)
  have hr := clock_readNear u pa p.2
  generalize u.readNear pa p.2 = y at hr ⊢
  obtain ⟨l, bad, v⟩ := y
  dsimp only at hr ⊢
  split
  · simp only [Res.state]
    split <;> simp [hr]
  · exact hr

theorem clock_readWord (ctx va n : Nat) : clock (s.readWord ctx va n).state = clock s :=
  (clock_bind _ _ fun _ _ => rfl).trans (clock_readVa s ctx va n)

/-! ## Atomic requests and synchronisation objects (06) -/

@[simp] theorem clock_awaitCredit (r g : Nat) : clock (s.awaitCredit r g) = clock s := by
  unfold Mach.awaitCredit
  extract_lets x
  split <;> rfl

@[simp] theorem clock_freeCredit (r g : Nat) : clock (s.freeCredit r g) = clock s := rfl

theorem clock_underCredit {α : Type} (r g : Nat) (x : Res α) : clock (underCredit r g x).state = clock x.state := by
  unfold underCredit
  split <;> rfl

theorem clock_atomicAt (ctx va n : Nat) (wr own : Bool) : clock (s.atomicAt ctx va n wr own).state = clock s := by
  unfold Mach.atomicAt
  split
  · rfl
  · refine (clock_bind _ _ fun pa t => ?_).trans (clock_pieceH s ctx _ own .none (va, n))
    split
    · rfl
    · exact clock_bump t _ _

theorem clock_atomic (r ctx va n : Nat) (f : Nat → Nat) (wr own : Bool) :
    clock (s.atomic r ctx va n f wr own).state = clock s := by
  unfold Mach.atomic
  extract_lets g
  split
  · rfl
  · refine (clock_underCredit _ _ _).trans ((clock_bind _ _ fun pa t => ?_).trans (clock_atomicAt s ctx va n wr own))
    extract_lets old
    simp only [Res.state]
    split <;> rfl

theorem clock_onSyncLine (r obj : Nat) (wr atom : Bool) : clock (s.onSyncLine r obj wr atom).state = clock s := by
  unfold Mach.onSyncLine
  extract_lets pa g
  split
  · rfl
  · split
    · exact clock_touchLine s _ _ _
    · split
      · rfl
      · split <;> simp [Res.state]

theorem clock_readSync (r obj : Nat) : clock (s.readSync r obj).state = clock s :=
  (clock_bind _ _ fun _ _ => rfl).trans (clock_onSyncLine s r obj false true)

@[simp] theorem clock_doSync (obj op val ctx : Nat) : clock (s.doSync obj op val ctx) = clock s := by
  unfold Mach.doSync
  extract_lets t x
  split <;> rfl

@[simp] theorem clock_applySync (r obj op val ctx : Nat) : clock (s.applySync r obj op val ctx) = clock s := by
  unfold Mach.applySync
  extract_lets keep
  have hk : ∀ t, clock (keep t) = clock t := fun t => rfl
  have hl := clock_onSyncLine s r obj true (op != 3)
  split
  · rfl
  · split
    · exact hk s
    · split
      · next t hr => exact (clock_doSync t obj op val ctx).trans (clock_of_ok hr hl)
      · next g t hr => exact (clock_awaitCredit t _ _).trans (clock_of_err hr hl)
      · next t hr =>
        have ht := clock_of_err hr hl
        exact (hk t).trans ht
      · next t _ _ hr =>
        have ht := clock_of_err hr hl
        split
        · exact (clock_raise _ _ _).trans ht
        · exact ht

@[simp] theorem clock_resend : clock s.resend = clock s := by
  unfold Mach.resend
  split
  · rfl
  · exact clock_each _ (fun x t => clock_applySync t _ _ _ _ _) _ _

/-! ## Commands: charges, units, faults (14) -/

@[simp] theorem clock_charge (ctx die t : Nat) : clock (s.charge ctx die t) = clock s := by
  unfold Mach.charge
  split <;> rfl

@[simp] theorem clock_sliceEnd (die : Nat) : clock (s.sliceEnd die) = clock s := by
  unfold Mach.sliceEnd
  extract_lets d
  repeat' split
  all_goals rfl

@[simp] theorem clock_fatalOn (die ctx st cmdId : Nat) : clock (s.fatalOn die ctx st cmdId) = clock s := by
  unfold Mach.fatalOn
  extract_lets x
  split
  · rfl
  · exact clock_raise _ _ _

@[simp] theorem clock_freeUnits (id : Nat) : clock (s.freeUnits id) = clock s := rfl

@[simp] theorem clock_takeSlot (unit : Nat) : clock (s.takeSlot unit) = clock s := by
  unfold Mach.takeSlot
  split <;> rfl

@[simp] theorem clock_freeSlots (l : List HeldWait) : clock (s.freeSlots l) = clock s := by
  refine clock_each _ (fun w t => ?_) l s
  split <;> rfl

@[simp] theorem clock_endExecution (c : Cmd) : clock (s.endExecution c) = clock s := by simp [Mach.endExecution]

@[simp] theorem clock_endStop (id : Nat) : clock (s.endStop id) = clock s := by
  unfold Mach.endStop
  split
  · split
    · exact clock_endExecution s _
    · rfl
  · rfl

@[simp] theorem clock_stopEligible (c : Cmd) : clock (s.stopEligible c) = clock s := by
  unfold Mach.stopEligible
  extract_lets die
  split <;> rfl

@[simp] theorem clock_stopCmd (c : Cmd) (cause : Option RestartCause) (st : CmdSt) : clock (s.stopCmd c cause st) = clock s := by
  unfold Mach.stopCmd
  repeat' split
  all_goals simp

@[simp] theorem clock_addWait (id unit no pc : Nat) : clock (s.addWait id unit no pc) = clock s := by
  unfold Mach.addWait
  repeat' split
  all_goals simp

@[simp] theorem clock_dropWaits (id : Nat) (p : HeldWait → Bool) : clock (s.dropWaits id p) = clock s := by
  unfold Mach.dropWaits
  repeat' split
  all_goals simp

/-- A fault's consequences start from one of two states, at the same time. -/
theorem clock_cmdFault (s0 : Mach) (id unit no : Nat) (f : Flt) (h : clock s = clock s0) :
    clock (s.cmdFault s0 id unit no f) = clock s0 := by
  cases f with
  | held pc => exact clock_addWait s0 id unit no pc
  | credit r g => exact clock_awaitCredit s0 r g
  | slot c => exact clock_bump s0 _ _
  | fatal st =>
    simp only [Mach.cmdFault]
    split <;> simp [h]
  | restart cause =>
    simp only [Mach.cmdFault]
    split <;> simp [h]

/-! ## Retirement and the test of waiting commands (14) -/

@[simp] theorem clock_tally (die : Nat) (f : SchedSt → SchedSt) : clock (s.tally die f) = clock s := rfl
@[simp] theorem clock_logCmd (c : Cmd) (status : Nat) : clock (s.logCmd c status) = clock s := rfl
@[simp] theorem clock_headerSignal (die ctx d : Nat) : clock (headerSignal s die ctx d) = clock s := clock_applySync s _ _ _ _ _
@[simp] theorem clock_requestFree (cluster pool va : Nat) : clock (requestFree cluster pool va s) = clock s := clock_bump _ _ _

@[simp] theorem clock_jobDone (j : Option Nat) : clock (s.jobDone j) = clock s := by
  cases j <;> rfl

theorem clock_ctrlAdd (r ctx va : Nat) (i : Int) : clock (ctrlAdd r ctx va i s).state = clock s := clock_atomic s _ _ _ _ _ _ _

@[simp] theorem clock_releaseWalker (cluster ctx : Nat) (w : Walker) : clock (releaseWalker cluster ctx w s) = clock s := by
  unfold releaseWalker
  extract_lets later
  have hl : ∀ t, clock (later t) = clock t := fun t => rfl
  have hr := clock_ctrlAdd s (512 + cluster) ctx w.list (-1)
  split
  · next t hc =>
    have ht := clock_of_ok hc hr
    split
    · exact (clock_requestFree t _ _ _).trans ht
    · exact ht
  · exact hl s
  · exact (hl _).trans (clock_awaitCredit s _ _)
  · next t hc =>
    have ht := clock_of_err hc hr
    exact (hl t).trans ht
  · exact hl s
  · next t hc => exact clock_of_err hc hr

@[simp] theorem clock_releaseWalkers (c : Cmd) : clock (releaseWalkers c s) = clock s :=
  clock_each _ (fun w t => clock_releaseWalker t _ _ w) _ s

@[simp] theorem clock_retryWalkers : clock s.retryWalkers = clock s := by
  unfold Mach.retryWalkers
  split
  · rfl
  · exact clock_each _ (fun x t => clock_releaseWalker t _ _ _) _ _

@[simp] theorem clock_letGo (c : Cmd) : clock (letGo s c) = clock s :=
  (clock_each _ (fun o t => clock_unpin t o) _ _).trans (by simp)

@[simp] theorem clock_retire (c : Cmd) : clock (retire s c) = clock s := by
  unfold retire
  extract_lets t u v w
  have hu : clock u = clock s := by simp only [u]; split <;> simp [t]
  simp [w, v, hu]

@[simp] theorem clock_retireHeld (c : Cmd) : clock (retireHeld s c) = clock s := by simp [retireHeld]

@[simp] theorem clock_decideBranch (c : Cmd) (a atDeadline : Bool) : clock (decideBranch s c a atDeadline) = clock s := by
  simp [decideBranch]

theorem clock_waitHolds (c : Cmd) : clock (waitHolds c s).state = clock s := by
  refine (clock_bind _ _ fun _ _ => rfl).trans (clock_foldRes _ (fun acc x t => ?_) _ _ s)
  exact (clock_bind _ _ fun _ _ => rfl).trans (clock_readSync t _ _)

theorem clock_lineAdd (r ctx va lo n : Nat) : clock (lineAdd r ctx va lo n s).state = clock s :=
  (clock_bind _ _ fun _ _ => rfl).trans (clock_atomic s _ _ _ _ _ _ _)

theorem clock_stashRun (c : Cmd) : clock (stashRun c s).state = clock s := by
  unfold stashRun
  extract_lets d ctx va need k me flag
  have hflag : ∀ f t, clock (flag f t).state = clock t := fun f t =>
    (clock_bind _ _ fun _ _ => rfl).trans (clock_atomic t _ _ _ _ _ _ _)
  refine (clock_bind _ _ fun h t => ?_).trans (clock_readWord s ctx va 64)
  split
  · rfl
  refine (clock_bind _ _ fun w t => ?_).trans (clock_atomic t _ _ _ _ _ _ _)
  extract_lets ncred lvl ret
  split
  · rfl
  refine (clock_bind _ _ fun _ t => ?_).trans ?_
  · refine (clock_bind _ _ fun _ t => ?_).trans ?_
    · split
      · rfl
      split
      · refine (clock_bind _ _ fun _ t => ?_).trans (clock_lineAdd t _ _ _ _ _)
        refine (clock_bind _ _ fun _ t => ?_).trans (clock_lineAdd t _ _ _ _ _)
        exact clock_bump t _ _
      · refine (clock_bind _ _ fun _ t => ?_).trans (hflag _ t)
        refine (clock_bind _ _ fun _ t => ?_).trans (clock_lineAdd t _ _ _ _ _)
        exact clock_bump t _ _
    · split
      · exact hflag _ t
      · rfl
  · split
    · rfl
    · exact clock_lineAdd _ _ _ _ _ _

theorem clock_branchValue (c : Cmd) : clock (branchValue c s).state = clock s := by
  unfold branchValue
  extract_lets obj
  split
  · exact clock_readSync s _ _
  · exact (clock_bind _ _ fun _ _ => rfl).trans (clock_atomic s _ _ _ _ _ _ _)

theorem clock_branchRun (c : Cmd) (final : Bool) : clock (branchRun c final s).state = clock s := by
  unfold branchRun
  extract_lets d
  split
  · exact (clock_bind _ _ fun _ _ => rfl).trans (clock_stashRun s c)
  · refine (clock_bind _ _ fun v t => ?_).trans (clock_branchValue s c)
    split <;> rfl

@[simp] theorem clock_testCmd (final : Bool) (c : Cmd) : clock (testCmd final c s) = clock s := by
  have hw := clock_waitHolds s c
  have hb := clock_branchRun s c final
  unfold testCmd
  split
  · rfl
  · split
    · split
      · next t hr => exact (clock_retireHeld t c).trans (clock_of_ok hr hw)
      · next t hr => exact clock_of_ok hr hw
      · rfl
      · next f t _ hr => exact clock_cmdFault t s _ _ _ f (clock_of_err hr hw)
    · split
      · split
        · next a t hr => exact (clock_decideBranch t c a final).trans (clock_of_ok hr hb)
        · next t hr => exact (clock_dropWaits t _ _).trans (clock_of_ok hr hb)
        · next f t hr => exact clock_cmdFault t s _ _ _ f (clock_of_err hr hb)
      · rfl

@[simp] theorem clock_testRound (p : Cmd → Bool) : clock (testRound p s) = clock s := by
  refine clock_each _ (fun x t => ?_) _ _
  split
  · split
    · exact clock_testCmd t false _
    · rfl
  · rfl

@[simp] theorem clock_retestLoop (n : Nat) : clock (retestLoop n s) = clock s := by
  induction n generalizing s with
  | zero => rfl
  | succ n ih =>
    rw [retestLoop]
    split
    · rfl
    · exact (ih _).trans (clock_testRound s _)

@[simp] theorem clock_retest : clock s.retest = clock s := by
  unfold Mach.retest
  split <;> simp

@[simp] theorem clock_resendSyncs : clock s.resendSyncs = clock s := by
  unfold Mach.resendSyncs
  split <;> simp

@[simp] theorem clock_branchDeadline (q : Nat) : clock (branchDeadline s q) = clock s := by
  unfold branchDeadline
  split
  · rfl
  · split <;> simp

/-! ## RDMA requests and gate messages that waited (15) -/

@[simp] theorem clock_rdmaWalk (c va n : Nat) (a : Access) : clock (s.rdmaWalk c va n a).2 = clock s := by
  have hr := clock_readTables s c va
  unfold Mach.rdmaWalk
  split
  · next t h => exact clock_of_err h hr
  · next t _ h => exact clock_of_err h hr
  · next t h =>
    have ht := clock_of_ok h hr
    split
    · exact ht
    · extract_lets o u wr v pa
      have hv : clock v = clock s := by simp only [v]; split <;> simp [u, ht]
      split
      · exact (clock_request t _).trans ht
      · split
        · exact ht
        · split
          · exact hv
          · exact (clock_touch v _ _ _ _).trans hv

@[simp] theorem clock_rdmaAnswer (k cls syn : Nat) (data : List Byte) : clock (s.rdmaAnswer k cls syn data) = clock s :=
  clock_sendOn s _ _

@[simp] theorem clock_rdmaNak (k cls syn : Nat) (data : List Byte) : clock (s.rdmaNak k cls syn data) = clock s := by
  simp [Mach.rdmaNak]

@[simp] theorem clock_ecn (k cls : Nat) (ce : Bool) : clock (s.ecn k cls ce) = clock s := by
  unfold Mach.ecn
  extract_lets x due
  split <;> simp

@[simp] theorem clock_rdmaStore (c : Nat) (ps : List (Nat × Nat)) (l : List Byte) (n : Nat) :
    clock (rdmaStore c ps l n s).2.2 = clock s := by
  induction ps generalizing l n s with
  | nil => rfl
  | cons p ps ih =>
    have hw := clock_rdmaWalk s c p.1 p.2 .rdmaWrite
    rw [rdmaStore]
    split
    all_goals
      next h =>
      rw [h] at hw
      simpa [ih] using hw

theorem clock_rdmaWriteAt (r : RdmaReq) (t : Mach) (h : rdmaWriteAt s r = some t) : clock t = clock s := by
  unfold rdmaWriteAt at h
  extract_lets k tx c nak s0 va at h
  have h0 : clock s0 = clock s := clock_ecn s k tx r.ecnCe
  have hn : ∀ u, clock u = clock s → clock (nak u) = clock s := fun u hu => (clock_rdmaNak u k tx 2 []).trans hu
  have hst := clock_rdmaStore s0 c (rangePieces va r.data.length) r.data 0
  split at h
  · cases h; rfl
  split at h
  · cases h; exact hn s0 h0
  split at h
  · cases h; exact hn s0 h0
  split at h
  · next s1 he =>
    rw [he] at hst
    cases h
    exact (clock_rdmaAnswer s1 k tx 0 []).trans (hst.trans h0)
  · cases h
  · cases h
    exact hn _ ((clock_rdmaStore _ _ _ _ _).trans h0)

@[simp] theorem clock_rdmaLoad (c : Nat) (ps : List (Nat × Nat)) (acc : List Byte) :
    clock (rdmaLoad c ps acc s).2.2.2 = clock s := by
  induction ps generalizing acc s with
  | nil => rfl
  | cons p ps ih =>
    have hw := clock_rdmaWalk s c p.1 p.2 .rdmaRead
    rw [rdmaLoad]
    split
    · next pa t he =>
      rw [he] at hw
      split
      · extract_lets u v
        show clock v = clock s
        simp only [v]
        split <;> simp [u, hw]
      · exact (ih t _).trans hw
    · next he => rw [he] at hw; exact hw

theorem clock_rdmaReadAt (r : RdmaReq) (t : Mach) (h : rdmaReadAt s r = some t) : clock t = clock s := by
  unfold rdmaReadAt at h
  extract_lets k tx c s0 at h
  have h0 : clock s0 = clock s := clock_ecn s k tx r.ecnCe
  have hl := clock_rdmaLoad s0 c (rangePieces r.va.toNat r.len) []
  split at h
  · cases h; rfl
  split at h
  · cases h; exact (clock_rdmaNak s0 k tx 2 []).trans h0
  split at h
  · next s1 he =>
    rw [he] at hl
    cases h
    exact (clock_rdmaAnswer s1 k tx 0 _).trans (hl.trans h0)
  · cases h
  · next s1 he =>
    rw [he] at hl
    cases h
    exact (clock_rdmaNak s1 k tx 2 _).trans (hl.trans h0)

@[simp] theorem clock_flowControl : clock s.flowControl = clock s := by
  unfold Mach.flowControl
  extract_lets w more
  split
  · rfl
  · simp only [clock_bump, clock_sendAs]
    rfl

@[simp] theorem clock_rxKeep (x : RxWait) : clock (s.rxKeep x) = clock s := by
  unfold Mach.rxKeep
  split
  · rfl
  · exact clock_flowControl _

@[simp] theorem clock_rdmaServe (x : RxWait) : clock (s.rdmaServe x) = clock s := by
  unfold Mach.rdmaServe
  split
  · exact clock_rxKeep s x
  · split
    · next t h =>
      split at h
      · exact clock_rdmaWriteAt s _ t h
      · exact clock_rdmaReadAt s _ t h
    · exact clock_rxKeep s x

@[simp] theorem clock_serveRx : clock s.serveRx = clock s := by
  unfold Mach.serveRx
  split
  · rfl
  · exact (clock_flowControl _).trans (clock_foldl _ (fun _ _ => clock_rdmaServe _ _) _ _)

@[simp] theorem clock_gateReply (op : Nat) (r : Req) : clock (gateReply op r s).1 = clock s := by
  unfold gateReply
  extract_lets k t c
  have ht : clock t = clock s := by simp only [t]; split <;> rfl
  clear_value t
  split
  · rfl
  split
  · exact ht
  split
  · exact ht
  split
  · exact ht
  split
  · exact (clock_fatalOn t _ _ _ _).trans ht
  · exact ht

@[simp] theorem clock_takeGate (op : Nat) (r : Req) : clock (takeGate op r s) = clock s := by
  unfold takeGate
  split
  · exact clock_bump s _ _
  · split
    · exact clock_answer s _ _ _ _
    · simp [serveGate]

@[simp] theorem clock_serveKept : clock s.serveKept = clock s := by
  unfold Mach.serveKept
  split
  · rfl
  · exact clock_foldl _ (fun _ _ => clock_takeGate _ _ _) _ _

/-! ## One cycle -/

@[simp] theorem clock_watchdogExpiry (d p : Nat) : clock (watchdogExpiry s d p) = clock s := by
  unfold watchdogExpiry
  extract_lets x t
  split
  · rfl
  · simp [t]

@[simp] theorem clock_wdogCycle : clock (wdogCycle s) = clock s := by
  unfold wdogCycle
  split
  · rfl
  · refine clock_each _ (fun n t => ?_) _ s
    extract_lets x u
    split
    · rfl
    · split
      · exact clock_watchdogExpiry u _ _
      · rfl

@[simp] theorem clock_bankCycle (c : Nat) (x : CoreSt) : clock (bankCycle s c x) = clock s := by
  unfold bankCycle
  split
  · rfl
  · exact clock_bump _ _ _

@[simp] theorem clock_waitCycles : clock (waitCycles s) = clock s := by
  unfold waitCycles
  extract_lets eng t1 t2 t3 t4
  have h1 : clock t1 = clock s := clock_foldl _ (fun _ _ => by simp [eng]) _ s
  have h2 : clock t2 = clock t1 := clock_foldl _ (fun _ _ => clock_bump _ _ _) _ t1
  have h3 : clock t3 = clock t2 := clock_foldl _ (fun _ _ => clock_bankCycle _ _ _) _ t2
  have h4 : clock t4 = clock t3 := by
    refine clock_foldl _ (fun u c => ?_) _ t3
    split
    · exact clock_foldl _ (fun _ _ => clock_bump _ _ _) _ u
    · rfl
  calc _ = clock t4 := clock_foldl _ (fun _ _ => clock_bump _ _ _) _ t4
    _ = clock s := h4.trans (h3.trans (h2.trans h1))

@[simp] theorem clock_retries : clock (retries s) = clock s := by
  unfold retries
  extract_lets t
  have ht : clock t = clock s := by
    simp only [t]
    repeat' split
    all_goals simp
  simp [ht]

@[simp] theorem clock_timersReached : clock (timersReached s) = clock s := by
  refine clock_each _ (fun x t => ?_) _ s
  split
  · exact clock_raise t _ _
  · rfl

/-- What an advance leaves of the clock depends on the clock alone. -/
theorem clock_advance_congr {a b : Mach} (h : clock a = clock b) : clock a.advance = clock b.advance := by
  obtain ⟨hms, hns⟩ := Prod.mk.inj h
  unfold Mach.advance
  rw [hns]
  split <;> simp [clock, hms]

/-- While the module is neither off nor held in reset, a cycle changes the clock as one advance does. -/
theorem clock_tick (hoff : s.life ≠ .off) (hheld : s.life ≠ .held) : clock (tick s) = clock s.advance := by
  unfold tick
  rw [if_neg (by simp [hoff, hheld])]
  extract_lets t cores counted retried branched
  have hr : clock retried = clock s := calc
    clock retried = clock (wdogCycle counted) := (clock_retries _).trans (clock_waitCycles _)
    _ = clock counted := clock_wdogCycle counted
    _ = clock s := rfl
  have hb : clock branched = clock retried := by
    refine clock_each _ (fun c u => ?_) _ retried
    split
    · exact clock_branchDeadline u c.queue
    · rfl
  exact (clock_timersReached _).trans (clock_advance_congr (hb.trans hr))

theorem nowNs_congr {a b : Mach} (h : clock a = clock b) : a.nowNs = b.nowNs := by
  obtain ⟨hms, hns⟩ := Prod.mk.inj h
  simp only [Mach.nowNs, hms, hns]

/-- An advance of a clock whose nanoseconds lie within a millisecond is one nanosecond. -/
theorem nowNs_advance (h : s.upNs < 1000000) : s.advance.nowNs = s.nowNs + 1 := by
  unfold Mach.advance
  split
  · rfl
  · simp only [Mach.nowNs]
    omega

theorem nowNs_tick (hoff : s.life ≠ .off) (hheld : s.life ≠ .held) (h : s.upNs < 1000000) :
    (tick s).nowNs = s.nowNs + 1 :=
  (nowNs_congr (clock_tick s hoff hheld)).trans (nowNs_advance s h)

/-! ## The step -/

theorem step_of_pending_cons (s : State) (c : Instr) (rest : List Instr) (h : s.pending = c :: rest) :
    step s = exec c { s with pending := rest } := by
  rw [step, h]

theorem step_of_pending_nil (s : State) (h : s.pending = []) : step s = .next { s with m := tick s.m } := by
  rw [step, h]

/-- Settles O1: a step is one case of the queue; the cycle of an empty queue advances the clock once, for every part of `tick`
before the advance keeps it. -/
theorem stepTakesFrontCommand : Obligations.StepTakesFrontCommand :=
  ⟨step_of_pending_cons, fun s h => ⟨step_of_pending_nil s h, nowNs_tick s.m⟩⟩

end Sys2Proof.Proofs
end

section
/-! SUPPORT. The statement on drained rows (04 R90, R91, R99). DRAIN_ROW ends with the test of the commands that wait on
synchronisation objects (14 R333), and that test empties `Mach.syncNews`, the objects operated on since the last one. The frames of
the statement do not name `syncNews`, and no hypothesis has it empty. -/

namespace Sys2Proof.Proofs

open Sys2Proof.Machine Sys2Proof.Laws Sys2Proof.Safety

/-! ## The test of waiting commands where none waits (14 R333) -/

theorem mem_cmds_of_cmd? {s : Mach} {id : Nat} {c : Cmd} (h : s.cmd? id = some c) : c ∈ s.cmds :=
  List.mem_of_find?_eq_some h

/-- A round of tests that finds no WAIT and no BRANCH only empties the news. -/
theorem testRound_of_noneHeld (p : Cmd → Bool) {s : Mach} (h : NoneHeld s) : testRound p s = { s with syncNews := [] } := by
  have hn : NoneHeld { s with syncNews := [] } := h
  unfold testRound each
  generalize ({ s with syncNews := [] } : Mach) = t at hn
  refine List.foldl_fixed' (fun x => ?_) s.cmds
  beta_reduce
  split
  · next c hc =>
    obtain ⟨hwait, hbranch⟩ := hn c (mem_cmds_of_cmd? hc)
    simp [hwait, hbranch]
  · rfl

theorem retestLoop_of_noNews (n : Nat) {s : Mach} (h : s.syncNews = []) : retestLoop n s = s := by
  cases n with
  | zero => rfl
  | succ n => simp [retestLoop, h]

/-- Outside the safe state the test leaves no news behind where no command waits. -/
theorem retest_of_noneHeld {s : Mach} (h : NoneHeld s) (hsafe : s.safe = false) : s.retest = { s with syncNews := [] } := by
  rw [Mach.retest, hsafe, if_neg Bool.false_ne_true, testRound_of_noneHeld _ h]
  exact retestLoop_of_noNews _ rfl

/-! ## A row that fails its check while news are untested -/

/-- A committed tile of one row and one pattern, with column 0 alone, that drains to the scratchpad. -/
def drainedTile : EngTile :=
  { cmd := 0, core := 0, item := 0, entry := 1, rank := 0, quarter := true, slot := 0, rows := 1, pats := 1, depth := 16,
    pat := 0, str := 0, accum := false, drain := true, transpose := false, rowMask := 0xFFFF, colMask := 1, stoch := false,
    seedRow := 0, seedCol := 0, tr := 0, tc := 0, parity := 0, patAddr := (1, 0), strAddr := (1, 0x1000), rowStride := 1,
    patStride := 1, outAddr := (1, 0x2000), outStride := 4, runEntry := 0, factor := f32One,
    loaded := 1, swapped := 1, issued := 1, comPat := 1 }

/-- Its quarter: the row's element is +0, and its checksum stands at 1.0. -/
def failingQuarter : Quarter :=
  { tiles := [drainedTile], pendingRows := [0], rowY := [(0, f32One)], rowG := [(0, f32One)], rowS := [(0, 1)] }

/-- The tile's command, which runs. -/
def drainedCmd : Cmd := { id := 0, ctx := 1, queue := 0, pos := 0, die := 0, desc := 1 }

/-- A module with that quarter in engine 0 and an operation on synchronisation object 0 that no test has followed. -/
def newsState : State :=
  { State.reset with m := { ({} : Mach) with cmds := [drainedCmd], nextCmd := 1, syncNews := [0],
                                             engines := [(0, { mode := true, q := [(0, failingQuarter)] })] } }

/-- The row of `newsState`, whose one element reads +0, meets the hypotheses on a row whose check fails. -/
theorem newsState_row_fails : (newsState.m.eng 0).quarter 0 = failingQuarter ∧
    (failingQuarter.tiles.find? fun t => t.drain && t.drained < t.rows) = some drainedTile ∧
    newsState.m.cmd? drainedTile.cmd = some drainedCmd ∧ drainedTile.comPat = drainedTile.pats ∧
    checkPass drainedTile.isInt (ckSum drainedTile.isInt [0#32]) (tw failingQuarter.rowY 0) (tw failingQuarter.rowG 0)
      (tn failingQuarter.rowS 0) = 0 := by
  decide +kernel

theorem newsState_noneHeld : NoneHeld newsState.m := by
  unfold NoneHeld
  decide +kernel

/-- Reporting the failed check leaves no command waiting and does not enter the safe state. -/
theorem newsState_drained : NoneHeld (drainRow newsState.m 0 0 0#32) ∧ (drainRow newsState.m 0 0 0#32).safe = false := by
  unfold NoneHeld
  decide +kernel

/-- DRAIN_ROW tests the news of `newsState`, so that none are left. -/
theorem newsState_exec_drainRow :
    exec (.drainRow 0 0 0#32) newsState =
      .next { newsState with m := { drainRow newsState.m 0 0 0#32 with syncNews := [] } } := by
  obtain ⟨hheld, hsafe⟩ := newsState_drained
  have h := retest_of_noneHeld hheld hsafe
  exact congrArg (fun m => Host.Outcome.next { newsState with m := m }) h

/-- Refutes O10: the frame of a row whose check fails keeps `syncNews`, but DRAIN_ROW empties it. In `newsState` an operation on
object 0 is yet to be tested when the row's check fails; it is in `syncNews` before the command and not after it. -/
theorem not_drainsCheckThenWrite : ¬ Obligations.DrainsCheckThenWrite := by
  rintro ⟨-, hfails⟩
  obtain ⟨hq, ht, hc, hready, hcheck⟩ := newsState_row_fails
  obtain ⟨t, hexec, -, -, -, hframe⟩ := hfails newsState 0 0 0#32 failingQuarter drainedTile drainedCmd [0#32] hq ht hc
    (.inl hready) rfl hcheck newsState_noneHeld
  rw [newsState_exec_drainRow] at hexec
  injection hexec with hnext
  have hkept : t.m.syncNews = [0] := congrArg (fun t : State => t.m.syncNews) hframe
  rw [← hnext] at hkept
  exact List.cons_ne_nil _ _ hkept.symm

end Sys2Proof.Proofs
end

section
/-! SUPPORT. The quarters of an engine and the tiles of a quarter after a part of them is replaced (04 R82, R92), and what a part of a
step that succeeds leaves of the machine (12 R274). -/

namespace Sys2Proof.Proofs

open Sys2Proof.Machine Sys2Proof.Laws

/-! ## Quarters and tiles -/

section Quarters

variable (en : Engine) (x : Quarter)

@[simp] theorem quarter_setQuarter (q i : Nat) : (en.setQuarter q x).quarter i = if i = q then x else en.quarter i :=
  tabGet_tabSet _ en.q q i x

@[simp] theorem quarter_engine_swapIn (q i : Nat) (t : EngTile) :
    (en.swapIn q x t).quarter i = if i = q then x.swapIn t else en.quarter i :=
  quarter_setQuarter en (x.swapIn t) q i

theorem quarter_setQuarter_same (q : Nat) : (en.setQuarter q x).quarter q = x := by simp

theorem quarter_engine_swapIn_same (q : Nat) (t : EngTile) : (en.swapIn q x t).quarter q = x.swapIn t := by simp

/-- A replaced tile stands in the place of the tile that is the same, and of no other. -/
theorem getElem?_tiles_setTile {i : Nat} {v : EngTile} (t : EngTile) (h : x.tiles[i]? = some v) :
    (x.setTile t).tiles[i]? = some (if v.same t.cmd t.item t.entry then t else v) := by
  rw [Quarter.setTile, List.getElem?_map, h, Option.map_some]

theorem same_self (t : EngTile) : t.same t.cmd t.item t.entry = true := by simp [EngTile.same]

end Quarters

@[simp] theorem eng_bump (s : Mach) (a n i : Nat) : (s.bump a n).eng i = s.eng i := by rw [bump_frame]; rfl

@[simp] theorem eng_setCmd (s : Mach) (c : Cmd) (i : Nat) : (s.setCmd c).eng i = s.eng i := rfl

/-! ## One change of several engines -/

section Several

variable {α : Type} (k : α → Nat) (f : Engine → Engine) (l : List α)

/-- A change of the engines of a list, each once, changes those and no others. -/
theorem eng_each_setEng (s : Mach) (hl : (l.map k).Nodup) (e : Nat) :
    (each (fun a s => s.setEng (k a) (f (s.eng (k a)))) l s).eng e = if e ∈ l.map k then f (s.eng e) else s.eng e := by
  unfold each
  induction l generalizing s with
  | nil => simp
  | cons a l ih =>
    rw [List.map_cons, List.nodup_cons] at hl
    obtain ⟨hnew, hrest⟩ := hl
    rw [List.foldl_cons, ih _ hrest, eng_setEng]
    by_cases hea : e = k a
    · subst hea
      simp [hnew]
    · simp [hea]

theorem each_setEng_frame (s : Mach) :
    each (fun a s => s.setEng (k a) (f (s.eng (k a)))) l s =
      { s with engines := (each (fun a s => s.setEng (k a) (f (s.eng (k a)))) l s).engines } := by
  unfold each
  induction l generalizing s with
  | nil => rfl
  | cons a l ih =>
    rw [List.foldl_cons, ih]
    rfl

end Several

/-! ## Waits on held channels that are over -/

theorem each_eq_self {α : Type} (f : α → Mach → Mach) (l : List α) (s : Mach) (h : ∀ a ∈ l, f a s = s) : each f l s = s := by
  unfold each
  induction l with
  | nil => rfl
  | cons a l ih =>
    rw [List.foldl_cons, h a (by simp)]
    exact ih fun b hb => h b (by simp [hb])

/-- A unit below the ladle units holds no slot of one (12 R274). -/
theorem freeSlots_is (s : Mach) (l : List HeldWait) {unit : Nat} (no : Nat) (h : unit < 544) :
    s.freeSlots (l.filter fun w => w.is unit no) = s := by
  refine each_eq_self _ _ s fun w hw => if_pos (Or.inl ?_)
  have hw := (List.mem_filter.1 hw).2
  simp only [HeldWait.is, Bool.and_eq_true, beq_iff_eq] at hw
  omega

/-- The end of the waits of a unit below the ladle units changes commands only. -/
theorem dropWaits_frame (s : Mach) (id : Nat) {unit : Nat} (no : Nat) (h : unit < 544) :
    s.dropWaits id (fun w => w.is unit no) = { s with cmds := (s.dropWaits id fun w => w.is unit no).cmds } := by
  unfold Mach.dropWaits
  split
  · rfl
  · rw [freeSlots_is s _ no h]
    split <;> rfl

/-- A part of a step that succeeds for such a unit leaves its own state, but for commands. -/
theorem settle_ok_frame (s t : Mach) (id : Nat) {unit : Nat} (no : Nat) (h : unit < 544) :
    s.settle id unit no (.ok () t) = { t with cmds := (s.settle id unit no (.ok () t)).cmds } :=
  dropWaits_frame t id no h

/-- The core of an engine is no ladle unit. -/
theorem coreOf_lt (e : EngineNo) : e.toNat / 4 < 544 := by
  have := e.isLt
  omega

end Sys2Proof.Proofs
end

section
/-! SUPPORT. A read by a core leaves the engines as they are (05 R112; 06 R160; 13 R297). -/

namespace Sys2Proof.Proofs

open Sys2Proof.Machine Sys2Proof.Laws

/-! ## The shared caches -/

theorem engines_each {α : Type} (f : α → Mach → Mach) (h : ∀ a s, (f a s).engines = s.engines) (l : List α) (s : Mach) :
    (each f l s).engines = s.engines := by
  unfold each
  induction l generalizing s with
  | nil => rfl
  | cons a l ih => exact (ih (f a s)).trans (h a s)

section Caches

variable (s : Mach)

theorem engines_bump (a n : Nat) : (s.bump a n).engines = s.engines := by rw [bump_frame]

theorem engines_setSlag (a : Nat) (v : Bool) : (s.setSlag a v).engines = s.engines := by
  unfold Mach.setSlag
  extract_lets t
  split
  · split
    · rw [poisonObj_frame]
    · rfl
  · rfl

theorem engines_dropLine (l : Line) : (s.dropLine l).engines = s.engines := by
  refine engines_each _ (fun k t => ?_) _ s
  split
  · rfl
  · split
    · rfl
    · exact engines_setSlag _ _ _

theorem engines_replaceSet (g set : Nat) (l : List Line) : (s.replaceSet g set l).engines = s.engines :=
  engines_each _ (fun x t => engines_dropLine t x) _ _

theorem engines_touchLine (pa : Nat) (write : Bool) (h : Hint) : (s.touchLine pa write h).engines = s.engines := by
  unfold Mach.touchLine
  extract_lets g set l tag hit t others kind kept rest line
  have ht : t.engines = s.engines := engines_bump s _ _
  have hset : ∀ ls, (t.replaceSet g set ls).engines = s.engines := fun ls => (engines_replaceSet t g set ls).trans ht
  clear_value kind
  split
  · exact ht
  · split
    · split
      · exact (engines_bump _ _ _).trans (hset _)
      · exact hset _
    · exact hset _

theorem engines_touch (pa n : Nat) (write : Bool) (h : Hint) : (s.touch pa n write h).engines = s.engines := by
  unfold Mach.touch
  split
  · rfl
  · extract_lets y
    split
    · rfl
    · exact engines_each _ (fun i t => engines_touchLine t _ write h) _ s

theorem engines_readNear (a n : Nat) : (s.readNear a n).2.2.engines = s.engines :=
  engines_each _ (fun _ t => engines_bump t _ _) _ s

theorem engines_abandonReq (n : Nat) : (s.abandonReq n).engines = s.engines := by
  unfold Mach.abandonReq
  extract_lets o
  split <;> rfl

end Caches

/-! ## Results -/

/-- Where a part of a step succeeds, it has left the engines of s. -/
def EnginesKept {α : Type} (r : Res α) (s : Mach) : Prop := ∀ a t, r = .ok a t → t.engines = s.engines

namespace EnginesKept

theorem ok {α : Type} (a : α) {s t : Mach} (h : t.engines = s.engines) : EnginesKept (.ok a t) s := by
  rintro _ _ ⟨⟩
  exact h

theorem err {α : Type} (f : Flt) (s t : Mach) : EnginesKept (.err f t : Res α) s := by
  intro a u h
  cases h

theorem of_engines {α : Type} {r : Res α} {s t : Mach} (h : EnginesKept r t) (ht : t.engines = s.engines) : EnginesKept r s :=
  fun a u hr => (h a u hr).trans ht

theorem bind {α β : Type} {r : Res α} {k : α → Mach → Res β} {s : Mach} (hr : EnginesKept r s)
    (hk : ∀ a t, EnginesKept (k a t) t) : EnginesKept (r.bind k) s := by
  cases r with
  | ok a t => exact (hk a t).of_engines (hr a t rfl)
  | err f t => exact err f s t

theorem foldRes {α β : Type} {f : β → α → Mach → Res β} (h : ∀ b a s, EnginesKept (f b a s) s) (b : β) (l : List α) (s : Mach) :
    EnginesKept (foldRes f b l s) s := by
  induction l generalizing b s with
  | nil => exact ok b rfl
  | cons a l ih =>
    rw [Machine.foldRes]
    have ha := h b a s
    cases hf : f b a s with
    | ok b' t => exact (ih b' t).of_engines (ha b' t hf)
    | err e t => exact err e s t

theorem eachRes {α : Type} {f : α → Mach → Res Unit} (h : ∀ a s, EnginesKept (f a s) s) (l : List α) (s : Mach) :
    EnginesKept (eachRes f l s) s :=
  foldRes (fun _ => h) () l s

variable (s : Mach)

/-! ## Translation and reads through it -/

theorem readTables (ctx va : Nat) : EnginesKept (s.readTables ctx va) s := by
  refine eachRes (fun level t => ?_) _ s
  extract_lets pa
  split
  · exact err _ _ _
  · split
    · exact err _ _ _
    · exact ok _ (engines_touch t _ _ _ _)

theorem walkEnd (ctx va : Nat) (a : Access) (own : Bool) : EnginesKept (s.walkEnd ctx va a own) s := by
  unfold Mach.walkEnd
  split
  · exact err _ _ _
  · next m _ =>
    extract_lets o kept x t y u wr v pa
    split
    · split <;> exact err _ _ _
    · generalize m.grants (if own then .read else a) = granted
      split
      · exact err _ _ _
      · split
        · exact err _ _ _
        · have hu : u.engines = s.engines := by simp only [u]; split <;> rfl
          have hv : v.engines = u.engines := by
            simp only [v]
            split
            · exact engines_abandonReq u _
            · rfl
          exact ok _ (hv.trans hu)

theorem walk (ctx va : Nat) (a : Access) (own : Bool) : EnginesKept (s.walk ctx va a own) s := by
  unfold Mach.walk
  split
  · exact walkEnd s ctx va a own
  · exact (readTables s ctx va).bind fun _ t => walkEnd t ctx va a own

theorem pieceH (ctx : Nat) (a : Access) (own : Bool) (h : Hint) (p : Nat × Nat) : EnginesKept (s.pieceH ctx a own h p) s := by
  refine (walk s ctx p.1 a own).bind fun pa t => ?_
  split
  · exact err _ _ _
  · exact ok _ (engines_touch t _ _ _ _)

theorem readVaH (ctx va n : Nat) (h : Hint) : EnginesKept (s.readVaH ctx va n h) s := by
  refine foldRes (fun acc p t => (pieceH t ctx .read false h p).bind fun pa u => ?_) _ _ s
  have hr := engines_readNear u pa p.2
  split
  next l bad v heq =>
  rw [heq] at hr
  split
  · exact err _ _ _
  · exact ok _ hr

theorem byCache {α : Type} {f : Mach → Res α} (h : ∀ t, EnginesKept (f t) t) : EnginesKept (s.byCache f) s := by
  have hf := h { s with leafUse := .cached }
  unfold Mach.byCache
  split
  · next a t heq => exact ok _ (hf a t heq)
  · exact err _ _ _

/-! ## Reads by cores (05 R112) -/

theorem coreWalk (c ctx va : Nat) (a : Access) : EnginesKept (s.coreWalk c ctx va a) s := by
  unfold Mach.coreWalk
  split
  · exact ok _ rfl
  · exact ((walk _ ctx va a false).of_engines (engines_bump s _ _)).bind fun _ t => ok _ rfl

theorem coreRead (c ctx cmd : Nat) (at' : Nat × Nat) (n : Nat) : EnginesKept (s.coreRead c ctx cmd at' n) s := by
  unfold Mach.coreRead Mach.coreReadH
  split
  · exact (eachRes (fun (p : Nat × Nat) t => coreWalk t c ctx p.1 .read) _ s).bind fun _ t =>
      byCache t fun u => readVaH u ctx at'.2 n .none
  · exact ok _ rfl
  · exact ok _ rfl

end EnginesKept

end Sys2Proof.Proofs
end

section
/-! SUPPORT. Swaps and mode changes (04 R83, R84, R94). -/

namespace Sys2Proof.Proofs

open Sys2Proof.Machine Sys2Proof.Laws

/-! ## The swap -/

/-- A swap that is due exchanges the banks of a valid quarter, and waits on another (R83, R84). -/
theorem swapBanks_eq (s : Mach) (e q : Nat) (u : EngTile) (hstream : ((s.eng e).quarter q).stream = some u)
    (huses : (s.eng e).uses q = true) (hmode : u.quarter = (s.eng e).mode) (hstopped : (s.eng e).stopped = false)
    (hleft : u.swapped ≠ u.pats) (hrows : u.swapped = 0 ∨ u.issued = u.rows) :
    swapBanks s e q = s.setEng e (if ((s.eng e).quarter q).valid then (s.eng e).swapIn q ((s.eng e).quarter q) u
      else (s.eng e).setQuarter q { (s.eng e).quarter q with swapWait := true }) := by
  have hdue : ¬(!(s.eng e).uses q || u.quarter != (s.eng e).mode || (s.eng e).stopped || u.swapped == u.pats ||
      !(u.swapped == 0 || u.issued == u.rows)) = true := by
    simp only [huses, hmode, hstopped]
    simpa [hleft, ← Classical.or_iff_not_imp_left] using hrows
  unfold swapBanks
  dsimp only
  rw [hstream]
  dsimp only
  rw [if_neg hdue]
  cases ((s.eng e).quarter q).valid <;> rfl

/-! ## The mode change -/

theorem changeMode_eq_self (s : Mach) (e : Nat) (b : Bool)
    (h : (s.eng e).mode = b ∨ ∃ p ∈ (s.eng e).q, p.2.flight ≠ [] ∨ p.2.pendingRows ≠ []) : changeMode s e b = s := by
  unfold changeMode
  dsimp only
  rw [if_pos]
  simpa [← List.isEmpty_eq_false_iff] using h

/-- With nothing in flight and nothing drain-pending the mode changes and the banks and their flags are emptied (R94). -/
theorem changeMode_eq (s : Mach) (e : Nat) (b : Bool) (hmode : (s.eng e).mode ≠ b)
    (hquiet : ∀ p ∈ (s.eng e).q, p.2.flight = [] ∧ p.2.pendingRows = []) :
    changeMode s e b = s.setEng e { s.eng e with
      mode := b,
      q := tabMap (fun _ => {}) (fun _ (x : Quarter) => { x with valid := false, pattern := {}, next := {} }) (s.eng e).q } := by
  have hchange : ¬((s.eng e).mode == b || (s.eng e).q.any fun x => !x.2.flight.isEmpty || !x.2.pendingRows.isEmpty) = true := by
    simp only [Bool.or_eq_true, beq_iff_eq, List.any_eq_true, Bool.not_eq_true', not_or, not_exists, not_and]
    exact ⟨hmode, fun p hp => by simp [hquiet p hp]⟩
  unfold changeMode
  dsimp only
  rw [if_neg hchange]

/-! ## The statement -/

/-- Settles O7: a swap that is due is `swapBanks_eq`, by whether the quarter is valid; a mode change passes every quarter through
one function. -/
theorem swapsAndModeChanges : Obligations.SwapsAndModeChanges := by
  refine ⟨?_, ?_, ?_⟩
  · rintro s e q _ u rfl hstream huses hmode hstopped hleft hrows
    have hswap := swapBanks_eq s.m e.toNat q.toNat u hstream huses hmode hstopped hleft hrows
    refine ⟨{ s with m := swapBanks s.m e.toNat q.toNat }, _, rfl, rfl, ?_⟩
    by_cases hvalid : ((s.m.eng e.toNat).quarter q.toNat).valid = true
    · rw [if_pos hvalid] at hswap
      rw [hswap, eng_setEng, if_pos rfl, quarter_engine_swapIn_same]
      refine ⟨fun _ => ⟨rfl, rfl, rfl, fun i v hv => ?_, rfl, ?_, ?_⟩, fun h => absurd hvalid (by simp [h]), fun q' hq => ?_, rfl,
        fun g hg => ?_, rfl⟩
      · exact getElem?_tiles_setTile _ { u with swapped := u.swapped + 1, issued := 0 } hv
      · exact BitVec.toNat_ofNat u.pat 4
      · exact BitVec.toNat_ofNat u.str 4
      · rw [quarter_engine_swapIn, if_neg hq]
      · rw [eng_setEng, if_neg hg]
    · rw [if_neg hvalid] at hswap
      rw [hswap, eng_setEng, if_pos rfl, quarter_setQuarter_same]
      refine ⟨fun h => absurd h hvalid, fun _ => ⟨rfl, rfl⟩, fun q' hq => ?_, rfl, fun g hg => ?_, rfl⟩
      · rw [quarter_setQuarter, if_neg hq]
      · rw [eng_setEng, if_neg hg]
  · intro s e b hmode hquiet
    have hchange := changeMode_eq s.m e.toNat b hmode hquiet
    refine ⟨{ s with m := changeMode s.m e.toNat b }, rfl, ?_⟩
    rw [hchange]
    refine ⟨by simp, fun q' => ?_, by simp, fun g hg => by simp [hg], rfl⟩
    rw [eng_setEng, if_pos rfl, Engine.quarter, tabGet_tabMap _ _ _ _ (by rfl)]
    rfl
  · intro s e b h
    exact congrArg (fun m => Host.Outcome.next { s with m := m }) (changeMode_eq_self s.m e.toNat b h)

end Sys2Proof.Proofs
end

section
/-! SUPPORT. Loads of the next pattern (04 R80 to R82, R84). -/

namespace Sys2Proof.Proofs

open Sys2Proof.Machine Sys2Proof.Laws

/-! ## The codes of an image -/

theorem length_flatMap_range {α : Type} (m n : Nat) (f : Nat → List α) (hf : ∀ i, (f i).length = n) :
    ((List.range m).flatMap f).length = m * n := by
  simp [List.length_flatMap, hf]

/-- A list made of blocks of one length, by block and place in the block. -/
theorem getElem?_flatMap_range {α : Type} (m n : Nat) (f : Nat → List α) (hf : ∀ i, (f i).length = n) (i j : Nat) (hi : i < m)
    (hj : j < n) : ((List.range m).flatMap f)[i * n + j]? = (f i)[j]? := by
  induction m with
  | zero => omega
  | succ m ih =>
    rw [List.range_succ, List.flatMap_append]
    have hlen := length_flatMap_range m n f hf
    rcases Nat.lt_succ_iff_lt_or_eq.1 hi with hlt | rfl
    · have hin : i * n + j < m * n := by nlinarith
      rw [List.getElem?_append_left (by omega), ih hlt]
    · rw [List.getElem?_append_right (by omega)]
      simp [hlen]

theorem side_cases (u : EngTile) : u.side = 16 ∨ u.side = 32 := by
  unfold EngTile.side
  cases u.quarter <;> simp

/-- The code at plane p, depth position k and column c of an image's codes is that of the element R80 or R81 names. -/
theorem nth_imageCodes (f : Format) (n planes : Nat) (tr : Bool) (img : List Byte) (p k c : Nat) (hside : n = 16 ∨ n = 32)
    (hp : p < planes) (hk : k < n) (hc : c < n) :
    nth (imageCodes f n planes tr img) ((p * n + k) * n + c) =
      if tr then elemCode f ((img.drop (c * (2 * n))).take (2 * n)) (n * p + k)
      else elemCode f ((img.drop (k * (2 * n))).take (2 * n)) (c * planes + p) := by
  have hrow : (if n = 32 then 64 else 32) = 2 * n := by rcases hside with rfl | rfl <;> rfl
  have hplace : (p * n + k) * n + c = p * (n * n) + (k * n + c) := by ring
  have hin : k * n + c < n * n := by nlinarith
  unfold imageCodes nth
  rw [hrow, hplace, List.getD_eq_getElem?_getD,
    getElem?_flatMap_range _ (n * n) _ (fun _ => length_flatMap_range _ _ _ fun _ => by simp) p _ hp hin,
    getElem?_flatMap_range _ n _ (fun _ => by simp) k c hk hc, List.getElem?_map, List.getElem?_range hc]
  rfl

/-! ## The load -/

/-- The bank that a tile's image fills. -/
def loadedBank (u : EngTile) (tr : Bool) (img : List Byte) : Bank :=
  ⟨imageCodes u.patF u.side u.planes tr img, ckColumn u (imageCodes u.patF u.side u.planes tr img) false,
    ckColumn u (imageCodes u.patF u.side u.planes tr img) true⟩

/-- NIL codes of a bank that the load counts (R93). -/
def nilsOf (u : EngTile) (b : Bank) : Nat := if u.patF = .b4 then (b.codes.filter b4Nil).length else 0

/-- A quarter whose next pattern is loaded for a tile (R82). -/
def loadedQuarter (x : Quarter) (u : EngTile) (b : Bank) : Quarter :=
  { x with next := b, valid := true }.setTile { u with loaded := u.loaded + 1 }

/-- The engine of a loaded quarter: a swap that waits for the load follows at once (R84). -/
def loadedEngine (en : Engine) (q : Nat) (x : Quarter) : Engine :=
  match (if x.swapWait then x.stream else none) with
  | some v => en.swapIn q x v
  | none => en.setQuarter q x

theorem loadedEngine_of_ready (en : Engine) (q : Nat) (x : Quarter) (h : x.swapWait = false) :
    loadedEngine en q x = en.setQuarter q x := by
  simp [loadedEngine, h]

theorem loadedEngine_of_swapWait (en : Engine) (q : Nat) (x : Quarter) (v : EngTile) (h : x.swapWait = true)
    (hv : x.stream = some v) : loadedEngine en q x = en.swapIn q x v := by
  simp [loadedEngine, h, hv]

theorem quarter_loadedEngine_other (en : Engine) (q : Nat) (x : Quarter) {i : Nat} (h : i ≠ q) :
    (loadedEngine en q x).quarter i = en.quarter i := by
  unfold loadedEngine
  split
  · rw [quarter_engine_swapIn, if_neg h]
  · rw [quarter_setQuarter, if_neg h]

/-- Loading a pattern of a tile with rows to stream leaves its quarter with rows to stream. -/
theorem stream_loadedQuarter_isSome (x : Quarter) (u : EngTile) (b : Bank) (hmem : u ∈ x.tiles) (h : u.streamed = false) :
    (loadedQuarter x u b).stream.isSome = true := by
  rw [Quarter.stream, List.find?_isSome]
  refine ⟨{ u with loaded := u.loaded + 1 }, List.mem_map.2 ⟨u, hmem, if_pos (same_self u)⟩, ?_⟩
  have hstill : { u with loaded := u.loaded + 1 }.streamed = false := h
  rw [hstill]
  rfl

section Load

variable {s y : Mach} {e q : Nat} {tr : Bool} {u : EngTile} {cmd : Cmd} {img : List Byte}

/-- A load that is due, of an image that is read: the part of the step that `settle` ends. -/
theorem loadPattern_eq (hdue : (((s.eng e).quarter q).tiles.find? fun t => t.loaded < t.pats) = some u)
    (hvalid : ((s.eng e).quarter q).valid = false) (huses : (s.eng e).uses q = true) (hmode : u.quarter = (s.eng e).mode)
    (hstopped : (s.eng e).stopped = false) (hkind : u.transpose = tr) (hcmd : s.cmd? u.cmd = some cmd)
    (hread : s.coreRead u.core cmd.ctx u.cmd (u.patAddr.1, u.patAddr.2 + u.loaded * (if u.quarter then 512 else 2048))
      (if u.quarter then 512 else 2048) = .ok img y) :
    loadPattern s e q tr = s.settle u.cmd (e / 4) 1 (.ok ()
      ((y.setEng e (loadedEngine (y.eng e) q (loadedQuarter ((s.eng e).quarter q) u (loadedBank u tr img)))).bump
        (engReg e 0x48) (nilsOf u (loadedBank u tr img)))) := by
  have hgo : ¬(((s.eng e).quarter q).valid || !(s.eng e).uses q || u.quarter != (s.eng e).mode || u.transpose != tr ||
      (s.eng e).stopped) = true := by simp [hvalid, huses, hmode, hstopped, hkind]
  unfold loadPattern
  dsimp only
  rw [hdue]
  dsimp only
  rw [if_neg hgo, hcmd]
  dsimp only
  rw [hread]
  rfl

end Load

/-! ## The statement -/

/-- PATTERN_LOAD and TRANSPOSED_LOAD are one load, of either kind. -/
theorem exec_load {c : Instr} {e : EngineNo} {q : BitVec 2} {tr : Bool}
    (h : c = .patternLoad e q ∧ tr = false ∨ c = .transposedLoad e q ∧ tr = true) (s : State) :
    exec c s = .next { s with m := loadPattern s.m e.toNat q.toNat tr } := by
  rcases h with ⟨rfl, rfl⟩ | ⟨rfl, rfl⟩ <;> rfl

/-- Settles O6: the load is `loadPattern_eq`, its codes are those of `nth_imageCodes`; a swap that waits finds a tile to stream, since
the tile just loaded is one. -/
theorem loadsFillTheNextPattern : Obligations.LoadsFillTheNextPattern := by
  rintro s e q c tr _ u cmd img y hc rfl hdue hvalid hswap huses hmode hstopped hkind hcmd hread
  have hload := loadPattern_eq hdue hvalid huses hmode hstopped hkind hcmd hread
  have hframe := hload.trans (settle_ok_frame s.m _ u.cmd 1 (coreOf_lt e))
  generalize (s.m.settle u.cmd (e.toNat / 4) 1 _).cmds = cmds at hframe
  generalize hx : (s.m.eng e.toNat).quarter q.toNat = x at *
  generalize hb : loadedBank u tr img = b at *
  have hcodes : ∀ p k n : Nat, p < u.planes → k < u.side → n < u.side →
      nth b.codes ((p * u.side + k) * u.side + n) =
        if tr then elemCode u.patF ((img.drop (n * (2 * u.side))).take (2 * u.side)) (u.side * p + k)
        else elemCode u.patF ((img.drop (k * (2 * u.side))).take (2 * u.side)) (n * u.planes + p) :=
    fun p k n hp hk hn => hb ▸ nth_imageCodes u.patF u.side u.planes tr img p k n (side_cases u) hp hk hn
  have heng : ∀ g, (loadPattern s.m e.toNat q.toNat tr).eng g =
      if g = e.toNat then loadedEngine (y.eng e.toNat) q.toNat (loadedQuarter x u b) else y.eng g := by
    intro g
    rw [hframe]
    exact (eng_bump _ _ _ g).trans (eng_setEng y _ _ g)
  have hreg : ∀ a, (loadPattern s.m e.toNat q.toNat tr).reg a =
      if a = engReg e.toNat 0x48 then satAdd (y.reg a) (nilsOf u b) else y.reg a := by
    intro a
    rw [hframe]
    refine (reg_bump _ _ _ a).trans ?_
    split
    · next h => subst h; rfl
    · rfl
  have hready : x.swapWait = false → (loadPattern s.m e.toNat q.toNat tr).eng e.toNat =
      (y.eng e.toNat).setQuarter q.toNat (loadedQuarter x u b) := fun h =>
    (heng _).trans ((if_pos rfl).trans (loadedEngine_of_ready _ _ _ h))
  have hwaits : x.swapWait = true → ∃ v, (loadPattern s.m e.toNat q.toNat tr).eng e.toNat =
      (y.eng e.toNat).swapIn q.toNat (loadedQuarter x u b) v := by
    intro h
    obtain ⟨v, hv⟩ := Option.isSome_iff_exists.1
      (stream_loadedQuarter_isSome x u b (List.mem_of_find?_eq_some hdue) (hswap h).2)
    exact ⟨v, (heng _).trans ((if_pos rfl).trans (loadedEngine_of_swapWait _ _ _ v h hv))⟩
  refine ⟨{ s with m := loadPattern s.m e.toNat q.toNat tr }, _, b, exec_load hc s, rfl, ?_, hcodes, ?_, ?_, fun q' hq => ?_,
    fun g hg => ?_, fun a ha => ?_, ?_, ?_⟩
  · cases h : x.swapWait with
    | false =>
      rw [hready h, quarter_setQuarter_same]
      rfl
    | true =>
      obtain ⟨v, hv⟩ := hwaits h
      rw [hv, quarter_engine_swapIn_same]
      rfl
  · intro h
    rw [hready h, quarter_setQuarter_same]
    exact ⟨rfl, fun i v hv => getElem?_tiles_setTile { x with next := b, valid := true } _ hv, rfl⟩
  · intro h
    obtain ⟨v, hv⟩ := hwaits h
    rw [hv, quarter_engine_swapIn_same]
    exact ⟨rfl, rfl⟩
  · rw [heng, if_pos rfl, quarter_loadedEngine_other _ _ _ hq]
  · rw [heng, if_neg hg]
  · rw [hreg, if_neg ha]
  · rw [hreg, if_pos rfl, nilsOf]
  · rw [hframe, bump_frame]
    rfl

end Sys2Proof.Proofs
end

section
/-! SUPPORT. Streamed rows and ballast rows (04 R85, R101 to R103; 05 R110). -/

namespace Sys2Proof.Proofs

open Sys2Proof.Machine Sys2Proof.Laws

/-! ## The issue of a row -/

/-- The elements that a row's bytes code. -/
def streamedElems (t : EngTile) (l : List Byte) : List Nat := (List.range (t.side * t.planes)).map fun i => elemCode t.strF l i

theorem nth_streamedElems (t : EngTile) (l : List Byte) {i : Nat} (h : i < t.side * t.planes) :
    nth (streamedElems t l) i = elemCode t.strF l i := by
  rw [nth, List.getD_eq_getElem?_getD, streamedElems, List.getElem?_map, List.getElem?_range h]
  rfl

/-- A quarter that has issued the next row of its tile t. -/
def streamedQuarter (x : Quarter) (t : EngTile) (l : List Byte) : Quarter :=
  { x with
    flight := x.flight ++ [rowFlight t x.pattern (streamedElems t l)],
    used := x.used + cyclesPerRow t.patF t.strF t.quarter }.setTile { t with queue := t.queue.tail, issued := t.issued + 1 }

section Stream

variable (s : Mach) (e q : Nat) (t : EngTile) (l : List Byte)

theorem streamRow_eq : streamRow s e q t l =
    (s.setEng e ({ s.eng e with realRow := true, lastRow := some (streamedElems t l) }.setQuarter q
      (streamedQuarter ((s.eng e).quarter q) t l))).bump (engReg e 0x4C) 1 := rfl

theorem eng_streamRow (g : Nat) : (streamRow s e q t l).eng g = if g = e then
    { s.eng e with realRow := true, lastRow := some (streamedElems t l) }.setQuarter q (streamedQuarter ((s.eng e).quarter q) t l)
    else s.eng g := by
  rw [streamRow_eq, eng_bump, eng_setEng]

theorem reg_streamRow (a : Nat) :
    (streamRow s e q t l).reg a = if a = engReg e 0x4C then satAdd (s.reg a) 1 else s.reg a := by
  rw [streamRow_eq, reg_bump]
  split
  · next h => subst h; rfl
  · rfl

theorem streamRow_frame : streamRow s e q t l =
    { s with engines := (streamRow s e q t l).engines, regs := (streamRow s e q t l).regs } := by
  rw [streamRow_eq, bump_frame]
  rfl

end Stream

/-! ## A row read for several engines (05 R110) -/

/-- A tile once a row has been read into its queue, if it is the tile t. -/
def fedTile (t : EngTile) (l : List Byte) (v : EngTile) : EngTile :=
  if v.same t.cmd t.item t.entry then { v with queue := v.queue ++ [l], fetched := v.fetched + 1 } else v

theorem fedTile_self (t : EngTile) (l : List Byte) :
    fedTile t l t = { t with queue := t.queue ++ [l], fetched := t.fetched + 1 } :=
  if_pos (same_self t)

/-- An engine whose quarter q has taken a row for tile t. -/
def fedEngine (q : Nat) (t : EngTile) (l : List Byte) (en : Engine) : Engine :=
  en.setQuarter q { en.quarter q with tiles := (en.quarter q).tiles.map (fedTile t l) }

theorem mem_tileHolders {s : Mach} {e q : Nat} {t : EngTile} {g : Nat} :
    g ∈ tileHolders s e q t ↔ g / 4 = e / 4 ∧ ∃ v ∈ ((s.eng g).quarter q).tiles, v.same t.cmd t.item t.entry = true := by
  simp only [tileHolders, List.mem_filter, List.mem_map, List.mem_range, List.any_eq_true]
  refine and_congr_left fun _ => ⟨?_, fun h => ⟨g % 4, by omega, by omega⟩⟩
  rintro ⟨i, hi, rfl⟩
  omega

theorem nodup_tileHolders (s : Mach) (e q : Nat) (t : EngTile) : (tileHolders s e q t).Nodup :=
  (List.nodup_range.map fun _ _ h => Nat.add_left_cancel h).filter _

section Feed

variable (s : Mach) (e q : Nat) (t : EngTile) (l : List Byte)

theorem eng_feedRow (g : Nat) :
    (feedRow s e q t l).eng g = if g ∈ tileHolders s e q t then fedEngine q t l (s.eng g) else s.eng g := by
  have hnodup : ((tileHolders s e q t).map id).Nodup := by
    rw [List.map_id]
    exact nodup_tileHolders s e q t
  refine (eng_each_setEng id (fedEngine q t l) (tileHolders s e q t) s hnodup g).trans ?_
  simp only [List.map_id]

theorem feedRow_frame : feedRow s e q t l = { s with engines := (feedRow s e q t l).engines } :=
  each_setEng_frame id (fedEngine q t l) (tileHolders s e q t) s

theorem reg_feedRow (a : Nat) : (feedRow s e q t l).reg a = s.reg a := by
  rw [feedRow_frame]
  rfl

/-- The row is in the queue of every engine of the core that has the tile; the other tiles stand. -/
theorem tiles_feedRow {g : Nat} (h : g / 4 = e / 4) :
    (((feedRow s e q t l).eng g).quarter q).tiles = ((s.eng g).quarter q).tiles.map (fedTile t l) := by
  rw [eng_feedRow]
  split
  · rw [fedEngine, quarter_setQuarter_same]
  · next hg =>
    have hother : ∀ v ∈ ((s.eng g).quarter q).tiles, fedTile t l v = id v := fun v hv =>
      if_neg fun hsame => hg (mem_tileHolders.2 ⟨h, v, hv, hsame⟩)
    rw [List.map_congr_left hother, List.map_id]

theorem stream_map_fedTile (x : Quarter) :
    { x with tiles := x.tiles.map (fedTile t l) }.stream = x.stream.map (fedTile t l) := by
  have hp : ((fun v : EngTile => !v.streamed) ∘ fedTile t l) = fun v => !v.streamed := by
    funext v
    simp only [Function.comp, fedTile]
    split <;> rfl
  rw [Quarter.stream, List.find?_map, hp]
  rfl

end Feed

/-! ## STREAMED_ROW -/

section Issue

variable {s : Mach} {e q : Nat} {u : EngTile} {cmd : Cmd} (hstream : ((s.eng e).quarter q).stream = some u)
  (huses : (s.eng e).uses q = true) (hmode : u.quarter = (s.eng e).mode) (hstopped : (s.eng e).stopped = false)
  (hswapped : u.swapped ≠ 0) (hrows : u.issued < u.rows) (hswap : ((s.eng e).quarter q).swapWait = false)
  (hacc : ((s.eng e).quarter q).accWait = false) (hcycle : ((s.eng e).quarter q).used < (s.eng e).level)
  (hcmd : s.cmd? u.cmd = some cmd)

include huses hmode hstopped hswapped hrows hswap hacc hcycle in
/-- A row of the tile may stream in an admitted cycle. -/
theorem not_streamBarred : ¬(!(s.eng e).streams q u || decide (((s.eng e).quarter q).used ≥ (s.eng e).level)) = true := by
  simp [Engine.streams, huses, hmode, hstopped, hrows, hswap, hacc, hcycle, Nat.pos_of_ne_zero hswapped]

include hstream huses hmode hstopped hswapped hrows hswap hacc hcycle hcmd

/-- A row that waits in the tile's queue streams. -/
theorem issueRow_of_queued {l : List Byte} {rest : List (List Byte)} (hqueue : u.queue = l :: rest) :
    issueRow s e q = streamRow s e q u l := by
  unfold issueRow
  dsimp only
  rw [hstream]
  dsimp only
  rw [if_neg (not_streamBarred huses hmode hstopped hswapped hrows hswap hacc hcycle), hcmd, hqueue]

/-- Without room in a queue that the tile names no row is read. -/
theorem issueRow_of_noRoom (hqueue : u.queue = []) (hroom : rowRoom s e q u = false) : issueRow s e q = s := by
  unfold issueRow
  dsimp only
  rw [hstream]
  dsimp only
  rw [if_neg (not_streamBarred huses hmode hstopped hswapped hrows hswap hacc hcycle), hcmd, hqueue]
  dsimp only
  rw [if_pos (by rw [hroom]; rfl)]

/-- With room the next row is read once, goes into every queue that the tile names, and streams from this engine's. -/
theorem issueRow_of_read {l : List Byte} {y : Mach} (hqueue : u.queue = []) (hroom : rowRoom s e q u = true)
    (hread : s.coreRead u.core cmd.ctx u.cmd u.rowAddr u.rowLen = .ok l y) :
    issueRow s e q = s.settle u.cmd (e / 4) 2 (.ok () (streamRow (feedRow y e q u l) e q (fedTile u l u) l)) := by
  have hengines : y.engines = s.engines := EnginesKept.coreRead s _ _ _ _ _ l y hread
  have hy : y.eng e = s.eng e := by rw [Mach.eng, hengines, Mach.eng]
  have hmem : u ∈ ((y.eng e).quarter q).tiles := by
    rw [hy]
    exact List.mem_of_find?_eq_some hstream
  have hfed : (((feedRow y e q u l).eng e).quarter q).stream = some (fedTile u l u) := by
    rw [eng_feedRow, if_pos (mem_tileHolders.2 ⟨rfl, u, hmem, same_self u⟩), fedEngine, quarter_setQuarter_same,
      stream_map_fedTile, hy, hstream]
    rfl
  unfold issueRow
  dsimp only
  rw [hstream]
  dsimp only
  rw [if_neg (not_streamBarred huses hmode hstopped hswapped hrows hswap hacc hcycle), hcmd, hqueue]
  dsimp only
  rw [if_neg (by rw [hroom]; decide), hread, Res.bind, hfed]

end Issue

/-! ## Ballast rows -/

/-- Quarters that a ballast row occupies have its cycles behind them. -/
theorem quarter_foldl_used (n : Nat) (l : List Nat) (en : Engine) (i : Nat) :
    (l.foldl (fun (en : Engine) q => en.setQuarter q { en.quarter q with used := n }) en).quarter i =
      if i ∈ l then { en.quarter i with used := n } else en.quarter i := by
  induction l generalizing en with
  | nil => simp
  | cons q l ih =>
    rw [List.foldl_cons, ih, quarter_setQuarter]
    by_cases hi : i = q
    · subst hi
      simp
    · simp [hi]

theorem foldl_used_frame (n : Nat) (l : List Nat) (en : Engine) :
    l.foldl (fun (en : Engine) q => en.setQuarter q { en.quarter q with used := n }) en =
      { en with q := (l.foldl (fun (en : Engine) q => en.setQuarter q { en.quarter q with used := n }) en).q } := by
  induction l generalizing en with
  | nil => rfl
  | cons q l ih =>
    rw [List.foldl_cons, ih]
    rfl

/-- An engine whose quarters in use have issued a ballast row. -/
def ballasted (en : Engine) : Engine :=
  ((List.range 4).filter en.uses).foldl
    (fun (x : Engine) q => x.setQuarter q { x.quarter q with used := en.busy + en.ballastCycles }) en

theorem quarter_ballasted (en : Engine) (q : Nat) : (ballasted en).quarter q = if q < 4 ∧ en.uses q = true then
    { en.quarter q with used := en.busy + en.ballastCycles } else en.quarter q := by
  rw [ballasted, quarter_foldl_used]
  simp only [List.mem_filter, List.mem_range]

/-- A ballast row issues in an admitted cycle with no real row ready (R103). -/
theorem ballast_eq {s : Mach} {e : Nat} (hcycle : (s.eng e).busy < (s.eng e).level) (hready : rowReady s e = false) :
    ballast s e = (s.setEng e (ballasted (s.eng e))).bump (engReg e 0x54) 1 := by
  unfold ballast
  dsimp only
  rw [if_neg (by simp [hcycle, hready])]
  rfl

theorem ballast_eq_self {s : Mach} {e : Nat} (h : (s.eng e).level ≤ (s.eng e).busy ∨ rowReady s e = true) : ballast s e = s := by
  unfold ballast
  dsimp only
  rw [if_pos (by simpa using h)]

/-! ## The statement -/

/-- Settles O8: a row issued is `streamRow`, of the tile's queue or of the row read for all engines of the tile; a ballast row is
`ballast_eq`. -/
theorem realAndBallastRows : Obligations.RealAndBallastRows := by
  refine ⟨?_, ?_, ?_⟩
  · rintro s e q _ u cmd rfl hstream huses hmode hstopped hswapped hrows hswap hacc hcycle hcmd
    refine ⟨fun l rest hqueue => ?_, fun l y hqueue hroom hread => ?_, fun hqueue hroom => ?_⟩
    · have hissue := issueRow_of_queued hstream huses hmode hstopped hswapped hrows hswap hacc hcycle hcmd hqueue
      refine ⟨{ s with m := issueRow s.m e.toNat q.toNat }, _,
        rowFlight u ((s.m.eng e.toNat).quarter q.toNat).pattern (streamedElems u l), rfl, rfl, ?_⟩
      rw [hissue, eng_streamRow, if_pos rfl, quarter_setQuarter_same]
      refine ⟨rfl, rfl, rfl, rfl, fun i hi => nth_streamedElems u l hi, fun i v hv => ?_, rfl, rfl, fun q' hq => ?_, fun g hg => ?_,
        ?_, fun a ha => ?_, ?_⟩
      · have htail : u.queue.tail = rest := by rw [hqueue]; rfl
        exact htail ▸ getElem?_tiles_setTile _ { u with queue := u.queue.tail, issued := u.issued + 1 } hv
      · rw [quarter_setQuarter, if_neg hq]
        rfl
      · rw [eng_streamRow, if_neg hg]
      · rw [reg_streamRow, if_pos rfl]
      · rw [reg_streamRow, if_neg ha]
      · rw [streamRow_frame]
    · have hissue := issueRow_of_read hstream huses hmode hstopped hswapped hrows hswap hacc hcycle hcmd hqueue hroom hread
      have hengines : y.engines = s.m.engines := EnginesKept.coreRead s.m _ _ _ _ _ l y hread
      have hy : ∀ g, y.eng g = s.m.eng g := fun g => by rw [Mach.eng, hengines, Mach.eng]
      have hholds : e.toNat ∈ tileHolders y e.toNat q.toNat u := by
        refine mem_tileHolders.2 ⟨rfl, u, ?_, same_self u⟩
        rw [hy]
        exact List.mem_of_find?_eq_some hstream
      rw [fedTile_self] at hissue
      have hframe := hissue.trans (settle_ok_frame s.m _ u.cmd 2 (coreOf_lt e))
      generalize (s.m.settle u.cmd (e.toNat / 4) 2 _).cmds = cmds at hframe
      have heng : ∀ g, (issueRow s.m e.toNat q.toNat).eng g = (streamRow (feedRow y e.toNat q.toNat u l) e.toNat q.toNat
          { u with queue := u.queue ++ [l], fetched := u.fetched + 1 } l).eng g := fun g => by rw [hframe]; rfl
      have hreg : ∀ a, (issueRow s.m e.toNat q.toNat).reg a = (streamRow (feedRow y e.toNat q.toNat u l) e.toNat q.toNat
          { u with queue := u.queue ++ [l], fetched := u.fetched + 1 } l).reg a := fun a => by rw [hframe]; rfl
      refine ⟨{ s with m := issueRow s.m e.toNat q.toNat }, _,
        rowFlight u ((s.m.eng e.toNat).quarter q.toNat).pattern (streamedElems u l), rfl, rfl, ?_⟩
      rw [heng, eng_streamRow, if_pos rfl, quarter_setQuarter_same, eng_feedRow, if_pos hholds, hy, fedEngine,
        quarter_setQuarter_same]
      refine ⟨rfl, rfl, rfl, rfl, fun i hi => nth_streamedElems u l hi, rfl, rfl, fun g hg hcore i v hv => ?_, fun g hg => ?_,
        ?_, fun a ha => ?_, ?_⟩
      · rw [heng, eng_streamRow, if_neg hg, tiles_feedRow _ _ _ _ _ hcore, hy, List.getElem?_map, hv]
        rfl
      · have hne : g ≠ e.toNat := fun h => hg (by rw [h])
        rw [heng, eng_streamRow, if_neg hne, eng_feedRow, if_neg fun h => hg (mem_tileHolders.1 h).1, hy]
      · rw [hreg, reg_streamRow, if_pos rfl, reg_feedRow]
      · rw [hreg, reg_streamRow, if_neg ha, reg_feedRow]
      · rw [hframe, streamRow_frame, feedRow_frame]
    · exact congrArg (fun m => Host.Outcome.next { s with m := m })
        (issueRow_of_noRoom hstream huses hmode hstopped hswapped hrows hswap hacc hcycle hcmd hqueue hroom)
  · intro s e hcycle hready
    have hballast := ballast_eq hcycle hready
    refine ⟨{ s with m := ballast s.m e.toNat }, rfl, ?_⟩
    rw [hballast]
    refine ⟨fun q => ?_, ?_, fun g hg => ?_, ?_, fun a ha => ?_, ?_⟩
    · rw [eng_bump, eng_setEng, if_pos rfl, quarter_ballasted]
    · rw [eng_bump, eng_setEng, if_pos rfl]
      exact foldl_used_frame _ _ _
    · rw [eng_bump, eng_setEng, if_neg hg]
    · rw [reg_bump, if_pos rfl, reg_setEng]
    · rw [reg_bump, if_neg ha, reg_setEng]
    · rw [bump_frame]
      rfl
  · intro s e h
    exact congrArg (fun m => Host.Outcome.next { s with m := m }) (ballast_eq_self h)

end Sys2Proof.Proofs
end

section
/-! SUPPORT. Commits into the accumulators and what their checks can do (04 R86 to R90, R96, R99). -/

namespace Sys2Proof.Proofs

open Sys2Proof.Machine Sys2Proof.Laws

/-! ## What counting, reporting and stopping work can change (04 R99; 14 R343, R344) -/

/-- From a to b work has been counted, reported or stopped: the parts not named stand, and no quarter has more rows in flight. -/
structure StopsWork (a b : Mach) : Prop where
  frame : b = { a with
    regs := b.regs, engines := b.engines, cores := b.cores, clusters := b.clusters, slices := b.slices, cmds := b.cmds,
    ctxs := b.ctxs, scheds := b.scheds, chargedTotal := b.chargedTotal, recordsDue := b.recordsDue }
  flight : ∀ e q, ((b.eng e).quarter q).flight.length ≤ ((a.eng e).quarter q).flight.length

namespace StopsWork

theorem refl (s : Mach) : StopsWork s s := ⟨rfl, fun _ _ => le_refl _⟩

theorem trans {a b c : Mach} (h : StopsWork a b) (h' : StopsWork b c) : StopsWork a c where
  frame := by
    have hb := h.frame
    have hc := h'.frame
    rw [hb] at hc
    exact hc
  flight e q := (h'.flight e q).trans (h.flight e q)

/-- The named parts but the engines may change in any way. -/
theorem of_engines {a b : Mach} (h : b = { a with
    regs := b.regs, cores := b.cores, clusters := b.clusters, slices := b.slices, cmds := b.cmds,
    ctxs := b.ctxs, scheds := b.scheds, chargedTotal := b.chargedTotal, recordsDue := b.recordsDue }) : StopsWork a b := by
  have he : b.engines = a.engines := by rw [h]
  refine ⟨?_, fun e q => ?_⟩
  · rw [he]
    exact h
  · rw [Mach.eng, he]
    exact le_refl _

theorem setEng (s : Mach) (g : Nat) (x : Engine)
    (h : ∀ q, (x.quarter q).flight.length ≤ ((s.eng g).quarter q).flight.length) : StopsWork s (s.setEng g x) := by
  refine ⟨rfl, fun e q => ?_⟩
  rw [eng_setEng]
  split
  · next he => exact he ▸ h q
  · exact le_refl _

theorem setQuarter (s : Mach) (g p : Nat) (x : Quarter) (h : x.flight.length ≤ ((s.eng g).quarter p).flight.length) :
    StopsWork s (s.setEng g ((s.eng g).setQuarter p x)) := by
  refine setEng s g _ fun q => ?_
  rw [quarter_setQuarter]
  split
  · next hq => exact hq ▸ h
  · exact le_refl _

variable (s : Mach)

theorem setCore (c : Nat) (x : CoreSt) : StopsWork s (s.setCore c x) := of_engines rfl
theorem setCmd (c : Cmd) : StopsWork s (s.setCmd c) := of_engines rfl
theorem setCtx (c : Nat) (x : CtxSt) : StopsWork s (s.setCtx c x) := of_engines rfl
theorem setSched (d : Nat) (x : SchedSt) : StopsWork s (s.setSched d x) := of_engines rfl
theorem setSlice (g : Nat) (x : SliceSt) : StopsWork s (s.setSlice g x) := of_engines rfl
theorem setReg (a : Nat) (w : Word) : StopsWork s (s.setReg a w) := of_engines rfl
theorem recordDue (r : RecordReq) : StopsWork s (s.recordDue r) := of_engines rfl
theorem bump (a n : Nat) : StopsWork s (s.bump a n) := of_engines (by rw [bump_frame])
theorem raise (d n : Nat) : StopsWork s (s.raise d n) := of_engines (by rw [raise_frame])

theorem foldl {α : Type} (f : Mach → α → Mach) (h : ∀ t a, StopsWork t (f t a)) (l : List α) : StopsWork s (l.foldl f s) := by
  induction l generalizing s with
  | nil => exact refl s
  | cons a l ih => exact (h s a).trans (ih _)

theorem freeSlots (l : List HeldWait) : StopsWork s (s.freeSlots l) := by
  refine foldl s _ (fun t w => ?_) l
  beta_reduce
  split
  · exact refl t
  · exact setSlice t _ _

/-- A release of units drops whole quarters' rows in flight or none. -/
theorem freeUnits (id : Nat) : StopsWork s (s.freeUnits id) := by
  refine ⟨rfl, fun e q => ?_⟩
  unfold Mach.freeUnits Mach.eng
  extract_lets free leave quiet
  rw [tabGet_tabMap _ quiet _ e rfl]
  generalize tabGet (fun _ => {}) s.engines e = x
  simp only [quiet]
  split
  · rw [Engine.quarter, tabGet_tabMap _ _ _ q rfl]
    exact Nat.zero_le _
  · exact le_refl _

theorem charge (ctx die t : Nat) : StopsWork s (s.charge ctx die t) := by
  unfold Mach.charge
  split
  · exact refl s
  · exact of_engines rfl

theorem sliceEnd (die : Nat) : StopsWork s (s.sliceEnd die) := by
  unfold Mach.sliceEnd
  extract_lets d
  split
  · exact refl s
  · split
    · exact setSched s _ _
    · exact refl s

theorem endExecution (c : Cmd) : StopsWork s (s.endExecution c) :=
  ((((freeUnits s c.id).trans (freeSlots _ c.heldOn)).trans (charge _ _ _ _)).trans (sliceEnd _ _)).trans (setCmd _ _)

theorem endStop (id : Nat) : StopsWork s (s.endStop id) := by
  unfold Mach.endStop
  split
  · split
    · exact endExecution s _
    · exact refl s
  · exact refl s

theorem stopEligible (c : Cmd) : StopsWork s (s.stopEligible c) := by
  unfold Mach.stopEligible
  extract_lets die
  split
  · exact refl s
  · exact setCtx s _ _

theorem fatalOn (die ctx st cmdId : Nat) : StopsWork s (s.fatalOn die ctx st cmdId) := by
  unfold Mach.fatalOn
  extract_lets x
  split
  · exact refl s
  · exact (setCtx s _ _).trans (raise _ _ _)

theorem stopCmd (c : Cmd) (cause : Option RestartCause) (st : CmdSt) : StopsWork s (s.stopCmd c cause st) := by
  unfold Mach.stopCmd
  split
  · exact endStop s _
  · split
    · exact fatalOn s _ _ _ _
    · split
      · exact (stopEligible s c).trans (setCmd _ _)
      · exact (stopEligible s c).trans (endExecution _ _)

theorem reportMismatch (e kind q slot index : Nat) (isInt : Bool) :
    StopsWork s (reportMismatch s e kind q slot index isInt) := by
  unfold Machine.reportMismatch
  extract_lets s1 last s2 c core s3
  have h2 : StopsWork s1 s2 := by
    simp only [s2]
    split
    · exact refl s1
    · exact setReg s1 _ _
  exact ((((bump s _ _).trans h2).trans (setCore s2 _ _)).trans (raise s3 _ _)).trans (recordDue _ _)

theorem mismatch (e kind q slot index : Nat) (isInt : Bool) (cmd : Nat) :
    StopsWork s (mismatch s e kind q slot index isInt cmd) := by
  have hreport := reportMismatch s e kind q slot index isInt
  unfold Machine.mismatch
  extract_lets t
  split
  · exact (hreport.trans (stopCmd t _ _ _)).trans (raise _ _ _)
  · exact hreport

theorem endTile (e q : Nat) (t : EngTile) : StopsWork s (s.endTile e q t) := by
  unfold Mach.endTile
  extract_lets x x'
  exact setQuarter s e q _ (List.length_filter_le _ _)

theorem tileDone (t : EngTile) : StopsWork s (tileDone s t) := by
  unfold Machine.tileDone
  exact (setCore s _ _).trans (endStop _ _)

end StopsWork

/-! ## The column checks (R96) -/

/-- The column checks leave the rows in flight of their quarter. -/
theorem flight_columnChecks (s : Mach) (e q : Nat) (x : Quarter) (t : EngTile) (b : Bank) (j slot rowsIn : Nat) :
    (columnChecks s e q x t b j slot rowsIn).1.flight = x.flight := by
  unfold columnChecks
  extract_lets n pf first colStep
  have hstep : ∀ (l : List Nat) (a : Quarter × Option (Nat × Nat) × Nat), (l.foldl colStep a).1.flight = a.1.flight := by
    intro l
    induction l with
    | nil => exact fun _ => rfl
    | cons c l ih => exact fun a => (ih _).trans rfl
  exact hstep _ _

/-! ## The write of a row (R87, R88) -/

/-- The committed values of a row with the disturbance of the first of them. -/
def disturbed (flip : Word) (l : List Word) : List Word :=
  match l with
  | [] => []
  | v :: l => (v ^^^ flip) :: l

@[simp] theorem length_disturbed (flip : Word) (l : List Word) : (disturbed flip l).length = l.length := by
  cases l <;> rfl

theorem getD_disturbed (flip : Word) (l : List Word) {i : Nat} (h : i < l.length) :
    (disturbed flip l).getD i 0#32 = l.getD i 0#32 ^^^ (if i = 0 then flip else 0#32) := by
  cases l with
  | nil => exact absurd h (Nat.not_lt_zero i)
  | cons v l => cases i <;> simp [disturbed]

theorem length_commitVals (s : Mach) (e q : Nat) (t : EngTile) (f : Flight) (cmdId : Nat) :
    (commitVals s e q t f cmdId).vals.length = t.cols.length ∧ (commitVals s e q t f cmdId).adds.length = t.cols.length := by
  simp [commitVals]

theorem nodup_cols (t : EngTile) : t.cols.Nodup := List.nodup_range.filter _

theorem accIndex_inj {e : Nat} {quarter : Bool} {q slot row c d : Nat}
    (h : accIndex e quarter q slot row c = accIndex e quarter q slot row d) : c = d := by
  unfold accIndex at h
  split at h <;> omega

section Write

variable (s : Mach) (e q slot r : Nat) (t : EngTile) (vals : List Word) (adds : List Nat)

/-- The write of one element of a row: column, value, additions. -/
def setElem (e : Nat) (quarter : Bool) (q slot r : Nat) (s : Mach) (p : Nat × Word × Nat) : Mach :=
  { s.accSet (accIndex e quarter q slot r p.1) p.2.1 with
    accAdds := tabSet (fun _ => 0) s.accAdds (accIndex e quarter q slot r p.1) p.2.2 }

theorem commitWrite_eq :
    s.commitWrite e q slot r t vals adds = (t.cols.zip (vals.zip adds)).foldl (setElem e t.quarter q slot r) s := rfl

theorem commitWrite_frame : s.commitWrite e q slot r t vals adds =
    { s with acc := (s.commitWrite e q slot r t vals adds).acc, accAdds := (s.commitWrite e q slot r t vals adds).accAdds } := by
  rw [commitWrite_eq]
  generalize t.cols.zip (vals.zip adds) = l
  induction l generalizing s with
  | nil => rfl
  | cons p l ih =>
    rw [List.foldl_cons, ih]
    rfl

theorem eng_commitWrite (g : Nat) : (s.commitWrite e q slot r t vals adds).eng g = s.eng g := by
  rw [commitWrite_frame]
  rfl

theorem accGet_setElem (quarter : Bool) (p : Nat × Word × Nat) (a : Nat) :
    (setElem e quarter q slot r s p).accGet a = if a = accIndex e quarter q slot r p.1 then p.2.1 else s.accGet a :=
  accGet_accSet s _ a _

theorem accGet_foldl_setElem_other (quarter : Bool) (l : List (Nat × Word × Nat)) {a : Nat}
    (h : ∀ p ∈ l, a ≠ accIndex e quarter q slot r p.1) :
    (l.foldl (setElem e quarter q slot r) s).accGet a = s.accGet a := by
  induction l generalizing s with
  | nil => rfl
  | cons p l ih =>
    rw [List.foldl_cons, ih _ fun p hp => h p (List.mem_cons_of_mem _ hp), accGet_setElem,
      if_neg (h p List.mem_cons_self)]

/-- Of elements in different columns each is read back. -/
theorem accGet_foldl_setElem_same (quarter : Bool) (l : List (Nat × Word × Nat)) (hl : (l.map Prod.fst).Nodup)
    {p : Nat × Word × Nat} (hp : p ∈ l) :
    (l.foldl (setElem e quarter q slot r) s).accGet (accIndex e quarter q slot r p.1) = p.2.1 := by
  induction l generalizing s with
  | nil => exact absurd hp List.not_mem_nil
  | cons p' l ih =>
    rw [List.map_cons, List.nodup_cons] at hl
    rw [List.foldl_cons]
    rcases List.mem_cons.1 hp with rfl | hp
    · have hothers : ∀ p' ∈ l, accIndex e quarter q slot r p.1 ≠ accIndex e quarter q slot r p'.1 := fun p' hp' h =>
        hl.1 (accIndex_inj h ▸ List.mem_map_of_mem hp')
      rw [accGet_foldl_setElem_other _ _ _ _ _ _ _ hothers, accGet_setElem, if_pos rfl]
    · exact ih _ hl.2 hp

/-- Words at other places than the row's unmasked columns stand. -/
theorem accGet_commitWrite_other {a : Nat} (h : ∀ n ∈ t.cols, a ≠ accIndex e t.quarter q slot r n) :
    (s.commitWrite e q slot r t vals adds).accGet a = s.accGet a :=
  accGet_foldl_setElem_other _ _ _ _ _ _ _ fun p hp => h p.1 (List.of_mem_zip hp).1

/-- Each unmasked column of the row holds its value. -/
theorem accGet_commitWrite_col (hvals : vals.length = t.cols.length) (hadds : adds.length = t.cols.length) {i n : Nat}
    (hn : t.cols[i]? = some n) :
    (s.commitWrite e q slot r t vals adds).accGet (accIndex e t.quarter q slot r n) = vals.getD i 0#32 := by
  obtain ⟨hi, rfl⟩ := List.getElem?_eq_some_iff.1 hn
  have hcols : (t.cols.zip (vals.zip adds)).map Prod.fst = t.cols := List.map_fst_zip (by simp [hvals, hadds])
  have hmem : (t.cols[i], vals[i], adds[i]) ∈ t.cols.zip (vals.zip adds) :=
    List.mem_iff_getElem.2 ⟨i, by simp [hvals, hadds, hi], by simp⟩
  rw [commitWrite_eq]
  refine (accGet_foldl_setElem_same s e q slot r t.quarter _ (hcols.symm ▸ nodup_cols t) hmem).trans ?_
  simp [hvals, hi]

end Write

/-! ## The commit -/

section Commit

variable {s : Mach} {e q : Nat} {flip : Word} {f : Flight} {rest : List Flight} {u : EngTile} {cmd : Cmd}
  (hflight : ((s.eng e).quarter q).flight = f :: rest)
  (htile : (((s.eng e).quarter q).tiles.find? fun t => t.same f.cmd f.item f.entry) = some u) (hcmd : s.cmd? f.cmd = some cmd)
include hflight htile hcmd

/-- A commit into a drain-pending row waits (R90). -/
theorem commitRow_of_pending
    (h : ((s.eng e).quarter q).pendingRows.contains ((u.slot + f.row / u.side) * 32 + f.row % u.side) = true) :
    commitRow s e q flip = s.setEng e ((s.eng e).setQuarter q { (s.eng e).quarter q with accWait := true }) := by
  unfold commitRow
  dsimp only
  rw [hflight]
  dsimp only
  rw [htile, hcmd]
  dsimp only
  rw [if_pos h]

/-- After the write of the row, which has left the flight, a commit only counts, checks and reports (R90, R96, R99). -/
theorem commitRow_stopsWork
    (h : ((s.eng e).quarter q).pendingRows.contains ((u.slot + f.row / u.side) * 32 + f.row % u.side) = false) :
    ∃ t, StopsWork (s.commitWrite e q (u.slot + f.row / u.side) (f.row % u.side) u
        (disturbed flip (commitVals s e q u f (descCmdId cmd.desc)).vals) (commitVals s e q u f (descCmdId cmd.desc)).adds) t ∧
      ((t.eng e).quarter q).flight = rest ∧ StopsWork t (commitRow s e q flip) := by
  unfold commitRow
  extract_lets en x
  split
  · next hnil => exact absurd (hnil.symm.trans hflight) nofun
  next f' rest' hcons =>
  obtain ⟨rfl, rfl⟩ := List.cons.inj (hcons.symm.trans hflight)
  split
  · next t c ht hc =>
    obtain rfl : t = u := Option.some.inj (ht.symm.trans htile)
    obtain rfl : c = cmd := Option.some.inj (hc.symm.trans hcmd)
    extract_lets slot r key cv vals w counted start y0 g0 y g sN rowN last endOfSlot colY0 colG0 k colY colG core ready doneRow
      done rowRes
    rw [if_neg (Bool.eq_false_iff.1 h)]
    have hcounted : StopsWork w counted := ((StopsWork.bump w _ _).trans (StopsWork.bump _ _ _)).trans (StopsWork.setCmd _ _)
    have hready : StopsWork w ready := hcounted.trans (StopsWork.setCore counted _ _)
    have hkept : ready.eng e = s.eng e := calc
      ready.eng e = counted.eng e := eng_setCore counted _ _ e
      _ = w.eng e := by rw [eng_setCmd, eng_bump, eng_bump]
      _ = s.eng e := eng_commitWrite _ _ _ _ _ _ _ _ _
    clear_value ready
    split
    next sums abss _ =>
    extract_lets z0 z landed marked
    have hz : (landed.eng e).quarter q = z := by rw [eng_setEng, if_pos rfl, quarter_setQuarter_same]
    have hlanded : StopsWork ready landed := by
      refine StopsWork.setQuarter ready e q z ?_
      rw [hkept, hflight]
      exact Nat.le_succ _
    have hmarked : StopsWork landed marked := by
      simp only [marked]
      split
      · exact StopsWork.bump landed _ _
      · exact StopsWork.refl landed
    have hz' : (marked.eng e).quarter q = z := by
      rw [← hz]
      simp only [marked]
      split
      · rw [eng_bump]
      · rfl
    refine ⟨landed, hready.trans hlanded, by rw [hz]; rfl, hmarked.trans ?_⟩
    split
    · exact (StopsWork.mismatch _ _ _ _ _ _ _ _).trans (StopsWork.endTile _ _ _ _)
    split
    next zc bad skips hchecks =>
    extract_lets checked
    have hzc : zc.flight = z.flight := by
      split at hchecks
      · rw [← flight_columnChecks marked e q z done f'.bank f'.pat slot (r + 1), hchecks]
      · rw [← (Prod.mk.inj hchecks).1]
    have hchecked : StopsWork marked checked :=
      (StopsWork.setQuarter marked e q zc (by rw [hz', hzc])).trans (StopsWork.bump _ _ _)
    refine hchecked.trans ?_
    split
    · exact (StopsWork.mismatch _ _ _ _ _ _ _ _).trans (StopsWork.endTile _ _ _ _)
    split
    · have hq : (checked.eng e).quarter q = zc := by
        rw [eng_bump, eng_setEng, if_pos rfl, quarter_setQuarter_same]
      exact (StopsWork.setQuarter checked e q _ (by rw [hq])).trans (StopsWork.tileDone _ _)
    · exact StopsWork.refl checked
  · next hnone => exact (hnone u cmd htile hcmd).elim

end Commit

/-! ## The statement -/

/-- Settles O9: a commit writes its row (`accGet_commitWrite_col`) and then only counts, checks and reports
(`commitRow_stopsWork`). -/
theorem commitsWriteTheirRow : Obligations.CommitsWriteTheirRow := by
  refine ⟨?_, ?_⟩
  · rintro s e q flip _ f rest u cmd rfl hflight htile hcmd hfree
    obtain ⟨t, hwt, hrest, ht⟩ := commitRow_stopsWork (flip := flip) hflight htile hcmd hfree
    have hframe := (hwt.trans ht).frame
    obtain ⟨hvals, hadds⟩ := length_commitVals s.m e.toNat q.toNat u f (descCmdId cmd.desc)
    have hacc : ∀ a, (commitRow s.m e.toNat q.toNat flip).accGet a =
        (s.m.commitWrite e.toNat q.toNat (u.slot + f.row / u.side) (f.row % u.side) u
          (disturbed flip (commitVals s.m e.toNat q.toNat u f (descCmdId cmd.desc)).vals)
          (commitVals s.m e.toNat q.toNat u f (descCmdId cmd.desc)).adds).accGet a := by
      intro a
      rw [hframe]
      rfl
    refine ⟨{ s with m := commitRow s.m e.toNat q.toNat flip }, rfl, fun i n hn => ?_, fun a ha => ?_, ?_, ?_⟩
    · obtain ⟨hi, -⟩ := List.getElem?_eq_some_iff.1 hn
      rw [hacc, accGet_commitWrite_col _ _ _ _ _ _ _ _ (by rw [length_disturbed, hvals]) hadds hn,
        getD_disturbed _ _ (by rw [hvals]; exact hi)]
    · rw [hacc, accGet_commitWrite_other _ _ _ _ _ _ _ _ ha]
    · exact (ht.flight _ _).trans (by rw [hrest])
    · rw [hframe, commitWrite_frame]
  · rintro s e q flip _ f rest u cmd rfl hflight htile hcmd hpending
    have hwait := commitRow_of_pending (flip := flip) hflight htile hcmd hpending
    refine ⟨{ s with m := commitRow s.m e.toNat q.toNat flip }, rfl, ?_⟩
    rw [hwait]
    refine ⟨?_, fun q' hq => ?_, fun g hg => ?_, rfl⟩
    · rw [eng_setEng, if_pos rfl, quarter_setQuarter_same]
    · rw [eng_setEng, if_pos rfl, quarter_setQuarter, if_neg hq]
    · rw [eng_setEng, if_neg hg]

end Sys2Proof.Proofs
end

section
/-! SUPPORT. The pour ramp and the start limiter (04 R101 to R105). -/

namespace Sys2Proof.Proofs

open Sys2Proof.Machine Sys2Proof.Laws

/-! ## The ramp -/

/-- A quarter at a step boundary keeps what it used beyond the level; at level 0 it keeps nothing (R101). -/
theorem quarter_nextStep (n : Engine) (q : Nat) :
    n.nextStep.quarter q = { n.quarter q with used := if n.level = 0 then 0 else (n.quarter q).used - n.level } :=
  tabGet_tabMap _ _ n.q q (by simp)

section Boundary

variable (s : Mach) (e : Nat)

/-- The engine after a step boundary (R101, R103, R105). -/
def boundaryEngine : Engine :=
  let n := s.eng e
  if n.level = 0 then
    if (s.core (e / 4)).fenced || (s.core (e / 4)).closing then
      { n.nextStep with lastRow := none, rampReq := false, granted := false, stopped := true }
    else if n.stopped then
      { n.nextStep with lastRow := none, rampReq := { n with stopped := false }.rowWaiting, granted := false, stopped := false }
    else if n.granted then { n.nextStep with lastRow := none, level := 1, granted := false, rampReq := false }
    else { n.nextStep with lastRow := none, rampReq := n.rampReq || n.rowWaiting }
  else
    let l := if n.realRow || n.rowWaiting then min 8 (n.level + 1) else n.level - 1
    { n.nextStep with level := l, lastRow := if l = 0 then none else n.lastRow }

theorem rampBoundary_eq : rampBoundary s e = s.setEng e (boundaryEngine s e) := by
  unfold rampBoundary boundaryEngine
  extract_lets n off wants nx nx'
  split
  · split
    · rfl
    · split
      · rfl
      · split <;> rfl
  · rfl

/-- What a boundary leaves of an engine, and that its quarters are those of the next step. -/
theorem boundaryEngine_frame :
    (boundaryEngine s e).q = (s.eng e).nextStep.q ∧
    boundaryEngine s e = { s.eng e with
      level := (boundaryEngine s e).level, q := (boundaryEngine s e).q, realRow := false, lastRow := (boundaryEngine s e).lastRow,
      rampReq := (boundaryEngine s e).rampReq, granted := (boundaryEngine s e).granted, stopped := (boundaryEngine s e).stopped } := by
  unfold boundaryEngine
  extract_lets n l
  split
  · split
    · exact ⟨rfl, rfl⟩
    · split
      · exact ⟨rfl, rfl⟩
      · split <;> exact ⟨rfl, rfl⟩
  · exact ⟨rfl, rfl⟩

/-- Above level 0 a boundary changes the level by one and leaves request, grant and stop. -/
theorem boundaryEngine_above (h : 0 < (s.eng e).level) :
    (boundaryEngine s e).level =
      (if (s.eng e).realRow || (s.eng e).rowWaiting then min 8 ((s.eng e).level + 1) else (s.eng e).level - 1) ∧
    (boundaryEngine s e).rampReq = (s.eng e).rampReq ∧ (boundaryEngine s e).granted = (s.eng e).granted ∧
    (boundaryEngine s e).stopped = (s.eng e).stopped := by
  unfold boundaryEngine
  rw [if_neg h.ne']
  exact ⟨rfl, rfl, rfl, rfl⟩

variable (h0 : (s.eng e).level = 0)
include h0

/-- At level 0 in a fenced or closing core the engine is stopped (R105). -/
theorem boundaryEngine_fenced (h : (s.core (e / 4)).fenced = true ∨ (s.core (e / 4)).closing = true) :
    boundaryEngine s e =
      { (s.eng e).nextStep with lastRow := none, rampReq := false, granted := false, stopped := true } := by
  unfold boundaryEngine
  rw [if_pos h0, if_pos (by simpa using h)]

variable (hf : (s.core (e / 4)).fenced = false) (hc : (s.core (e / 4)).closing = false)
include hf hc

/-- At level 0 a stopped engine is stopped no more. -/
theorem boundaryEngine_stopped (h : (s.eng e).stopped = true) :
    boundaryEngine s e = { (s.eng e).nextStep with
      lastRow := none, rampReq := { s.eng e with stopped := false }.rowWaiting, granted := false, stopped := false } := by
  unfold boundaryEngine
  rw [if_pos h0, if_neg (by simp [hf, hc]), if_pos h]

/-- At level 0 an engine with a grant starts. -/
theorem boundaryEngine_granted (h : (s.eng e).stopped = false) (hg : (s.eng e).granted = true) :
    boundaryEngine s e = { (s.eng e).nextStep with lastRow := none, level := 1, granted := false, rampReq := false } := by
  unfold boundaryEngine
  rw [if_pos h0, if_neg (by simp [hf, hc]), if_neg (by simp [h]), if_pos hg]

/-- At level 0 an engine without a grant waits for one where it has rows. -/
theorem boundaryEngine_waiting (h : (s.eng e).stopped = false) (hg : (s.eng e).granted = false) :
    boundaryEngine s e =
      { (s.eng e).nextStep with lastRow := none, rampReq := (s.eng e).rampReq || (s.eng e).rowWaiting } := by
  unfold boundaryEngine
  rw [if_pos h0, if_neg (by simp [hf, hc]), if_neg (by simp [h]), if_neg (by simp [hg])]

end Boundary

/-! ## The start limiter -/

/-- Whether engine i of a die waits for a grant. -/
def awaitsGrant (s : Mach) (d i : Nat) : Bool := (s.eng (512 * d + i)).rampReq && !(s.eng (512 * d + i)).granted

theorem awaitsGrant_eq_false_iff (s : Mach) (d i : Nat) :
    awaitsGrant s d i = false ↔ (s.eng (512 * d + i)).rampReq = false ∨ (s.eng (512 * d + i)).granted = true := by
  rw [awaitsGrant, Bool.and_eq_false_iff, Bool.not_eq_false']

/-- The engines of a die in the order in which a grant looks for one that waits (R104). -/
def grantOrder (last : Nat) : List Nat := (List.range 512).map fun i => (last + 1 + i) % 512

/-- A grant that finds no engine waiting, or may not be made, changes nothing. -/
theorem limiterGrant_eq_self (s : Mach) (d : Nat)
    (h : s.frozen = true ∨ (s.limiter d).tokens = 0 ∨ ∀ i, i < 512 → awaitsGrant s d i = false) : limiterGrant s d = s := by
  unfold limiterGrant
  extract_lets l
  split
  · rfl
  · next hopen =>
    have hnone : (grantOrder l.last).find? (awaitsGrant s d) = none := by
      have hall : ∀ i, i < 512 → awaitsGrant s d i = false := by
        simp only [Bool.or_eq_true, decide_eq_true_eq, not_or] at hopen
        exact (h.resolve_left hopen.1).resolve_left hopen.2
      simp only [grantOrder, List.find?_eq_none, List.mem_map]
      rintro _ ⟨j, -, rfl⟩
      simp [hall _ (Nat.mod_lt _ (by decide))]
    unfold grantOrder awaitsGrant at hnone
    rw [hnone]

/-- A grant goes to the first engine of the order that waits. -/
theorem limiterGrant_eq (s : Mach) (d k : Nat) (hfrozen : s.frozen = false) (htokens : 0 < (s.limiter d).tokens) (hk : k < 512)
    (hbefore : ∀ j, j < k → awaitsGrant s d (((s.limiter d).last + 1 + j) % 512) = false)
    (hwaits : awaitsGrant s d (((s.limiter d).last + 1 + k) % 512) = true) :
    let i := ((s.limiter d).last + 1 + k) % 512
    limiterGrant s d = (s.setEng (512 * d + i) { s.eng (512 * d + i) with granted := true }).setLimiter d
      ⟨(s.limiter d).tokens - 1, i, (s.limiter d).out ++ [i]⟩ := by
  have hfind : (grantOrder (s.limiter d).last).find? (awaitsGrant s d) = some (((s.limiter d).last + 1 + k) % 512) := by
    rw [List.find?_eq_some_iff_getElem]
    refine ⟨hwaits, k, by simpa [grantOrder] using hk, by simp [grantOrder], fun j hj => ?_⟩
    simp [grantOrder, hbefore j hj]
  unfold grantOrder awaitsGrant at hfind
  have hopen : ¬(s.frozen || decide ((s.limiter d).tokens = 0)) = true := by simp [hfrozen, htokens.ne']
  intro i
  unfold limiterGrant
  dsimp only
  rw [if_neg hopen, hfind]

theorem limiterReturn_of_out_cons (s : Mach) (d i : Nat) (l : List Nat) (h : (s.limiter d).out = i :: l) :
    limiterReturn s d = s.setLimiter d { s.limiter d with tokens := (s.limiter d).tokens + 1, out := l } := by
  unfold limiterReturn
  extract_lets x
  rw [h]

theorem limiterReturn_of_out_nil (s : Mach) (d : Nat) (h : (s.limiter d).out = []) : limiterReturn s d = s := by
  unfold limiterReturn
  extract_lets x
  rw [h]

/-! ## The statement -/

/-- Settles O11: a boundary gives the engine of `boundaryEngine`, by the cases of level, fence, stop and grant; a grant is the first
of `grantOrder` that waits. -/
theorem rampsAndTheirLimiter : Obligations.RampsAndTheirLimiter := by
  refine ⟨?_, ?_, ?_, ?_, ?_⟩
  · rintro s e _ rfl
    obtain ⟨hq, hframe⟩ := boundaryEngine_frame s.m e.toNat
    refine ⟨{ s with m := rampBoundary s.m e.toNat }, boundaryEngine s.m e.toNat, rfl, by simp [rampBoundary_eq], fun q => ?_,
      hframe, ?_, ?_, ?_, ?_, ?_, ?_, ?_, fun g hg => by simp [rampBoundary_eq, hg], by rw [rampBoundary_eq]; rfl⟩
    · rw [Engine.quarter, hq]
      exact quarter_nextStep _ q
    · intro h hrows
      rw [(boundaryEngine_above s.m _ h).1, if_pos (by simpa using hrows)]
    · intro h hreal hwaiting
      rw [(boundaryEngine_above s.m _ h).1, if_neg (by simp [hreal, hwaiting])]
    · exact fun h => (boundaryEngine_above s.m _ h).2
    · intro h0 hf hc hs hg
      rw [boundaryEngine_granted s.m _ h0 hf hc hs hg]
      exact ⟨rfl, rfl, rfl⟩
    · intro h0 hf hc hs hg
      rw [boundaryEngine_waiting s.m _ h0 hf hc hs hg]
      exact ⟨h0, rfl, hg⟩
    · intro h0 hf hc hs
      rw [boundaryEngine_stopped s.m _ h0 hf hc hs]
      exact ⟨h0, rfl, rfl, rfl⟩
    · intro h0 hfc
      rw [boundaryEngine_fenced s.m _ h0 hfc]
      exact ⟨h0, rfl, rfl, rfl⟩
  · intro s d k hfrozen htokens hk hbefore hreq hgranted
    have hgrant := limiterGrant_eq s.m d.toNat k hfrozen htokens hk
      (fun j hj => (awaitsGrant_eq_false_iff _ _ _).2 (hbefore j hj)) (by rw [awaitsGrant, hreq, hgranted]; rfl)
    refine ⟨{ s with m := limiterGrant s.m d.toNat }, rfl, ?_, fun g => ?_, fun d' hd => ?_, ?_⟩
    · simp [hgrant]
    · by_cases hg : g = 512 * d.toNat + ((s.m.limiter d.toNat).last + 1 + k) % 512
      · subst hg; simp [hgrant]
      · simp [hgrant, hg]
    · simp [hgrant, hd]
    · rw [hgrant]; rfl
  · intro s d h
    have hwaits : s.m.frozen = true ∨ (s.m.limiter d.toNat).tokens = 0 ∨ ∀ i, i < 512 → awaitsGrant s.m d.toNat i = false :=
      h.imp_right (Or.imp_right fun hall i hi => (awaitsGrant_eq_false_iff _ _ _).2 (hall i hi))
    exact congrArg (fun m => Host.Outcome.next { s with m := m }) (limiterGrant_eq_self s.m d.toNat hwaits)
  · intro s d i l h
    refine ⟨{ s with m := limiterReturn s.m d.toNat }, rfl, ?_, fun d' hd => ?_, ?_⟩
    · simp [limiterReturn_of_out_cons _ _ _ _ h]
    · simp [limiterReturn_of_out_cons _ _ _ _ h, hd]
    · rw [limiterReturn_of_out_cons _ _ _ _ h]; rfl
  · intro s d h
    exact congrArg (fun m => Host.Outcome.next { s with m := m }) (limiterReturn_of_out_nil s.m d.toNat h)

end Sys2Proof.Proofs
end

section
/-! SUPPORT. Admission and joining (05 R115, R132; 14 R335; 04 R89). -/

namespace Sys2Proof.Proofs

open Sys2Proof.Machine Sys2Proof.Laws

/-! ## The base of a reservation -/

/-- A fold that keeps the least of a list keeps a member of it. -/
theorem mem_of_foldl_least (l : List Nat) (o : Option Nat) (b : Nat)
    (h : l.foldl (fun (m : Option Nat) b => match m with
      | some x => if b < x then some b else m
      | none => some b) o = some b) : o = some b ∨ b ∈ l := by
  induction l generalizing o with
  | nil => exact Or.inl h
  | cons a l ih =>
    rcases ih _ h with h | h
    · cases o with
      | none => exact Or.inr (by simp_all)
      | some x =>
        dsimp only at h
        split at h
        · exact Or.inr (by simp_all)
        · exact Or.inl h
    · exact Or.inr (List.mem_cons_of_mem _ h)

/-- The base found for n units lies with them in the buffer and beside every reservation (R132). -/
theorem fits_of_lowBase {rs : List (Nat × Nat)} {n b : Nat} (h : lowBase rs n = some b) :
    b + n ≤ 2048 ∧ ∀ r ∈ rs, b + n ≤ r.1 ∨ r.1 + r.2 ≤ b := by
  unfold lowBase at h
  extract_lets fits at h
  have hmem := (mem_of_foldl_least _ _ _ h).resolve_left nofun
  have hfits := (List.mem_filter.1 hmem).2
  simpa only [fits, Bool.and_eq_true, decide_eq_true_eq, List.all_eq_true, Bool.or_eq_true] using hfits

/-! ## Commands -/

theorem cmd?_id {s : Mach} {id : Nat} {c : Cmd} (h : s.cmd? id = some c) : c.id = id := by
  simpa using List.find?_some h

/-- A command replaced by one of its number is found in its place. -/
theorem cmd?_setCmd_same {s : Mach} {id : Nat} {c d : Cmd} (h : s.cmd? id = some c) (hd : d.id = id) :
    (s.setCmd d).cmd? id = some d := by
  have hkeeps : ((fun x : Cmd => x.id == id) ∘ fun x => if x.id == d.id then d else x) = fun x => x.id == id := by
    funext x
    simp only [Function.comp, hd, beq_iff_eq]
    split
    · next hx => rw [hd, hx]
    · rfl
  unfold Mach.cmd? Mach.setCmd
  rw [List.find?_map, hkeeps]
  change Option.map _ (s.cmd? id) = _
  rw [h, Option.map_some, if_pos (by simp [cmd?_id h, hd])]

/-- The end of the waits of a unit below the ladle units leaves a command's slots. -/
theorem slots_dropWaits {s : Mach} {id unit no : Nat} {c : Cmd} (h : s.cmd? id = some c) (hunit : unit < 544) :
    ∃ d, (s.dropWaits id fun w => w.is unit no).cmd? id = some d ∧ d.slots = c.slots := by
  unfold Mach.dropWaits
  rw [h]
  dsimp only
  split
  · rw [freeSlots_is s _ no hunit]
    have hid : c.id = id := cmd?_id h
    exact ⟨{ c with heldOn := c.heldOn.filter fun w => !w.is unit no }, cmd?_setCmd_same h hid, rfl⟩
  · exact ⟨c, h, rfl⟩

/-- A command none of whose waits is of a unit's transaction keeps them all. -/
theorem dropWaits_eq_self {s : Mach} {id : Nat} {p : HeldWait → Bool}
    (h : ∀ c, s.cmd? id = some c → c.heldOn.any p = false) : s.dropWaits id p = s := by
  unfold Mach.dropWaits
  split
  · rfl
  · next c hc => rw [if_neg (by simp [h c hc])]

/-! ## Admission -/

section Admission

variable {s y : Mach} {k id i n : Nat} {l : List (Nat × Nat)} {c c' : Cmd} {sl : Slot}
  (hwaiting : (s.cluster k).waiting = (id, i) :: l) (hcmd : s.cmd? id = some c) (hopen : (s.cluster k).fenced = false)
  (hruns : s.runs c.ctx = true) (hsafe : s.safe = false) (hfrozen : s.frozen = false) (hread : readRes c s = .ok n y)
  (hcmd' : y.cmd? id = some c') (hslot : c'.slots[i]? = some sl)
include hwaiting hcmd hopen hruns hsafe hfrozen hread

/-- With no room the slot waits on. -/
theorem admitSlot_of_noRoom (hfull : lowBase ((y.cluster k).res.map fun r => r.2) n = none) :
    admitSlot s k = s.settle id (512 + k) 35 (.ok () y) := by
  unfold admitSlot
  rw [hwaiting]
  dsimp only
  rw [hcmd]
  dsimp only
  rw [if_neg (by simp [hopen, hruns, hsafe, hfrozen]), hread, Res.bind,
    hfull]

include hcmd' hslot

/-- With room the slot is admitted and its reservation made. -/
theorem admitSlot_of_room {b : Nat} (hroom : lowBase ((y.cluster k).res.map fun r => r.2) n = some b) :
    admitSlot s k = s.settle id (512 + k) 35 (.ok () ((y.setCluster k { y.cluster k with
      res := (y.cluster k).res ++ [((id, i), b, n)], resFree := (y.cluster k).resFree - n, waiting := l }).setCmd
        (c'.setSlot i { sl with admitted := true }))) := by
  unfold admitSlot
  rw [hwaiting]
  dsimp only
  rw [hcmd]
  dsimp only
  rw [if_neg (by simp [hopen, hruns, hsafe, hfrozen]), hread, Res.bind,
    hroom, hcmd']
  dsimp only
  rw [hslot]

end Admission

/-! ## Joining -/

theorem getElem?_setSlot {c : Cmd} {i : Nat} (x : Slot) (h : i < c.slots.length) : (c.setSlot i x).slots[i]? = some x := by
  simp [Cmd.setSlot, h]

/-- Dropping the entries of some keys leaves the others as they were. -/
theorem tabGet_filter_key {α : Type} (d : Nat → α) (t : Tab α) (keep : Nat → Bool) (k : Nat) :
    tabGet d (t.filter fun p => keep p.1) k = if keep k then tabGet d t k else d k := by
  induction t with
  | nil => simp
  | cons p t ih =>
    by_cases hp : keep p.1 = true
    · rw [List.filter_cons, if_pos hp]
      by_cases hk : p.1 = k
      · simp [tabGet, hk, hk ▸ hp]
      · simpa [tabGet, hk] using ih
    · rw [List.filter_cons, if_neg hp, ih]
      by_cases hk : p.1 = k
      · simp [hk ▸ hp]
      · simp [tabGet, hk]

theorem quarter_emptied (en : Engine) (q : Nat) : en.emptied.quarter q = { en.quarter q with
    intSlots := [], rowY := [], rowG := [], rowS := [], rowN := [], colY := [], colG := [], strSum := [], strAbs := [] } :=
  tabGet_tabMap _ _ en.q q rfl

section Empty

variable (s : Mach) (c : Nat)

/-- The slots of a core's own engines become empty. -/
theorem eng_emptySlots (e : Nat) : (s.emptySlots c).eng e = if e / 4 = c then (s.eng e).emptied else s.eng e := by
  have hown : e ∈ (List.range 4).map (fun i => 4 * c + i) ↔ e / 4 = c := by
    simp only [List.mem_map, List.mem_range]
    exact ⟨by rintro ⟨i, hi, rfl⟩; omega, fun h => ⟨e % 4, by omega, by omega⟩⟩
  have hnodup : ((List.range 4).map fun i => 4 * c + i).Nodup :=
    List.nodup_range.map fun i j h => Nat.add_left_cancel h
  refine (eng_each_setEng (fun i => 4 * c + i) Engine.emptied (List.range 4) _ hnodup e).trans ?_
  simp only [hown]
  rfl

theorem emptySlots_frame : s.emptySlots c =
    { s with engines := (s.emptySlots c).engines, acc := (s.emptySlots c).acc, accAdds := (s.emptySlots c).accAdds } := by
  rfl

theorem core_emptySlots (d : Nat) : (s.emptySlots c).core d = s.core d := by
  rw [emptySlots_frame]
  rfl

/-- The accumulators of a core read as zero once its slots are empty (04 R88, R89). -/
theorem accGet_emptySlots (a : Nat) : (s.emptySlots c).accGet a = if a / 131072 = c then 0#32 else s.accGet a := by
  have h : (s.emptySlots c).acc = s.acc.filter fun p => p.1 / 32768 / 4 != c := rfl
  rw [Mach.accGet, h, tabGet_filter_key _ _ (fun k => k / 32768 / 4 != c)]
  have hdiv : a / 32768 / 4 = a / 131072 := Nat.div_div_eq_div_mul a 32768 4
  rw [hdiv]
  by_cases ha : a / 131072 = c <;> simp [ha, Mach.accGet]

end Empty

section Join

variable (s : Mach) (c : Nat) (cmd : Cmd) (i : Nat) (sl : Slot)

/-- A core that joins starts afresh in its slot (R115). -/
theorem core_joinAs (d : Nat) : (joinAs s c cmd i sl).2.core d = if d = c then
    { s.core c with
      cmd := some cmd.id, slot := i, place := sl.place, phase := 0, items := [], claimed := 0, empty := false, returned := false,
      report := false, trans := [], slotsFree := (s.core c).slotsFree + (s.core c).slotsHeld, xctx := cmd.ctx,
      xlate := if (s.core c).xctx = cmd.ctx then (s.core c).xlate else [], idleCycles := 0 }
    else s.core d := by
  unfold joinAs
  exact (core_emptySlots _ c d).trans (core_setCore s c _ d)

theorem eng_joinAs (e : Nat) : (joinAs s c cmd i sl).2.eng e = if e / 4 = c then (s.eng e).emptied else s.eng e :=
  eng_emptySlots _ c e

theorem accGet_joinAs (a : Nat) : (joinAs s c cmd i sl).2.accGet a = if a / 131072 = c then 0#32 else s.accGet a :=
  accGet_emptySlots _ c a

theorem joinAs_frame : (joinAs s c cmd i sl).2 = { s with
    cores := (joinAs s c cmd i sl).2.cores, engines := (joinAs s c cmd i sl).2.engines, acc := (joinAs s c cmd i sl).2.acc,
    accAdds := (joinAs s c cmd i sl).2.accAdds, cmds := (joinAs s c cmd i sl).2.cmds } := by
  unfold joinAs
  extract_lets old t u cmd'
  have hu : u = { t with engines := u.engines, acc := u.acc, accAdds := u.accAdds } := emptySlots_frame t c
  generalize u.engines = engines, u.acc = acc, u.accAdds = adds at hu
  clear_value u
  subst hu
  rfl

/-- A core that may not join, or a freeze, leaves everything as it is. -/
theorem joinCore_eq_self (h : s.coreFree c = false ∨ s.frozen = true) : joinCore s c = s := by
  unfold joinCore
  rw [if_pos (by simpa using h)]

variable {s c cmd i sl}

/-- A free core for which a slot waits joins it, and its plan is loaded. -/
theorem joinCore_eq {y : Mach} (hfree : s.coreFree c = true) (hfrozen : s.frozen = false)
    (hslot : s.joinSlot (c / 16) = some (cmd, i, sl))
    (hload : loadPlan (joinAs s c cmd i sl).1 c (joinAs s c cmd i sl).2 = .ok () y) :
    joinCore s c = y.dropWaits cmd.id fun w => w.is c 3 := by
  unfold joinCore
  rw [if_neg (by simp [hfree, hfrozen]), hslot]
  dsimp only
  rw [hload]
  rfl

end Join

/-! ## The statement -/

/-- Settles O12: a reservation is made where `lowBase` finds room (`fits_of_lowBase`), and the slot of the command is set in its
place; a core joins as `joinAs` says. -/
theorem admissionAndJoining : Obligations.AdmissionAndJoining := by
  refine ⟨?_, ?_, ?_⟩
  · intro s k id i l c c' n y sl hwaiting hcmd hopen hruns hsafe hfrozen hread hcmd' hslot
    have hunit : 512 + k.toNat < 544 := by have := k.isLt; omega
    refine ⟨fun hfull => ?_, fun b hroom => ⟨(fits_of_lowBase hroom).1, fun r hr => ?_, ?_⟩⟩
    · have hstep := admitSlot_of_noRoom hwaiting hcmd hopen hruns hsafe hfrozen hread hfull
      refine ⟨{ s with m := admitSlot s.m k.toNat }, rfl, ?_⟩
      rw [hstep, settle_ok_frame _ _ _ _ hunit]
    · exact (fits_of_lowBase hroom).2 r.2 (List.mem_map_of_mem hr)
    · have hstep := admitSlot_of_room hwaiting hcmd hopen hruns hsafe hfrozen hread hcmd' hslot hroom
      set x : ClusterSt := { y.cluster k.toNat with
        res := (y.cluster k.toNat).res ++ [((id, i), b, n)], resFree := (y.cluster k.toNat).resFree - n, waiting := l }
      set d := c'.setSlot i { sl with admitted := true }
      have hid : c'.id = id := cmd?_id hcmd'
      have hd : (y.setCluster k.toNat x |>.setCmd d).cmd? id = some d :=
        cmd?_setCmd_same (s := y.setCluster k.toNat x) hcmd' hid
      obtain ⟨z, hz, hslots⟩ := slots_dropWaits (no := 35) hd hunit
      have hframe := hstep.trans (settle_ok_frame _ _ _ _ hunit)
      generalize (s.m.settle id (512 + k.toNat) 35 _).cmds = cmds at hframe
      refine ⟨{ s with m := admitSlot s.m k.toNat }, z, rfl, ?_, fun j hj => ?_, ?_, ?_, ?_⟩
      · rw [hframe]
        exact (cluster_setCluster y _ x _).trans (if_pos rfl)
      · rw [hframe]
        exact (cluster_setCluster y _ x _).trans (if_neg hj)
      · rw [hstep]
        exact hz
      · rw [hslots]
        exact getElem?_setSlot _ (List.getElem?_eq_some_iff.1 hslot).1
      · rw [hframe]
        rfl
  · intro s c cmd z i sl w y hfree hfrozen hslot hjoin hload hheld
    obtain ⟨rfl, rfl⟩ : (joinAs s.m c.toNat cmd i sl).1 = z ∧ (joinAs s.m c.toNat cmd i sl).2 = w :=
      Prod.mk.inj hjoin
    have hstep := (joinCore_eq hfree hfrozen hslot hload).trans (dropWaits_eq_self hheld)
    have hcore := (core_joinAs s.m c.toNat cmd i sl c.toNat).trans (if_pos rfl)
    have hexec : exec (.coreJoin c) s = .next { s with m := y } := by
      rw [← hstep]
      rfl
    rw [hcore]
    refine ⟨hexec, rfl, rfl, rfl, rfl, rfl, rfl, rfl, fun d hd => ?_,
      fun e hlo hhi => ?_, fun e he => ?_, fun a => accGet_joinAs s.m c.toNat cmd i sl a, fun hi => getElem?_setSlot _ hi,
      joinAs_frame s.m c.toNat cmd i sl⟩
    · rw [core_joinAs, if_neg hd]
    · rw [eng_joinAs, if_pos (by omega)]
      exact ⟨rfl, fun q => quarter_emptied _ q⟩
    · rw [eng_joinAs, if_neg he]
  · intro s c h
    refine congrArg (fun m => Host.Outcome.next { s with m := m }) (joinCore_eq_self s.m c.toNat ?_)
    rcases h with h | h | h | h | h
    · exact Or.inr h
    all_goals exact Or.inl (by simp [Mach.coreFree, h])

end Sys2Proof.Proofs
end

section
/-! SUPPORT. The statement on the checks of SRAM, residues, links and clocks (17 R407 to R410). A restartable fault stops a command
whose entries in flight still go on to their end (13 R320), so a stopped command can have a drain-pending row. An uncorrectable error
of that row leaves it stopped, and its replay follows the fault that stopped it; the statement has it wait for a replay at once. -/

namespace Sys2Proof.Proofs

open Sys2Proof.Machine Sys2Proof.Laws Sys2Proof.Safety

/-- A tile of full mode whose one row is committed and still to drain. -/
def stoppedTile : EngTile := { drainedTile with quarter := false }

/-- The tile's command: a restartable fault has stopped it, and it still has its core. -/
def stoppedCmd : Cmd := { drainedCmd with st := .stopped, slots := [{ cluster := 0, place := 0, admitted := true, cores := [0] }] }

/-- A module whose core 0 has the tile's entry of that command in flight. -/
def stoppedState : State :=
  { State.reset with m := { ({} : Mach) with
      cmds := [stoppedCmd], nextCmd := 1,
      cores := [(0, { cmd := some 0, items := [{ index := 0, parity := 0, entries := [⟨1, 0, 1, false⟩] }] })],
      engines := [(0, { q := [(0, { tiles := [stoppedTile], pendingRows := [0] })] })] } }

/-- Row 0 of slot 0 of engine 0 of `stoppedState` meets the hypotheses on a drain-pending row of full mode. -/
theorem stoppedState_row_pends : (stoppedState.m.eng 0).mode = false ∧ 0 ∈ ((stoppedState.m.eng 0).quarter 0).pendingRows ∧
    (((stoppedState.m.eng 0).quarter 0).tiles.find? fun t => t.drain && decide (t.slot ≤ 0) &&
      decide (0 < t.slot + ceilDiv t.rows t.side)) = some stoppedTile ∧
    stoppedState.m.cmd? stoppedTile.cmd = some stoppedCmd ∧ stoppedCmd.replays < 16 := by
  decide +kernel

/-- The row's error leaves the stopped command as it was. -/
theorem stoppedState_accumulatorUe_cmd : (accumulatorUe stoppedState.m 0 0 0).cmd? stoppedTile.cmd = some stoppedCmd := by
  decide +kernel

/-- Refutes O53: an uncorrectable error of a drain-pending row does not replay a command that a restartable fault has stopped. In
`stoppedState` the command of the row's tile is stopped with an entry in flight, and so it is after the error. -/
theorem not_checksAnswerByTheirMechanism : ¬ Obligations.ChecksAnswerByTheirMechanism := by
  rintro ⟨-, -, haccumulator, -⟩
  obtain ⟨hmode, hpends, htile, hcmd, hreplays⟩ := stoppedState_row_pends
  obtain ⟨-, -, -, -, -, -, hreplay⟩ := haccumulator stoppedState 0 0 0 0 _ rfl rfl
  obtain ⟨⟨z, hz, hst, -, -⟩, -⟩ := hreplay stoppedTile stoppedCmd hmode hpends htile hcmd hreplays
  obtain rfl : z = stoppedCmd := Option.some.inj (hz.symm.trans stoppedState_accumulatorUe_cmd)
  exact absurd hst (by decide)

end Sys2Proof.Proofs
end

section
/-! SUPPORT. The operations of a tundish on its granule (05 R134, R135). -/

namespace Sys2Proof.Proofs

open Sys2Proof.Machine Sys2Proof.Laws

/-! ## Fields beside a replaced one -/

/-- What lies above a replaced field stands. -/
theorem setBits_div_two_pow {n hi lo v k : Nat} (h : lo ≤ hi) (hk : hi < k) : setBits n hi lo v / 2 ^ k = n / 2 ^ k := by
  apply Nat.eq_of_testBit_eq
  intro i
  rw [Nat.testBit_div_two_pow, Nat.testBit_div_two_pow, testBit_setBits _ _ _ _ _ h, if_neg (by omega)]

/-- A field of another number put in the place of one brings that number's bits. -/
theorem testBit_setBits_bits (m n : Nat) {hi lo : Nat} (i : Nat) (h : lo ≤ hi) :
    (setBits m hi lo (bits n hi lo)).testBit i = if lo ≤ i ∧ i ≤ hi then n.testBit i else m.testBit i := by
  rw [testBit_setBits _ _ _ _ _ h]
  split
  · next hi' =>
    rw [testBit_bits _ _ _ _ h, show lo + (i - lo) = i by omega]
    simp [show i - lo ≤ hi - lo by omega]
  · rfl

theorem bits_lt (n hi lo : Nat) : bits n hi lo < 2 ^ (hi + 1 - lo) := Nat.mod_lt _ (by positivity)

/-! ## The operations, case by case -/

section Operations

variable {g : Nat}

/-- With indices returned, CLAIM takes the one returned last. -/
theorem tundClaim_of_returned {n : Nat} (h : bits g 135 128 = n + 1) :
    tundClaim g = (setBits g 135 128 n, some (bits g (32 * n + 287) (32 * n + 256))) := by
  simp [tundClaim, h]

theorem tundClaim_of_next (h : bits g 135 128 = 0) (hnext : bits g 31 0 < bits g 63 32) :
    tundClaim g = (setBits g 31 0 (bits g 31 0 + 1), some (bits g 31 0)) := by
  simp [tundClaim, h, hnext]

theorem tundClaim_of_limit (h : bits g 135 128 = 0) (hlimit : bits g 63 32 ≤ bits g 31 0) : tundClaim g = (g, none) := by
  simp [tundClaim, h, Nat.not_lt.2 hlimit]

theorem tundReturn_of_lt (i : Nat) (h : bits g 135 128 < 56) : tundReturn g i = some
    (setBits (setBits g (32 * bits g 135 128 + 287) (32 * bits g 135 128 + 256) i) 135 128 (bits g 135 128 + 1)) := by
  simp [tundReturn, h]

theorem tundReturn_of_full (i : Nat) (h : 56 ≤ bits g 135 128) : tundReturn g i = none := by
  simp [tundReturn, Nat.not_lt.2 h]

end Operations

/-! ## The granule after a RETURN -/

section Return

variable (g i : Nat) {n : Nat} (hn : n < 56)

/-- The granule of a tundish with n indices returned, after a RETURN. -/
def returnedTo (n : Nat) : Nat := setBits (setBits g (32 * n + 287) (32 * n + 256) i) 135 128 (n + 1)

/-- A field below the returned indices that does not meet their count stands. -/
theorem bits_returnedTo_low {hi lo : Nat} (h : lo ≤ hi) (hlow : hi < 128) : bits (returnedTo g i n) hi lo = bits g hi lo := by
  rw [returnedTo, bits_setBits_other _ _ _ _ _ _ (by omega) h (by omega), bits_setBits_other _ _ _ _ _ _ (by omega) h (by omega)]

include hn in
theorem bits_returnedTo_count : bits (returnedTo g i n) 135 128 = n + 1 := by
  rw [returnedTo, bits_setBits_same _ _ _ _ (by omega), Nat.mod_eq_of_lt (by omega)]

/-- The returned index stands behind those returned before. -/
theorem bits_returnedTo_new (hi : i < 2 ^ 32) : bits (returnedTo g i n) (32 * n + 287) (32 * n + 256) = i := by
  rw [returnedTo, bits_setBits_other _ _ _ _ _ _ (by omega) (by omega) (by omega), bits_setBits_same _ _ _ _ (by omega),
    show 32 * n + 287 + 1 - (32 * n + 256) = 32 by omega, Nat.mod_eq_of_lt hi]

theorem bits_returnedTo_old {j : Nat} (hj : j < n) :
    bits (returnedTo g i n) (32 * j + 287) (32 * j + 256) = bits g (32 * j + 287) (32 * j + 256) := by
  rw [returnedTo, bits_setBits_other _ _ _ _ _ _ (by omega) (by omega) (by omega),
    bits_setBits_other _ _ _ _ _ _ (by omega) (by omega) (by omega)]

/-- With the count as it was, the counters are those of before. -/
theorem bits_setBits_returnedTo (h : bits g 135 128 = n) : bits (setBits (returnedTo g i n) 135 128 n) 135 0 = bits g 135 0 := by
  apply Nat.eq_of_testBit_eq
  intro j
  rw [testBit_bits _ _ _ _ (by omega), testBit_bits _ _ _ _ (by omega), ← h, testBit_setBits_bits _ _ _ (by omega), returnedTo,
    testBit_setBits _ _ _ _ _ (by omega), testBit_setBits _ _ _ _ _ (by omega)]
  by_cases hj : j ≤ 135
  · split
    · rfl
    · rw [if_neg (by omega)]
  · simp [hj]

end Return

/-! ## The statement -/

/-- Settles O13: what a RETURN leaves is `returnedTo`, and the CLAIM after it takes its last index; RETIRE replaces RETIRED alone. -/
theorem tundishOperations : Obligations.TundishOperations := by
  intro g i _ hi
  have hlimit := bits_lt g 63 32
  refine ⟨fun hnone hnext => ?_, tundClaim_of_limit, fun hroom => ?_, tundReturn_of_full i, ?_, ?_, ?_, ?_⟩
  · rw [tundClaim_of_next hnone hnext]
    refine ⟨rfl, ?_, setBits_div_two_pow (by omega) (by omega)⟩
    rw [bits_setBits_same _ _ _ _ (by omega), Nat.mod_eq_of_lt (by omega)]
  · have hclaim := tundClaim_of_returned (bits_returnedTo_count g i hroom)
    refine ⟨returnedTo g i (bits g 135 128), tundReturn_of_lt i hroom, bits_returnedTo_count g i hroom,
      bits_returnedTo_low g i (by omega) (by omega), ?_, ?_, fun j hj => bits_returnedTo_old g i hj⟩
    · rw [hclaim, bits_returnedTo_new g i hi]
    · rw [hclaim]
      exact bits_setBits_returnedTo g i rfl
  · exact (bits_setBits_same _ _ _ _ (by omega)).trans (Nat.mod_mod _ _)
  · rw [tundRetire, bits_setBits_same _ _ _ _ (by omega), Nat.mod_mod]
  · exact bits_setBits_other _ _ _ _ _ _ (by omega) (by omega) (by omega)
  · exact setBits_div_two_pow (by omega) (by omega)

end Sys2Proof.Proofs
end

section
/-! SUPPORT. What a part of a step that succeeds in its accesses to memory leaves of the machine (05 R111, R112; 06 R160 to R164; 12
R270; 13 R297). -/

namespace Sys2Proof.Proofs

open Sys2Proof.Machine Sys2Proof.Laws

/-! ## Relations along results -/

/-- Where a part of a step from s succeeds, R holds from s to what it leaves. -/
def Leads {α : Type} (R : Mach → Mach → Prop) (r : Res α) (s : Mach) : Prop := ∀ a t, r = .ok a t → R s t

namespace Leads

variable {R : Mach → Mach → Prop} {α β : Type} {s : Mach}

theorem ok (a : α) {t : Mach} (h : R s t) : Leads R (.ok a t) s := by
  rintro _ _ ⟨⟩
  exact h

theorem err (f : Flt) (t : Mach) : Leads R (.err f t : Res α) s := by
  intro a u h
  cases h

section

variable (htrans : ∀ a b c : Mach, R a b → R b c → R a c)
include htrans

/-- A part that follows a change of the machine. -/
theorem after {r : Res α} {t : Mach} (h : R s t) (hr : Leads R r t) : Leads R r s :=
  fun a u hu => htrans _ _ _ h (hr a u hu)

theorem bind {r : Res α} {k : α → Mach → Res β} (hr : Leads R r s) (hk : ∀ a t, Leads R (k a t) t) : Leads R (r.bind k) s := by
  cases r with
  | ok a t => exact after htrans (hr a t rfl) (hk a t)
  | err f t => exact err f t

variable (hrefl : ∀ s, R s s)
include hrefl

theorem foldRes {f : β → α → Mach → Res β} (h : ∀ b a s, Leads R (f b a s) s) (b : β) (l : List α) (s : Mach) :
    Leads R (foldRes f b l s) s := by
  induction l generalizing b s with
  | nil => exact ok b (hrefl s)
  | cons a l ih =>
    rw [Machine.foldRes]
    have ha := h b a s
    cases hf : f b a s with
    | ok b' t => exact after htrans (ha b' t hf) (ih b' t)
    | err e t => exact err e t

theorem eachRes {f : α → Mach → Res Unit} (h : ∀ a s, Leads R (f a s) s) (l : List α) (s : Mach) : Leads R (eachRes f l s) s :=
  foldRes htrans hrefl (fun _ => h) () l s

end

end Leads

/-- A relation holds along a repeated action that keeps it. -/
theorem rel_each (R : Mach → Mach → Prop) (htrans : ∀ a b c : Mach, R a b → R b c → R a c) (hrefl : ∀ s, R s s) {α : Type}
    (f : α → Mach → Mach) (h : ∀ a s, R s (f a s)) (l : List α) (s : Mach) : R s (each f l s) := by
  unfold each
  induction l generalizing s with
  | nil => exact hrefl s
  | cons a l ih => exact htrans _ _ _ (h a s) (ih (f a s))

/-! ## Accesses -/

/-- From a to b memory has been accessed: of a core only its translations can have changed, of an object neither its size nor its
leaves; translations that are each a walk's own stay so; the parts not named stand. -/
structure Accessed (a b : Mach) : Prop where
  frame : b = { a with
    near := b.near, slag := b.slag, under := b.under, cache := b.cache, regs := b.regs, objs := b.objs,
    recordsDue := b.recordsDue, cores := b.cores, leafUse := b.leafUse, slices := b.slices, scratch := b.scratch,
    stage := b.stage, cbuf := b.cbuf, free := b.free }
  core : ∀ k, b.core k = { a.core k with xlate := (b.core k).xlate }
  obj : ∀ n, (b.obj n).size64k = (a.obj n).size64k ∧ (b.obj n).leaf64k = (a.obj n).leaf64k
  leafUse : a.leafUse = .walk → b.leafUse = .walk

namespace Accessed

variable {a b c : Mach}

theorem refl (s : Mach) : Accessed s s := ⟨rfl, fun _ => rfl, fun _ => ⟨rfl, rfl⟩, id⟩

theorem trans (h : Accessed a b) (h' : Accessed b c) : Accessed a c where
  frame := by
    have hb := h.frame
    have hc := h'.frame
    rw [hb] at hc
    exact hc
  core k := by
    have hc := h'.core k
    rw [h.core k] at hc
    exact hc
  obj n := ⟨(h'.obj n).1.trans (h.obj n).1, (h'.obj n).2.trans (h.obj n).2⟩
  leafUse hw := h'.leafUse (h.leafUse hw)

/-- The named parts but cores, objects and the use of translations may change in any way. -/
theorem of_frame (h : b = { a with
    near := b.near, slag := b.slag, under := b.under, cache := b.cache, regs := b.regs, recordsDue := b.recordsDue,
    slices := b.slices, scratch := b.scratch, stage := b.stage, cbuf := b.cbuf, free := b.free }) : Accessed a b := by
  have hcores : b.cores = a.cores := by rw [h]
  have hobjs : b.objs = a.objs := by rw [h]
  have huse : b.leafUse = a.leafUse := by rw [h]
  refine ⟨?_, fun k => ?_, fun n => ?_, fun hw => huse.trans hw⟩
  · rw [hcores, hobjs, huse]
    exact h
  · rw [Mach.core, hcores]
    rfl
  · rw [Mach.obj, hobjs]
    exact ⟨rfl, rfl⟩

theorem each {α : Type} (f : α → Mach → Mach) (h : ∀ a s, Accessed s (f a s)) (l : List α) (s : Mach) :
    Accessed s (Machine.each f l s) := rel_each Accessed (fun _ _ _ => trans) refl f h l s

theorem items (h : Accessed a b) (k : Nat) : (b.core k).items = (a.core k).items := by rw [h.core k]

theorem transOf (h : Accessed a b) (k : Nat) : (b.core k).trans = (a.core k).trans := by rw [h.core k]

theorem cmds (h : Accessed a b) : b.cmds = a.cmds := by rw [h.frame]

theorem maps (h : Accessed a b) : b.maps = a.maps := by rw [h.frame]

theorem cmd? (h : Accessed a b) (id : Nat) : b.cmd? id = a.cmd? id := by rw [Mach.cmd?, h.cmds]; rfl

variable (s : Mach)

/-! ### Parts of the machine -/

theorem bump (x n : Nat) : Accessed s (s.bump x n) := of_frame (by rw [bump_frame])
theorem raise (d n : Nat) : Accessed s (s.raise d n) := of_frame (by rw [raise_frame])
theorem recordDue (r : RecordReq) : Accessed s (s.recordDue r) := of_frame rfl
theorem setSlice (g : Nat) (x : SliceSt) : Accessed s (s.setSlice g x) := of_frame rfl
theorem putBytes (pa : Nat) (l : List Byte) : Accessed s (s.putBytes pa l) := of_frame rfl
theorem scrPut (k pa : Nat) (l : List Byte) : Accessed s (s.scrPut k pa l) := of_frame rfl
theorem cbPut (k pa : Nat) (l : List Byte) : Accessed s (s.cbPut k pa l) := of_frame rfl
theorem fresh : Accessed s s.fresh.2 := of_frame rfl
theorem noteUse (n : Nat) : Accessed s { s with leafUse := s.leafUse.note n } :=
  ⟨rfl, fun _ => rfl, fun _ => ⟨rfl, rfl⟩, fun hw => congrArg (LeafUse.note · n) hw⟩
theorem setUse : Accessed s { s with leafUse := .walk } := ⟨rfl, fun _ => rfl, fun _ => ⟨rfl, rfl⟩, fun _ => rfl⟩

theorem setObj (n : Nat) (x : Obj) (hsize : x.size64k = (s.obj n).size64k) (hleaf : x.leaf64k = (s.obj n).leaf64k) :
    Accessed s (s.setObj n x) := by
  refine ⟨rfl, fun _ => rfl, fun k => ?_, id⟩
  rw [obj_setObj]
  split
  · next hk => exact hk ▸ ⟨hsize, hleaf⟩
  · exact ⟨rfl, rfl⟩

theorem setXlate (k : Nat) (l : List Nat) : Accessed s (s.setCore k { s.core k with xlate := l }) := by
  refine ⟨rfl, fun j => ?_, fun _ => ⟨rfl, rfl⟩, id⟩
  rw [core_setCore]
  split
  · next hj => rw [hj]
  · rfl

/-! ### The shared caches and the near tier (06 R160, R161; 12 R270) -/

theorem invalidateObj (n : Nat) : Accessed s (s.invalidateObj n) := by
  unfold Mach.invalidateObj
  extract_lets ms size hit t
  have ht : Accessed s t := by
    refine ⟨rfl, fun k => ?_, fun _ => ⟨rfl, rfl⟩, id⟩
    simp only [t, Mach.core]
    rw [tabGet_tabMap _ _ s.cores k rfl]
  split
  · exact ht
  · exact (ht.trans (bump _ _ _)).trans (raise _ _ _)

theorem poisonObj (n : Nat) : Accessed s (s.poisonObj n) := by
  unfold Mach.poisonObj
  extract_lets o clean t u
  split
  · exact refl s
  · have ht : Accessed s t := (setObj s n { o with poison := true, refetch := o.refetch || clean } rfl rfl).trans (bump _ _ _)
    have hu : Accessed s u := ht.trans (recordDue t _)
    split
    · exact hu
    · exact (hu.trans (setObj u n { u.obj n with present := false } rfl rfl)).trans (invalidateObj _ _)

theorem setSlag (pa : Nat) (v : Bool) : Accessed s (s.setSlag pa v) := by
  unfold Mach.setSlag
  extract_lets t
  have ht : Accessed s t := of_frame rfl
  split
  · split
    · exact ht.trans (poisonObj t _)
    · exact ht
  · exact ht

theorem dropLine (l : Line) : Accessed s (s.dropLine l) := by
  refine each _ (fun k t => ?_) _ s
  split
  · exact refl t
  · extract_lets u
    have hu : Accessed t u := of_frame rfl
    split
    · exact hu
    · exact hu.trans (setSlag u _ _)

theorem replaceSet (g set : Nat) (l : List Line) : Accessed s (s.replaceSet g set l) :=
  trans (b := s.setCacheSet g set l) (of_frame rfl) (each _ (fun x t => dropLine t x) _ _)

theorem touchLine (pa : Nat) (write : Bool) (h : Hint) : Accessed s (s.touchLine pa write h) := by
  unfold Mach.touchLine
  extract_lets g set l tag hit t others kind kept rest line
  have ht : Accessed s t := bump s _ _
  have hset : ∀ ls, Accessed s (t.replaceSet g set ls) := fun ls => ht.trans (replaceSet t g set ls)
  clear_value kind
  split
  · exact ht
  · split
    · split
      · exact (hset _).trans (bump _ _ _)
      · exact hset _
    · exact hset _

theorem touch (pa n : Nat) (write : Bool) (h : Hint) : Accessed s (s.touch pa n write h) := by
  unfold Mach.touch
  split
  · exact refl s
  · extract_lets y
    split
    · exact of_frame rfl
    · exact each _ (fun i t => touchLine t _ write h) _ s

theorem readNear (pa n : Nat) : Accessed s (s.readNear pa n).2.2 := each _ (fun _ t => bump t _ _) _ s

theorem writeSector (pa : Nat) (l : List Byte) (mark : Bool) : Accessed s (s.writeSector pa l mark) := by
  unfold Mach.writeSector
  split
  · exact bump s _ _
  · extract_lets whole t
    have ht : Accessed s t := putBytes s pa l
    split
    · split
      · exact ht.trans (setSlag t _ _)
      · exact ht
    · split
      · exact ht.trans (setSlag t _ _)
      · exact ht

theorem writeNear (pa : Nat) (l : List Byte) (mark : Bool) : Accessed s (s.writeNear pa l mark) :=
  each _ (fun (p : Nat × List Byte) t => writeSector t p.1 p.2 mark) _ s

theorem abandonReq (n : Nat) : Accessed s (s.abandonReq n) := by
  unfold Mach.abandonReq
  extract_lets o
  split
  · exact setObj s n _ rfl rfl
  · exact refl s

end Accessed

/-! ## Accesses through translation (13 R297; 05 R112) -/

/-- A part of a step whose accesses succeed has accessed memory. -/
abbrev Accesses {α : Type} (r : Res α) (s : Mach) : Prop := Leads Accessed r s

namespace Accesses

variable {α β : Type} {s : Mach}

theorem ok (a : α) {t : Mach} (h : Accessed s t) : Accesses (.ok a t) s := Leads.ok a h
theorem same (a : α) (s : Mach) : Accesses (.ok a s) s := ok a (Accessed.refl s)
theorem err (f : Flt) (t : Mach) : Accesses (.err f t : Res α) s := Leads.err f t
theorem after {r : Res α} {t : Mach} (h : Accessed s t) (hr : Accesses r t) : Accesses r s := Leads.after (R := Accessed) (fun _ _ _ => Accessed.trans) h hr
theorem bind {r : Res α} {k : α → Mach → Res β} (hr : Accesses r s) (hk : ∀ a t, Accesses (k a t) t) : Accesses (r.bind k) s :=
  Leads.bind (R := Accessed) (fun _ _ _ => Accessed.trans) hr hk
/-- A value formed of what a part has read. -/
theorem map {r : Res α} {f : α → β} (hr : Accesses r s) : Accesses (r.bind fun a t => .ok (f a) t) s := bind hr fun a t => same (f a) t
theorem foldRes {f : β → α → Mach → Res β} (h : ∀ b a s, Accesses (f b a s) s) (b : β) (l : List α) (s : Mach) :
    Accesses (foldRes f b l s) s := Leads.foldRes (R := Accessed) (fun _ _ _ => Accessed.trans) Accessed.refl h b l s
theorem eachRes {f : α → Mach → Res Unit} (h : ∀ a s, Accesses (f a s) s) (l : List α) (s : Mach) : Accesses (eachRes f l s) s :=
  Leads.eachRes (R := Accessed) (fun _ _ _ => Accessed.trans) Accessed.refl h l s
/-- Either part of a choice. -/
theorem ite {p : Prop} [Decidable p] {r r' : Res α} (hr : Accesses r s) (hr' : Accesses r' s) : Accesses (if p then r else r') s := by
  split
  · exact hr
  · exact hr'

variable (s)

theorem readTables (ctx va : Nat) : Accesses (s.readTables ctx va) s := by
  refine eachRes (fun level t => ?_) _ s
  extract_lets pa
  split
  · exact err _ _
  · exact ite (err _ _) (ok _ (Accessed.touch t _ _ _ _))

theorem walkEnd (ctx va : Nat) (a : Access) (own : Bool) : Accesses (s.walkEnd ctx va a own) s := by
  unfold Mach.walkEnd
  split
  · exact err _ _
  · next m _ =>
    extract_lets o kept x t y u wr v pa
    split
    · exact ite (err _ _) (err _ _)
    · generalize m.grants (if own then .read else a) = granted
      refine ite (err _ _) (ite (err _ _) (ok _ ?_))
      have hu : Accessed s u := by
        simp only [u]
        split
        · exact Accessed.refl s
        · have hy : Accessed s y := Accessed.setObj s _ _ rfl rfl
          exact hy.trans (Accessed.noteUse y m.obj)
      simp only [v]
      split
      · exact hu.trans (Accessed.abandonReq u _)
      · exact hu

theorem walk (ctx va : Nat) (a : Access) (own : Bool) : Accesses (s.walk ctx va a own) s :=
  ite (walkEnd s ctx va a own) ((readTables s ctx va).bind fun _ t => walkEnd t ctx va a own)

theorem pieceH (ctx : Nat) (a : Access) (own : Bool) (h : Hint) (p : Nat × Nat) : Accesses (s.pieceH ctx a own h p) s := by
  refine (walk s ctx p.1 a own).bind fun pa t => ?_
  split
  · exact err _ _
  · exact ok _ (Accessed.touch t _ _ _ _)

theorem readVaH (ctx va n : Nat) (h : Hint) : Accesses (s.readVaH ctx va n h) s := by
  refine foldRes (fun acc p t => (pieceH t ctx .read false h p).bind fun pa u => ?_) _ _ s
  have hr := Accessed.readNear u pa p.2
  split
  next l bad v heq =>
  rw [heq] at hr
  exact ite (err _ _) (ok _ hr)

theorem writeVaH (ctx va : Nat) (l : List Byte) (own : Bool) (h : Hint) : Accesses (s.writeVaH ctx va l own h) s :=
  map (foldRes (fun _ p t => (pieceH t ctx .write own h p).bind fun _ u => ok _ (Accessed.writeNear u _ _ _)) _ _ s)

theorem byCache {f : Mach → Res α} (h : ∀ t, Accesses (f t) t) : Accesses (s.byCache f) s := by
  have hf := h { s with leafUse := .cached }
  unfold Mach.byCache
  split
  · next a t heq =>
    have ht := (hf a t heq).trans (Accessed.setUse t)
    exact ok _ ⟨ht.frame, ht.core, ht.obj, fun _ => rfl⟩
  · exact err _ _

/-! ### Accesses of cores -/

theorem coreWalk (c ctx va : Nat) (a : Access) : Accesses (s.coreWalk c ctx va a) s :=
  ite (same _ s) ((after (Accessed.bump s _ _) (walk _ ctx va a false)).bind fun _ t => ok _ (Accessed.setXlate t _ _))

theorem coreXlate (c ctx va n : Nat) (a : Access) : Accesses (s.coreXlate c ctx va n a) s :=
  eachRes (fun (p : Nat × Nat) t => coreWalk t c ctx p.1 a) _ s

theorem coreReadH (c ctx cmd : Nat) (at' : Nat × Nat) (n : Nat) (h : Hint) : Accesses (s.coreReadH c ctx cmd at' n h) s := by
  unfold Mach.coreReadH
  split
  · exact (coreXlate s c ctx _ n .read).bind fun _ t => byCache t fun u => readVaH u ctx _ n h
  · exact same _ s
  · exact same _ s

theorem coreRead (c ctx cmd : Nat) (at' : Nat × Nat) (n : Nat) : Accesses (s.coreRead c ctx cmd at' n) s :=
  coreReadH s c ctx cmd at' n .none

theorem coreWriteH (c ctx cmd : Nat) (at' : Nat × Nat) (l : List Byte) (h : Hint) :
    Accesses (s.coreWriteH c ctx cmd at' l h) s := by
  unfold Mach.coreWriteH
  split
  · exact (coreXlate s c ctx _ _ .write).bind fun _ t => byCache t fun u => writeVaH u ctx _ l false h
  · exact ok _ (Accessed.scrPut s _ _ _)
  · exact ok _ (Accessed.cbPut s _ _ _)

theorem coreWrite (c ctx cmd : Nat) (at' : Nat × Nat) (l : List Byte) : Accesses (s.coreWrite c ctx cmd at' l) s :=
  coreWriteH s c ctx cmd at' l .none

theorem viaSlot (c space : Nat) {f : Mach → Res α} (h : Accesses (f s) s) : Accesses (s.viaSlot c space f) s := ite (err _ _) h

theorem viaCache (c ctx va n : Nat) (a : Access) {f : Mach → Res α} (h : ∀ t, Accesses (f t) t) :
    Accesses (s.viaCache c ctx va n a f) s :=
  (coreXlate s c ctx va n a).bind fun _ t => byCache t h

/-! ### Atomics (06 R162, R164) -/

variable {s} in
theorem underCredit (r g : Nat) {x : Res α} (h : Accesses x s) : Accesses (underCredit r g x) s := by
  unfold Machine.underCredit
  split
  · exact err _ _
  · exact err _ _
  · exact ok _ ((h _ _ rfl).trans (Accessed.setSlice _ _ _))
  · exact err _ _

theorem atomicAt (ctx va n : Nat) (wr own : Bool) : Accesses (s.atomicAt ctx va n wr own) s :=
  ite (err _ _) ((pieceH s ctx _ own .none (va, n)).bind fun _ t => ite (err _ _) (ok _ (Accessed.bump t _ _)))

theorem atomic (r ctx va n : Nat) (f : Nat → Nat) (wr own : Bool) : Accesses (s.atomic r ctx va n f wr own) s := by
  refine ite (err _ _) (underCredit _ _ ((atomicAt s ctx va n wr own).bind fun pa t => ok _ ?_))
  split
  · exact Accessed.putBytes t _ _
  · exact Accessed.refl t

theorem tundAtomic (c ctx va : Nat) (f : Nat → Nat) : Accesses (tundAtomic s c ctx va f) s :=
  viaCache s c ctx va 1 .write fun t => atomic t c ctx va 256 f true false

end Accesses

end Sys2Proof.Proofs
end

section
/-! SUPPORT. Claiming, returning and retiring work items (05 R116 to R120, R135, R136). -/

namespace Sys2Proof.Proofs

open Sys2Proof.Machine Sys2Proof.Laws

/-! ## Cores and their commands -/

section Commands

variable {s : Mach} {c id : Nat} {cmd : Cmd}

/-- The command a core works on is the one in flight of the number it holds. -/
theorem coreCmd_eq_some : s.coreCmd c = some cmd ↔ (s.core c).cmd = some cmd.id ∧ s.cmd? cmd.id = some cmd := by
  unfold Mach.coreCmd
  rw [Option.bind_eq_some_iff]
  constructor
  · rintro ⟨n, hn, hcmd⟩
    rw [cmd?_id hcmd]
    exact ⟨hn, hcmd⟩
  · rintro ⟨hn, hcmd⟩
    exact ⟨cmd.id, hn, hcmd⟩

/-- The end of the waits of a unit below the ladle units leaves a command but for its waits. -/
theorem cmd?_dropWaits {unit : Nat} (no : Nat) (hunit : unit < 544) (h : s.cmd? id = some cmd) :
    ∃ waits, (s.dropWaits id fun w => w.is unit no).cmd? id = some { cmd with heldOn := waits } := by
  unfold Mach.dropWaits
  rw [h]
  dsimp only
  split
  · rw [freeSlots_is s _ no hunit]
    have hid : cmd.id = id := cmd?_id h
    exact ⟨cmd.heldOn.filter fun w => !w.is unit no, cmd?_setCmd_same h hid⟩
  · exact ⟨cmd.heldOn, h⟩

/-- A command that has not stopped does not end its execution so (13 R320). -/
theorem endStop_eq_self (h : ∀ z, s.cmd? id = some z → z.st ≠ .stopped) : s.endStop id = s := by
  unfold Mach.endStop
  split
  · next z hz => rw [if_neg fun hstop => h z hz hstop.1]
  · rfl

theorem core_lt (c : CoreNo) : c.toNat < 544 := by
  have := c.isLt
  omega

theorem clusterUnit_lt (c : CoreNo) : 512 + c.toNat / 16 < 544 := by
  have := c.isLt
  omega

end Commands

/-! ## Claims -/

/-- Whether an item of a phase is fully masked, and so retired without executing any entry (08 R184). -/
def skipped (cmd : Cmd) (p : Phase) (i : Nat) : Bool :=
  match (p.at cmd i).lt with
  | some x => (bits cmd.desc 504 489).testBit p.no && x.masked cmd.desc
  | none => false

/-- A core, as it stands before its claim, once its tundish has answered from granule g. -/
def claimedCore (cmd : Cmd) (p : Phase) (k : CoreSt) (g : Nat) (xlate : List Nat) : CoreSt :=
  match (tundClaim g).2 with
  | some i => { k with items := k.items ++ [{ index := i, parity := k.claimed % 2, skip := skipped cmd p i }],
                       claimed := k.claimed + 1, empty := false, returned := false, xlate := xlate }
  | none => { k with empty := true, returned := false, xlate := xlate }

/-- The machine once core c has claimed: a fully masked item is counted. -/
def afterClaim (cmd : Cmd) (p : Phase) (c : Nat) (k : CoreSt) (g : Nat) (y : Mach) : Mach :=
  (if (tundClaim g).2.any (skipped cmd p) then y.bump (clReg (c / 16) 0x20) 1 else y).setCore c
    (claimedCore cmd p k g (y.core c).xlate)

theorem core_afterClaim (cmd : Cmd) (p : Phase) (c : Nat) (k : CoreSt) (g : Nat) (y : Mach) (d : Nat) :
    (afterClaim cmd p c k g y).core d = if d = c then claimedCore cmd p k g (y.core c).xlate else y.core d := by
  rw [afterClaim, core_setCore]
  congr 1
  split
  · rw [bump_frame]
    rfl
  · rfl

theorem afterClaim_frame (cmd : Cmd) (p : Phase) (c : Nat) (k : CoreSt) (g : Nat) (y : Mach) :
    afterClaim cmd p c k g y = { y with cores := (afterClaim cmd p c k g y).cores, regs := (afterClaim cmd p c k g y).regs } := by
  unfold afterClaim
  split
  · rw [bump_frame]
    rfl
  · rfl

/-- A claim by a core that may make one, whose tundish answers. -/
theorem claimItem_eq {s y : Mach} {c g : Nat} {cmd : Cmd} {p : Phase} {k : CoreSt} (hfrozen : s.frozen = false)
    (hcmd : s.coreCmd c = some cmd) (hst : cmd.st = .running) (hplanned : cmd.planned = true)
    (hfenced : (s.core c).fenced = false) (hroom : (s.core c).items.length < 2) (hop : dOp cmd.desc ≠ 6)
    (hphase : slotPhase cmd (s.phases c) (s.core c).slot = some p)
    (hk : (if (s.core c).phase = p.no then s.core c
      else { s.core c with phase := p.no, claimed := 0, empty := false, returned := false }) = k)
    (hempty : k.empty = true → k.returned = true)
    (hatomic : tundAtomic s c cmd.ctx (tundVa s c cmd p k.slot) (fun g => (tundClaim g).1) = .ok g y) :
    claimItem s c = s.settle cmd.id c 0 (.ok () (afterClaim cmd p c k g y)) := by
  unfold claimItem
  rw [hcmd]
  dsimp only
  rw [if_neg (by simp [hfrozen, hst, hplanned, hfenced, hop]; omega), hphase]
  dsimp only
  rw [hk, if_neg (by simpa using hempty), if_neg hop, hatomic, Res.bind]
  unfold afterClaim claimedCore
  cases (tundClaim g).2 <;> rfl

/-! ## Returns -/

theorem core_wakeCores (s : Mach) (cmd : Cmd) (p : Phase) (slot d : Nat) :
    (wakeCores s cmd p slot).core d = { s.core d with returned := (s.core d).returned ||
      ((s.core d).cmd == some cmd.id && (s.core d).empty && (s.core d).phase == p.no &&
        (p.single cmd.desc || (s.core d).slot == slot)) } := by
  unfold wakeCores Mach.core
  dsimp only
  rw [tabGet_tabMap _ _ s.cores d rfl]
  split
  · next h => rw [h, Bool.or_true]
  · next h => rw [Bool.eq_false_iff.2 h, Bool.or_false]

/-- The machine once the tundish has taken back an index of core c: the item is gone, the return is counted, and the cores that
waited at the tundish may claim again. -/
def afterReturn (cmd : Cmd) (p : Phase) (c i : Nat) (y : Mach) : Mach :=
  wakeCores ((y.setCore c { y.core c with items := (y.core c).items.filter fun x => x.index != i }).bump (clReg (c / 16) 0x1C) 1)
    cmd p (y.core c).slot

section Return

variable (cmd : Cmd) (p : Phase) (c i : Nat) (y : Mach)

theorem core_afterReturn_self : (afterReturn cmd p c i y).core c = { y.core c with
    items := (y.core c).items.filter fun x => x.index != i, returned := ((afterReturn cmd p c i y).core c).returned } := by
  rw [afterReturn, core_wakeCores, bump_frame]
  simp [Mach.core, Mach.setCore]

theorem core_afterReturn_other {d : Nat} (hd : d ≠ c) : (afterReturn cmd p c i y).core d = { y.core d with
    returned := (y.core d).returned || ((y.core d).cmd == some cmd.id && (y.core d).empty && (y.core d).phase == p.no &&
      (p.single cmd.desc || (y.core d).slot == (y.core c).slot)) } := by
  have hcore : (((y.setCore c { y.core c with items := (y.core c).items.filter fun x => x.index != i }).bump
      (clReg (c / 16) 0x1C) 1).core d) = y.core d := by
    rw [bump_frame]
    exact (core_setCore y c _ d).trans (if_neg hd)
  rw [afterReturn, core_wakeCores, hcore]

theorem reg_afterReturn (a : Nat) : (afterReturn cmd p c i y).reg a =
    if a = clReg (c / 16) 0x1C then satAdd (y.reg (clReg (c / 16) 0x1C)) 1 else y.reg a :=
  reg_bump (y.setCore c _) _ 1 a

theorem afterReturn_frame : afterReturn cmd p c i y =
    { y with cores := (afterReturn cmd p c i y).cores, regs := (afterReturn cmd p c i y).regs } := by
  rw [afterReturn, bump_frame]
  rfl

end Return

/-- The return of an index that its core holds and its tundish takes. -/
theorem returnIndex_eq {s y : Mach} {c i g h : Nat} {cmd : Cmd} {p : Phase} (hfrozen : s.frozen = false)
    (hcmd : s.coreCmd c = some cmd) (hop : dOp cmd.desc ≠ 6) (hphase : (s.phases c)[(s.core c).phase]? = some p)
    (hheld : ((s.core c).items.any fun x => x.index == i) = true)
    (hatomic : s.atomic (512 + c / 16) cmd.ctx (tundVa s c cmd p (s.core c).slot) 256 (fun g => (tundReturn g i).getD g) true
      false = .ok g y) (htaken : tundReturn g i = some h) :
    returnIndex s c i = (afterReturn cmd p c i y).dropWaits cmd.id fun w => w.is (512 + c / 16) (16 + c % 16) := by
  unfold returnIndex
  rw [hcmd]
  dsimp only
  rw [hphase]
  dsimp only
  rw [if_neg (by simp [hfrozen, hop, hheld]), hatomic, Res.bind, htaken]
  rfl

theorem exec_tundishReturn (s : State) (c : CoreNo) (i : Word) : exec (.tundishReturn c i) s = .next { s with
    m := if (s.m.core c.toNat).shut then leaveFenced (returnIndex s.m c.toNat i.toNat) c.toNat else s.m } := rfl

/-! ## A fenced core leaves its command (R136) -/

/-- A core that has left its command. -/
def leftCore (k : CoreSt) : CoreSt :=
  { k with shut := false, cmd := none, slot := 0, place := 0, phase := 0, items := [], claimed := 0, empty := false, returned := false,
           report := false, trans := [], slotsFree := k.slotsFree + k.slotsHeld }

section Leave

variable {s : Mach} {c : Nat} {cmd : Cmd} (hcmd : s.coreCmd c = some cmd)
include hcmd

/-- A core with claims to return stays. -/
theorem leaveFenced_of_items (hop : dOp cmd.desc ≠ 6) (hitems : (s.core c).items ≠ []) : leaveFenced s c = s := by
  unfold leaveFenced
  rw [if_pos]
  simp [hcmd, hop, hitems]

/-- With its last claim returned the core leaves its command, one that has not stopped. -/
theorem leaveFenced_of_none (hshut : (s.core c).shut = true) (hitems : (s.core c).items = []) (hst : cmd.st ≠ .stopped) :
    leaveFenced s c = (s.setCmd { cmd with slots := cmd.slots.map fun y => { y with cores := y.cores.filter fun z => z != c } }).setCore c
      (leftCore (s.core c)) := by
  obtain ⟨hid, hfound⟩ := coreCmd_eq_some.1 hcmd
  unfold leaveFenced
  rw [if_neg (by simp [hshut, hitems]), hcmd, hid]
  refine endStop_eq_self fun z hz => ?_
  have hz' := hz.symm.trans (cmd?_setCmd_same hfound rfl)
  rw [Option.some.inj hz']
  exact hst

end Leave

/-! ## Retirement -/

/-- The retirement of an item whose entries are done, where its tundish answers. -/
theorem retireItem_eq {s y : Mach} {c n g : Nat} {cmd : Cmd} {p : Phase} {x : Item} (hcmd : s.coreCmd c = some cmd)
    (hst : cmd.st = .running) (hfenced : (s.core c).fenced = false) (hitem : (s.core c).items[n]? = some x)
    (hphase : (s.phases c)[(s.core c).phase]? = some p) (hdone : itemDone s c p x = true)
    (hatomic : tundAtomic s c cmd.ctx (tundVa s c cmd p (s.core c).slot) (fun g => (tundRetire g).1) = .ok g y) :
    retireItem s c n = s.settle cmd.id c 0 (.ok () ((y.setCore c { y.core c with
      items := (s.core c).items.eraseIdx n, report := (s.core c).report || (tundRetire g).2, idleCycles := 0 }).bump
        (coreReg c 0x18) 1)) := by
  unfold retireItem
  rw [hcmd]
  dsimp only
  rw [hitem, hphase]
  dsimp only
  rw [if_neg (by simp [hst, hfenced, hdone]), hatomic]
  rfl

/-! ## The statement -/

/-- Settles O14: `afterClaim`, `afterReturn` and a retirement say what the core's step leaves of the machine that its atomic left; the
atomic itself leaves the cores but for their translations (`Accesses.atomic`), so the core that leaves is the one that returned. -/
theorem workItemsClaimedReturnedRetired : Obligations.WorkItemsClaimedReturnedRetired := by
  refine ⟨?_, ?_, ?_, ?_⟩
  · intro s a c cmd p k g y ha hfrozen hcmd hst hplanned hfenced hroom hop hphase hk hempty hatomic
    have hstep := claimItem_eq hfrozen hcmd hst hplanned hfenced hroom hop hphase hk hempty hatomic
    rw [settle_ok_frame _ _ _ _ (core_lt c), afterClaim_frame] at hstep
    have hexec : exec a s = .next { s with m := claimItem s.m c.toNat } := by
      obtain rfl | ⟨rfl, hmet, hreturned⟩ := ha
      · rfl
      · refine congrArg (fun m => Host.Outcome.next { s with m := m }) (if_pos ?_)
        rw [hmet, hreturned]
        rfl
    have hcore : (claimItem s.m c.toNat).core c.toNat = claimedCore cmd p k g (y.core c.toNat).xlate := by
      rw [hstep]
      exact (core_afterClaim cmd p c.toNat k g y c.toNat).trans (if_pos rfl)
    refine ⟨_, _, hexec, hcore, fun i hi => ?_, fun hnone => ?_, ?_, fun d hd => ?_, ?_⟩
    · refine ⟨{ index := i, parity := k.claimed % 2, skip := skipped cmd p i }, ?_⟩
      rw [claimedCore, hi]
      exact ⟨rfl, rfl, rfl, rfl, rfl⟩
    · rw [claimedCore, hnone]
    · unfold claimedCore
      split <;> rfl
    · rw [hstep]
      exact (core_afterClaim cmd p c.toNat k g y d).trans (if_neg hd)
    · rw [hstep]
  · intro s c i cmd p g h y l hfrozen hshut hcmd hop hphase hheld hatomic htaken hl hst
    have hy : Accessed s.m y := Accesses.atomic _ _ _ _ _ _ _ _ _ _ hatomic
    obtain ⟨hid, hfound⟩ := coreCmd_eq_some.1 hcmd
    have hreturn := returnIndex_eq hfrozen hcmd hop hphase hheld hatomic htaken
    set u := afterReturn cmd p c.toNat i.toNat y with hu
    have hself : u.core c.toNat = { y.core c.toNat with items := l, returned := (u.core c.toNat).returned } := by
      rw [← hl]
      exact core_afterReturn_self cmd p c.toNat i.toNat y
    have hucmd : u.cmd? cmd.id = some cmd := by
      rw [hu, afterReturn_frame]
      exact (hy.cmd? _).trans hfound
    obtain ⟨waits, hwaits⟩ := cmd?_dropWaits (16 + c.toNat % 16) (clusterUnit_lt c) hucmd
    have hframe := dropWaits_frame u cmd.id (16 + c.toNat % 16) (clusterUnit_lt c)
    rw [← hreturn] at hwaits hframe
    set v := returnIndex s.m c.toNat i.toNat
    have hcores : ∀ d, v.core d = u.core d := fun d => by rw [hframe]; rfl
    have hregs : ∀ a, v.reg a = u.reg a := fun a => by rw [hframe]; rfl
    have hvframe : v = { y with cores := v.cores, regs := v.regs, cmds := v.cmds } := by
      rw [hframe, hu, afterReturn_frame]
    have hvcmd : v.coreCmd c.toNat = some { cmd with heldOn := waits } := by
      refine coreCmd_eq_some.2 ⟨?_, hwaits⟩
      rw [hcores, hself, hy.core]
      exact hid
    rw [exec_tundishReturn, if_pos hshut]
    have hcount := (hregs _).trans ((reg_afterReturn cmd p c.toNat i.toNat y _).trans (if_pos rfl))
    have hreg : ∀ a, a ≠ clReg (c.toNat / 16) 0x1C → v.reg a = y.reg a := fun a ha =>
      (hregs a).trans ((reg_afterReturn cmd p c.toNat i.toNat y a).trans (if_neg ha))
    refine ⟨_, rfl, ?_⟩
    dsimp only
    by_cases hlast : l = []
    · have hvself : (v.core c.toNat).shut = true ∧ (v.core c.toNat).items = [] := by
        rw [hcores, hself, hy.core]
        exact ⟨hshut, hlast⟩
      have hrunning : cmd.st ≠ .stopped := hst cmd ((hy.cmd? _).trans hfound)
      rw [leaveFenced_of_none hvcmd hvself.1 hvself.2 hrunning]
      refine ⟨fun hne => absurd hlast hne, fun _ => ?_, fun d hd => ?_, ?_, fun a ha => ?_, ?_⟩
      · rw [core_setCore, if_pos rfl, hcores, hself]
        rfl
      · rw [core_setCore, if_neg hd]
        exact (hcores d).trans (core_afterReturn_other cmd p c.toNat i.toNat y hd)
      · exact hcount
      · exact hreg a ha
      · rw [hvframe]
        rfl
    · have hvitems : (v.core c.toNat).items ≠ [] := by
        rw [hcores, hself]
        exact hlast
      rw [leaveFenced_of_items hvcmd hop hvitems]
      refine ⟨fun _ => ?_, fun hnil => absurd hnil hlast, fun d hd => ?_, ?_, fun a ha => ?_, ?_⟩
      · rw [hcores]
        exact hself
      · exact (hcores d).trans (core_afterReturn_other cmd p c.toNat i.toNat y hd)
      · exact hcount
      · exact hreg a ha
      · rw [hvframe]
  · intro s c i hshut
    rw [exec_tundishReturn, if_neg (by simp [hshut])]
  · intro s a c n cmd p x g y ha hcmd hst hfenced hitem hphase hdone hatomic
    have hstep := retireItem_eq hcmd hst hfenced hitem hphase hdone hatomic
    rw [settle_ok_frame _ _ _ _ (core_lt c), bump_frame] at hstep
    have hexec : exec a s = .next { s with m := retireItem s.m c.toNat n } := by
      obtain ⟨rfl, rfl⟩ | ⟨rfl, rfl⟩ | ⟨rfl, rfl⟩ := ha <;> rfl
    refine ⟨_, hexec, ?_, fun d hd => ?_, ?_, fun b hb => ?_, ?_⟩
    · rw [hstep]
      exact (core_setCore y c.toNat _ _).trans (if_pos rfl)
    · rw [hstep]
      exact (core_setCore y c.toNat _ _).trans (if_neg hd)
    · rw [hstep]
      exact (reg_bump (y.setCore c.toNat _) _ 1 _).trans (if_pos rfl)
    · rw [hstep]
      exact (reg_bump (y.setCore c.toNat _) _ 1 _).trans (if_neg hb)
    · rw [hstep]
      rfl

end Sys2Proof.Proofs
end

section
/-! SUPPORT. Entries in their turn, and barriers (05 R111, R118, R119, R121, R124, R136; 07 R166). -/

namespace Sys2Proof.Proofs

open Sys2Proof.Machine Sys2Proof.Laws

/-- A part that follows another has succeeded where both have. -/
theorem bind_eq_ok {α β : Type} {r : Res α} {k : α → Mach → Res β} {b : β} {t : Mach} (h : r.bind k = .ok b t) :
    ∃ a u, r = .ok a u ∧ k a u = .ok b t := by
  cases r with
  | ok a u => exact ⟨a, u, rfl, h⟩
  | err f u => cases h

/-- Where a part that can fail at once has succeeded, it has gone on. -/
theorem ok_of_ite_err {α : Type} {q : Prop} [Decidable q] {f : Flt} {u t : Mach} {r : Res α} {a : α}
    (h : (if q then .err f u else r) = .ok a t) : r = .ok a t := by
  split at h
  · cases h
  · exact h

/-! ## What the units access -/

namespace Accesses

variable (s : Mach)

theorem pageRow (cmd : Cmd) (c : Nat) (y : LtItem) (g : Nat) (off : Int) (r : Nat) : Accesses (pageRow s cmd c y g off r) s := by
  unfold Machine.pageRow
  extract_lets d gen t n rd
  have hrd : ∀ va k u, Accesses (rd va k u) u := fun va k u => map (viaSlot u c 0 (coreRead u c cmd.ctx cmd.id (0, va) k))
  refine ite (same _ s) ?_
  split
  · exact same _ s
  · exact (hrd _ _ s).bind fun _ t => (hrd _ _ t).bind fun _ u => same _ u

theorem dmaRow (cmd : Cmd) (c : Nat) (p : Phase) (x : Item) (g : Nat) (off : Int) (stride r : Nat) :
    Accesses (dmaRow s cmd c p x g off stride r) s := by
  unfold Machine.dmaRow
  refine ite ?_ (same _ s)
  split
  · exact same _ s
  · exact map (pageRow s cmd c _ g off r)

theorem ledgerRead (c ctx : Nat) (seen : List Nat) (led : Option Nat) : Accesses (ledgerRead c ctx seen led s) s := by
  unfold Machine.ledgerRead
  split
  · exact same _ s
  · refine ite (same _ s) ((viaSlot s c 0 ?_).bind fun _ t => ite (err _ _) (same _ t))
    exact viaCache s c ctx _ 4 .read fun t => atomic t c ctx _ 4 id false false

theorem dmaMove (c : Nat) (cmd : Cmd) (h : Hint) (a b : Nat × Nat) (len : Nat) : Accesses (dmaMove c cmd h a b len s) s :=
  ite (same _ s) ((coreRead s c cmd.ctx cmd.id a len).bind fun l t =>
    ite (same _ t) ((coreWrite t c cmd.ctx cmd.id b l).bind fun _ u => same _ u))

end Accesses

namespace Accessed

variable (s : Mach)

theorem stageSet (c cmd i : Nat) (b : Byte) : Accessed s (s.stageSet c cmd i b) := by
  unfold Mach.stageSet
  split
  · exact of_frame rfl
  · exact cbPut s _ _ _

theorem stageLine (c cmd : Nat) (g : Geo) (line off : Nat) (l : List Byte) : Accessed s (stageLine c cmd g line off l s) := by
  refine each _ (fun p t => ?_) _ s
  extract_lets o
  split
  · exact stageSet t _ _ _ _
  · exact refl t

end Accessed

theorem Accesses.expBody (s : Mach) (c : Nat) (cmd : Cmd) (p : Phase) (x : Item) (e : Nat) :
    Accesses (expBody c cmd p x e s) s := by
  unfold Machine.expBody
  extract_lets g tr dst ys foot staged t mode fmt
  have ht : Accessed s t := Accessed.bump s _ _
  split
  next fr u hu =>
  have hfresh : Accessed t u := by
    split at hu
    · cases hu
      exact Accessed.fresh t
    · cases hu
      exact Accessed.refl t
  extract_lets pad
  split
  next o rows _ =>
  refine Accesses.after (ht.trans hfresh) (Accesses.eachRes (fun m v => ?_) _ u)
  extract_lets oy ox row pads
  exact (Accesses.coreWrite v c _ _ _ _).bind fun _ w => Accesses.ok _ ((Accessed.bump w _ _).trans (Accessed.bump _ _ _))

/-! ## The entries that an item lists -/

/-- Item n of core c lists the entries of the numbers l as issued. -/
def Lists (c n : Nat) (l : List Nat) (s : Mach) : Prop :=
  ∃ z, (s.core c).items[n]? = some z ∧ z.entries.map (fun e => e.no) = l

section Lists

variable {s t : Mach} {c n : Nat} {l : List Nat}

theorem Lists.accessed (h : Lists c n l s) (ht : Accessed s t) : Lists c n l t := by
  unfold Lists
  rw [ht.items]
  exact h

theorem Lists.addEntry (h : Lists c n l s) (i tiles : Nat) (done : Bool) : Lists c n (l ++ [i]) (addEntry s c n i tiles done) := by
  obtain ⟨z, hz, rfl⟩ := h
  have hn : n < (s.core c).items.length := (List.getElem?_eq_some_iff.1 hz).1
  unfold Machine.addEntry
  dsimp only
  rw [hz]
  refine ⟨{ z with entries := z.entries ++ [⟨i, 0, tiles, done⟩] }, ?_, by simp⟩
  simp [hn]

theorem Lists.finishEntry (h : Lists c n l s) (i : Nat) : Lists c n l (finishEntry s c n i) := by
  obtain ⟨z, hz, rfl⟩ := h
  have hn : n < (s.core c).items.length := (List.getElem?_eq_some_iff.1 hz).1
  unfold Machine.finishEntry
  extract_lets k upd
  rw [hz]
  refine ⟨{ z with entries := z.entries.map upd }, by simp [k, hn], ?_⟩
  simp only [List.map_map]
  refine List.map_congr_left fun e _ => ?_
  simp only [upd, Function.comp]
  split <;> rfl

theorem Lists.addTrans (h : Lists c n l s) (item entry unit : Nat) (ms : List Move) :
    Lists c n l (addTrans s c item entry unit ms) := by
  obtain ⟨z, hz, rfl⟩ := h
  unfold Machine.addTrans
  extract_lets k free new upd items
  have hupd : ∀ e, (upd e).no = e.no := fun e => by
    simp only [upd]
    split <;> rfl
  split
  · exact ⟨z, hz, rfl⟩
  · refine ⟨if z.index == item then { z with entries := z.entries.map upd } else z, ?_, ?_⟩
    · simp [items, k, hz]
    · split
      · simp [hupd]
      · rfl

variable {cmd : Cmd} {p : Phase} {x : Item} {i e : Nat}

/-- A tile issues on its engines; the cores stand. -/
theorem cores_issueTile (g q : Nat) (tile : EngTile) : Leads (fun a b => b.cores = a.cores) (issueTile g q tile s) s := by
  unfold issueTile
  extract_lets en x
  split
  · exact Leads.err _ _
  · exact Leads.ok _ rfl

theorem lists_tileEntry (h : Lists c n l s) (ht : tileEntry c n i cmd p x e s = .ok () t) : Lists c n (l ++ [i]) t := by
  unfold tileEntry at ht
  obtain ⟨_, u, hu, ht⟩ := bind_eq_ok ht
  cases ht
  have hcores : u.cores = s.cores :=
    Leads.eachRes (R := fun a b => b.cores = a.cores) (fun _ _ _ hab hbc => hbc.trans hab) (fun _ => rfl)
      (fun _ _ => cores_issueTile _ _ _) _ _ _ _ hu
  refine Lists.addEntry ?_ i _ _
  unfold Lists Mach.core
  rw [hcores]
  exact h

theorem lists_dmaEntry (h : Lists c n l s) (ht : dmaEntry c n i cmd p x e s = .ok () t) : Lists c n (l ++ [i]) t := by
  unfold dmaEntry at ht
  obtain ⟨acc, u, hu, ht⟩ := bind_eq_ok ht
  cases ht
  have hu : Accessed s u := by
    refine Accesses.foldRes (fun b r v => ?_) _ _ _ _ _ hu
    refine (Accesses.dmaRow v cmd c p x _ _ _ r).bind fun src v => (Accesses.dmaRow v cmd c p x _ _ _ r).bind fun dst v => ?_
    split
    · exact (Accesses.ledgerRead v c _ _ _).bind fun _ w => Accesses.map (Accesses.dmaMove w c cmd _ _ _ _)
    · exact Accesses.same _ v
  exact (((h.accessed hu).addEntry i 0 false).addTrans _ _ _ _).finishEntry i

theorem lists_vecEntry (h : Lists c n l s) (ht : vecEntry c n i cmd p x e s = .ok () t) : Lists c n (l ++ [i]) t := by
  unfold vecEntry at ht
  extract_lets op ad fa fb fd at ht
  obtain ⟨_, u, hu, ht⟩ := bind_eq_ok (ok_of_ite_err ht)
  cases ht
  have hu : Accessed s u := by
    refine Accesses.eachRes (fun k v => ?_) _ _ _ _ hu
    refine (Accesses.coreRead v c _ _ _ _).bind fun la v => ?_
    refine (Accesses.ite (Accesses.coreRead v c _ _ _ _) (Accesses.same _ v)).bind fun lb v => ?_
    refine (Accesses.ite (Accesses.coreRead v c _ _ _ _) (Accesses.same _ v)).bind fun ld v => ?_
    exact Accesses.coreWrite v c _ _ _ _
  exact (h.accessed hu).addEntry i 0 true

theorem lists_expEntry (h : Lists c n l s) (ht : expEntry c n i cmd p x e s = .ok () t) : Lists c n (l ++ [i]) t := by
  unfold expEntry at ht
  extract_lets g src at ht
  split at ht
  extract_lets lines ms at ht
  split at ht
  · cases ht
    exact (h.addEntry i 0 false).addTrans _ _ _ _
  · obtain ⟨_, u, hu, ht⟩ := bind_eq_ok ht
    obtain ⟨_, v, hv, ht⟩ := bind_eq_ok ht
    cases ht
    have hu : Accessed s u := Accesses.eachRes (fun (y : Nat × (Nat × Nat)) v =>
      (Accesses.coreRead v c _ _ y.2 _).bind fun l w => Accesses.ok _ (Accessed.stageLine w _ _ _ _ _ _)) _ _ _ _ hu
    have hv : Accessed u v := Accesses.expBody _ _ _ _ _ _ _ _ hv
    exact (h.accessed (hu.trans hv)).addEntry i 0 true

end Lists

/-! ## An entry's turn (R119) -/

section Turn

variable {s : Mach} {c n i kind : Nat} {f : Cmd → Phase → Item → Nat → Mach → Res Unit} {cmd : Cmd} {p : Phase} {x : Item}
  (hcmd : s.coreCmd c = some cmd) (hphase : (s.phases c)[(s.core c).phase]? = some p) (hitem : (s.core c).items[n]? = some x)
include hcmd hphase hitem

/-- An entry whose turn has come runs. -/
theorem runEntry_of_turn {y : Mach} (hst : cmd.st = .running) (hfenced : (s.core c).fenced = false)
    (hkind : eKind (s.planEntry c i) = kind) (hturn : entryReady s c p n i = true) (hrun : f cmd p x (s.planEntry c i) s = .ok () y) :
    runEntry s c n i kind f = y.dropWaits cmd.id fun w => w.is c (256 + 512 * x.parity + i) := by
  unfold runEntry
  rw [hcmd]
  dsimp only
  rw [hphase, hitem]
  dsimp only
  rw [if_neg (by simp [hst, hfenced, hkind, hturn]), hrun]
  rfl

/-- An entry whose turn has not come waits. -/
theorem runEntry_of_not_turn (h : cmd.st ≠ .running ∨ (s.core c).fenced = true ∨ eKind (s.planEntry c i) ≠ kind ∨
    entryReady s c p n i = false) : runEntry s c n i kind f = s := by
  unfold runEntry
  rw [hcmd]
  dsimp only
  rw [hphase, hitem]
  dsimp only
  rw [if_pos (by simpa using h)]

end Turn

/-! ## Barriers (R118, R136) -/

/-- From command a to b only barriers have been reached. -/
structure Raises (a b : Cmd) : Prop where
  frame : b = { a with slots := b.slots }
  length : b.slots.length = a.slots.length
  barriers : ∀ (j : Nat) (u v : Slot), a.slots[j]? = some u → b.slots[j]? = some v → u.barriers ≤ v.barriers

namespace Raises

theorem refl (a : Cmd) : Raises a a := ⟨rfl, rfl, fun j u v hu hv => by rw [hu] at hv; cases hv; exact le_refl _⟩

theorem trans {a b c : Cmd} (h : Raises a b) (h' : Raises b c) : Raises a c where
  frame := by
    have hb := h.frame
    have hc := h'.frame
    rw [hb] at hc
    exact hc
  length := h'.length.trans h.length
  barriers j u v hu hv := by
    have hj : j < b.slots.length := h.length ▸ (List.getElem?_eq_some_iff.1 hu).1
    have hw := List.getElem?_eq_getElem hj
    exact (h.barriers j u _ hu hw).trans (h'.barriers j _ v hw hv)

/-- Each slot passes through a function that only raises its barriers. -/
theorem of_map (a : Cmd) (f : Slot × Nat → Slot) (hf : ∀ x, x.1.barriers ≤ (f x).barriers) :
    Raises a { a with slots := a.slots.zipIdx.map f } := by
  refine ⟨rfl, by simp, fun j u v hu hv => ?_⟩
  obtain rfl : f (u, j) = v := by simpa [hu] using hv
  exact hf (u, j)

/-- A slot with nothing to do in a phase only goes on. -/
theorem passEmpty (fuel : Nat) (a : Cmd) (ps : List Phase) : Raises a (passEmpty fuel a ps) := by
  induction fuel generalizing a with
  | zero => exact refl a
  | succ fuel ih =>
    unfold Machine.passEmpty
    extract_lets next
    split
    · exact refl a
    · refine trans (of_map a _ fun x => ?_) (ih next)
      split
      · extract_lets r
        split
        · exact Nat.le_succ _
        · exact le_refl _
      · exact le_refl _

end Raises

/-- The barrier of a phase reached from a slot that stood before it lies behind the slot. -/
theorem raises_reachBarrier (cmd : Cmd) (ps : List Phase) (p : Phase) {slot : Nat} {sl : Slot} (hslot : cmd.slots[slot]? = some sl)
    (hsl : sl.barriers = p.no) : Raises cmd (reachBarrier cmd ps p slot) ∧
      ∃ w, (reachBarrier cmd ps p slot).slots[slot]? = some w ∧ p.no < w.barriers := by
  unfold reachBarrier
  extract_lets up c
  have hup : ∀ x, x.barriers ≤ (up x).barriers := fun x => by
    simp only [up]
    split
    · next h => exact h ▸ Nat.le_succ _
    · exact le_refl _
  have hreached : (up sl).barriers = p.no + 1 := by simp [up, hsl]
  have hc : Raises cmd c ∧ c.slots[slot]? = some (up sl) := by
    simp only [c]
    split
    · refine ⟨⟨rfl, by simp, fun j u v hu hv => ?_⟩, by simp [hslot]⟩
      obtain rfl : up u = v := by simpa [hu] using hv
      exact hup u
    · refine ⟨Raises.of_map cmd _ fun x => ?_, by simp [hslot]⟩
      split
      · exact hup x.1
      · exact le_refl _
  obtain ⟨hraises, hfound⟩ := hc
  have hpass := Raises.passEmpty 1024 c ps
  have hlt : slot < (passEmpty 1024 c ps).slots.length := hpass.length ▸ (List.getElem?_eq_some_iff.1 hfound).1
  have hw := List.getElem?_eq_getElem hlt
  have hle := hpass.barriers slot _ _ hfound hw
  exact ⟨hraises.trans hpass, _, hw, by omega⟩

/-- A core that has DONE to report reports its phase's barrier. -/
theorem phaseBarrier_of_report {s : Mach} {c : Nat} {cmd : Cmd} {p : Phase} (hcmd : s.coreCmd c = some cmd)
    (hfenced : (s.core c).fenced = false) (hphase : (s.phases c)[(s.core c).phase]? = some p) (hreport : (s.core c).report = true) :
    phaseBarrier s c = (s.setCore c { s.core c with report := false }).setCmd (reachBarrier cmd (s.phases c) p (s.core c).slot) := by
  unfold phaseBarrier reportDone
  rw [hcmd]
  dsimp only
  rw [hphase]
  dsimp only
  rw [if_neg (by simp [hfenced]), if_pos hreport, if_pos hreport]

/-! ## The statement -/

/-- Settles O15: in its turn an entry does its unit's work, which accesses memory and lists the entry (`lists_tileEntry` and the
other three); a reported barrier lies behind the slot (`raises_reachBarrier`). -/
theorem entriesRunInTurn : Obligations.EntriesRunInTurn := by
  refine ⟨?_, ?_⟩
  · intro s a c item i kind f cmd p x ha hcmd hphase hitem
    have hexec : exec a s = .next { s with m := runEntry s.m c.toNat (b2n item) i.toNat kind f } := by
      obtain ⟨rfl, rfl, rfl⟩ | ⟨rfl, rfl, rfl⟩ | ⟨rfl, rfl, rfl⟩ | ⟨rfl, rfl, rfl⟩ := ha <;> rfl
    refine ⟨fun y hst hfenced hkind hturn hrun hheld => ⟨?_, ?_⟩, fun h => ?_⟩
    · rw [hexec, runEntry_of_turn hcmd hphase hitem hst hfenced hkind hturn hrun, dropWaits_eq_self hheld]
    · have hlists : Lists c.toNat (b2n item) (x.entries.map fun e => e.no) s.m := ⟨x, hitem, rfl⟩
      obtain ⟨-, -, rfl⟩ | ⟨-, -, rfl⟩ | ⟨-, -, rfl⟩ | ⟨-, -, rfl⟩ := ha
      · exact lists_tileEntry hlists hrun
      · exact lists_dmaEntry hlists hrun
      · exact lists_vecEntry hlists hrun
      · exact lists_expEntry hlists hrun
    · rw [hexec, runEntry_of_not_turn hcmd hphase hitem h]
  · intro s c cmd p sl hcmd hfenced hphase _ hreport hslot hsl
    obtain ⟨hraises, w, hw, hlt⟩ := raises_reachBarrier cmd (s.m.phases c.toNat) p hslot hsl
    have hstep := phaseBarrier_of_report hcmd hfenced hphase hreport
    set k : CoreSt := { s.m.core c.toNat with report := false }
    set z := reachBarrier cmd (s.m.phases c.toNat) p (s.m.core c.toNat).slot
    have hid : z.id = cmd.id := by rw [hraises.frame]
    refine ⟨{ s with m := phaseBarrier s.m c.toNat }, z, w, rfl, ?_, fun d hd => ?_, ?_, hw, hlt, hraises.barriers, hraises.frame, ?_⟩
    · rw [hstep]
      exact (core_setCore s.m c.toNat k _).trans (if_pos rfl)
    · rw [hstep]
      exact (core_setCore s.m c.toNat k d).trans (if_neg hd)
    · rw [hstep]
      exact cmd?_setCmd_same (s := s.m.setCore c.toNat k) (coreCmd_eq_some.1 hcmd).2 hid
    · rw [hstep]
      rfl

end Sys2Proof.Proofs
end

section
/-! SUPPORT. Transaction slots, responses and table walks (05 R111, R112, R120; 13 R297; 14 R349). -/

namespace Sys2Proof.Proofs

open Sys2Proof.Machine Sys2Proof.Laws

/-! ## The first of a list that satisfies a test -/

theorem findIdx?_append_cons {α : Type} {q : α → Bool} {l : List α} {x : α} (r : List α) (hl : ∀ y ∈ l, q y = false)
    (hx : q x = true) : (l ++ x :: r).findIdx? q = some l.length := by
  rw [List.findIdx?_append, List.findIdx?_eq_none_iff.2 hl, List.findIdx?_cons, hx]
  simp

/-! ## Slots (R111; 14 R349) -/

section Grant

variable {s : Mach} {c : Nat} {k : CoreSt}

/-- The unit served next is the first after the one served last with a transaction that waits. -/
theorem slotNext_eq_some {i : Nat} (hi : i < 6)
    (hwaits : (k.trans.any fun t => !t.slot && t.unit == (k.slotLast + 1 + i) % 6) = true)
    (hfirst : ∀ j, j < i → (k.trans.any fun t => !t.slot && t.unit == (k.slotLast + 1 + j) % 6) = false) :
    k.slotNext = some ((k.slotLast + 1 + i) % 6) := by
  unfold CoreSt.slotNext
  rw [List.find?_eq_some_iff_getElem]
  refine ⟨hwaits, i, by simpa using hi, by simp, fun j hj => ?_⟩
  simpa using hfirst j hj

theorem slotNext_eq_none (h : ∀ t ∈ k.trans, t.slot = true) : k.slotNext = none := by
  unfold CoreSt.slotNext
  rw [List.find?_eq_none]
  intro u _
  simp only [List.any_eq_true, not_exists]
  rintro t ⟨ht, hwaits⟩
  simp [h t ht] at hwaits

/-- A free slot goes to the oldest transaction that waits of the unit served next. -/
theorem slotGrant_of_next {l r : List Trans} {x : Trans} (hfrozen : s.frozen = false) (hfree : 0 < (s.core c).slotsFree)
    (htrans : (s.core c).trans = l ++ x :: r) (hx : x.slot = false) (hl : ∀ y ∈ l, y.slot = true ∨ y.unit ≠ x.unit)
    (hnext : (s.core c).slotNext = some x.unit) : slotGrant s c = s.setCore c { s.core c with
      trans := l ++ { x with slot := true } :: r, slotLast := x.unit, slotsFree := (s.core c).slotsFree - 1 } := by
  have hindex : ((s.core c).trans.findIdx? fun t => !t.slot && t.unit == x.unit) = some l.length := by
    rw [htrans]
    refine findIdx?_append_cons r (fun y hy => ?_) (by simp [hx])
    rcases hl y hy with h | h <;> simp [h]
  unfold slotGrant
  dsimp only
  rw [if_neg (by simp [hfrozen]; omega), hnext]
  dsimp only
  rw [hindex, htrans]
  simp [List.modify_eq_set_getElem?]

theorem slotGrant_eq_self (h : s.frozen = true ∨ (s.core c).slotsFree = 0 ∨ ∀ y ∈ (s.core c).trans, y.slot = true) :
    slotGrant s c = s := by
  unfold slotGrant
  dsimp only
  split
  · rfl
  · next hgo =>
    rcases h with h | h | h
    · exact absurd (Or.inl h) hgo
    · exact absurd (Or.inr h) hgo
    · rw [slotNext_eq_none h]

end Grant

/-! ## Responses (R111, R120) -/

theorem Accesses.runMove (c : Nat) (cmd : Cmd) (e : Nat) (m : Move) (s : Mach) : Accesses (runMove c cmd e m s) s := by
  cases m with
  | fetch va n dst h => exact (coreReadH s c _ _ _ _ _).bind fun l t => coreWrite t c _ _ _ l
  | put va l h => exact coreWriteH s c cmd.ctx cmd.id (0, va) l h
  | stage va n line off => exact (coreRead s c _ _ _ _).bind fun l t => ok _ (Accessed.stageLine t _ _ _ _ _ _)

/-- An entry once a transaction t has ended. -/
def endedEntry (t : Trans) (e : Entry) : Entry :=
  if e.no == t.entry then { e with left := e.left - 1, done := e.left - 1 == 0 && e.tiles == 0 } else e

/-- A core once its transaction t, the i-th, has ended. -/
def endedCore (i : Nat) (t : Trans) (k : CoreSt) : CoreSt :=
  { k with trans := k.trans.eraseIdx i, slotsFree := k.slotsFree + 1, idleCycles := 0,
           items := k.items.map fun x => if x.index == t.item then { x with entries := x.entries.map (endedEntry t) } else x }

/-- The items of such a core are those it had, and the entry that had the transaction has one less to wait for. -/
theorem getElem?_items_endedCore (i : Nat) (t : Trans) (k : CoreSt) {n : Nat} {it : Item} (h : k.items[n]? = some it) :
    ∃ it', (endedCore i t k).items[n]? = some it' ∧ it' = { it with entries := it'.entries } ∧
      ∀ (j : Nat) (e : Entry), it.entries[j]? = some e → it'.entries[j]? =
        some (if it.index = t.item ∧ e.no = t.entry then
          { e with left := e.left - 1, done := e.left - 1 == 0 && e.tiles == 0 } else e) := by
  refine ⟨if it.index == t.item then { it with entries := it.entries.map (endedEntry t) } else it, by simp [endedCore, h], ?_, ?_⟩
  · split <;> rfl
  · intro j e he
    by_cases hindex : it.index = t.item
    · simp [hindex, he, endedEntry]
    · simp [hindex, he]

section Response

variable {s y w : Mach} {c i : Nat} {t : Trans} {cmd : Cmd} {p : Phase} {x : Item}

/-- The end of a transaction of an item's entry, the last of an EXPAND entry's with its rows. -/
theorem endTrans_eq (hphase : (y.phases c)[(y.core c).phase]? = some p)
    (hitem : ((y.core c).items.find? fun x => x.index == t.item) = some x)
    (hrows : (if ((y.core c).items.any fun x => x.index == t.item && x.entries.any fun e => e.no == t.entry && e.left == 1) &&
        eKind (y.planEntry c t.entry) == 5 then expBody c cmd p x (y.planEntry c t.entry) y else .ok () y) = .ok () w) :
    endTrans c i t cmd y = .ok () (w.setCore c (endedCore i t (w.core c))) := by
  unfold endTrans
  dsimp only
  rw [hphase, hitem]
  dsimp only
  split at hrows
  · next hlast =>
    rw [if_pos hlast, hrows]
    rfl
  · next hmore =>
    rw [if_neg hmore]
    cases hrows
    rfl

/-- The oldest transaction that has its slot and does not wait on a held channel ends. -/
theorem transResponse_eq {l r : List Trans} (htrans : (s.core c).trans = l ++ t :: r)
    (hl : ∀ y ∈ l, y.slot = false ∨ s.waitsHeld cmd c y.key = true) (hslot : t.slot = true)
    (hheld : s.waitsHeld cmd c t.key = false) (hfenced : (s.core c).fenced = false) (hcmd : s.coreCmd c = some cmd)
    (hmove : runMove c cmd (s.planEntry c t.entry) t.move s = .ok () y) (hend : endTrans c l.length t cmd y = .ok () w) :
    transResponse s c = (w.dropWaits cmd.id fun x => x.is c t.key).endStop cmd.id := by
  have hindex : ((s.core c).trans.findIdx? fun t => t.slot && !s.waitsHeld cmd c t.key) = some l.length := by
    rw [htrans]
    refine findIdx?_append_cons r (fun y hy => ?_) (by simp [hslot, hheld])
    rcases hl y hy with h | h <;> simp [h]
  have hget : (s.core c).trans[l.length]? = some t := by simp [htrans]
  unfold transResponse
  dsimp only
  rw [hcmd]
  dsimp only
  rw [hindex]
  dsimp only
  rw [hget]
  dsimp only
  rw [if_neg (by simp [hfenced]), hmove, Res.bind, hend]
  rfl

end Response

/-! ## Walks (R112; 13 R297) -/

section Walk

variable {a b : Mach} (h : Accessed a b)
include h

theorem bytes_accessed (n : Nat) : (b.obj n).bytes = (a.obj n).bytes := by
  simp only [Obj.bytes, (h.obj n).1]

theorem leaf_accessed (n : Nat) : (b.obj n).leaf = (a.obj n).leaf := by
  simp only [Obj.leaf, (h.obj n).2]

/-- Accesses leave the mapping of an address. -/
theorem leafAt_accessed (ctx va : Nat) : b.leafAt ctx va = a.leafAt ctx va := by
  simp only [Mach.leafAt, h.maps, bytes_accessed h]

theorem leafBase_accessed (ctx va : Nat) : b.leafBase ctx va = a.leafBase ctx va := by
  unfold Mach.leafBase
  rw [leafAt_accessed h]
  split
  · rw [leaf_accessed h]
  · rfl

end Walk

section WalkEnd

variable {s y : Mach} {ctx va pa : Nat} {acc : Access} {p : Mapping}

theorem accessed_abandonReq (s : Mach) (n k : Nat) : ((s.abandonReq n).obj k).accessed = (s.obj k).accessed := by
  unfold Mach.abandonReq
  extract_lets o
  split
  · rw [obj_setObj]
    split
    · next hk => rw [hk]
    · rfl
  · rfl

theorem obj_abandonReq_other (s : Mach) {n k : Nat} (hk : k ≠ n) : (s.abandonReq n).obj k = s.obj k := by
  unfold Mach.abandonReq
  extract_lets o
  split
  · rw [obj_setObj, if_neg hk]
  · rfl

theorem abandonReq_frame (s : Mach) (n : Nat) : s.abandonReq n = { s with objs := (s.abandonReq n).objs } := by
  unfold Mach.abandonReq
  extract_lets o
  split <;> rfl

/-- A walk that ends in a leaf notes its object as accessed and changes nothing else but a request that a write abandons. -/
theorem walkEnd_ok (huse : s.leafUse = .walk) (hleaf : s.leafAt ctx va = some p) (hend : s.walkEnd ctx va acc false = .ok pa y) :
    (y.obj p.obj).accessed = true ∧ (∀ k, k ≠ p.obj → y.obj k = s.obj k) ∧ y = { s with objs := y.objs } := by
  have hfound := tableLeaf_some s ctx va p hleaf
  unfold Mach.walkEnd at hend
  split at hend
  · next hnone => cases hfound.symm.trans hnone
  next m hm =>
  obtain rfl : leafEntry s p va = m := Option.some.inj (hfound.symm.trans hm)
  extract_lets o kept x t u v wr w pa' at hend
  have hkept : kept = false := by
    simp only [kept, huse]
    rfl
  have hv : v = { s.setObj p.obj { s.obj p.obj with accessed := true } with leafUse := .walk } := by
    simp only [v, hkept, u, huse]
    rfl
  have hobj : ∀ k, v.obj k = if k = p.obj then { s.obj p.obj with accessed := true } else s.obj k := fun k => by
    rw [hv]
    exact obj_setObj s p.obj _ k
  have hframe : v = { s with objs := v.objs } := by
    rw [hv, ← huse]
    rfl
  have hw : (w.obj p.obj).accessed = true ∧ (∀ k, k ≠ p.obj → w.obj k = s.obj k) ∧ w = { s with objs := w.objs } := by
    simp only [w]
    split
    · refine ⟨?_, fun k hk => ?_, ?_⟩
      · exact (accessed_abandonReq v _ _).trans (by rw [hobj, if_pos rfl])
      · exact (obj_abandonReq_other v hk).trans (by rw [hobj, if_neg hk])
      · rw [abandonReq_frame, hframe]
    · exact ⟨by rw [hobj, if_pos rfl], fun k hk => by rw [hobj, if_neg hk], hframe⟩
  clear_value w v
  split at hend
  · split at hend <;> cases hend
  · replace hend := ok_of_ite_err (ok_of_ite_err hend)
    injection hend with _ hy
    exact hy ▸ hw

/-- A walk of an address whose leaf the core does not hold counts a miss and makes the leaf the newest of its cache. -/
theorem coreWalk_of_miss {c : Nat} {z : Mach} (huse : s.leafUse = .walk) (hmiss : s.leafBase ctx va ∉ (s.core c).xlate)
    (hread : (s.bump (coreReg c 0x14) 1).readTables ctx va = .ok () z) (hend : z.walkEnd ctx va acc false = .ok pa y) :
    s.coreWalk c ctx va acc =
      .ok () (y.setCore c { y.core c with xlate := (s.leafBase ctx va :: (y.core c).xlate).take 512 }) := by
  have haccessed : Accessed s y := ((Accessed.bump s _ _).trans (Accesses.readTables _ _ _ _ _ hread)).trans
    (Accesses.walkEnd _ _ _ _ _ _ _ hend)
  have huse' : (s.bump (coreReg c 0x14) 1).leafUse = .walk := (Accessed.bump s _ _).leafUse huse
  have hwalk : (s.bump (coreReg c 0x14) 1).walk ctx va acc false = .ok pa y := by
    have haway : ¬ (s.bump (coreReg c 0x14) 1).atHand ctx va = true := by simp [Mach.atHand, huse', LeafUse.keeps]
    rw [Mach.walk, if_neg haway, hread]
    exact hend
  unfold Mach.coreWalk
  rw [if_neg (by simpa using hmiss), hwalk, ← leafBase_accessed haccessed]
  rfl

end WalkEnd

/-! ## The reads of table entries where no mark waits beneath a line (06 R160, R161) -/

/-- Where no mark waits beneath a line, only caches and registers have changed, of these the named and the caches' counters at most. -/
def CachesOnly (a b : Mach) : Prop := a.under = [] → b = { a with regs := b.regs, cache := b.cache } ∧
  ∀ x, (∀ g, x ≠ ldlReg g 0x24 ∧ x ≠ ldlReg g 0x28 ∧ x ≠ ldlReg g 0x2C) → b.reg x = a.reg x

namespace CachesOnly

variable {a b c : Mach}

theorem refl (s : Mach) : CachesOnly s s := fun _ => ⟨rfl, fun _ _ => rfl⟩

theorem trans (h : CachesOnly a b) (h' : CachesOnly b c) : CachesOnly a c := by
  intro hunder
  obtain ⟨hb, hbreg⟩ := h hunder
  obtain ⟨hc, hcreg⟩ := h' (by rw [hb]; exact hunder)
  refine ⟨?_, fun x hx => (hcreg x hx).trans (hbreg x hx)⟩
  rw [hb] at hc
  exact hc

variable (s : Mach)

theorem bump {g off : Nat} (hoff : off = 0x24 ∨ off = 0x28 ∨ off = 0x2C) (n : Nat) : CachesOnly s (s.bump (ldlReg g off) n) := by
  refine fun _ => ⟨by rw [bump_frame], fun x hx => ?_⟩
  rw [reg_bump, if_neg]
  obtain ⟨h1, h2, h3⟩ := hx g
  rcases hoff with rfl | rfl | rfl
  · exact h1
  · exact h2
  · exact h3

theorem replaceSet (g set : Nat) (l : List Line) : CachesOnly s (s.replaceSet g set l) := by
  intro hunder
  have hset : s.replaceSet g set l = s.setCacheSet g set l := by
    unfold Mach.replaceSet
    rw [hunder]
    rfl
  rw [hset]
  exact ⟨rfl, fun _ _ => rfl⟩

theorem touchLine (pa : Nat) (write : Bool) (h : Hint) : CachesOnly s (s.touchLine pa write h) := by
  unfold Mach.touchLine
  extract_lets g set l tag hit t others kind kept rest line
  have ht : CachesOnly s t := bump s (by split <;> simp) 1
  have hset : ∀ ls, CachesOnly s (t.replaceSet g set ls) := fun ls => ht.trans (replaceSet t g set ls)
  clear_value kind
  split
  · exact ht
  · split
    · split
      · exact (hset _).trans (bump _ (by simp) 1)
      · exact hset _
    · exact hset _

theorem touch (pa n : Nat) (write : Bool) (h : Hint) : CachesOnly s (s.touch pa n write h) := by
  unfold Mach.touch
  split
  · exact refl s
  · extract_lets y
    have hy : CachesOnly s y := rel_each CachesOnly (fun _ _ _ => trans) refl _ (fun i t => touchLine t _ write h) _ s
    clear_value y
    split
    · exact fun hunder => ⟨rfl, (hy hunder).2⟩
    · exact hy

theorem readTables (ctx va : Nat) : Leads CachesOnly (s.readTables ctx va) s := by
  refine Leads.eachRes (R := CachesOnly) (fun _ _ _ => trans) refl (fun level t => ?_) _ s
  extract_lets pa
  split
  · exact Leads.err _ _
  · split
    · exact Leads.err _ _
    · exact Leads.ok _ (touch t _ _ _ _)

end CachesOnly

/-- The counter of a core's misses is no register of a slice. -/
theorem coreReg_ne_ldlReg (c : CoreNo) (g off : Nat) : coreReg c.toNat 0x14 ≠ ldlReg g off := by
  have := c.isLt
  unfold coreReg ldlReg
  omega

/-! ## The statement -/

/-- Settles O16: a slot goes to the transaction that `slotNext` finds, the response ends the first that may end (`endedCore`), and
a walk's accesses leave the cores but for their translations. -/
theorem transactionsAndWalks : Obligations.TransactionsAndWalks := by
  refine ⟨?_, ?_, ?_, ?_⟩
  · intro s c l r x k hfrozen hfree htrans hx hl hk hunit hfirst
    have hnext : (s.m.core c.toNat).slotNext = some x.unit := by
      rw [hunit]
      refine slotNext_eq_some hk ?_ fun j hj => ?_
      · simp [htrans, hx, hunit]
      · rw [List.any_eq_false]
        intro y hy
        rcases hfirst j hj y hy with h | h <;> simp [h]
    have hstep := slotGrant_of_next hfrozen hfree htrans hx hl hnext
    refine ⟨{ s with m := slotGrant s.m c.toNat }, rfl, ?_, fun d hd => ?_, ?_⟩
    · rw [hstep]
      exact (core_setCore s.m c.toNat _ _).trans (if_pos rfl)
    · rw [hstep]
      exact (core_setCore s.m c.toNat _ d).trans (if_neg hd)
    · rw [hstep]
      rfl
  · intro s c h
    exact congrArg (fun m => Host.Outcome.next { s with m := m }) (slotGrant_eq_self h)
  · intro s c l r x cmd p it y w htrans hl hslot hheld hfenced hcmd hmove hphase hitem hrows hst
    have hy : Accessed s.m y := Accesses.runMove _ _ _ _ _ _ _ hmove
    have hw : Accessed s.m w := by
      refine hy.trans ?_
      have hrows' : Accesses (.ok () w) y := hrows ▸ Accesses.ite (Accesses.expBody _ _ _ _ _ _) (Accesses.same _ y)
      exact hrows' _ _ rfl
    have hstep := transResponse_eq htrans hl hslot hheld hfenced hcmd hmove (endTrans_eq hphase hitem hrows)
    set k := endedCore l.length x (w.core c.toNat) with hk
    have hfound : (w.setCore c.toNat k).cmd? cmd.id = some cmd := (hw.cmd? _).trans (coreCmd_eq_some.1 hcmd).2
    obtain ⟨waits, hwaits⟩ := cmd?_dropWaits x.key (core_lt c) hfound
    have hstays : cmd.st ≠ .stopped := hst cmd hfound
    rw [endStop_eq_self (fun z hz => by rw [hwaits] at hz; cases hz; exact hstays), dropWaits_frame _ _ _ (core_lt c)] at hstep
    have hcore : ∀ d, (transResponse s.m c.toNat).core d = if d = c.toNat then k else w.core d := fun d => by
      rw [hstep]
      exact core_setCore w c.toNat k d
    have hself := (hcore c.toNat).trans (if_pos rfl)
    refine ⟨{ s with m := transResponse s.m c.toNat }, rfl, ?_, fun n it hn => ?_, ?_, fun d hd => ?_, ?_⟩
    · rw [hself, hk]
      simp [endedCore, hw.transOf, htrans, List.eraseIdx_append_of_length_le]
    · rw [hself, hk]
      exact getElem?_items_endedCore _ _ _ ((congrArg (·[n]?) (hw.items c.toNat)).trans hn)
    · rw [hself]
      rfl
    · exact (hcore d).trans (if_neg hd)
    · rw [hstep]
      rfl
  · intro s c va a cmd p pa z y hcmd hleaf hfenced hfrozen
    have hbase : s.m.leafBase cmd.ctx va.toNat =
        p.va + (va.toNat - p.va) / (s.m.obj p.obj).leaf * (s.m.obj p.obj).leaf := by
      rw [Mach.leafBase, hleaf]
    have hwalks : tableWalk s.m c.toNat va.toNat a = s.m.settle cmd.id c.toNat 4 (s.m.coreWalk c.toNat cmd.ctx va.toNat a) := by
      unfold tableWalk
      rw [hcmd]
      exact if_neg (by simp [hfenced, hfrozen])
    rw [← hbase]
    refine ⟨fun hhit hheld => ?_, fun hmiss hread hend huse => ⟨?_, fun hunder => ?_⟩⟩
    · have hhit' : s.m.coreWalk c.toNat cmd.ctx va.toNat a = .ok () s.m := if_pos (by simpa using hhit)
      refine congrArg (fun m => Host.Outcome.next { s with m := m }) ?_
      rw [hwalks, hhit']
      refine dropWaits_eq_self fun x hx => ?_
      rw [(coreCmd_eq_some.1 hcmd).2] at hx
      cases hx
      exact hheld
    · have hz : Accessed s.m z := (Accessed.bump _ _ _).trans (Accesses.readTables _ _ _ _ _ hread)
      obtain ⟨haccessed, hobjs, hframe⟩ := walkEnd_ok (hz.leafUse huse) ((leafAt_accessed hz _ _).trans hleaf) hend
      have hcores : ∀ d, y.core d = z.core d := fun d => by rw [hframe]; rfl
      have hstep := hwalks
      rw [coreWalk_of_miss huse hmiss hread hend, settle_ok_frame _ _ _ _ (core_lt c)] at hstep
      refine ⟨{ s with m := tableWalk s.m c.toNat va.toNat a }, rfl, ?_, fun d hd => ?_, ?_, fun j hj => ?_, ?_⟩
      · rw [hstep, ← hcores]
        exact (core_setCore y c.toNat _ _).trans (if_pos rfl)
      · rw [hstep, ← hcores]
        exact (core_setCore y c.toNat _ d).trans (if_neg hd)
      · rw [hstep]
        exact haccessed
      · rw [hstep]
        exact hobjs j hj
      · rw [hstep, hframe]
        rfl
    · have hbump := bump_frame s.m (coreReg c.toNat 0x14) 1
      obtain ⟨hframe, hregs⟩ := CachesOnly.readTables _ _ _ _ _ hread (by rw [hbump]; exact hunder)
      refine ⟨?_, fun x hx hslice => ?_, ?_⟩
      · rw [hregs _ fun g => ⟨coreReg_ne_ldlReg c g _, coreReg_ne_ldlReg c g _, coreReg_ne_ldlReg c g _⟩]
        exact (reg_bump s.m _ 1 _).trans (if_pos rfl)
      · exact (hregs x hslice).trans ((reg_bump s.m _ 1 x).trans (if_neg hx))
      · rw [hframe, hbump]

end Sys2Proof.Proofs
end

section
/-! SUPPORT. The issue of core commands (05 R115; 09 R221; 14 R326 to R330, R335, R337 to R339). -/

namespace Sys2Proof.Proofs

open Sys2Proof.Machine Sys2Proof.Laws Sys2Proof.Safety

/-! ## A context becomes eligible (R337, R339) -/

/-- From a to b the dispatcher of a die has considered which contexts are eligible: of contexts eligibility and PASS can have changed,
and of its own the slice's holder and the counter of pre-emptions. -/
structure Noted (die : Nat) (a b : Mach) : Prop where
  frame : b = { a with ctxs := b.ctxs, scheds := b.scheds, regs := b.regs }
  ctx : ∀ k, b.ctx k = { a.ctx k with eligible := (b.ctx k).eligible, pass := (b.ctx k).pass }
  reg : ∀ x, x ≠ schReg die 0x14 → b.reg x = a.reg x
  sched : ∀ k, b.sched k = { a.sched k with holder := (b.sched k).holder }
  holder : ∀ k, k ≠ die → (b.sched k).holder = (a.sched k).holder

namespace Noted

variable {die : Nat} {a b c : Mach}

theorem refl (s : Mach) : Noted die s s := ⟨rfl, fun _ => rfl, fun _ _ => rfl, fun _ => rfl, fun _ _ => rfl⟩

theorem trans (h : Noted die a b) (h' : Noted die b c) : Noted die a c where
  frame := by
    have hb := h.frame
    have hc := h'.frame
    rw [hb] at hc
    exact hc
  ctx k := by
    have hc := h'.ctx k
    rw [h.ctx k] at hc
    exact hc
  reg x hx := (h'.reg x hx).trans (h.reg x hx)
  sched k := by
    have hc := h'.sched k
    rw [h.sched k] at hc
    exact hc
  holder k hk := (h'.holder k hk).trans (h.holder k hk)

/-- Contexts whose eligibility and PASS alone change. -/
theorem of_ctxs (hframe : b = { a with ctxs := b.ctxs })
    (hctx : ∀ k, b.ctx k = { a.ctx k with eligible := (b.ctx k).eligible, pass := (b.ctx k).pass }) : Noted die a b where
  frame := by
    rw [hframe]
  ctx := hctx
  reg x _ := by
    rw [hframe]
    rfl
  sched k := by
    rw [hframe]
    rfl
  holder k _ := by
    rw [hframe]
    rfl

theorem setCtx (s : Mach) (n : Nat) (x : CtxSt)
    (hx : x = { s.ctx n with eligible := x.eligible, pass := x.pass }) : Noted die s (s.setCtx n x) := by
  refine of_ctxs rfl fun k => ?_
  rw [ctx_setCtx]
  split
  · next hk => rw [hk]; exact hx
  · rfl

theorem markEligible (s : Mach) (es : List Nat) : Noted die s (markEligible s die es) := by
  unfold Machine.markEligible
  extract_lets t
  have ht : Noted die s t := by
    refine of_ctxs rfl fun k => ?_
    simp only [t, Mach.ctx]
    rw [tabGet_tabMap _ _ s.ctxs k rfl]
    split <;> rfl
  refine ht.trans (rel_each (Noted die) (fun _ _ _ => trans) refl _ (fun c u => ?_) es t)
  extract_lets x
  split
  · exact refl u
  · exact setCtx u c _ rfl

theorem preempt (s : Mach) (new : List Nat) : Noted die s (preempt s die new) := by
  unfold Machine.preempt
  split
  · split
    · refine ⟨by rw [bump_frame]; rfl, fun k => by rw [bump_frame]; rfl, fun x hx => ?_, fun k => ?_, fun k hk => ?_⟩
      · exact (reg_bump _ _ 1 x).trans (if_neg hx)
      all_goals
        have hsched : ∀ j, ((s.setSched die { s.sched die with holder := none }).bump (schReg die 0x14) 1).sched j =
            if j = die then { s.sched die with holder := none } else s.sched j := fun j => by
          rw [bump_frame]
          exact sched_setSched s die _ j
        rw [hsched]
      · split
        · next hk => rw [hk]
        · rfl
      · rw [if_neg hk]
    · exact refl s
  · exact refl s

theorem noteReady (s : Mach) (ctx : Nat) : Noted die s (noteReady s die ctx) := (markEligible s _).trans (preempt _ _)

end Noted

/-- Each context of a list becomes eligible where its own step makes it so and no step takes that back. -/
theorem eligible_each {die : Nat} (f : Nat → Mach → Mach) (hself : ∀ c s, ((f c s).ctx c).eligibleAt die = true)
    (hkeeps : ∀ c s k, (s.ctx k).eligibleAt die = true → ((f c s).ctx k).eligibleAt die = true) {k : Nat} (l : List Nat) (s : Mach)
    (h : (s.ctx k).eligibleAt die = true ∨ k ∈ l) : ((each f l s).ctx k).eligibleAt die = true := by
  unfold each
  induction l generalizing s with
  | nil => simpa using h
  | cons c l ih =>
    refine ih _ ?_
    rcases h with h | h
    · exact Or.inl (hkeeps c s k h)
    · rcases List.mem_cons.1 h with rfl | h
      · exact Or.inl (hself k s)
      · exact Or.inr h

theorem eligibleAt_setEligible (x : CtxSt) (die : Nat) (v : Bool) : (x.setEligible die v).eligibleAt die = v :=
  tabGet_tabSet_same _ x.eligible die v

theorem eligible_markEligible {die k : Nat} {es : List Nat} (s : Mach) (hk : k ∈ es) :
    ((markEligible s die es).ctx k).eligibleAt die = true := by
  unfold markEligible
  refine eligible_each _ (fun c t => ?_) (fun c t j hj => ?_) es _ (Or.inr hk)
  all_goals
    extract_lets x v p
    clear_value p
    split
  · next h => exact h
  · rw [ctx_setCtx, if_pos rfl]
    exact eligibleAt_setEligible x die true
  · exact hj
  · rw [ctx_setCtx]
    split
    · exact eligibleAt_setEligible x die true
    · exact hj

theorem ctx_preempt (s : Mach) (die : Nat) (new : List Nat) (k : Nat) : (preempt s die new).ctx k = s.ctx k := by
  unfold preempt
  split
  · split
    · rw [bump_frame]
      rfl
    · rfl
  · rfl

/-- A context with a command ready on a die is eligible there. -/
theorem eligible_noteReady (s : Mach) (die ctx : Nat) : ((noteReady s die ctx).ctx ctx).eligibleAt die = true := by
  unfold noteReady noteEligible
  rw [ctx_preempt]
  exact eligible_markEligible s (List.mem_eraseDups.2 (by simp))

/-! ## A context with nothing ready (R337) -/

theorem noteIdle_frame (s : Mach) (die ctx : Nat) : noteIdle s die ctx = { s with ctxs := (noteIdle s die ctx).ctxs } := by
  unfold noteIdle
  split <;> rfl

theorem ctx_noteIdle (s : Mach) (die ctx k : Nat) :
    (noteIdle s die ctx).ctx k = { s.ctx k with eligible := ((noteIdle s die ctx).ctx k).eligible } := by
  unfold noteIdle
  split
  · rfl
  · rw [ctx_setCtx]
    split
    · next hk => rw [hk]; rfl
    · rfl

theorem not_eligible_noteIdle {s : Mach} {die ctx : Nat} (h : ∀ p ∈ (candidates s die).2, (s.queue p.1).ctx ≠ ctx) :
    ((noteIdle s die ctx).ctx ctx).eligibleAt die = false := by
  unfold noteIdle
  rw [if_neg (by simpa using h), ctx_setCtx, if_pos rfl]
  exact eligibleAt_setEligible _ die false

/-! ## Descriptors and rows (R328) -/

theorem dOp_dSet (d : Nat) {op : Nat} (form : Bool) (h : op < 256) : dOp (dSet d op form) = op := by
  unfold dOp dSet bits
  rw [setBits_eq, Nat.shiftRight_zero]
  cases form <;> simp only [b2n] <;> omega

/-- The seven core commands issue from their queue with the row's descriptor. -/
theorem exec_coreRow {s : State} {c : Instr} {q : QueueNo} {d : Desc} {e : Nat}
    (hc : c = .matmul q d ∨ c = .conv q d ∨ c = .attnScore q d ∨ c = .attnApply q d ∨ c = .attnApplyBackward q d ∨
      c = .gatedStep q d ∨ c = .scanChunk q d) (he : queueEntryOf c = some (q, e)) :
    exec c s = .next { s with m := issueEntry s.m q.toNat e } ∧ isCoreOp (dOp e) = true := by
  obtain rfl | rfl | rfl | rfl | rfl | rfl | rfl := hc
  all_goals
    obtain rfl := (Prod.mk.inj (Option.some.inj he)).2
    refine ⟨rfl, ?_⟩
    rw [dOp_dSet _ _ (by decide)]
    rfl

/-! ## Counting and totals -/

@[simp] theorem queue_bump (s : Mach) (a n i : Nat) : (s.bump a n).queue i = s.queue i := by rw [bump_frame]; rfl
@[simp] theorem sched_bump (s : Mach) (a n i : Nat) : (s.bump a n).sched i = s.sched i := by rw [bump_frame]; rfl
@[simp] theorem queue_tally (s : Mach) (die : Nat) (f : SchedSt → SchedSt) (i : Nat) : (s.tally die f).queue i = s.queue i := rfl
@[simp] theorem reg_tally (s : Mach) (die : Nat) (f : SchedSt → SchedSt) (i : Nat) : (s.tally die f).reg i = s.reg i := rfl

/-! ## The entry becomes a command (R326, R330; 09 R221) -/

/-- The pin of an entry concerns its state object and its queue's pins. -/
theorem pinEntry_frame (s : Mach) (q p d : Nat) :
    s.pinEntry q p d = { s with objs := (s.pinEntry q p d).objs, queues := (s.pinEntry q p d).queues } := by
  unfold Mach.pinEntry
  split
  · rfl
  · unfold Mach.pin
    extract_lets o
    rw [abandonReq_frame]
    rfl

theorem queue_pinEntry_other (s : Mach) {q p d j : Nat} (hj : j ≠ q) : (s.pinEntry q p d).queue j = s.queue j := by
  unfold Mach.pinEntry
  split
  · rfl
  · rw [queue_setQueue, if_neg hj]
    unfold Mach.pin
    extract_lets o
    rw [abandonReq_frame]
    rfl

theorem queue_pinEntry_same (s : Mach) (q p d : Nat) : ∃ l : List (Nat × Nat), (∀ y ∈ l, y.1 = p) ∧
    (s.pinEntry q p d).queue q = { s.queue q with pins := (s.queue q).pins ++ l } := by
  unfold Mach.pinEntry
  split
  · exact ⟨[], by simp, by simp⟩
  · next o _ =>
    rw [queue_setQueue, if_pos rfl]
    exact ⟨[(p, o)], by simp, rfl⟩

/-- The machine once a pin of the entry at RD_PTR that its doorbell could not take is taken. -/
def takePin (s : Mach) (q d : Nat) : Mach :=
  if (s.queue q).pinDue.contains (s.queue q).rd then s.pinEntry q (s.queue q).rd d else s

/-- The command that the entry at RD_PTR becomes. -/
def enteredCmd (s : Mach) (q d : Nat) (st : CmdSt) : Cmd :=
  let x := (takePin s q d).queue q
  { id := (takePin s q d).nextCmd, ctx := x.ctx, queue := q, pos := x.rd, die := homeDie x.dieMask, desc := d, st := st,
    job := x.jobOf x.rd, pins := (x.pins.filter fun y => y.1 == x.rd).map fun y => y.2 }

section Enter

variable (s : Mach) (q d : Nat) (st : CmdSt)

theorem takePin_frame : takePin s q d = { s with objs := (takePin s q d).objs, queues := (takePin s q d).queues } := by
  unfold takePin
  split
  · exact pinEntry_frame _ _ _ _
  · rfl

theorem objs_takePin (h : (s.queue q).pinDue.contains (s.queue q).rd = false) : (takePin s q d).objs = s.objs := by
  rw [takePin, if_neg (by simpa using h)]

theorem queue_takePin_other {j : Nat} (hj : j ≠ q) : (takePin s q d).queue j = s.queue j := by
  unfold takePin
  split
  · exact queue_pinEntry_other s hj
  · rfl

theorem queue_takePin_same : ∃ l : List (Nat × Nat), (∀ y ∈ l, y.1 = (s.queue q).rd) ∧
    (takePin s q d).queue q = { s.queue q with pins := (s.queue q).pins ++ l } := by
  unfold takePin
  split
  · exact queue_pinEntry_same s q _ d
  · exact ⟨[], by simp, by simp⟩

/-- Behind RD_PTR the queue keeps no pin of the entry. -/
theorem passed_takePin : ((takePin s q d).queue q).passed ((takePin s q d).queue q).rd = (s.queue q).passed (s.queue q).rd := by
  obtain ⟨l, hl, hqueue⟩ := queue_takePin_same s q d
  rw [hqueue]
  simpa [QueueSt.passed] using hl

theorem fromEntry_enteredCmd : FromEntry q d s (enteredCmd s q d st) := by
  obtain ⟨l, -, hqueue⟩ := queue_takePin_same s q d
  have hnext : (takePin s q d).nextCmd = s.nextCmd := by rw [takePin_frame]
  simp only [FromEntry, enteredCmd, hqueue, hnext]
  exact ⟨trivial, trivial, trivial, trivial, trivial, trivial, rfl, trivial⟩

/-- The machine once the entry of a command that does not hold its queue has become one. -/
theorem enterCmd_eq (hop : isCoreOp (dOp d) = true) : enterCmd s q d st = (enteredCmd s q d st,
    ((({ takePin s q d with nextCmd := s.nextCmd + 1, cmds := s.cmds ++ [enteredCmd s q d st] } : Mach).setQueue q
      ((s.queue q).passed (s.queue q).rd)).tally (homeDie (s.queue q).dieMask) fun y => { y with issued := y.issued + 1 }).bump
        (schReg (homeDie (s.queue q).dieMask) 0x10) 1) := by
  have hholds : ¬ (enteredCmd s q d st).holds = true := by
    have hop' : 1 ≤ dOp d ∧ dOp d ≤ 7 := by
      simp only [isCoreOp, Bool.and_eq_true, decide_eq_true_eq] at hop
      exact hop.1
    simp [Cmd.holds, enteredCmd]
    omega
  have hdie : (enteredCmd s q d st).die = homeDie (s.queue q).dieMask := by
    obtain ⟨-, -, -, -, hdie, -⟩ := fromEntry_enteredCmd s q d st
    exact hdie
  have hnext : (takePin s q d).nextCmd = s.nextCmd := by rw [takePin_frame]
  have hcmds : (takePin s q d).cmds = s.cmds := by rw [takePin_frame]
  rw [← passed_takePin s q d, ← hdie, ← hnext, ← hcmds]
  unfold enterCmd
  change (enteredCmd s q d st, Mach.bump (if (enteredCmd s q d st).holds = true then _ else Mach.tally (Mach.setQueue _ q
    (if (enteredCmd s q d st).holds = true then _ else _)) _ _) _ 1) = _
  rw [if_neg hholds, if_neg hholds]
  rfl

variable {d} (hop : isCoreOp (dOp d) = true)
include hop

theorem enterCmd_frame : (enterCmd s q d st).2 = { s with
    nextCmd := s.nextCmd + 1, cmds := s.cmds ++ [enteredCmd s q d st], queues := (enterCmd s q d st).2.queues,
    scheds := (enterCmd s q d st).2.scheds, regs := (enterCmd s q d st).2.regs, objs := (takePin s q d).objs } := by
  rw [enterCmd_eq s q d st hop]
  dsimp only
  rw [bump_frame, takePin_frame]
  rfl

theorem issued_enterCmd : Issued q s (enterCmd s q d st).2 := by
  rw [enterCmd_eq s q d st hop]
  dsimp only
  refine ⟨?_, fun j hj => ?_, ?_, ?_, ?_⟩
  · rw [queue_bump, queue_tally, queue_setQueue, if_pos rfl]
  · rw [queue_bump, queue_tally, queue_setQueue, if_neg hj]
    exact queue_takePin_other s q d hj
  · rw [bump_frame]
    rfl
  · rw [reg_bump, if_pos rfl, reg_tally, reg_setQueue, takePin_frame]
    rfl
  · rw [sched_bump, Mach.tally, sched_setSched, if_pos rfl, sched_setQueue, takePin_frame]
    rfl

end Enter

/-! ## Places (R132, R335) -/

/-- Another command stands when one is replaced. -/
theorem cmd?_setCmd_other (s : Mach) {c : Cmd} {id : Nat} (h : id ≠ c.id) : (s.setCmd c).cmd? id = s.cmd? id := by
  unfold Mach.cmd? Mach.setCmd
  dsimp only
  induction s.cmds with
  | nil => rfl
  | cons x l ih =>
    rw [List.map_cons, List.find?_cons, List.find?_cons, ih]
    by_cases hx : x.id = c.id
    · have hc : (c.id == id) = false := by simpa using Ne.symm h
      have hx' : (x.id == id) = false := by simpa [hx] using Ne.symm h
      simp [hx, hc]
    · simp [hx]

/-- One place of a cluster is granted to slot x.2 of a command. -/
def grantOne (id : Nat) (x : Nat × Nat) (s : Mach) : Mach :=
  match s.cmd? id with
  | none => s
  | some c =>
    let k := s.cluster x.1
    let p := lowPlace k
    (s.setCluster x.1 { k with
      places := k.places ++ [(p, id)], placesFree := k.placesFree - 1, waiting := k.waiting ++ [(id, x.2)] }).setCmd
        { c with slots := c.slots ++ [{ cluster := x.1, place := p }] }

theorem grantPlaces_eq (s : Mach) (id : Nat) (ks : List Nat) : grantPlaces s id ks = each (grantOne id) ks.zipIdx s := rfl

/-- From s to t slots n, n + 1, ... of command c of number id have taken places of the clusters ks. -/
structure Granted (id n : Nat) (ks : List Nat) (c : Cmd) (s t : Mach) : Prop where
  cmd : ∃ l : List Slot, t.cmd? id = some { c with slots := c.slots ++ l } ∧ l.map (fun z => z.cluster) = ks ∧
    ∀ z ∈ l, z.admitted = false
  others : ∀ j, j ≠ id → t.cmd? j = s.cmd? j
  waiting : ∀ (i k : Nat), ks[i]? = some k → (id, n + i) ∈ (t.cluster k).waiting
  waits : ∀ k, ∀ w ∈ (s.cluster k).waiting, w ∈ (t.cluster k).waiting
  places : ∀ k, (t.cluster k).places.length = (s.cluster k).places.length + ks.count k
  placesFree : ∀ k, (t.cluster k).placesFree = (s.cluster k).placesFree - ks.count k
  frame : t = { s with cmds := t.cmds, clusters := t.clusters }

theorem granted_nil {id : Nat} (n : Nat) {c : Cmd} {s : Mach} (h : s.cmd? id = some c) : Granted id n [] c s s where
  cmd := ⟨[], by rw [List.append_nil]; exact h, rfl, by simp⟩
  others _ _ := rfl
  waiting _ _ h := by simp at h
  waits _ _ hw := hw
  places _ := rfl
  placesFree _ := rfl
  frame := rfl

/-- A grant before the others. -/
theorem granted_cons {id n k : Nat} {ks : List Nat} {c : Cmd} {s t : Mach} (h : s.cmd? id = some c)
    (ht : ∀ c', (grantOne id (k, n) s).cmd? id = some c' → Granted id (n + 1) ks c' (grantOne id (k, n) s) t) :
    Granted id n (k :: ks) c s t := by
  have hid : c.id = id := cmd?_id h
  set p := lowPlace (s.cluster k)
  set x : ClusterSt := { s.cluster k with
    places := (s.cluster k).places ++ [(p, id)], placesFree := (s.cluster k).placesFree - 1,
    waiting := (s.cluster k).waiting ++ [(id, n)] } with hx
  set c' : Cmd := { c with slots := c.slots ++ [{ cluster := k, place := p }] } with hc'
  have hone : grantOne id (k, n) s = (s.setCluster k x).setCmd c' := by
    unfold grantOne
    rw [h]
  have hcluster : ∀ j, (grantOne id (k, n) s).cluster j = if j = k then x else s.cluster j := fun j => by
    rw [hone]
    exact cluster_setCluster s k x j
  have hfound : (grantOne id (k, n) s).cmd? id = some c' := by
    rw [hone]
    exact cmd?_setCmd_same (s := s.setCluster k x) h hid
  obtain ⟨⟨l, hl, hclusters, hnew⟩, hothers, hwaiting, hwaits, hplaces, hplacesFree, hframe⟩ := ht c' hfound
  refine ⟨⟨{ cluster := k, place := p } :: l, ?_, by simp [hclusters], by simpa using hnew⟩, fun j hj => ?_, fun i j hi => ?_,
    fun j w hw => hwaits j w ?_, fun j => ?_, fun j => ?_, ?_⟩
  · simpa [hc'] using hl
  · rw [hothers j hj, hone]
    exact cmd?_setCmd_other (s.setCluster k x) (c := c') (hid ▸ hj)
  · cases i with
    | zero =>
      obtain rfl : k = j := by simpa using hi
      refine hwaits k _ ?_
      rw [hcluster, if_pos rfl]
      simp [hx]
    | succ i =>
      have hi' := hwaiting i j (by simpa using hi)
      rwa [Nat.add_right_comm n 1 i] at hi'
  · rw [hcluster]
    split
    · next hj => simp [hx, ← hj, hw]
    · exact hw
  · rw [hplaces, hcluster, List.count_cons]
    split
    · next hj => simp [hx, hj]; omega
    · next hj => simp [Ne.symm hj]
  · rw [hplacesFree, hcluster, List.count_cons]
    split
    · next hj => simp [hx, hj]; omega
    · next hj => simp [Ne.symm hj]
  · rw [hframe, hone]
    rfl

/-- The grants of a list of places. -/
theorem granted_each {id : Nat} (n : Nat) (ks : List Nat) {c : Cmd} {s : Mach} (h : s.cmd? id = some c) :
    Granted id n ks c s (each (grantOne id) (ks.zipIdx n) s) := by
  induction ks generalizing n c s with
  | nil => exact granted_nil n h
  | cons k ks ih => exact granted_cons h fun c' hc' => ih (n + 1) hc'

/-! ## The issue (R329, R330) -/

section Issue

variable {s r : Mach} {q e die : Nat}

/-- The entry of a core command that may issue becomes one in a machine where the dispatcher has considered eligibility, once its
places have come and its body passes. -/
theorem tryIssue_eq {ks avoid : List Nat} {y : Mach} (hr : Noted die s r) (hmay : MayIssue q e s) (hop : isCoreOp (dOp e) = true)
    (hplaces : r.choosePlaces (s.queue q).dieMask (dSlots e) avoid = some ks)
    (hcheck : coreIssueCheck s.nextCmd (grantPlaces (enterCmd r q e .running).2 s.nextCmd ks) = .ok () y) :
    advance r q e avoid = some y := by
  obtain ⟨-, -, hskip, hissues, hruns, hready, hheader⟩ := hmay
  have hqueue : r.queue q = s.queue q := by rw [hr.frame]; rfl
  have hissues' : r.issues = true := by
    have hsafe : r.safe = s.safe := congrArg (fun w : Word => w.toNat.testBit 30) (hr.reg _ (by unfold safReg schReg; omega))
    have hfrozen : r.frozen = s.frozen := by rw [hr.frame]
    rw [Mach.issues, hsafe, hfrozen]
    exact hissues
  have hruns' : r.runs (r.queue q).ctx = true := by
    rw [hqueue, Mach.runs, hr.ctx]
    exact hruns
  have hready' : r.readyAt q e = true := by rw [hr.frame]; exact hready
  have hheader' : headerCode r q e = none := by rw [hr.frame]; exact hheader
  have hid : (enteredCmd r q e .running).id = s.nextCmd := by
    rw [(fromEntry_enteredCmd r q e .running).1, hr.frame]
  unfold advance
  rw [if_neg (by rw [hqueue, hskip]; simp)]
  unfold tryIssue
  dsimp only
  rw [if_neg (by simp [hissues', hruns', hready']), hheader']
  dsimp only
  rw [if_pos hop, hqueue, hplaces]
  dsimp only
  rw [enterCmd_eq r q e .running hop] at hcheck ⊢
  dsimp only at hcheck ⊢
  rw [hid, startCore, hcheck]
  rfl

/-- The issue of such an entry. -/
theorem issueEntry_eq {ks : List Nat} {y : Mach} (hmay : MayIssue q e s) (hop : isCoreOp (dOp e) = true)
    (hr : noteReady s (homeDie (s.queue q).dieMask) (s.queue q).ctx = r)
    (hplaces : r.choosePlaces (s.queue q).dieMask (dSlots e)
      (keptPlaces r (homeDie (s.queue q).dieMask) (s.queue q).ctx) = some ks)
    (hcheck : coreIssueCheck s.nextCmd (grantPlaces (enterCmd r q e .running).2 s.nextCmd ks) = .ok () y) :
    issueEntry s q e = noteIdle y (homeDie (s.queue q).dieMask) (s.queue q).ctx := by
  have hnoted : Noted (homeDie (s.queue q).dieMask) s r := hr ▸ Noted.noteReady s _
  have hadvance := tryIssue_eq hnoted hmay hop hplaces hcheck
  obtain ⟨-, hreplay, -⟩ := hmay
  unfold issueEntry
  dsimp only
  rw [if_neg (by simp [hreplay]), hr, hadvance]

/-- MATMUL and CONV read nothing at their issue. -/
theorem coreIssueCheck_matmul {id : Nat} {x : Cmd} {g y : Mach} (hx : g.cmd? id = some x) (hop : dOp x.desc ≤ 2)
    (h : coreIssueCheck id g = .ok () y) : y = g := by
  unfold coreIssueCheck at h
  rw [hx] at h
  dsimp only at h
  rw [if_pos hop, Res.check] at h
  split at h <;> cases h
  rfl

/-- A new command is found under its number, and the others under theirs. -/
theorem cmd?_entered {x : Cmd} {t : Mach} (hfresh : NumbersFresh s) (hid : x.id = s.nextCmd) (hcmds : t.cmds = s.cmds ++ [x]) :
    t.cmd? s.nextCmd = some x ∧ ∀ j, j ≠ s.nextCmd → t.cmd? j = s.cmd? j := by
  have hnone : s.cmds.find? (fun c => c.id == s.nextCmd) = none := by
    rw [List.find?_eq_none]
    intro c hc
    have := hfresh c hc
    simp
    omega
  unfold Mach.cmd?
  rw [hcmds]
  refine ⟨by rw [List.find?_append, hnone]; simp [hid], fun j hj => ?_⟩
  have hx : (x.id == j) = false := by simpa [hid] using Ne.symm hj
  simp [List.find?_append, hx]

end Issue

/-! ## The statement -/

/-- Settles O30: the dispatcher notes eligibility (`Noted`), the entry becomes a command (`enterCmd_eq`), its slots take their places
(`Granted`), and the body's check follows. -/
theorem coreCommandsIssue : Obligations.CoreCommandsIssue := by
  intro s c q d e die cx ks r g y hc he hmay hdie hcx hr hplaces hg hcheck
  subst hdie hcx
  obtain ⟨hexec, hop⟩ := exec_coreRow (s := s) hc he
  have hnoted : Noted _ s.m r := hr ▸ Noted.noteReady s.m _
  have hstep := issueEntry_eq hmay hop hr hplaces (by rw [hg]; exact hcheck)
  obtain ⟨hfresh, -⟩ := hmay
  have hnext : r.nextCmd = s.m.nextCmd := by rw [hnoted.frame]
  have hcmds : r.cmds = s.m.cmds := by rw [hnoted.frame]
  have hqueue : ∀ j, r.queue j = s.m.queue j := fun j => by rw [hnoted.frame]; rfl
  set x := enteredCmd r q.toNat e .running with hx
  set t := (enterCmd r q.toNat e .running).2 with ht
  have htframe := enterCmd_frame r q.toNat .running hop
  rw [← ht, ← hx] at htframe
  obtain ⟨hxid, hxctx, hxqueue, hxpos, hxdie, hxdesc, hxjob, hxreplays⟩ := fromEntry_enteredCmd r q.toNat e .running
  obtain ⟨htqueue, htothers, htnext, htreg, htissued⟩ := issued_enterCmd r q.toNat .running hop
  have htcmds : t.cmds = s.m.cmds ++ [x] := by rw [htframe, hcmds]
  obtain ⟨hfound, hkept⟩ := cmd?_entered hfresh (hxid.trans hnext) htcmds
  have hgranted : Granted s.m.nextCmd 0 ks x t g := by
    rw [← hg, grantPlaces_eq]
    exact granted_each 0 ks hfound
  obtain ⟨⟨l, hl, hclusters, hnew⟩, hothers, hwaiting, -, hcount, hfree, hgframe⟩ := hgranted
  have hcluster : ∀ k, t.cluster k = s.m.cluster k := fun k => by
    rw [htframe, hnoted.frame]
    rfl
  refine ⟨by rw [hexec, hstep], hr ▸ eligible_noteReady s.m _ _, hnoted.frame, hnoted.ctx, hnoted.reg, hnoted.sched,
    hnoted.holder, ⟨_, hl, ?_, rfl, ?_, hnew⟩, ?_, fun i k hi => ?_, fun k => ⟨?_, ?_⟩, fun c hc => ?_, fun hnopin => ?_, ?_,
    fun hop2 => ?_, noteIdle_frame y _ _, ctx_noteIdle y _ _, not_eligible_noteIdle⟩
  · rw [hqueue] at hxctx hxpos hxdie hxjob
    exact ⟨hxid.trans hnext, hxctx, hxqueue, hxpos, hxdie, hxdesc, hxjob, hxreplays⟩
  · exact hclusters
  · have hgqueue : ∀ j, g.queue j = t.queue j := fun j => by rw [hgframe]; rfl
    have hgreg : ∀ a, g.reg a = t.reg a := fun a => by rw [hgframe]; rfl
    have hgsched : ∀ a, g.sched a = t.sched a := fun a => by rw [hgframe]; rfl
    have hgnext : g.nextCmd = t.nextCmd := by rw [hgframe]
    rw [hqueue] at htqueue htreg htissued
    refine ⟨(hgqueue _).trans htqueue, fun j hj => (hgqueue j).trans ((htothers j hj).trans (hqueue j)), ?_, ?_, ?_⟩
    · rw [hgnext, htnext, hnext]
    · rw [hgreg, htreg, hnoted.reg _ (by unfold schReg; omega)]
    · rw [hgsched, htissued, hnoted.sched]
  · simpa using hwaiting i k hi
  · rw [hcount, hcluster]
  · rw [hfree, hcluster]
  · have hlt := hfresh c hc
    rw [hothers _ (by omega), hkept _ (by omega)]
  · rw [← hqueue] at hnopin
    rw [hgframe, htframe]
    exact (objs_takePin r _ e hnopin).trans (by rw [hnoted.frame])
  · rw [hgframe, htframe]
  · exact coreIssueCheck_matmul hl (hxdesc ▸ hop2) hcheck

end Sys2Proof.Proofs
end

section
/-! SUPPORT. Delivery, barriers and shares of ladle commands (06 R143, R144, R165; 12 R274; 14 R340). -/

namespace Sys2Proof.Proofs

open Sys2Proof.Machine Sys2Proof.Laws

/-! ## The check phase answers for its own command (R144) -/

/-- Where a part of a step answers a command, it is one of number id. -/
def Names (id : Nat) (r : Res Cmd) : Prop := ∀ c s, r = .ok c s → c.id = id

namespace Names

variable {id : Nat}

theorem ok {c : Cmd} {s : Mach} (h : c.id = id) : Names id (.ok c s) := fun _ _ e => by
  cases e
  exact h

theorem err (f : Flt) (s : Mach) : Names id (.err f s) := fun _ _ e => nomatch e

theorem bind {α : Type} {r : Res α} {k : α → Mach → Res Cmd} (h : ∀ a s, Names id (k a s)) : Names id (r.bind k) := fun c s e => by
  obtain ⟨a, t, -, ht⟩ := bind_eq_ok e
  exact h a t c s ht

theorem ite {p : Prop} [Decidable p] {r r' : Res Cmd} (hr : Names id r) (hr' : Names id r') : Names id (if p then r else r') := by
  split
  · exact hr
  · exact hr'

variable (c : Cmd) (s : Mach)

theorem normCheck : Names c.id (normCheck c s) :=
  bind fun _ _ => bind fun _ _ => bind fun _ _ => bind fun _ _ => ok rfl

theorem optCheck : Names c.id (optCheck c s) := bind fun _ _ => ok rfl

theorem redCheck : Names c.id (redCheck c s) :=
  ite (bind fun _ _ => bind fun _ _ => ite (ok rfl) (err _ _)) (bind fun _ _ => bind fun _ _ => bind fun _ _ => ok rfl)

theorem copyCheck : Names c.id (copyCheck c s) := bind fun _ _ => bind fun _ _ => ok rfl

theorem pageCheck : Names c.id (pageCheck c s) :=
  bind fun _ _ => ite (ok rfl) <| ite (err _ _) <| ite (err _ _) <| bind fun _ _ => bind fun _ _ => ite (err _ _) <|
    bind fun _ _ => ite (err _ _) <| bind fun _ _ => bind fun _ _ => bind fun _ _ => ok rfl

theorem ladleCheck : Names c.id (ladleCheck c s) := by
  unfold Machine.ladleCheck
  split
  · exact normCheck c s
  · exact optCheck c s
  · exact redCheck c s
  · exact copyCheck c s
  · exact copyCheck c s
  · exact pageCheck c s

end Names

/-! ## The command of a class that the units have (R143) -/

/-- A command of a class is at the units. -/
def atUnits (s : Mach) (page : Bool) (c : Cmd) : Bool :=
  isLadleOp (dOp c.desc) && isPageOp (dOp c.desc) == page && (c.st == .check || c.st == .checked || c.st == .work) && s.runs c.ctx

theorem classHead_eq (s : Mach) (page : Bool) : classHead s page = s.cmds.find? (atUnits s page) := rfl

theorem atUnits_congr {s t : Mach} (h : ∀ k, t.runs k = s.runs k) (page : Bool) : atUnits t page = atUnits s page := by
  funext c
  simp only [atUnits, h]

/-- A command that comes last heads its class where no other is at the units. -/
theorem classHead_append {s t : Mach} {page : Bool} {l : List Cmd} {c : Cmd} (hcmds : t.cmds = l ++ [c])
    (hruns : ∀ k, t.runs k = s.runs k) (hl : ∀ x ∈ l, atUnits s page x = false) (hc : atUnits s page c = true) :
    classHead t page = some c := by
  rw [classHead_eq, hcmds, atUnits_congr hruns, List.find?_append, List.find?_eq_none.2 (by simpa using hl)]
  simp [hc]

/-- The head of a class stays it where later commands come and go. -/
theorem classHead_of_later {s t : Mach} {page : Bool} {p : Cmd → Bool} {r : List Cmd} {c : Cmd} (h : classHead s page = some c)
    (hcmds : t.cmds = s.cmds.filter p ++ r) (hruns : ∀ k, t.runs k = s.runs k) (hp : p c = true) : classHead t page = some c := by
  rw [classHead_eq, List.find?_eq_some_iff_append] at h
  obtain ⟨hc, as, bs, heq, has⟩ := h
  rw [classHead_eq, hcmds, atUnits_congr hruns, heq, List.filter_append, List.filter_cons_of_pos hp, List.append_assoc,
    List.find?_append, List.find?_eq_none.2 fun x hx => by simpa using has x (List.mem_filter.1 hx).1]
  simp [hc]

/-! ## The check phase (R144) -/

section Check

variable {s y : Mach} {page : Bool} {c z : Cmd}

/-- A command of a class that is delivered and next takes its check phase and stands at its barrier. -/
theorem takeNext_of_check {b : Cmd} {x : Mach} (hissues : s.issues = true) (hhead : classHead s page = some c) (hst : c.st = .check)
    (hb : b = c.begin (s.reg (memReg 0)).toNat) (hset : s.setCmd b = x)
    (hcheck : ladleCheck b { x with leafUse := .check [] } = .ok z y) :
    takeNext s page = (({ y with leafUse := .walk } : Mach).setCmd { z with st := .checked, leaves := y.leafUse.noted }).dropWaits c.id
      fun w => w.no == 1 := by
  subst hset
  have hid : z.id = c.id := by
    rw [Names.ladleCheck _ _ _ _ hcheck, hb, Cmd.begin]
    split <;> rfl
  unfold takeNext
  rw [if_neg (by simp [hissues]), hhead]
  dsimp only
  rw [if_pos hst, ← hb, hcheck, ← hid]

/-- Where the class's next command is past its check, nothing is to be checked. -/
theorem takeNext_eq_self (h : ∀ c, classHead s page = some c → c.st ≠ .check) : takeNext s page = s := by
  unfold takeNext
  split
  · rfl
  · split
    · next c hc => exact if_neg (h c hc)
    · rfl

/-- A command that comes last, alone of its number, is replaced there. -/
theorem setCmd_append {l : List Cmd} {b : Cmd} (hcmds : s.cmds = l ++ [c]) (hl : ∀ x ∈ l, x.id ≠ b.id) (hid : c.id = b.id) :
    s.setCmd b = { s with cmds := l ++ [b] } := by
  have hmap : (l.map fun x => if x.id == b.id then b else x) = l := by
    rw [List.map_congr_left fun x hx => if_neg (by simpa using hl x hx)]
    exact List.map_id l
  rw [Mach.setCmd, hcmds, List.map_append, hmap, List.map_singleton, if_pos (by simpa using hid)]

theorem mem_setCmd {x b : Cmd} (h : x ∈ (s.setCmd b).cmds) : x = b ∨ x ∈ s.cmds ∧ x.id ≠ b.id := by
  obtain ⟨u, hu, hx⟩ := List.mem_map.1 h
  split at hx
  · exact Or.inl hx.symm
  · next hne => exact Or.inr ⟨hx ▸ hu, by simpa [hx] using hne⟩

end Check

/-! ## Delivery (R143; 14 R340) -/

section Delivery

variable {s : Mach} {c : Cmd}

/-- The command whose turn it is is offered, and its context runs. -/
theorem offered_of_turn {l : List Nat} (h : l.findSome? (fun d => offeredOf s d) = some c) : c.st = .offered ∧ s.runs c.ctx = true := by
  obtain ⟨d, -, hd⟩ := List.exists_of_findSome?_eq_some h
  have := List.find?_some hd
  simp only [Bool.and_eq_true, beq_iff_eq] at this
  exact ⟨this.1.1, this.2⟩

theorem ladleDelivery_eq (hissues : s.issues = true)
    (hturn : ([0, 1, 2, 3].map fun i => (s.ladleDie + i) % 4).findSome? (fun d => offeredOf s d) = some c) :
    ladleDelivery s = takeNext { s with
      ladleDie := (c.die + 1) % 4, cmds := (s.cmds.filter fun x => x.id != c.id) ++ [{ c with st := .check }] }
        (isPageOp (dOp c.desc)) := by
  unfold ladleDelivery
  rw [if_neg (by simp [hissues]), hturn]
  rfl

end Delivery

/-! ## Barriers (R144, R152) -/

section Barrier

variable {s : Mach} {page : Bool} {c : Cmd} (hissues : s.issues = true) (hhead : classHead s page = some c)
include hissues hhead

/-- The barrier after the check phase: the first pass begins. -/
theorem ladleBarrier_of_checked (hst : c.st = .checked) :
    ladleBarrier s page = s.setCmd { c with st := .work, pass := 0, shares := List.range 32 } := by
  unfold ladleBarrier
  rw [if_neg (by simp [hissues]), hhead]
  exact if_pos hst

/-- The barrier after a pass but the last that no unit works at. -/
theorem ladleBarrier_of_passed (hcmd : s.cmd? c.id = some c) (hst : c.st = .work) (hpass : c.pass + 1 < passes c.desc)
    (hshares : c.shares = []) : ladleBarrier s page = s.setCmd { c with pass := c.pass + 1, shares := List.range 32 } := by
  unfold ladleBarrier
  rw [if_neg (by simp [hissues]), hhead]
  dsimp only
  rw [if_neg (by simp [hst]), if_pos ⟨hst, hpass⟩, hshares]
  change (match s.cmd? c.id with
    | some c => _
    | none => _) = _
  rw [hcmd]
  exact if_pos (by simp [hst, hshares])

end Barrier

/-! ## Shares (R144, R165) -/

section Share

variable {s w : Mach} {c v : Cmd} {g : Nat}

/-- A unit that completes its share has it no more. -/
theorem unitShare_of_ok {y : Mach} (hshare : ladleShare c g { s with leafUse := .kept c.leaves } = .ok () y)
    (hdrop : ({ y with leafUse := .walk } : Mach).dropWaits c.id (fun h => h.is (544 + g) 2) = w) (hv : w.cmd? c.id = some v) :
    unitShare s c g = w.setCmd { v with shares := v.shares.filter fun x => x != g } := by
  unfold unitShare
  rw [hshare]
  dsimp only
  rw [hdrop, hv]

/-- A unit that meets a held channel waits there in a transaction slot of its. -/
theorem unitShare_of_held {y : Mach} {n : Nat} (hg : g < 32) (hcmd : s.cmd? c.id = some c)
    (hnew : (c.heldOn.any fun h => h.is (544 + g) 2) = false)
    (hshare : ladleShare c g { s with leafUse := .kept c.leaves } = .err (.held n) y) :
    unitShare s c g = (s.setSlice g { s.slice g with slotsFree := (s.slice g).slotsFree - 1 }).setCmd
      { c with heldOn := c.heldOn ++ [⟨544 + g, 2, n, 0⟩] } := by
  have hslot : s.takeSlot (544 + g) = s.setSlice g { s.slice g with slotsFree := (s.slice g).slotsFree - 1 } := by
    rw [Mach.takeSlot, if_neg (by omega), Nat.add_sub_cancel_left]
  unfold unitShare
  rw [hshare]
  change s.addWait c.id (544 + g) 2 n = _
  rw [Mach.addWait, hcmd]
  dsimp only
  rw [if_neg (by simp [hnew]), hslot]

/-- No share is done where nothing issues. -/
theorem shareComplete_eq_self (page : Bool) (h : s.issues = false) : shareComplete s g page = s := by
  unfold shareComplete
  split
  · exact if_pos (by simp [h])
  · rfl

variable {page : Bool} (hissues : s.issues = true) (hhead : classHead s page = some c) (hst : c.st = .work)
  (hpass : passes c.desc ≤ c.pass + 1) (hmem : g ∈ c.shares)
include hissues hhead hst hpass hmem

/-- A share of the last pass is counted where the unit has it no more and its command still works. -/
theorem shareComplete_of_done (hshare : unitShare s c g = w) (hcmd : w.cmd? c.id = some v) (hwork : v.st = .work)
    (hdone : g ∉ v.shares) (hruns : w.runs v.ctx = true) : shareComplete s g page =
      (if v.shares.isEmpty then takeNext (ladleDone (w.bump (ldlReg g 0x10) 1) v) page else w.bump (ldlReg g 0x10) 1).retest := by
  unfold shareComplete
  rw [hhead]
  dsimp only
  rw [if_neg (by simp [hissues, hst, hmem]; omega), hshare, hcmd]
  dsimp only
  rw [if_neg (by simp [hwork, hdone, hruns])]

/-- A unit that still has its share is not counted. -/
theorem shareComplete_of_left (hshare : unitShare s c g = w) (hcmd : w.cmd? c.id = some v) (hleft : g ∈ v.shares) :
    shareComplete s g page = w := by
  unfold shareComplete
  rw [hhead]
  dsimp only
  rw [if_neg (by simp [hissues, hst, hmem]; omega), hshare, hcmd]
  dsimp only
  rw [if_pos (by simp [hleft])]

end Share

/-! ## The statement -/

theorem exec_ladleDelivery (s : State) : exec .ladleDelivery s = .next { s with m := ladleDelivery s.m } := rfl

theorem exec_ladleBarrier (page : Bool) (s : State) :
    exec (.ladleBarrier page) s = .next { s with m := ladleBarrier s.m page } := rfl

theorem exec_ladleShareComplete (g : SliceNo) (page : Bool) (s : State) :
    exec (.ladleShareComplete g page) s = .next { s with m := shareComplete s.m g.toNat page } := rfl

/-- Settles O18: a delivered command is the last of its class and alone at the units (`classHead_append`), so its check phase is
`takeNext_of_check`; a barrier replaces the class's head; a share is `unitShare_of_ok` or waits by `unitShare_of_held`. -/
theorem ladleCommandsRun : Obligations.LadleCommandsRun := by
  refine ⟨?_, ?_, ?_, ?_, ?_, ?_, ?_⟩
  · intro s c b z x y hissues hturn hhead hop hb hx hcheck
    have hbegin : b.id = c.id ∧ (c.begun = false → b.mapGen = (s.m.reg (memReg 0)).toNat) ∧
        (c.begun = true → b.mapGen = c.mapGen) := by
      rw [hb, Cmd.begin]
      cases c.begun <;> simp
    obtain ⟨hid, hgen⟩ := hbegin
    obtain ⟨-, hruns⟩ := offered_of_turn hturn
    set t : Mach := { s.m with
      ladleDie := (c.die + 1) % 4, cmds := (s.m.cmds.filter fun x => x.id != c.id) ++ [{ c with st := .check }] } with ht
    have hhead' : classHead t (isPageOp (dOp c.desc)) = some { c with st := .check } := by
      refine classHead_append rfl (s := s.m) (fun _ => rfl) (fun v hv => ?_) ?_
      · exact Bool.eq_false_iff.2 (List.find?_eq_none.1 hhead v (List.mem_filter.1 hv).1)
      · simp [atUnits, hop, hruns]
    have hset : t.setCmd b = x := by
      rw [hx]
      refine setCmd_append rfl (fun v hv => ?_) hid.symm
      rw [hid]
      simpa using (List.mem_filter.1 hv).2
    refine ⟨hgen.1, hgen.2, ?_⟩
    have hstep := takeNext_of_check (s := t) hissues hhead' rfl hb hset hcheck
    rw [exec_ladleDelivery, ladleDelivery_eq hissues hturn, hstep]
  · intro s c h hissues hturn hhead hne hst
    have hhead' := classHead_of_later (t := { s.m with
      ladleDie := (c.die + 1) % 4, cmds := (s.m.cmds.filter fun x => x.id != c.id) ++ [{ c with st := .check }] })
      hhead rfl (fun _ => rfl) (by simpa using hne)
    rw [exec_ladleDelivery, ladleDelivery_eq hissues hturn, takeNext_eq_self]
    rintro v hv
    obtain rfl := Option.some.inj (hhead'.symm.trans hv)
    exact hst
  · intro s page c hissues hhead hst
    rw [exec_ladleBarrier, ladleBarrier_of_checked hissues hhead hst]
  · intro s page c hissues hhead hcmd hst hpass hshares
    rw [exec_ladleBarrier, ladleBarrier_of_passed hissues hhead hcmd hst hpass hshares]
  · intro s g page c z v y w hissues hhead hst hpass hmem hshare hdrop hv hwork hruns hz
    have hid : v.id = c.id := cmd?_id hv
    have hzw : z.id = c.id ∧ z.st = .work ∧ g.toNat ∉ z.shares ∧ z.ctx = v.ctx ∧ z.free = v.free := by
      rw [hz]
      simp [hid, hwork]
    obtain ⟨hzid, hzst, hzg, hzctx, hzfree⟩ := hzw
    have hunit : unitShare s.m c g.toNat = w.setCmd z := hz ▸ unitShare_of_ok hshare hdrop hv
    have hstep := shareComplete_of_done hissues hhead hst hpass hmem hunit (cmd?_setCmd_same hv hzid) hzst hzg
      (by rw [hzctx]; exact hruns)
    refine ⟨fun hleft => ?_, fun hnone hfree hothers => ?_⟩
    · rw [exec_ladleShareComplete, hstep, if_neg (by simpa using hleft)]
    · rw [exec_ladleShareComplete, hstep, if_pos (by simp [hnone]), ladleDone, if_neg (by simp [hzfree, hfree]), takeNext_eq_self]
      intro u hu
      have hunits := List.find?_some hu
      simp only [Bool.and_eq_true, beq_iff_eq] at hunits
      obtain ⟨⟨⟨hop, hclass⟩, -⟩, -⟩ := hunits
      rcases mem_setCmd (List.mem_of_find?_eq_some hu) with rfl | ⟨hmem', hne⟩
      · simp
      · rw [bump_frame] at hmem'
        rcases mem_setCmd hmem' with rfl | ⟨hmem', -⟩
        · exact absurd rfl hne
        · exact hothers u hmem' (hzid ▸ hne) hclass hop
  · intro s g page c n y hissues hhead hcmd hst hpass hmem hnew hshare
    have hunit := unitShare_of_held g.isLt hcmd hnew hshare
    have hstep := shareComplete_of_left hissues hhead hst hpass hmem hunit
      (cmd?_setCmd_same (s := s.m.setSlice _ _) (d := { c with heldOn := c.heldOn ++ [⟨544 + g.toNat, 2, n, 0⟩] }) hcmd rfl) hmem
    rw [exec_ladleShareComplete, hstep]
  · intro s g page hissues
    have hdelivery : ladleDelivery s.m = s.m := if_pos (by simp [hissues])
    have hbarrier : ladleBarrier s.m page = s.m := if_pos (by simp [hissues])
    refine ⟨?_, ?_, ?_⟩
    · rw [exec_ladleDelivery, hdelivery]
    · rw [exec_ladleBarrier, hbarrier]
    · rw [exec_ladleShareComplete, shareComplete_eq_self page hissues]

end Sys2Proof.Proofs
end

section
/-! SUPPORT. Atomic requests (06 R160 to R164; 13 R297; 14 R347). -/

namespace Sys2Proof.Proofs

open Sys2Proof.Machine Sys2Proof.Laws

/-! ## What an access leaves of the machine on its way through a shared cache (R160, R161) -/

/-- From a to b accesses have passed through the shared caches: lines came and went, and the marks beneath lines that left have shown,
with the objects that they poison. -/
def Cached (a b : Mach) : Prop :=
  b = { a with cache := b.cache, under := b.under, slag := b.slag, objs := b.objs, regs := b.regs, cores := b.cores,
               recordsDue := b.recordsDue }

namespace Cached

variable {a b c : Mach}

theorem refl (s : Mach) : Cached s s := rfl

theorem trans (h : Cached a b) (h' : Cached b c) : Cached a c := by
  unfold Cached at h h'
  rw [h] at h'
  exact h'

theorem each {α : Type} (f : α → Mach → Mach) (h : ∀ a s, Cached s (f a s)) (l : List α) (s : Mach) :
    Cached s (Machine.each f l s) := rel_each Cached (fun _ _ _ => trans) refl f h l s

variable (s : Mach)

theorem bump (x n : Nat) : Cached s (s.bump x n) := by
  unfold Cached
  rw [bump_frame]

theorem setSlag (pa : Nat) (v : Bool) : Cached s (s.setSlag pa v) := by
  unfold Mach.setSlag
  extract_lets t
  have ht : Cached s t := rfl
  split
  · split
    · next n _ =>
      refine ht.trans ?_
      unfold Cached
      rw [poisonObj_frame]
    · exact ht
  · exact ht

theorem dropLine (l : Line) : Cached s (s.dropLine l) := by
  refine each _ (fun k t => ?_) _ s
  split
  · exact refl t
  · extract_lets u
    have hu : Cached t u := rfl
    split
    · exact hu
    · exact hu.trans (setSlag u _ _)

theorem replaceSet (g set : Nat) (l : List Line) : Cached s (s.replaceSet g set l) :=
  trans (b := s.setCacheSet g set l) rfl (each _ (fun x t => dropLine t x) _ _)

theorem touchLine (pa : Nat) (write : Bool) (h : Hint) : Cached s (s.touchLine pa write h) := by
  unfold Mach.touchLine
  extract_lets g set l tag hit t others kind kept rest line
  have ht : Cached s t := bump s _ _
  have hset : ∀ ls, Cached s (t.replaceSet g set ls) := fun ls => ht.trans (replaceSet t g set ls)
  clear_value kind
  split
  · exact ht
  · split
    · split
      · exact (hset _).trans (bump _ _ _)
      · exact hset _
    · exact hset _

theorem touch (pa n : Nat) (write : Bool) (h : Hint) : Cached s (s.touch pa n write h) := by
  unfold Mach.touch
  split
  · exact refl s
  · extract_lets y
    split
    · exact rfl
    · exact each _ (fun i t => touchLine t _ write h) _ s

end Cached

/-! ## Translation (13 R297) -/

/-- From a to b accesses have been translated and have passed through the shared caches. -/
def Translated (a b : Mach) : Prop :=
  b = { a with cache := b.cache, under := b.under, slag := b.slag, objs := b.objs, regs := b.regs, cores := b.cores,
               recordsDue := b.recordsDue, leafUse := b.leafUse }

namespace Translated

variable {a b c : Mach}

theorem refl (s : Mach) : Translated s s := rfl

theorem trans (h : Translated a b) (h' : Translated b c) : Translated a c := by
  unfold Translated at h h'
  rw [h] at h'
  exact h'

theorem of_cached (h : Cached a b) : Translated a b := by
  unfold Cached at h
  rw [h]
  rfl

variable (s : Mach)

theorem readTables (ctx va : Nat) : Leads Translated (s.readTables ctx va) s := by
  refine Leads.eachRes (R := Translated) (fun _ _ _ => trans) refl (fun level t => ?_) _ s
  extract_lets pa
  split
  · exact Leads.err _ _
  · split
    · exact Leads.err _ _
    · exact Leads.ok _ (of_cached (Cached.touch t _ _ _ _))

theorem walkEnd (ctx va : Nat) (a : Access) (own : Bool) : Leads Translated (s.walkEnd ctx va a own) s := by
  unfold Mach.walkEnd
  split
  · exact Leads.err _ _
  · next m _ =>
    extract_lets o kept x t y u wr v pa
    have hu : Translated s u := by
      simp only [u]
      split <;> rfl
    have hv : Translated s v := by
      simp only [v]
      split
      · refine hu.trans ?_
        unfold Translated
        rw [abandonReq_frame]
      · exact hu
    intro b t' h
    split at h
    · split at h <;> cases h
    · replace h := ok_of_ite_err (ok_of_ite_err h)
      cases h
      exact hv

theorem walk (ctx va : Nat) (a : Access) (own : Bool) : Leads Translated (s.walk ctx va a own) s := by
  unfold Mach.walk
  split
  · exact walkEnd s ctx va a own
  · exact Leads.bind (R := Translated) (fun _ _ _ => trans) (readTables s ctx va) fun _ t => walkEnd t ctx va a own

theorem piece (ctx : Nat) (a : Access) (own : Bool) (p : Nat × Nat) : Leads Translated (s.piece ctx a own p) s := by
  refine Leads.bind (R := Translated) (fun _ _ _ => trans) (walk s ctx p.1 a own) fun pa t => ?_
  split
  · exact Leads.err _ _
  · exact Leads.ok _ (of_cached (Cached.touch t _ _ _ _))

end Translated

/-! ## The operations (R162) -/

/-- The operation of an atomic request c of r: the alignment and the length of its word, whether it writes, and what it makes of the
old value. -/
def IsAtomic (c : Instr) (r : AtomReq) (al n : Nat) (wr : Bool) (f : Nat → Nat) : Prop :=
  (∃ b, c = .addF32 r b ∧ al = 4 ∧ n = 4 ∧ wr = true ∧ f = fun o => (f32PosZero (f32Add (w32 o) b)).toNat) ∨
  (∃ b, c = .addBf16 r b ∧ al = 2 ∧ n = 2 ∧ wr = true ∧ f = fun o => bf16Add o b.toNat) ∨
  (∃ b, c = .addI32 r b ∧ al = 4 ∧ n = 4 ∧ wr = true ∧ f = fun o => (o + b.toNat) % 2 ^ 32) ∨
  (∃ b, c = .addWide r b ∧ 544 ≤ r.requester.val ∧ r.requester.val < 576 ∧ al = 64 ∧ n = 48 ∧ wr = true ∧
    f = fun o => (o + b.toNat) % 2 ^ 384) ∨
  (∃ b, c = .maxF32 r b ∧ al = 4 ∧ n = 4 ∧ wr = true ∧ f = fun o => (f32Max (w32 o) b).toNat) ∨
  (∃ b, c = .minF32 r b ∧ al = 4 ∧ n = 4 ∧ wr = true ∧ f = fun o => (f32Min (w32 o) b).toNat) ∨
  (∃ b, c = .maxI32 r b ∧ al = 4 ∧ n = 4 ∧ wr = true ∧
    f = fun o => if (w32 o).toInt < b.toInt then b.toNat else (w32 o).toNat) ∨
  (∃ b, c = .minI32 r b ∧ al = 4 ∧ n = 4 ∧ wr = true ∧
    f = fun o => if b.toInt < (w32 o).toInt then b.toNat else (w32 o).toNat) ∨
  (∃ w b, c = .atomicAnd r w b ∧ al = n ∧ n = (if w then 8 else 4) ∧ wr = true ∧ f = fun o => o &&& b.toNat) ∨
  (∃ w b, c = .atomicOr r w b ∧ al = n ∧ n = (if w then 8 else 4) ∧ wr = true ∧ f = fun o => (o ||| b.toNat) % 2 ^ (8 * n)) ∨
  (c = .fetchInc r ∧ al = 4 ∧ n = 4 ∧ wr = true ∧ f = fun o => (o + 1) % 2 ^ 32) ∨
  (c = .atomicRead r ∧ al = 8 ∧ n = 8 ∧ wr = false ∧ f = fun o => o)

/-- The sum of words, as an operation on numbers. -/
theorem onWords_add (b : Word) : onWords (fun x y => x + y) b = fun o => (o + b.toNat) % 2 ^ 32 := by
  funext o
  simp [onWords, w32, BitVec.toNat_add]

theorem onWords_i32Max (b : Word) :
    onWords i32Max b = fun o => if (w32 o).toInt < b.toInt then b.toNat else (w32 o).toNat := by
  funext o
  exact apply_ite BitVec.toNat _ _ _

theorem onWords_i32Min (b : Word) :
    onWords i32Min b = fun o => if b.toInt < (w32 o).toInt then b.toNat else (w32 o).toNat := by
  funext o
  exact apply_ite BitVec.toNat _ _ _

/-- Each row of the atomic operations is `atomicOp` with its word and its function. -/
theorem exec_of_isAtomic {c : Instr} {r : AtomReq} {al n : Nat} {wr : Bool} {f : Nat → Nat} (h : IsAtomic c r al n wr f) (s : State) :
    exec c s = .next { s with m := atomicOp s.m r al n wr f } := by
  rcases h with ⟨b, rfl, rfl, rfl, rfl, rfl⟩ | ⟨b, rfl, rfl, rfl, rfl, rfl⟩ | ⟨b, rfl, rfl, rfl, rfl, rfl⟩ |
    ⟨b, rfl, hlo, hhi, rfl, rfl, rfl, rfl⟩ | ⟨b, rfl, rfl, rfl, rfl, rfl⟩ | ⟨b, rfl, rfl, rfl, rfl, rfl⟩ |
    ⟨b, rfl, rfl, rfl, rfl, rfl⟩ | ⟨b, rfl, rfl, rfl, rfl, rfl⟩ | ⟨w, b, rfl, rfl, rfl, rfl, rfl⟩ |
    ⟨w, b, rfl, rfl, rfl, rfl, rfl⟩ | ⟨rfl, rfl, rfl, rfl, rfl⟩ | ⟨rfl, rfl, rfl, rfl, rfl⟩
  · rfl
  · rfl
  · rw [← onWords_add]
    rfl
  · change Host.Outcome.next { s with m := atomicWide s.m r b.toNat } = _
    rw [atomicWide, if_pos ⟨hlo, hhi⟩]
  · rfl
  · rfl
  · rw [← onWords_i32Max]
    rfl
  · rw [← onWords_i32Min]
    rfl
  · rfl
  · rfl
  · rfl
  · rfl

/-! ## A request by its course (R162, R164) -/

section Operated

variable (y : Mach) (g pa n : Nat) (wr : Bool) (f : Nat → Nat)

/-- The machine once the unit of slice g has done an operation on the word at pa. -/
def operated : Mach :=
  let z := (y.bump (ldlReg g 0x1C) 1).setSlice g { y.slice g with atomOld := ofBytes (y.nearBytes pa n) }
  if wr then z.putBytes pa (toBytes n (f (ofBytes (y.nearBytes pa n)))) else z

theorem operated_frame : operated y g pa n wr f = { y with
    near := (operated y g pa n wr f).near, slices := (operated y g pa n wr f).slices, regs := (operated y g pa n wr f).regs } := by
  unfold operated
  rw [bump_frame]
  cases wr <;> rfl

theorem slice_operated (h : Nat) : (operated y g pa n wr f).slice h =
    if h = g then { y.slice g with atomOld := ofBytes (y.nearBytes pa n) } else y.slice h := by
  have hz : ∀ z : Mach, z.slices = ((y.bump (ldlReg g 0x1C) 1).setSlice g
      { y.slice g with atomOld := ofBytes (y.nearBytes pa n) }).slices → z.slice h =
        if h = g then { y.slice g with atomOld := ofBytes (y.nearBytes pa n) } else y.slice h := fun z hz => by
    rw [Mach.slice, hz, bump_frame]
    exact slice_setSlice _ _ _ _
  refine hz _ ?_
  cases wr <;> rfl

theorem reg_operated (a : Nat) : (operated y g pa n wr f).reg a =
    if a = ldlReg g 0x1C then satAdd (y.reg (ldlReg g 0x1C)) 1 else y.reg a := by
  have hreg := reg_bump y (ldlReg g 0x1C) 1 a
  cases wr <;> exact hreg

theorem nearBytes_operated : (operated y g pa n wr f).nearBytes pa n =
    if wr then toBytes n (f (ofBytes (y.nearBytes pa n))) else y.nearBytes pa n := by
  have hput : ∀ (z : Mach) (v : Nat), (z.putBytes pa (toBytes n v)).nearBytes pa n = toBytes n v := fun z v => by
    simpa using nearBytes_putBytes z pa (toBytes n v)
  cases wr
  · change tabRead _ (y.bump (ldlReg g 0x1C) 1).near pa n = _
    rw [bump_frame]
    rfl
  · exact hput _ _

theorem nearByte_operated {a : Nat} (h : a < pa ∨ pa + n ≤ a) : (operated y g pa n wr f).nearByte a = y.nearByte a := by
  have hz : ((y.bump (ldlReg g 0x1C) 1).setSlice g { y.slice g with atomOld := ofBytes (y.nearBytes pa n) }).nearByte a =
      y.nearByte a := by
    rw [bump_frame]
    rfl
  cases wr
  · exact hz
  · refine (nearByte_putBytes _ _ _ _).trans ((dif_neg ?_).trans hz)
    rw [length_toBytes]
    omega

end Operated

section Course

variable {s y : Mach} {r : AtomReq} {al n pa g : Nat} {wr : Bool} {f : Nat → Nat}
  (hal : r.va.toNat % al = 0)
  (hpiece : s.piece r.ctx.toNat (if wr then .write else .read) false (r.va.toNat, n) = .ok pa y) (hg : y.sliceOf pa = g)
include hal hpiece hg

theorem atomicRun_of_granted (hadmits : (y.slice g).admits r.requester.val y.frozen = true)
    (hslag : ((sectorsOf pa n).any fun x => y.isSlag x) = false) :
    atomicRun s r al n wr f = .ok () (operated y g pa n wr f) := by
  subst hg
  unfold atomicRun
  dsimp only
  rw [if_neg (by simp [hal]), hpiece, Res.bind, if_neg (by simp [hadmits]), if_neg (by simp [hslag])]
  rfl

theorem atomicRun_of_waiting (hadmits : (y.slice g).admits r.requester.val y.frozen = false) :
    atomicRun s r al n wr f = .err (.credit r.requester.val g) y := by
  subst hg
  unfold atomicRun
  dsimp only
  rw [if_neg (by simp [hal]), hpiece, Res.bind, if_pos (by simp [hadmits])]

end Course

section Request

variable {s : Mach} {r : AtomReq} {al n : Nat} {wr : Bool} {f : Nat → Nat}
  (hopen : r.requester.val < 512 → (s.core r.requester.val).fenced = false)
include hopen

/-- A request that is done gives its credit back, and its command waits on no held channel for it. -/
theorem atomicOp_of_ok {y : Mach} (hrun : atomicRun s r al n wr f = .ok () y) :
    ∃ l, atomicOp s r al n wr f =
      { y.freeCredit r.requester.val (homeSlice s r.ctx.toNat r.va.toNat) with cmds := l } := by
  unfold atomicOp
  rw [if_neg (by simpa using hopen), hrun]
  simp only [underCredit]
  split
  · next id hid =>
    have hcore : r.requester.val < 512 := by
      unfold Mach.atomOwner at hid
      by_contra hno
      rw [if_neg hno] at hid
      cases hid
    exact ⟨_, dropWaits_frame _ id 5 (by omega)⟩
  · exact ⟨_, rfl⟩

/-- A request without a credit waits for one. -/
theorem atomicOp_of_credit {y : Mach} {g : Nat} (hrun : atomicRun s r al n wr f = .err (.credit r.requester.val g) y) :
    atomicOp s r al n wr f = s.awaitCredit r.requester.val g := by
  unfold atomicOp
  rw [if_neg (by simpa using hopen), hrun]
  simp only [underCredit, atomFault]
  split
  · split <;> rfl
  · rfl

/-- A request of no core on a misaligned word gives its credit back and tears its context down. -/
theorem atomicOp_of_misaligned (hal : r.va.toNat % al ≠ 0) (hunit : 512 ≤ r.requester.val) :
    atomicOp s r al n wr f =
      (s.freeCredit r.requester.val (homeSlice s r.ctx.toNat r.va.toNat)).fatal r.ctx.toNat stShape 0 := by
  have hrun : atomicRun s r al n wr f = .err (.fatal stShape) s := if_pos hal
  have howner : s.atomOwner r = none := if_neg (by omega)
  unfold atomicOp
  rw [if_neg (by simpa using hopen), hrun]
  simp only [underCredit, atomFault, howner]
  rfl

end Request

/-! ## Credits and teardown (R164; 14 R344) -/

theorem slice_freeCredit (s : Mach) (r g h : Nat) :
    (s.freeCredit r g).slice h = if h = g then (s.slice g).served r (s.slice g).atomOld else s.slice h := slice_setSlice s g _ h

/-- What an operation leaves once its requester's credit is free again. -/
theorem freeCredit_operated (y : Mach) (g pa n r : Nat) (wr : Bool) (f : Nat → Nat) :
    let u := (operated y g pa n wr f).freeCredit r g
    u.nearBytes pa n = (if wr then toBytes n (f (ofBytes (y.nearBytes pa n))) else y.nearBytes pa n) ∧
    (∀ a, a < pa ∨ pa + n ≤ a → u.nearByte a = y.nearByte a) ∧
    u.slice g = (y.slice g).served r (ofBytes (y.nearBytes pa n)) ∧ (∀ h, h ≠ g → u.slice h = y.slice h) ∧
    u.reg (ldlReg g 0x1C) = satAdd (y.reg (ldlReg g 0x1C)) 1 ∧ (∀ a, a ≠ ldlReg g 0x1C → u.reg a = y.reg a) ∧
    u = { y with near := u.near, slices := u.slices, regs := u.regs } := by
  have hword := nearBytes_operated y g pa n wr f
  have hrest := fun a => nearByte_operated y g pa n wr f (a := a)
  have hslice := slice_operated y g pa n wr f
  have hreg := reg_operated y g pa n wr f
  have hframe := operated_frame y g pa n wr f
  generalize operated y g pa n wr f = z at *
  refine ⟨hword, hrest, ?_, fun h hh => ?_, (hreg _).trans (if_pos rfl), fun a ha => (hreg a).trans (if_neg ha), ?_⟩
  · rw [slice_freeCredit, if_pos rfl, hslice, if_pos rfl]
    rfl
  · rw [slice_freeCredit, if_neg hh, hslice, if_neg hh]
  · rw [hframe]
    rfl

theorem awaitCredit_waits (s : Mach) (r g : Nat) : r ∈ ((s.awaitCredit r g).slice g).atomWait ∧
    ∀ w ∈ (s.slice g).atomWait, w ∈ ((s.awaitCredit r g).slice g).atomWait := by
  unfold Mach.awaitCredit
  extract_lets x
  split
  · next h => exact ⟨by simpa using h, fun _ hw => hw⟩
  · rw [slice_setSlice, if_pos rfl]
    exact ⟨by simp, fun w hw => by simp [x, hw]⟩

theorem awaitCredit_frame (s : Mach) (r g : Nat) : s.awaitCredit r g = { s with slices := (s.awaitCredit r g).slices } := by
  unfold Mach.awaitCredit
  extract_lets x
  split <;> rfl

/-- A fault fatal to an active context begins its teardown. -/
theorem fatalOn_of_active (s : Mach) (die ctx st cmdId : Nat) (h : (s.ctx ctx).state = 1#2) : s.fatalOn die ctx st cmdId =
    (s.setCtx ctx { s.ctx ctx with state := 2#2, lastSt := st, faultCmd := cmdId }).raise die 113 := by
  unfold Mach.fatalOn
  extract_lets x
  exact if_neg (by simp [x, h])

/-! ## The statement -/

/-- Settles O19: a row is `atomicOp` (`exec_of_isAtomic`); translation and cache leave near-tier bytes and credits (`Translated`), the
operation is `operated`, a request without a credit is `atomicOp_of_credit`, a misaligned one `atomicOp_of_misaligned`. -/
theorem atomicsReplaceAWord : Obligations.AtomicsReplaceAWord := by
  intro s c r al n wr f g hg hopen hop
  have hexec := exec_of_isAtomic hop s
  subst hg
  set g := homeSlice s.m r.ctx.toNat r.va.toNat with hg
  refine ⟨fun pa y hal hpiece hslice => ?_, fun hal hunit hactive => ?_⟩
  · have hy : Translated s.m y := Translated.piece _ _ _ _ _ _ _ hpiece
    have hslices : ∀ h, y.slice h = s.m.slice h := fun h => by
      rw [hy]
      rfl
    have hnear : y.near = s.m.near := by rw [hy]
    have hfrozen : y.frozen = s.m.frozen := by rw [hy]
    refine ⟨?_, fun hadmits hslag => ?_, fun hadmits => ?_⟩
    · unfold Translated at hy
      rw [hy]
    · rw [← hslices, ← hfrozen] at hadmits
      obtain ⟨l, hl⟩ := atomicOp_of_ok hopen (atomicRun_of_granted (f := f) hal hpiece hslice hadmits hslag)
      rw [hl] at hexec
      have hbytes : y.nearBytes pa n = s.m.nearBytes pa n := by simp only [Mach.nearBytes, hnear]
      obtain ⟨hword, hrest, hself, hothers, hcount, hregs, hframe⟩ := freeCredit_operated y g pa n r.requester.val wr f
      generalize (operated y g pa n wr f).freeCredit r.requester.val g = u at *
      rw [hbytes] at hword
      rw [hbytes, hslices] at hself
      refine ⟨_, hexec, hword, fun a ha => ?_, congrArg SliceSt.atomOld hself, hself, fun h hh => (hothers h hh).trans (hslices h),
        hcount, hregs, ?_⟩
      · refine (hrest a ha).trans ?_
        simp only [Mach.nearByte, hnear]
      · rw [hframe]
    · rw [← hslices, ← hfrozen] at hadmits
      rw [atomicOp_of_credit hopen (atomicRun_of_waiting (f := f) hal hpiece hslice hadmits)] at hexec
      obtain ⟨hme, hothers⟩ := awaitCredit_waits s.m r.requester.val g
      refine ⟨_, hexec, hme, hothers, ?_⟩
      dsimp only
      rw [awaitCredit_frame]
  · rw [atomicOp_of_misaligned hopen hal hunit, Mach.fatal, fatalOn_of_active _ _ _ _ _ (by exact hactive), raise_frame] at hexec
    have hctx := ctx_setCtx (s.m.freeCredit r.requester.val g) r.ctx.toNat
      { s.m.ctx r.ctx.toNat with state := 2#2, lastSt := stShape, faultCmd := 0 } r.ctx.toNat
    rw [if_pos rfl] at hctx
    refine ⟨_, hexec, congrArg CtxSt.state hctx, congrArg CtxSt.lastSt hctx, ?_, fun h hh => ?_, rfl⟩
    · exact (slice_freeCredit s.m _ g g).trans (if_pos rfl)
    · exact (slice_freeCredit s.m _ g h).trans (if_neg hh)

end Sys2Proof.Proofs
end

section
/-! SUPPORT. Credits and their rounds (06 R164; 14 R349; 15 R366). -/

namespace Sys2Proof.Proofs

open Sys2Proof.Machine Sys2Proof.Laws Sys2Proof.Safety

/-! ## The first in a round -/

/-- The nearer of two, or the only one. -/
def nearer (far : Nat → Nat) (b : Option Nat) (r : Nat) : Option Nat :=
  match b with
  | some y => if far r < far y then some r else b
  | none => some r

theorem foldl_nearer (far : Nat → Nat) (l : List Nat) (b : Nat) :
    ∃ w, l.foldl (nearer far) (some b) = some w ∧ (w = b ∨ w ∈ l) ∧ far w ≤ far b ∧ ∀ v ∈ l, far w ≤ far v := by
  induction l generalizing b with
  | nil => exact ⟨b, rfl, Or.inl rfl, le_refl _, by simp⟩
  | cons a l ih =>
    rw [List.foldl_cons]
    by_cases hlt : far a < far b
    · obtain ⟨w, hw, hmem, hle, hall⟩ := ih a
      refine ⟨w, by simpa only [nearer, if_pos hlt] using hw, ?_, by omega, ?_⟩
      · rcases hmem with rfl | hmem <;> simp [*]
      · simpa using ⟨hle, hall⟩
    · obtain ⟨w, hw, hmem, hle, hall⟩ := ih b
      refine ⟨w, by simpa only [nearer, if_neg hlt] using hw, ?_, hle, ?_⟩
      · rcases hmem with rfl | hmem <;> simp [*]
      · simp only [List.mem_cons, forall_eq_or_imp]
        exact ⟨by omega, hall⟩

/-- A list that is not empty has a nearest element. -/
theorem foldl_nearer_of_mem (far : Nat → Nat) {l : List Nat} {a : Nat} (h : a ∈ l) :
    ∃ w, l.foldl (nearer far) none = some w ∧ w ∈ l ∧ ∀ v ∈ l, far w ≤ far v := by
  cases l with
  | nil => cases h
  | cons b l =>
    obtain ⟨w, hw, hmem, hle, hall⟩ := foldl_nearer far l b
    exact ⟨w, hw, by simpa using hmem, by simpa using ⟨hle, hall⟩⟩

/-- j is served after the one served last: the first of the list above it, or the first of all where none is above. -/
def NextAfter (last : Nat) (l : List Nat) (j : Nat) : Prop :=
  j ∈ l ∧ ∀ i ∈ l, (last < i → last < j ∧ j ≤ i) ∧ (i ≤ last → last < j ∨ j ≤ i)

/-- The first above, or the first of all, of a list that has them in order. -/
theorem nextAfter_of_find? {last j : Nat} {l : List Nat} (hl : l.Pairwise (· < ·))
    (h : ((l.find? fun k => decide (last < k)) <|> l.head?) = some j) : NextAfter last l j := by
  cases hfind : l.find? fun k => decide (last < k) with
  | some k =>
    obtain rfl : k = j := by simpa [hfind] using h
    obtain ⟨hk, as, bs, rfl, has⟩ := List.find?_eq_some_iff_append.1 hfind
    have hk : last < k := by simpa using hk
    refine ⟨by simp, fun i hi => ⟨fun hlast => ⟨hk, ?_⟩, fun _ => Or.inl hk⟩⟩
    rcases List.mem_append.1 hi with hi | hi
    · have := has i hi
      simp at this
      omega
    · rcases List.mem_cons.1 hi with rfl | hi
      · exact le_refl _
      · exact ((List.pairwise_cons.1 (List.pairwise_append.1 hl).2.1).1 i hi).le
  | none =>
    have hnone : ∀ i ∈ l, i ≤ last := by simpa using hfind
    cases l with
    | nil => simp [hfind] at h
    | cons a l =>
      obtain rfl : a = j := by simpa [hfind] using h
      refine ⟨by simp, fun i hi => ⟨fun hlast => absurd (hnone i hi) (by omega), fun _ => Or.inr ?_⟩⟩
      rcases List.mem_cons.1 hi with rfl | hi
      · exact le_refl _
      · exact ((List.pairwise_cons.1 hl).1 i hi).le

/-! ## Credits of an atomic unit (R164) -/

/-- A waiting requester that may have a further credit is served, the first after the one served last. -/
theorem nextWaiting_of_waiting {x : SliceSt} {v : Nat} (hv : v ∈ x.atomWait) (hfew : (x.credits.filter fun c => c == v).length < 2) :
    ∃ w, x.nextWaiting = some w ∧ w ∈ x.atomWait ∧ (x.credits.filter fun c => c == w).length < 2 ∧
      ∀ u ∈ x.atomWait, (x.credits.filter fun c => c == u).length < 2 →
        (w + 580 - x.atomLast) % 581 ≤ (u + 580 - x.atomLast) % 581 := by
  have hmem : ∀ u, u ∈ (x.atomWait.filter fun r => decide ((x.credits.filter fun c => c == r).length < 2)) ↔
      u ∈ x.atomWait ∧ (x.credits.filter fun c => c == u).length < 2 := fun u => by simp [List.mem_filter]
  obtain ⟨w, hw, hwait, hnearest⟩ :=
    foldl_nearer_of_mem (fun r => (r + 581 - x.atomLast - 1) % 581) ((hmem v).2 ⟨hv, hfew⟩)
  obtain ⟨hwait, hwfew⟩ := (hmem w).1 hwait
  refine ⟨w, hw, hwait, hwfew, fun u hu hufew => ?_⟩
  have hle := hnearest u ((hmem u).2 ⟨hu, hufew⟩)
  have hfar : ∀ r, r + 581 - x.atomLast - 1 = r + 580 - x.atomLast := fun r => by omega
  simpa only [hfar] using hle

theorem atomicGrant_of_next {s : Mach} {g w : Nat} (hfrozen : s.frozen = false) (hfree : 0 < (s.slice g).free)
    (hnext : (s.slice g).nextWaiting = some w) : atomicGrant s g = (s.setSlice g { s.slice g with
      free := (s.slice g).free - 1, credits := (s.slice g).credits ++ [w], atomWait := (s.slice g).atomWait.erase w,
      atomLast := w }).useCredit w := by
  unfold atomicGrant
  dsimp only
  rw [if_neg (by simp [hfrozen]; omega), hnext]

theorem atomicGrant_eq_self {s : Mach} {g : Nat} (h : s.frozen = true ∨ (s.slice g).free = 0) : atomicGrant s g = s :=
  if_pos (by simpa using h)

/-- Where no operation and no command waits, nothing goes on with a credit. -/
theorem useCredit_of_noneHeld {s : Mach} (w : Nat) (hdue : s.syncDue = []) (h : NoneHeld s) :
    s.useCredit w = { s with syncNews := (s.useCredit w).syncNews } := by
  have hresend : s.resend = s := by
    unfold Mach.resend
    rw [hdue]
    split
    · rfl
    · change ({ s with syncDue := [] } : Mach) = s
      rw [← hdue]
  unfold Mach.useCredit
  rw [hresend]
  split
  · rfl
  · next hsafe =>
    rw [testRound_of_noneHeld _ h, retest_of_noneHeld (s := { s with syncNews := [] }) h (show s.safe = false by simpa using hsafe)]

/-! ## The mailbox's round (15 R366) -/

theorem mailboxGrant_of_session {s : State} {k : Nat} (hk : k < 1024) (h : s.m.mbxNext = some k) : mailboxGrant s = serveRing k s := by
  unfold mailboxGrant
  rw [h]
  exact if_neg (by omega)

/-- The requester that the mailbox serves is the first after the one served last. -/
theorem nextAfter_of_mbxNext {s : Mach} {j : Nat} (h : s.mbxNext = some j) (hsorted : s.readySessions.Pairwise (· < ·))
    (hbound : ∀ i ∈ s.readySessions, i < 1024) : s.frozen = false ∧ s.controlAlive = true ∧
      NextAfter s.mbxLast (s.readySessions.filter s.mbxGoes ++ (if s.opens.isEmpty then [] else [1024])) j := by
  unfold Mach.mbxNext at h
  split at h
  · cases h
  · next hgo =>
    simp only [Bool.or_eq_true, Bool.not_eq_true', not_or, Bool.not_eq_true, Bool.not_eq_false] at hgo
    refine ⟨hgo.1, hgo.2, nextAfter_of_find? ?_ h⟩
    rw [List.pairwise_append]
    refine ⟨hsorted.filter _, by split <;> simp, fun a ha b hb => ?_⟩
    have ha := hbound a (List.mem_filter.1 ha).1
    split at hb
    · cases hb
    · obtain rfl := List.mem_singleton.1 hb
      exact ha

/-! ## Credits of a channel (14 R349) -/

/-- The least element of a list, as a fold. -/
def lesser (a : Option Nat) (n : Nat) : Option Nat :=
  match a with
  | none => some n
  | some m => some (min m n)

theorem foldl_lesser (l : List Nat) : l.foldl lesser none = l.min? := by
  have hsome : ∀ (l : List Nat) (a : Nat), l.foldl lesser (some a) = some (l.foldl min a) := fun l => by
    induction l with
    | nil => exact fun _ => rfl
    | cons b l ih => exact fun a => ih (min a b)
  cases l with
  | nil => rfl
  | cons a l => exact hsome l a

/-- A source that waits is served, the first after the one served last. -/
theorem channel_next_of_waiting {x : Channel} (h : x.wait ≠ []) : ∃ r, x.next = some r ∧ NextAfter x.last x.wait r := by
  have hnext : x.next = ((x.wait.filter fun n => decide (x.last < n)).min? <|> x.wait.min?) := by
    rw [← foldl_lesser, ← foldl_lesser]
    rfl
  cases habove : (x.wait.filter fun n => decide (x.last < n)).min? with
  | some r =>
    obtain ⟨hr, hle⟩ := List.min?_eq_some_iff.1 habove
    obtain ⟨hr, hlast⟩ := List.mem_filter.1 hr
    have hlast : x.last < r := by simpa using hlast
    exact ⟨r, by rw [hnext, habove]; rfl, hr, fun v hv =>
      ⟨fun hv' => ⟨hlast, hle v (List.mem_filter.2 ⟨hv, by simpa using hv'⟩)⟩, fun _ => Or.inl hlast⟩⟩
  | none =>
    have hnone : ∀ v ∈ x.wait, v ≤ x.last := by simpa [List.min?_eq_none_iff] using habove
    obtain ⟨r, hmin⟩ := Option.ne_none_iff_exists'.1 (mt List.min?_eq_none_iff.1 h)
    obtain ⟨hr, hle⟩ := List.min?_eq_some_iff.1 hmin
    exact ⟨r, by rw [hnext, habove, hmin]; rfl, hr, fun v hv =>
      ⟨fun hv' => absurd (hnone v hv) (by omega), fun _ => Or.inr (hle v hv)⟩⟩

theorem channelGrant_of_next {s : Mach} {n r : Nat} (hfrozen : s.frozen = false) (hfree : 0 < (s.channel n).free)
    (hnext : (s.channel n).next = some r) : channelGrant s n = s.setChannel n
      { free := (s.channel n).free - 1, held := (s.channel n).held ++ [r], wait := (s.channel n).wait.erase r, last := r } := by
  unfold channelGrant
  dsimp only
  rw [if_neg (by simp [hfrozen]; omega), hnext]

theorem channelGrant_eq_self {s : Mach} {n : Nat} (h : s.frozen = true ∨ (s.channel n).free = 0 ∨ (s.channel n).wait = []) :
    channelGrant s n = s := by
  unfold channelGrant
  dsimp only
  split
  · rfl
  · next hgo =>
    rcases h with h | h | h
    · exact absurd (by simp [h]) hgo
    · exact absurd (by simp [h]) hgo
    · have hnext : (s.channel n).next = none := by
        rw [Channel.next, h]
        rfl
      rw [hnext]

/-- A grant of a channel of the mesh, of a gate class or of a link is that channel's. -/
theorem exec_creditGrant_channel {x : SharedResource} {n : Nat}
    (h : (∃ d p v, x = .meshChannel d p v ∧ n = channelKey 3 d.toNat (16 * p.toNat + v.toNat)) ∨
      (∃ d p, x = .gateClass d p ∧ n = channelKey 4 d.toNat p.toNat) ∨
      ∃ d o v, x = .linkChannel d o v ∧ n = channelKey 5 d.toNat (16 * o.toNat + v.toNat)) (s : State) :
    exec (.creditGrant x) s = .next { s with m := channelGrant s.m n } := by
  rcases h with ⟨d, p, v, rfl, rfl⟩ | ⟨d, p, rfl, rfl⟩ | ⟨d, o, v, rfl, rfl⟩ <;> rfl

end Sys2Proof.Proofs
end

section
/-! SUPPORT. Accesses of the shared caches (06 R160, R161) and the statement on credits and lines. -/

namespace Sys2Proof.Proofs

open Sys2Proof.Machine Sys2Proof.Laws Sys2Proof.Safety

/-! ## The lines of a set (R161) -/

/-- How many lines of a set are KEEP. -/
def keeps (l : List Line) : Nat := (l.filter fun x => x.kind == .keep).length

theorem keeps_append (l r : List Line) : keeps (l ++ r) = keeps l + keeps r := by
  simp [keeps]

theorem keeps_cons (x : Line) (l : List Line) : keeps (x :: l) = (if x.kind = .keep then 1 else 0) + keeps l := by
  unfold keeps
  rw [List.filter_cons]
  split
  · next h => rw [List.length_cons, if_pos (by simpa using h), Nat.add_comm]
  · next h => rw [if_neg (by simpa using h), Nat.zero_add]

theorem keeps_le_of_sublist {l r : List Line} (h : l.Sublist r) : keeps l ≤ keeps r := (h.filter _).length_le

/-- The last line of a list that satisfies a test, and the lines beside it. -/
theorem split_of_findIdx?_reverse {p : Line → Bool} {l : List Line} {i : Nat} (h : l.reverse.findIdx? p = some i) :
    ∃ hi : l.length - 1 - i < l.length, p l[l.length - 1 - i] = true ∧
      l = l.take (l.length - 1 - i) ++ l[l.length - 1 - i] :: l.drop (l.length - 1 - i + 1) := by
  obtain ⟨hi, hp, -⟩ := List.findIdx?_eq_some_iff_getElem.1 h
  rw [List.length_reverse] at hi
  refine ⟨by omega, by simpa using hp, ?_⟩
  rw [← List.drop_eq_getElem_cons, List.take_append_drop]

/-- With at most 12 KEEP lines, at most 11 stay KEEP where one more is to come. -/
theorem keeps_demoteKeep {l : List Line} (h : keeps l ≤ 12) : keeps (demoteKeep l) ≤ 11 := by
  unfold demoteKeep
  split
  · next hlt =>
    have : keeps l < 12 := hlt
    omega
  · split
    · next i hfind =>
      obtain ⟨hi, hkeep, hsplit⟩ := split_of_findIdx?_reverse hfind
      have hcount := congrArg keeps hsplit
      rw [keeps_append, keeps_cons, if_pos (by simpa using hkeep)] at hcount
      rw [List.modify_eq_take_cons_drop hi, keeps_append, keeps_cons, if_neg (by simp)]
      omega
    · next hnone =>
      have : keeps l = 0 := by
        simpa [keeps] using hnone
      omega

theorem length_demoteKeep (l : List Line) : (demoteKeep l).length = l.length := by
  unfold demoteKeep
  split
  · rfl
  · split <;> simp

/-- A demoted line keeps its tag and its dirtiness. -/
theorem mem_demoteKeep {l : List Line} {x : Line} (h : x ∈ demoteKeep l) : ∃ y ∈ l, y.tag = x.tag ∧ y.dirty = x.dirty := by
  unfold demoteKeep at h
  split at h
  · exact ⟨x, h, rfl, rfl⟩
  · split at h
    · next i hfind =>
      obtain ⟨hi, -, hsplit⟩ := split_of_findIdx?_reverse hfind
      rw [List.modify_eq_take_cons_drop hi, List.mem_append, List.mem_cons] at h
      rcases h with h | rfl | h
      · exact ⟨x, List.mem_of_mem_take h, rfl, rfl⟩
      · exact ⟨_, List.getElem_mem hi, rfl, rfl⟩
      · exact ⟨x, List.mem_of_mem_drop h, rfl, rfl⟩
    · exact ⟨x, h, rfl, rfl⟩

/-- A set with room for a line keeps others of its lines as they were. -/
theorem makeRoom_sublist (l : List Line) : (makeRoom l).Sublist l := by
  unfold makeRoom
  split
  · exact List.Sublist.refl l
  · unfold dropLast
    split
    · next r hr =>
      split at hr
      · cases hr
        exact List.eraseIdx_sublist _ _
      · cases hr
    · exact List.dropLast_sublist l

theorem length_makeRoom {l : List Line} (h : l.length ≤ 16) : (makeRoom l).length < 16 := by
  unfold makeRoom
  split
  · next hlt => exact hlt
  · unfold dropLast
    split
    · next r hr =>
      split at hr
      · next i hfind =>
        obtain ⟨hi, -, -⟩ := split_of_findIdx?_reverse hfind
        cases hr
        rw [List.length_eraseIdx_of_lt hi]
        omega
      · cases hr
    · rw [List.length_dropLast]
      omega

/-! ## An access to a line (R161) -/

section Access

variable (s : Mach) (pa : Nat) (w : Bool) (h : Hint)

/-- The line of an address in its set. -/
def lineHit : Option Line := (s.cacheSet (s.sliceOf pa) (setOf pa)).find? fun x => x.tag == pa / 128

/-- The kind that an access leaves the line of an address with. -/
def kindAfter : LineKind := hintKind h ((lineHit s pa).map fun x => x.kind)

/-- The lines that stay in the set beside that of an address. -/
def linesBeside : List Line :=
  let rest := (s.cacheSet (s.sliceOf pa) (setOf pa)).filter fun x => x.tag != pa / 128
  makeRoom (if kindAfter s pa h = .keep ∧ (lineHit s pa).map (fun x => x.kind) ≠ some .keep then demoteKeep rest else rest)

/-- The machine once a hit or a miss is counted. -/
def hitCounted : Mach := s.bump (ldlReg (s.sliceOf pa) (if (lineHit s pa).isSome then 0x24 else 0x28)) 1

/-- The machine once the access has left lines in the set. -/
def setAfter (l : List Line) : Mach := (hitCounted s pa).setCacheSet (s.sliceOf pa) (setOf pa) l

variable {s pa w h}

/-- Where the line of the address is KEEP, fewer lines beside it are. -/
theorem keeps_beside_lt (hhit : (lineHit s pa).map (fun x => x.kind) = some .keep) :
    keeps ((s.cacheSet (s.sliceOf pa) (setOf pa)).filter fun x => x.tag != pa / 128) < keeps (s.cacheSet (s.sliceOf pa) (setOf pa)) := by
  obtain ⟨x, hx, hkind⟩ := Option.map_eq_some_iff.1 hhit
  obtain ⟨htag, as, bs, hsplit, -⟩ := List.find?_eq_some_iff_append.1 hx
  rw [hsplit, List.filter_append, List.filter_cons_of_neg (by simpa using htag), keeps_append, keeps_append, keeps_cons, if_pos hkind]
  have has := keeps_le_of_sublist (List.filter_sublist (p := fun x : Line => x.tag != pa / 128) (l := as))
  have hbs := keeps_le_of_sublist (List.filter_sublist (p := fun x : Line => x.tag != pa / 128) (l := bs))
  omega

theorem linesBeside_facts (hlen : (s.cacheSet (s.sliceOf pa) (setOf pa)).length ≤ 16) :
    (linesBeside s pa h).length < 16 ∧
    (keeps (s.cacheSet (s.sliceOf pa) (setOf pa)) ≤ 12 →
      keeps (linesBeside s pa h) + (if kindAfter s pa h = .keep then 1 else 0) ≤ 12) ∧
    ∀ x ∈ linesBeside s pa h, x.tag ≠ pa / 128 ∧
      ∃ y ∈ s.cacheSet (s.sliceOf pa) (setOf pa), y.tag = x.tag ∧ y.dirty = x.dirty := by
  set l := s.cacheSet (s.sliceOf pa) (setOf pa) with hl
  set rest := l.filter fun x => x.tag != pa / 128 with hrest
  have hsub : rest.Sublist l := List.filter_sublist
  unfold linesBeside
  rw [← hl, ← hrest]
  dsimp only
  split
  · next hdemote =>
    refine ⟨length_makeRoom (by rw [length_demoteKeep]; exact hsub.length_le.trans hlen), fun hkeeps => ?_, fun x hx => ?_⟩
    · rw [if_pos hdemote.1]
      have := keeps_demoteKeep ((keeps_le_of_sublist hsub).trans hkeeps)
      have := keeps_le_of_sublist (makeRoom_sublist (demoteKeep rest))
      omega
    · obtain ⟨y, hy, htag, hdirty⟩ := mem_demoteKeep ((makeRoom_sublist _).subset hx)
      obtain ⟨hy, hne⟩ := List.mem_filter.1 hy
      exact ⟨by simpa [htag] using hne, y, hy, htag, hdirty⟩
  · next hstays =>
    refine ⟨length_makeRoom (hsub.length_le.trans hlen), fun hkeeps => ?_, fun x hx => ?_⟩
    · have hroom := keeps_le_of_sublist (makeRoom_sublist rest)
      have hall := keeps_le_of_sublist hsub
      split
      · next hkind =>
        have hhit : (lineHit s pa).map (fun x => x.kind) = some .keep := by
          by_contra hno
          exact hstays ⟨hkind, hno⟩
        have hless : keeps rest < keeps l := keeps_beside_lt hhit
        omega
      · omega
    · obtain ⟨hx, hne⟩ := List.mem_filter.1 ((makeRoom_sublist _).subset hx)
      exact ⟨by simpa using hne, x, hx, rfl, rfl⟩

/-- A miss with the STREAM hint is counted and allocates nothing. -/
theorem touchLine_of_stream (hmiss : lineHit s pa = none) : s.touchLine pa w .stream = hitCounted s pa := by
  unfold Mach.touchLine
  exact if_pos (by rw [← lineHit, hmiss]; rfl)

variable (hunder : s.under = []) (hallocates : ¬(lineHit s pa = none ∧ h = .stream))
include hunder

theorem replaceSet_hitCounted (l : List Line) :
    (hitCounted s pa).replaceSet (s.sliceOf pa) (setOf pa) l = setAfter s pa l := by
  have hnone : (hitCounted s pa).under = [] := by
    rw [hitCounted, bump_frame]
    exact hunder
  unfold Mach.replaceSet
  rw [hnone]
  rfl

include hallocates

/-- The read that takes a LAST line's final count drops it and counts that. -/
theorem touchLine_of_final {n : Nat} (hkind : kindAfter s pa h = .last n) (hn : n ≤ 1) :
    s.touchLine pa false h = (setAfter s pa (linesBeside s pa h)).bump (ldlReg (s.sliceOf pa) 0x2C) 1 := by
  rw [← replaceSet_hitCounted hunder]
  unfold Mach.touchLine
  extract_lets g set l tag hit t rest kind
  change kind = .last n at hkind
  change ¬(hit = none ∧ h = .stream) at hallocates
  refine (if_neg (by simpa using hallocates)).trans ?_
  split
  · next m hm _ =>
    cases hkind.symm.trans hm
    exact if_pos hn
  · next hno => exact absurd rfl (hno n hkind)

/-- A read of a LAST line before that takes a count. -/
theorem touchLine_of_earlier {n : Nat} (hkind : kindAfter s pa h = .last n) (hn : 1 < n) :
    s.touchLine pa false h =
      setAfter s pa (⟨pa / 128, .last (n - 1), (lineHit s pa).any fun x => x.dirty⟩ :: linesBeside s pa h) := by
  rw [← replaceSet_hitCounted hunder]
  unfold Mach.touchLine
  extract_lets g set l tag hit t rest kind
  change kind = .last n at hkind
  change ¬(hit = none ∧ h = .stream) at hallocates
  refine (if_neg (by simpa using hallocates)).trans ?_
  split
  · next m hm _ =>
    cases hkind.symm.trans hm
    exact if_neg (by omega)
  · next hno => exact absurd rfl (hno n hkind)

/-- Any other access makes the line the first of its set. -/
theorem touchLine_of_kept (hkept : w = true ∨ ∀ n, kindAfter s pa h ≠ .last n) :
    s.touchLine pa w h =
      setAfter s pa (⟨pa / 128, kindAfter s pa h, w || (lineHit s pa).any fun x => x.dirty⟩ :: linesBeside s pa h) := by
  rw [← replaceSet_hitCounted hunder]
  unfold Mach.touchLine
  extract_lets g set l tag hit t rest kind
  change ¬(hit = none ∧ h = .stream) at hallocates
  refine (if_neg (by simpa using hallocates)).trans ?_
  cases w with
  | true =>
    split
    · next hfalse => cases hfalse
    · rfl
  | false =>
    split
    · next m hm _ => exact absurd hm (hkept.resolve_left nofun m)
    · rfl

end Access

section After

variable (s : Mach) (pa : Nat)

/-- The counters of hits, misses and final counts of a slice are three registers. -/
theorem ldlReg_inj {g a b : Nat} (h : a ≠ b) : ldlReg g a ≠ ldlReg g b := by
  unfold ldlReg
  omega

theorem reg_hitCounted (x : Nat) : (hitCounted s pa).reg x =
    if x = ldlReg (s.sliceOf pa) (if (lineHit s pa).isSome then 0x24 else 0x28) then satAdd (s.reg x) 1 else s.reg x := by
  refine (reg_bump _ _ _ _).trans ?_
  by_cases hx : x = ldlReg (s.sliceOf pa) (if (lineHit s pa).isSome then 0x24 else 0x28)
  · rw [if_pos hx, if_pos hx, hx]
  · rw [if_neg hx, if_neg hx]

/-- A hit and a miss are counted each in its counter, and nothing else is. -/
theorem hitCounted_counts :
    (hitCounted s pa).reg (ldlReg (s.sliceOf pa) 0x24) = satAdd (s.reg (ldlReg (s.sliceOf pa) 0x24)) (b2n (lineHit s pa).isSome) ∧
    (hitCounted s pa).reg (ldlReg (s.sliceOf pa) 0x28) = satAdd (s.reg (ldlReg (s.sliceOf pa) 0x28)) (b2n (lineHit s pa).isNone) ∧
    ∀ x, x ≠ ldlReg (s.sliceOf pa) 0x24 → x ≠ ldlReg (s.sliceOf pa) 0x28 → (hitCounted s pa).reg x = s.reg x := by
  simp only [reg_hitCounted]
  cases lineHit s pa with
  | none => exact ⟨(if_neg (ldlReg_inj (by decide))).trans (satAdd_zero _).symm, if_pos rfl, fun x _ hx => if_neg hx⟩
  | some l => exact ⟨if_pos rfl, (if_neg (ldlReg_inj (by simp))).trans (satAdd_zero _).symm, fun x hx _ => if_neg hx⟩

theorem hitCounted_frame : hitCounted s pa = { s with regs := (hitCounted s pa).regs } := bump_frame s _ 1

/-- The machine once the access has left lines in the set and counted n final counts. -/
def lastCounted (l : List Line) (n : Nat) : Mach := (setAfter s pa l).bump (ldlReg (s.sliceOf pa) 0x2C) n

variable (l : List Line) (n : Nat)

theorem cacheSet_lastCounted (g k : Nat) : (lastCounted s pa l n).cacheSet g k =
    if 2048 * g + k = 2048 * s.sliceOf pa + setOf pa then l else s.cacheSet g k := by
  have hcache : (lastCounted s pa l n).cache = tabSet (fun _ => []) s.cache (2048 * s.sliceOf pa + setOf pa) l := by
    rw [lastCounted, bump_frame, setAfter, hitCounted_frame]
    rfl
  rw [Mach.cacheSet, hcache, tabGet_tabSet]
  rfl

theorem reg_lastCounted (x : Nat) : (lastCounted s pa l n).reg x =
    if x = ldlReg (s.sliceOf pa) 0x2C then satAdd ((hitCounted s pa).reg (ldlReg (s.sliceOf pa) 0x2C)) n
    else (hitCounted s pa).reg x := reg_bump _ _ _ _

theorem lastCounted_frame :
    lastCounted s pa l n = { s with cache := (lastCounted s pa l n).cache, regs := (lastCounted s pa l n).regs } := by
  rw [lastCounted, bump_frame, setAfter, hitCounted_frame]
  rfl

end After

/-- What an access that allocates or hits leaves in the set, and whether it takes a final count. -/
theorem touchLine_lines {s : Mach} {pa : Nat} (w : Bool) {h : Hint} (hunder : s.under = [])
    (hallocates : ¬(lineHit s pa = none ∧ h = .stream)) : ∃ r n, s.touchLine pa w h = lastCounted s pa r n ∧
      (r = linesBeside s pa h ∨
        ∃ x : Line, r = x :: linesBeside s pa h ∧ x.tag = pa / 128 ∧ (x.kind = .keep → kindAfter s pa h = .keep)) ∧
      (∀ m, kindAfter s pa h = .last m → w = false → m ≤ 1 → r = linesBeside s pa h ∧ n = 1) ∧
      (∀ m, kindAfter s pa h = .last m → w = false → 1 < m →
        r.head? = some ⟨pa / 128, .last (m - 1), (lineHit s pa).any fun x => x.dirty⟩) ∧
      ((w = true ∨ ∀ m, kindAfter s pa h ≠ .last m) →
        r.head? = some ⟨pa / 128, kindAfter s pa h, w || (lineHit s pa).any fun x => x.dirty⟩) := by
  by_cases hkept : w = true ∨ ∀ m, kindAfter s pa h ≠ .last m
  · refine ⟨_, 0, touchLine_of_kept hunder hallocates hkept, Or.inr ⟨_, rfl, rfl, id⟩, fun m hm hw _ => ?_, fun m hm hw _ => ?_,
      fun _ => rfl⟩
    all_goals exact absurd hkept (by simp [hw, hm])
  · simp only [not_or, not_forall, not_not, Bool.not_eq_true] at hkept
    obtain ⟨rfl, m, hm⟩ := hkept
    by_cases hle : m ≤ 1
    · refine ⟨_, 1, touchLine_of_final hunder hallocates hm hle, Or.inl rfl, fun _ _ _ _ => ⟨rfl, rfl⟩,
        fun j hj _ hlt => ?_, fun hno => ?_⟩
      · cases hm.symm.trans hj
        omega
      · exact absurd hno (by simp [hm])
    · refine ⟨_, 0, touchLine_of_earlier hunder hallocates hm (by omega), Or.inr ⟨_, rfl, rfl, nofun⟩, fun j hj _ hlt => ?_,
        fun j hj _ _ => ?_, fun hno => ?_⟩
      · cases hm.symm.trans hj
        omega
      · cases hm.symm.trans hj
        rfl
      · exact absurd hno (by simp [hm])

/-- The lines of a set of at most 16 after an access: those beside the address's, and its own where it stays. -/
theorem lines_facts {s : Mach} {pa : Nat} {h : Hint} {r : List Line} (hlen : (s.cacheSet (s.sliceOf pa) (setOf pa)).length ≤ 16)
    (hr : r = linesBeside s pa h ∨
      ∃ x : Line, r = x :: linesBeside s pa h ∧ x.tag = pa / 128 ∧ (x.kind = .keep → kindAfter s pa h = .keep)) :
    r.length ≤ 16 ∧ (keeps (s.cacheSet (s.sliceOf pa) (setOf pa)) ≤ 12 → keeps r ≤ 12) ∧
      ∀ x ∈ r, x.tag ≠ pa / 128 → ∃ y ∈ s.cacheSet (s.sliceOf pa) (setOf pa), y.tag = x.tag ∧ y.dirty = x.dirty := by
  obtain ⟨hroom, hkeeps, hlines⟩ := linesBeside_facts (h := h) hlen
  rcases hr with rfl | ⟨x, rfl, htag, hkind⟩
  · exact ⟨hroom.le, fun hl => by have := hkeeps hl; omega, fun x hx _ => (hlines x hx).2⟩
  · refine ⟨hroom, fun hl => ?_, fun y hy hne => ?_⟩
    · have := hkeeps hl
      rw [keeps_cons]
      split
      · next hkeep =>
        rw [if_pos (hkind hkeep)] at this
        omega
      · omega
    · rcases List.mem_cons.1 hy with rfl | hy
      · exact absurd htag hne
      · exact (hlines y hy).2

/-! ## The statement -/

theorem exec_cacheAccess {s : State} {a : CacheAcc} (hnear : a.pa.toNat < s.m.nt) (hheld : s.m.heldAt a.pa.toNat = none) :
    exec (.cacheAccess a) s = .next { s with m := s.m.touchLine a.pa.toNat a.write a.hint } := by
  change Host.Outcome.next { s with m := cacheAccess s.m a } = _
  rw [cacheAccess, if_neg (by simp [hheld, hnear])]

/-- Settles O20: a grant serves the first in the round of those that wait (`nextWaiting_of_waiting`, `nextAfter_of_mbxNext`,
`channel_next_of_waiting`); an access leaves the lines of `linesBeside`, and before them its own by its kind (`touchLine_of_final`,
`touchLine_of_earlier`, `touchLine_of_kept`). -/
theorem creditsAndCacheLines : Obligations.CreditsAndCacheLines := by
  refine ⟨⟨?_, ?_, fun _ _ => rfl, fun _ _ => rfl, fun _ _ => rfl, fun _ _ => rfl, ?_, ?_, ?_, fun _ _ => rfl⟩,
    fun s a => ⟨?_, ?_, ?_⟩⟩
  · intro s g hfrozen hfree hwaits
    obtain ⟨v, hv, hfew⟩ := hwaits
    obtain ⟨w, hnext, hwait, hwfew, hnearest⟩ := nextWaiting_of_waiting hv hfew
    have hexec : exec (.atomicCreditGrant g) s = .next { s with m := atomicGrant s.m g.toNat } := rfl
    rw [atomicGrant_of_next hfrozen hfree hnext] at hexec
    refine ⟨_, w, hexec, hwait, hwfew, hnearest, ?_, fun h hh => ?_, rfl,
      fun hdue hnone => useCredit_of_noneHeld w hdue hnone⟩
    · exact ((slice_setSlice s.m _ _ _).trans (if_pos rfl))
    · exact ((slice_setSlice s.m _ _ h).trans (if_neg hh))
  · intro s g h
    exact congrArg (fun m => Host.Outcome.next { s with m := m }) (atomicGrant_eq_self h)
  · intro s k hnext
    exact ⟨congrArg Host.Outcome.next (mailboxGrant_of_session k.isLt hnext), congrArg Host.Outcome.next (if_pos hnext)⟩
  · intro s j hnext hsorted hbound
    obtain ⟨hfrozen, halive, hmem, hround⟩ := nextAfter_of_mbxNext hnext hsorted hbound
    have hserves : ∀ i, i ∈ (s.readySessions.filter s.mbxGoes ++ (if s.opens.isEmpty then [] else [1024])) ↔
        i ∈ s.readySessions ∧ s.mbxGoes i = true ∨ i = 1024 ∧ s.opens ≠ [] := fun i => by
      rw [List.mem_append, List.mem_filter]
      cases s.opens <;> simp
    exact ⟨hfrozen, halive, (hserves j).1 hmem, fun i hi => hround i ((hserves i).2 hi)⟩
  · intro s x n c hx hc
    subst hc
    have hexec := exec_creditGrant_channel hx s
    refine ⟨fun h => ?_, fun hfrozen hfree hwait => ?_⟩
    · rw [hexec, channelGrant_eq_self h]
    · obtain ⟨r, hnext, hmem, hround⟩ := channel_next_of_waiting hwait
      rw [channelGrant_of_next hfrozen hfree hnext] at hexec
      refine ⟨_, r, hexec, hmem, hround, ?_, fun j hj => ?_, rfl⟩
      · exact tabGet_tabSet_same _ _ _ _
      · exact tabGet_tabSet_other _ _ _ _ _ hj
  · intro h
    change Host.Outcome.next { s with m := cacheAccess s.m a } = _
    rw [cacheAccess, if_pos (by simpa using h)]
  · intro hnear hheld
    refine ⟨_, exec_cacheAccess hnear hheld, ?_⟩
    have hcached := Cached.touchLine s.m a.pa.toNat a.write a.hint
    unfold Cached at hcached
    dsimp only
    rw [hcached]
  · intro g l hit hunder hnear hheld hg hl hhit hlen
    subst hg hl hhit
    have hexec := exec_cacheAccess hnear hheld
    obtain ⟨hhits, hmisses, hregs⟩ := hitCounted_counts s.m a.pa.toNat
    by_cases hallocates : lineHit s.m a.pa.toNat = none ∧ a.hint = .stream
    · have hset : ∀ h k, (hitCounted s.m a.pa.toNat).cacheSet h k = s.m.cacheSet h k := fun h k => by
        rw [hitCounted_frame]
        rfl
      rw [hallocates.2, touchLine_of_stream hallocates.1] at hexec
      refine ⟨_, _, hexec, hset _ _, fun h k _ _ => hset h k, hhits, hmisses, fun x h24 h28 _ => hregs x h24 h28, ?_, fun _ _ => rfl,
        hlen, id, fun x hx _ => ⟨x, hx, rfl, rfl⟩, fun hno => absurd hallocates hno⟩
      dsimp only
      rw [hitCounted_frame]
    · obtain ⟨r, n, hstep, hr, hfinal, hearlier, hkept⟩ := touchLine_lines a.write hunder hallocates
      obtain ⟨hroom, hkeeps, hlines⟩ := lines_facts hlen hr
      obtain ⟨-, -, hbeside⟩ := linesBeside_facts (h := a.hint) hlen
      have hreg := reg_lastCounted s.m a.pa.toNat r n
      rw [hstep] at hexec
      refine ⟨_, r, hexec, (cacheSet_lastCounted _ _ _ _ _ _).trans (if_pos rfl), fun h k hk hne => ?_,
        ((hreg _).trans (if_neg (ldlReg_inj (by decide)))).trans hhits, ((hreg _).trans (if_neg (ldlReg_inj (by decide)))).trans hmisses,
        fun x h24 h28 h2C => ((hreg x).trans (if_neg h2C)).trans (hregs x h24 h28), ?_,
        fun hmiss hstream => absurd ⟨hmiss, hstream⟩ hallocates, hroom, hkeeps, hlines, fun _ k hk =>
        ⟨fun m hm hw hle => ?_, fun m hm hw hlt => ?_, fun hw => ?_⟩⟩
      · refine (cacheSet_lastCounted _ _ _ _ _ _).trans (if_neg ?_)
        have hset : setOf a.pa.toNat < 2048 := Nat.mod_lt _ (by decide)
        omega
      · dsimp only
        rw [lastCounted_frame]
      · obtain ⟨rfl, rfl⟩ := hfinal m (hk.trans hm) hw hle
        refine ⟨fun x hx => (hbeside x hx).1, (hreg _).trans ((if_pos rfl).trans ?_)⟩
        rw [hregs _ (ldlReg_inj (by decide)) (ldlReg_inj (by decide))]
      · exact hearlier m (hk.trans hm) hw hlt
      · rw [← hk]
        exact hkept (by rwa [← hk] at hw)

end Sys2Proof.Proofs
end

section
/-! SUPPORT. The issue of the commands of the flasks and of the ladle units (06 R143, R144; 09 R221, R224; 14 R328, R330, R340). -/

namespace Sys2Proof.Proofs

open Sys2Proof.Machine Sys2Proof.Laws Sys2Proof.Safety

/-! ## The entry becomes a command (R326, R330) -/

section Enter

variable (s : Mach) (q : Nat) {d : Nat} (st : CmdSt)

/-- An entry that does not hold its queue becomes a command, and RD_PTR moves past it. -/
theorem enterCmd_of_passes (hop : dOp d ≠ 0x11 ∧ dOp d ≠ 0x13) : enterCmd s q d st = (enteredCmd s q d st,
    ((({ takePin s q d with nextCmd := s.nextCmd + 1, cmds := s.cmds ++ [enteredCmd s q d st] } : Mach).setQueue q
      ((s.queue q).passed (s.queue q).rd)).tally (homeDie (s.queue q).dieMask) fun y => { y with issued := y.issued + 1 }).bump
        (schReg (homeDie (s.queue q).dieMask) 0x10) 1) := by
  have hholds : ¬ (enteredCmd s q d st).holds = true := by
    simpa [Cmd.holds, enteredCmd] using hop
  have hdie : (enteredCmd s q d st).die = homeDie (s.queue q).dieMask := by
    obtain ⟨-, -, -, -, hdie, -⟩ := fromEntry_enteredCmd s q d st
    exact hdie
  have hnext : (takePin s q d).nextCmd = s.nextCmd := by rw [takePin_frame]
  have hcmds : (takePin s q d).cmds = s.cmds := by rw [takePin_frame]
  rw [← passed_takePin s q d, ← hdie, ← hnext, ← hcmds]
  unfold enterCmd
  change (enteredCmd s q d st, Mach.bump (if (enteredCmd s q d st).holds = true then _ else Mach.tally (Mach.setQueue _ q
    (if (enteredCmd s q d st).holds = true then _ else _)) _ _) _ 1) = _
  rw [if_neg hholds, if_neg hholds]
  rfl

end Enter

/-- What the entry at RD_PTR, which does not hold its queue, becomes in a machine where the dispatcher has considered eligibility. -/
theorem entered_facts {s r x0 : Mach} {q d die : Nat} {st : CmdSt} {x : Cmd} (hr : Noted die s r) (hop : dOp d ≠ 0x11 ∧ dOp d ≠ 0x13)
    (henter : enterCmd r q d st = (x, x0)) : FromEntry q d s x ∧ x.st = st ∧ x0.cmds = s.cmds ++ [x] ∧ Issued q s x0 ∧
      x0.objs = (takePin r q d).objs ∧
      x0 = { r with nextCmd := x0.nextCmd, cmds := x0.cmds, queues := x0.queues, scheds := x0.scheds, regs := x0.regs,
                    objs := x0.objs } := by
  have hqueue : ∀ j, r.queue j = s.queue j := fun j => by
    rw [hr.frame]
    rfl
  have hnext : r.nextCmd = s.nextCmd := by rw [hr.frame]
  have hcmds : r.cmds = s.cmds := by rw [hr.frame]
  have hentry := fromEntry_enteredCmd r q d st
  simp only [FromEntry, hqueue, hnext] at hentry
  rw [enterCmd_of_passes r q st hop, hqueue, hnext, hcmds] at henter
  obtain ⟨rfl, rfl⟩ := Prod.mk.inj henter
  refine ⟨hentry, rfl, ?_, ⟨?_, fun j hj => ?_, ?_, ?_, ?_⟩, ?_, ?_⟩
  · rw [bump_frame]
    rfl
  · rw [queue_bump, queue_tally, queue_setQueue, if_pos rfl]
  · rw [queue_bump, queue_tally, queue_setQueue, if_neg hj]
    exact (queue_takePin_other r q d hj).trans (hqueue j)
  · rw [bump_frame]
    rfl
  · rw [reg_bump, if_pos rfl, reg_tally, reg_setQueue, takePin_frame]
    exact congrArg (satAdd · 1) (hr.reg _ (by unfold schReg; omega))
  · rw [sched_bump, Mach.tally, sched_setSched, if_pos rfl, sched_setQueue, takePin_frame]
    have hissued : (r.sched (homeDie (s.queue q).dieMask)).issued = (s.sched (homeDie (s.queue q).dieMask)).issued := by rw [hr.sched]
    exact congrArg (· + 1) hissued
  · rw [bump_frame]
    rfl
  · rw [bump_frame, takePin_frame]
    rfl

/-- Entries of the ladle units pin nothing. -/
theorem takePin_of_ladle (s : Mach) (q : Nat) {d : Nat} (hop : isLadleOp (dOp d) = true) : takePin s q d = s := by
  have hva : pinnedVa d = none := by
    unfold pinnedVa isFlaskOp
    simp only [isLadleOp, Bool.or_eq_true, Bool.and_eq_true, beq_iff_eq, decide_eq_true_eq] at hop
    rw [if_neg (by omega), if_neg (by simp; omega)]
  unfold takePin Mach.pinEntry Mach.stateObj
  rw [hva]
  exact ite_self _

/-! ## The issue (R329, R330) -/

section Issue

variable {s r : Mach} {q e die : Nat}

/-- An entry that may issue may issue in a machine where the dispatcher has considered eligibility. -/
theorem mayIssue_noted (hr : Noted die s r) (hmay : MayIssue q e s) : (r.queue q).skipping (r.queue q).rd = false ∧
    (!r.issues || !r.runs (r.queue q).ctx || !r.readyAt q e) = false ∧ headerCode r q e = none := by
  obtain ⟨-, -, hskip, hissues, hruns, hready, hheader⟩ := hmay
  have hqueue : r.queue q = s.queue q := by
    rw [hr.frame]
    rfl
  have hissues' : r.issues = true := by
    have hsafe : r.safe = s.safe := congrArg (fun w : Word => w.toNat.testBit 30) (hr.reg _ (by unfold safReg schReg; omega))
    have hfrozen : r.frozen = s.frozen := by rw [hr.frame]
    rw [Mach.issues, hsafe, hfrozen]
    exact hissues
  have hruns' : r.runs (r.queue q).ctx = true := by
    rw [hqueue, Mach.runs, hr.ctx]
    exact hruns
  have hready' : r.readyAt q e = true := by
    rw [hr.frame]
    exact hready
  refine ⟨by rw [hqueue, hskip], by simp [hissues', hruns', hready'], ?_⟩
  rw [hr.frame]
  exact hheader

theorem advance_of_ladle (hr : Noted die s r) (hmay : MayIssue q e s) (hop : isLadleOp (dOp e) = true) (avoid : List Nat) :
    advance r q e avoid = startLadle r (enterCmd r q e .offered).2 (enterCmd r q e .offered).1 := by
  obtain ⟨hskip, hgo, hheader⟩ := mayIssue_noted hr hmay
  have hcore : isCoreOp (dOp e) = false := by
    simp only [isLadleOp, Bool.or_eq_true, Bool.and_eq_true, beq_iff_eq, decide_eq_true_eq] at hop
    simp [isCoreOp]
    omega
  unfold advance tryIssue
  dsimp only
  rw [if_neg (by simp [hskip]), if_neg (by simp [hgo]), hheader]
  dsimp only
  rw [if_neg (by simp [hcore]), if_pos hop]

theorem advance_of_flask (hr : Noted die s r) (hmay : MayIssue q e s) (hop : isFlaskOp (dOp e) = true) (avoid : List Nat) :
    advance r q e avoid = startFlask r (enterCmd r q e .running).2 (enterCmd r q e .running).1 := by
  obtain ⟨hskip, hgo, hheader⟩ := mayIssue_noted hr hmay
  have hothers : isCoreOp (dOp e) = false ∧ isLadleOp (dOp e) = false := by
    simp only [isFlaskOp, Bool.or_eq_true, beq_iff_eq] at hop
    rcases hop with hop | hop <;> rw [hop] <;> decide
  unfold advance tryIssue
  dsimp only
  rw [if_neg (by simp [hskip]), if_neg (by simp [hgo]), hheader]
  dsimp only
  rw [if_neg (by simp [hothers.1]), if_neg (by simp [hothers.2]), if_pos hop]

theorem issueEntry_of_advance {y : Mach} (hmay : MayIssue q e s)
    (hadvance : ∀ avoid, advance (noteReady s (homeDie (s.queue q).dieMask) (s.queue q).ctx) q e avoid = some y) :
    issueEntry s q e = noteIdle y (homeDie (s.queue q).dieMask) (s.queue q).ctx := by
  obtain ⟨-, hreplay, -⟩ := hmay
  unfold issueEntry
  dsimp only
  rw [if_neg (by simp [hreplay]), hadvance]

end Issue

/-! ## The rows (R328) -/

theorem exec_flaskRow {s : State} {c : Instr} {q : QueueNo} {d : Desc} {e : Nat} (hc : c = .stateExport q d ∨ c = .stateImport q d)
    (he : queueEntryOf c = some (q, e)) : exec c s = .next { s with m := issueEntry s.m q.toNat e } ∧ isFlaskOp (dOp e) = true := by
  obtain rfl | rfl := hc
  all_goals
    obtain rfl := (Prod.mk.inj (Option.some.inj he)).2
    refine ⟨rfl, ?_⟩
    rw [dOp_dSet _ _ (by decide)]
    rfl

theorem dOp_setBits_func (d : Nat) (v : Nat) : dOp (setBits d 131 128 v) = dOp d :=
  bits_setBits_other d 131 128 v 7 0 (by decide) (by decide) (Or.inl (by decide))

theorem exec_ladleRow {s : State} {c : Instr} {q : QueueNo} {d : Desc} {e : Nat}
    (hc : c = .attnNorm q d ∨ c = .attnNormBackward q d ∨ c = .fork q d ∨ c = .appendPage q d ∨ c = .freeList q d ∨
      c = .optUpdate q d ∨ c = .reduce q d ∨ c = .reduceAdapt q d ∨ c = .reduceHist q d ∨ c = .copy q d ∨ c = .zero q d)
    (he : queueEntryOf c = some (q, e)) : exec c s = .next { s with m := issueLadle s.m q.toNat e } ∧ isLadleOp (dOp e) = true := by
  obtain rfl | rfl | rfl | rfl | rfl | rfl | rfl | rfl | rfl | rfl | rfl := hc
  all_goals
    obtain rfl := (Prod.mk.inj (Option.some.inj he)).2
    refine ⟨rfl, ?_⟩
    simp [dOp_setBits_func, dOp_dSet, isLadleOp]

/-- A page command is judged in its check phase alone. -/
theorem ladleIssue_of_page {x : Cmd} {s : Mach} (h : isPageOp (dOp x.desc) = true) : ladleIssue x s = .ok x s := by
  simp only [isPageOp, Bool.and_eq_true, decide_eq_true_eq] at h
  obtain h | h | h : dOp x.desc = 8 ∨ dOp x.desc = 9 ∨ dOp x.desc = 10 := by omega
  all_goals simp only [ladleIssue, h]

section Row

variable {s z : Mach} {q e : Nat} {x : Cmd} (hissue : issueEntry s q e = z) (hfound : z.cmd? s.nextCmd = some x)
include hissue hfound

/-- While another command is offered or the class is busy, a row's command waits. -/
theorem issueLadle_of_busy
    (h : (∃ v ∈ s.cmds, v.st = .offered) ∨ (classHead z (isPageOp (dOp e))).isSome = true) : issueLadle s q e = z := by
  unfold issueLadle
  dsimp only
  rw [hissue, hfound]
  dsimp only
  refine if_neg fun hgo => ?_
  obtain ⟨-, halone, hhead⟩ := hgo
  rcases h with ⟨v, hv, hst⟩ | h
  · simpa [hst] using List.all_eq_true.1 halone v hv
  · simp [Option.isNone_iff_eq_none.1 hhead] at h

/-- Otherwise it is delivered and passes its check barrier. -/
theorem issueLadle_of_free (hst : x.st = .offered) (halone : ∀ v ∈ s.cmds, v.st ≠ .offered)
    (hhead : classHead z (isPageOp (dOp e)) = none) :
    issueLadle s q e = ladleBarrier (ladleDelivery z) (isPageOp (dOp e)) := by
  unfold issueLadle
  dsimp only
  rw [hissue, hfound]
  exact if_pos ⟨hst, by simpa using halone, by rw [hhead]; rfl⟩

end Row

/-! ## Delivery and barrier of the only command offered (R340) -/

theorem homeDie_lt (mask : Nat) : homeDie mask < 4 := by
  unfold homeDie
  cases hfind : (List.range 4).find? fun d => mask.testBit d with
  | none => decide
  | some d => simpa using List.mem_of_find?_eq_some hfind

theorem freeSlots_frame (s : Mach) (l : List HeldWait) : s.freeSlots l = { s with slices := (s.freeSlots l).slices } := by
  refine rel_each (fun a b : Mach => b = { a with slices := b.slices }) (fun a b c h h' => ?_) (fun _ => rfl) _ (fun w t => ?_) l s
  · rw [h] at h'
    exact h'
  · split <;> rfl

/-- The end of waits on held channels changes its command and gives ladle units their slots back. -/
theorem dropWaits_keeps (s : Mach) (id : Nat) (p : HeldWait → Bool) :
    s.dropWaits id p = { s with slices := (s.dropWaits id p).slices, cmds := (s.dropWaits id p).cmds } := by
  unfold Mach.dropWaits
  split
  · rfl
  · split
    · rw [freeSlots_frame]
      rfl
    · rfl

section Offered

variable {s : Mach} {l : List Cmd} {c : Cmd} (hcmds : s.cmds = l ++ [c]) (hids : ∀ x ∈ l, x.id ≠ c.id)
include hcmds

/-- The only command offered, of a context that runs, is the one whose turn it is. -/
theorem turn_of_only_offered (hl : ∀ x ∈ l, x.st ≠ .offered) (hst : c.st = .offered) (hruns : s.runs c.ctx = true)
    (hdie : c.die < 4) :
    ([0, 1, 2, 3].map fun i => (s.ladleDie + i) % 4).findSome? (fun d => offeredOf s d) = some c := by
  have honly : ∀ d v, offeredOf s d = some v → v = c := fun d v hv => by
    have hmem : v ∈ l ++ [c] := hcmds ▸ List.mem_of_find?_eq_some hv
    have hoffered := List.find?_some hv
    simp only [Bool.and_eq_true, beq_iff_eq] at hoffered
    rcases List.mem_append.1 hmem with hv | hv
    · exact absurd hoffered.1.1 (hl v hv)
    · exact List.mem_singleton.1 hv
  have hoffers : (offeredOf s c.die).isSome = true := by
    refine List.find?_isSome.2 ⟨c, by simp [hcmds], ?_⟩
    simp [hst, hruns]
  have hdies : c.die ∈ [0, 1, 2, 3].map fun i => (s.ladleDie + i) % 4 := by
    simp only [List.map_cons, List.map_nil, List.mem_cons, List.not_mem_nil, or_false]
    omega
  cases hfind : ([0, 1, 2, 3].map fun i => (s.ladleDie + i) % 4).findSome? (fun d => offeredOf s d) with
  | none =>
    have := List.findSome?_eq_none_iff.1 hfind c.die hdies
    simp [this] at hoffers
  | some v =>
    obtain ⟨d, -, hd⟩ := List.exists_of_findSome?_eq_some hfind
    rw [honly d v hd]

include hids

/-- Its end of waits leaves the command last. -/
theorem cmds_dropWaits_append {id : Nat} (hid : c.id = id) (p : HeldWait → Bool) :
    ∃ waits, (s.dropWaits id p).cmds = l ++ [{ c with heldOn := waits }] := by
  subst hid
  have hfound : s.cmd? c.id = some c := by
    rw [Mach.cmd?, hcmds, List.find?_append, List.find?_eq_none.2 (by simpa using hids)]
    simp
  unfold Mach.dropWaits
  rw [hfound]
  dsimp only
  split
  · have hkept : (s.freeSlots (c.heldOn.filter p)).cmds = l ++ [c] := by
      rw [freeSlots_frame]
      exact hcmds
    exact ⟨_, congrArg Mach.cmds
      (setCmd_append (b := { c with heldOn := c.heldOn.filter fun w => !p w }) hkept hids rfl)⟩
  · exact ⟨c.heldOn, hcmds⟩

/-- Delivered with its class free, it takes its check phase at once. -/
theorem ladleDelivery_of_only {b x2 : Cmd} {y2 : Mach} (hissues : s.issues = true)
    (hturn : ([0, 1, 2, 3].map fun i => (s.ladleDie + i) % 4).findSome? (fun d => offeredOf s d) = some c)
    (hop : isLadleOp (dOp c.desc) = true) (hl : ∀ x ∈ l, atUnits s (isPageOp (dOp c.desc)) x = false)
    (hb : b = ({ c with st := .check } : Cmd).begin (s.reg (memReg 0)).toNat)
    (hcheck : ladleCheck b { s with ladleDie := (c.die + 1) % 4, cmds := l ++ [b], leafUse := .check [] } = .ok x2 y2) :
    ladleDelivery s = (({ y2 with leafUse := .walk } : Mach).setCmd
      { x2 with st := .checked, leaves := y2.leafUse.noted }).dropWaits c.id fun h => h.no == 1 := by
  obtain ⟨-, hruns⟩ := offered_of_turn hturn
  have hrest : (s.cmds.filter fun x => x.id != c.id) = l := by
    rw [hcmds, List.filter_append, List.filter_eq_self.2 (by simpa using hids)]
    simp
  have hid : b.id = c.id := by
    rw [hb, Cmd.begin]
    split <;> rfl
  have hdeliver := ladleDelivery_eq hissues hturn
  rw [hrest] at hdeliver
  rw [hdeliver]
  refine takeNext_of_check (c := { c with st := .check }) (b := b) (x := { s with ladleDie := (c.die + 1) % 4, cmds := l ++ [b] })
    hissues ?_ rfl hb (setCmd_append rfl (hid ▸ hids) hid.symm) hcheck
  exact classHead_append rfl (s := s) (fun _ => rfl) hl (by simp [atUnits, hop, hruns])

/-- With its check passed, it is at its class's barrier. -/
theorem ladleBarrier_of_only {w : Mach} {u v : Cmd} {p : HeldWait → Bool} (hissues : s.issues = true)
    (hu : u.id = c.id ∧ u.st = .checked ∧ isLadleOp (dOp u.desc) = true ∧ s.runs u.ctx = true)
    (hl : ∀ x ∈ l, atUnits s (isPageOp (dOp u.desc)) x = false) (hw : (s.setCmd u).dropWaits c.id p = w) (hv : w.cmd? c.id = some v) :
    ladleBarrier w (isPageOp (dOp u.desc)) = w.setCmd { v with st := .work, pass := 0, shares := List.range 32 } := by
  obtain ⟨hid, hst, hop, hruns⟩ := hu
  have hset := setCmd_append hcmds (hid ▸ hids) hid.symm
  obtain ⟨waits, hwaits⟩ := cmds_dropWaits_append (s := s.setCmd u) (c := u) (by rw [hset]) (hid ▸ hids) hid p
  rw [hw] at hwaits
  have hframe := hw ▸ dropWaits_keeps (s.setCmd u) c.id p
  have hwruns : ∀ k, w.runs k = s.runs k := fun k => by
    rw [hframe]
    rfl
  have hlast : v = { u with heldOn := waits } := by
    rw [Mach.cmd?, hwaits, List.find?_append, List.find?_eq_none.2 (by simpa using hids)] at hv
    simpa [hid, eq_comm] using hv
  have hhead : classHead w (isPageOp (dOp u.desc)) = some v := by
    rw [hlast]
    exact classHead_append hwaits hwruns hl (by simp [atUnits, hst, hop, hruns])
  refine ladleBarrier_of_checked ?_ hhead (by rw [hlast]; exact hst)
  rw [hframe]
  exact hissues

/-- The only command offered, of a class that is free, passes its check barrier as soon as it is offered. -/
theorem ladleBarrier_ladleDelivery {b x2 v : Cmd} {y2 w : Mach} (hissues : s.issues = true) (halone : ∀ x ∈ l, x.st ≠ .offered)
    (hst : c.st = .offered) (hruns : s.runs c.ctx = true) (hdie : c.die < 4) (hop : isLadleOp (dOp c.desc) = true)
    (hl : ∀ x ∈ l, atUnits s (isPageOp (dOp c.desc)) x = false)
    (hb : b = ({ c with st := .check } : Cmd).begin (s.reg (memReg 0)).toNat)
    (hcheck : ladleCheck b { s with ladleDie := (c.die + 1) % 4, cmds := l ++ [b], leafUse := .check [] } = .ok x2 y2)
    (hx2 : x2.id = c.id ∧ x2.ctx = c.ctx ∧ x2.desc = c.desc) (hcmds2 : y2.cmds = l ++ [b]) (hctxs2 : y2.ctxs = s.ctxs)
    (hissues2 : y2.issues = true)
    (hw : w = (({ y2 with leafUse := .walk } : Mach).setCmd { x2 with st := .checked, leaves := y2.leafUse.noted }).dropWaits c.id
      fun h => h.no == 1) (hv : w.cmd? c.id = some v) :
    ladleBarrier (ladleDelivery s) (isPageOp (dOp c.desc)) = w.setCmd { v with st := .work, pass := 0, shares := List.range 32 } := by
  obtain ⟨hid2, hctx2, hdesc2⟩ := hx2
  have hidb : b.id = c.id := by
    rw [hb, Cmd.begin]
    split <;> rfl
  have hruns2 : ∀ k, ({ y2 with leafUse := .walk } : Mach).runs k = s.runs k := fun k => by
    simp only [Mach.runs, Mach.ctx, hctxs2]
  have hturn := turn_of_only_offered hcmds halone hst hruns hdie
  rw [ladleDelivery_of_only hcmds hids hissues hturn hop hl hb hcheck, ← hw, ← hdesc2]
  refine ladleBarrier_of_only (s := { y2 with leafUse := .walk }) (u := { x2 with st := .checked, leaves := y2.leafUse.noted })
    hcmds2 (hidb ▸ hids) hissues2 ⟨hid2.trans hidb.symm, rfl, hdesc2 ▸ hop, ?_⟩ ?_ (hidb ▸ hw.symm) (hidb ▸ hv)
  · rw [hruns2]
    exact hctx2 ▸ hruns
  · rw [atUnits_congr hruns2]
    exact hdesc2 ▸ hl

end Offered

/-- A command that comes last, replaced there before the dispatcher considers its context. -/
theorem noteIdle_setCmd {y : Mach} {l : List Cmd} {c b : Cmd} (die cx : Nat) (hcmds : y.cmds = l ++ [c]) (hids : ∀ x ∈ l, x.id ≠ b.id)
    (hid : c.id = b.id) : (noteIdle (y.setCmd b) die cx).cmds = l ++ [b] ∧
      noteIdle (y.setCmd b) die cx =
        { y with cmds := (noteIdle (y.setCmd b) die cx).cmds, ctxs := (noteIdle (y.setCmd b) die cx).ctxs } ∧
      ∀ k, (noteIdle (y.setCmd b) die cx).runs k = y.runs k := by
  have hidle := noteIdle_frame (y.setCmd b) die cx
  have hset := setCmd_append hcmds hids hid
  refine ⟨?_, ?_, fun k => ?_⟩
  · rw [hidle, hset]
  · rw [hidle]
    rfl
  · rw [Mach.runs, ctx_noteIdle]
    rfl

/-! ## The statement -/

/-- Settles O31: the entry becomes a command (`entered_facts`), a flask's does its work at once; a ladle unit's is offered, and the only
one offered of a free class is delivered and passes its check barrier (`ladleBarrier_ladleDelivery`). -/
theorem flaskAndLadleCommandsIssue : Obligations.FlaskAndLadleCommandsIssue := by
  refine ⟨?_, ?_⟩
  · intro s c q d e die cx x r y0 y hc he hmay hdie hcx hr henter hwork
    subst hdie hcx
    obtain ⟨hexec, hop⟩ := exec_flaskRow (s := s) hc he
    have hnoted : Noted _ s.m r := hr ▸ Noted.noteReady s.m _
    have hpasses : dOp e ≠ 0x11 ∧ dOp e ≠ 0x13 := by
      simp only [isFlaskOp, Bool.or_eq_true, beq_iff_eq] at hop
      omega
    obtain ⟨hentry, hst, hcmds, hissued, hobjs, hframe⟩ := entered_facts hnoted hpasses henter
    have hadvance : ∀ avoid, advance r q.toNat e avoid = some (y.setCmd { x with step := 1 }) := fun avoid => by
      rw [advance_of_flask hnoted hmay hop, henter, startFlask, hwork]
      rfl
    refine ⟨?_, hentry, hst, hcmds, hissued, fun hnopin => ?_, hframe⟩
    · rw [hexec, issueEntry_of_advance hmay (by rw [hr]; exact hadvance)]
    · have hqueue : r.queue q.toNat = s.m.queue q.toNat := by
        rw [hnoted.frame]
        rfl
      rw [hobjs, objs_takePin r _ e (hqueue ▸ hnopin), hnoted.frame]
  · intro s c q d e die cx x x1 r y0 y1 z hc he hmay hdie hcx hr henter hcheck hcmds1 hctxs1 hx1 hz
    subst hdie hcx
    obtain ⟨hexec, hop⟩ := exec_ladleRow (s := s) hc he
    have hnoted : Noted _ s.m r := hr ▸ Noted.noteReady s.m _
    have hpasses : dOp e ≠ 0x11 ∧ dOp e ≠ 0x13 := by
      simp only [isLadleOp, Bool.or_eq_true, Bool.and_eq_true, beq_iff_eq, decide_eq_true_eq] at hop
      omega
    obtain ⟨hentry, hst, hcmds, hissued, hobjs, hframe⟩ := entered_facts hnoted hpasses henter
    have hentry' := hentry
    obtain ⟨hnumbers, -, -, -, hactive, -⟩ := id hmay
    have hadvance : ∀ avoid, advance r q.toNat e avoid = some (y1.setCmd x1) := fun avoid => by
      rw [advance_of_ladle hnoted hmay hop, henter, startLadle, hcheck]
      rfl
    have hissue : issueEntry s.m q.toNat e = z := by
      rw [issueEntry_of_advance hmay (by rw [hr]; exact hadvance)]
      exact hz
    obtain ⟨hid1, hctx1, hdie1, hdesc1, hst1⟩ := hx1
    obtain ⟨hid, hctx, -, -, hdie, hdesc, -⟩ := hentry'
    have hfresh : ∀ v ∈ s.m.cmds, v.id ≠ x1.id := fun v hv => by
      have := hnumbers v hv
      rw [hid1, hid]
      omega
    obtain ⟨hzcmds, hzframe, hzruns⟩ := noteIdle_setCmd (homeDie (s.m.queue q.toNat).dieMask) (s.m.queue q.toNat).ctx
      (hcmds1.trans hcmds) hfresh hid1.symm
    rw [hz] at hzcmds hzframe hzruns
    have hruns : ∀ k, z.runs k = s.m.runs k := fun k => by
      have hy0 : y0.ctxs = r.ctxs := by rw [hframe]
      have hy1 : y1.ctx k = r.ctx k := by simp only [Mach.ctx, hctxs1, hy0]
      rw [hzruns, Mach.runs, hy1, hnoted.ctx]
      rfl
    obtain ⟨hfound, -⟩ := cmd?_entered hnumbers (hid1.trans hid) hzcmds
    refine ⟨hentry, hst, hcmds, hissued, ?_, hzcmds, ?_, fun hpage => ?_, fun hbusy => ?_, ?_⟩
    · rw [takePin_of_ladle r _ hop] at hobjs
      rw [hobjs] at hframe
      exact hframe
    · exact hzframe
    · rw [ladleIssue_of_page (hdesc ▸ hpage)] at hcheck
      cases hcheck
      exact ⟨rfl, rfl⟩
    · rw [hexec, issueLadle_of_busy hissue hfound]
      refine hbusy.imp_right fun hhead => ?_
      obtain ⟨v, hv⟩ := Option.isSome_iff_exists.1 hhead
      rw [classHead_of_later (t := z) (p := fun _ => true) (r := [x1]) hv (by simp [hzcmds]) hruns rfl]
      rfl
    · intro b x2 v y2 w halone hhead hissues hb hcheck2 hx2 hcmds2 hctxs2 hissues2 hw hv
      have hst1' : x1.st = .offered := hst1.trans hst
      have hop1 : dOp x1.desc = dOp e := by rw [hdesc1, hdesc]
      have hruns1 : z.runs x1.ctx = true := by
        rw [hruns, hctx1, hctx]
        exact hactive
      have hnone : ∀ u ∈ s.m.cmds, atUnits z (isPageOp (dOp x1.desc)) u = false := by
        rw [hop1, atUnits_congr hruns]
        exact fun u hu => Bool.eq_false_iff.2 (List.find?_eq_none.1 hhead u hu)
      have hheadz : classHead z (isPageOp (dOp e)) = none := by
        rw [classHead_eq, hzcmds, ← hop1, List.find?_append, List.find?_eq_none.2 (by simpa using hnone)]
        simp [atUnits, hst1']
      have hdie4 : x1.die < 4 := by
        rw [hdie1, hdie]
        exact homeDie_lt _
      have hbarrier := ladleBarrier_ladleDelivery hzcmds hfresh hissues halone hst1' hruns1 hdie4 (hop1 ▸ hop) hnone hb hcheck2 hx2
        hcmds2 hctxs2 hissues2 hw hv
      rw [hop1] at hbarrier
      rw [hexec, issueLadle_of_free hissue hfound hst1' halone hheadz, hbarrier]

end Sys2Proof.Proofs
end

section
/-! SUPPORT. The statement on WAIT and SIGNAL (14 R333, R334). A read of a synchronisation object meets slag where the logical channel of
its line is remapped as FAILED (12 R277, R294). The statement's reads without obstacle exclude FAILED pseudo-channels by their state
alone, so a channel that its remap entry makes FAILED, on no pseudo-channel of that state, refutes them. -/

namespace Sys2Proof.Proofs

open Sys2Proof.Machine Sys2Proof.Safety

/-- A WAIT with one condition, on synchronisation object 0. -/
def waitOnFirst : Cmd := { id := 0, ctx := 1, queue := 0, pos := 0, die := 0, desc := 2 ^ (128 + 49), st := .waiting }

/-- Logical channel 0, on which the line of object 0 lies, is remapped as FAILED. -/
def failedChannel : Mach := { regs := [(memReg 0x1000, 0xC0000000#32)] }

/-- Nothing is held, slag or frozen, no pseudo-channel is FAILED, and every slice has a credit free. -/
theorem failedChannel_unobstructed : failedChannel.frozen = false ∧ failedChannel.slag = [] ∧ failedChannel.under = [] ∧
    (∀ n, (failedChannel.pc n).state ≠ 1#2 ∧ (failedChannel.pc n).state ≠ 2#2) ∧
    ∀ g, 0 < (failedChannel.slice g).free ∧ (failedChannel.slice g).atomWait = [] := by
  refine ⟨rfl, rfl, rfl, fun n => ?_, fun g => ?_⟩
  · change (({} : PcSt).state ≠ 1#2) ∧ ({} : PcSt).state ≠ 2#2
    decide
  · change 0 < ({} : SliceSt).free ∧ ({} : SliceSt).atomWait = []
    decide

/-- The read of object 0 finds slag. -/
theorem failedChannel_waitHolds : ∃ t, waitHolds waitOnFirst failedChannel = .err (.fatal stFaultPoison) t := by
  have hfails : (match waitHolds waitOnFirst failedChannel with
    | .err f _ => f == .fatal stFaultPoison
    | .ok _ _ => false) = true := by decide +kernel
  split at hfails
  · next f t h => exact ⟨t, h.trans (by rw [eq_of_beq hfails])⟩
  · cases hfails

/-- Refutes O32: where the remap entry of a channel is FAILED, a WAIT on an object of that channel reads slag, with every pseudo-channel
in use and every credit free. In `failedChannel` that is the channel of object 0. -/
theorem not_waitsAndSignals : ¬ Obligations.WaitsAndSignals := by
  intro h
  unfold Obligations.WaitsAndSignals at h
  obtain ⟨-, -, hreads, -⟩ := h
  obtain ⟨hfrozen, hslag, hunder, hpcs, hslices⟩ := failedChannel_unobstructed
  obtain ⟨b, y, hok⟩ := hreads { State.reset with m := failedChannel } waitOnFirst hfrozen hslag hunder hpcs hslices
  obtain ⟨t, herr⟩ := failedChannel_waitHolds
  cases hok.symm.trans herr

end Sys2Proof.Proofs
end

section
/-! SUPPORT. Parts of a step that take no command number (14 R326): what the dispatcher does for commands that wait, reads, selects and
checks. A command enters by `enterCmd` alone, so a dispatcher's turn takes at most one number. -/

namespace Sys2Proof.Proofs

open Sys2Proof.Machine Sys2Proof.Laws

/-- From s to t no command number has been taken. -/
def SameNext (s t : Mach) : Prop := t.nextCmd = s.nextCmd

namespace SameNext

variable {a b c : Mach} {α β : Type}

theorem refl (s : Mach) : SameNext s s := rfl
theorem trans (h : SameNext a b) (h' : SameNext b c) : SameNext a c := Eq.trans h' h
theorem of_accessed (h : Accessed a b) : SameNext a b := by rw [SameNext, h.frame]
theorem of_stopsWork (h : StopsWork a b) : SameNext a b := by rw [SameNext, h.frame]
theorem of_noted {die : Nat} (h : Noted die a b) : SameNext a b := by rw [SameNext, h.frame]

/-! ## Folds and results, failures included -/

theorem foldl (f : Mach → α → Mach) (h : ∀ s x, SameNext s (f s x)) (l : List α) (s : Mach) : SameNext s (l.foldl f s) := by
  induction l generalizing s with
  | nil => exact refl s
  | cons x l ih => exact (h s x).trans (ih _)

theorem each (f : α → Mach → Mach) (h : ∀ x s, SameNext s (f x s)) (l : List α) (s : Mach) : SameNext s (each f l s) :=
  foldl _ (fun s x => h x s) l s

/-- Either part of a choice. -/
theorem ite {p : Prop} [Decidable p] {s t u : Mach} (ht : SameNext s t) (hu : SameNext s u) : SameNext s (if p then t else u) := by
  split
  · exact ht
  · exact hu

/-- Either part of a choice between results. -/
theorem iteRes {p : Prop} [Decidable p] {s : Mach} {r r' : Res α} (hr : SameNext s r.state) (hr' : SameNext s r'.state) :
    SameNext s (if p then r else r').state := by
  split
  · exact hr
  · exact hr'

theorem bind {s : Mach} {r : Res α} {k : α → Mach → Res β} (hr : SameNext s r.state) (hk : ∀ x t, SameNext t (k x t).state) :
    SameNext s (r.bind k).state := by
  cases r with
  | ok x t => exact hr.trans (hk x t)
  | err f t => exact hr

/-- A value formed of what a part has read. -/
theorem map {s : Mach} {r : Res α} {f : α → Mach → β} (hr : SameNext s r.state) :
    SameNext s (r.bind fun x t => .ok (f x t) t).state := hr.bind fun _ t => refl t

theorem foldRes {f : β → α → Mach → Res β} (h : ∀ y x s, SameNext s (f y x s).state) (y : β) (l : List α) (s : Mach) :
    SameNext s (foldRes f y l s).state := by
  induction l generalizing y s with
  | nil => exact refl s
  | cons x l ih =>
    have hx := h y x s
    rw [Machine.foldRes]
    cases hf : f y x s with
    | ok y' t => rw [hf] at hx; exact hx.trans (ih y' t)
    | err e t => rw [hf] at hx; exact hx

theorem eachRes {f : α → Mach → Res Unit} (h : ∀ x s, SameNext s (f x s).state) (l : List α) (s : Mach) :
    SameNext s (eachRes f l s).state := foldRes (fun _ => h) () l s

/-- What a known result leaves. -/
theorem of_ok {r : Res α} {x : α} {s t : Mach} (h : SameNext s r.state) (hr : r = .ok x t) : SameNext s t := by
  rw [hr] at h
  exact h

theorem of_err {r : Res α} {f : Flt} {s t : Mach} (h : SameNext s r.state) (hr : r = .err f t) : SameNext s t := by
  rw [hr] at h
  exact h

variable (s : Mach)

theorem bump (x n : Nat) : SameNext s (s.bump x n) := of_accessed (.bump s x n)
theorem raise (d n : Nat) : SameNext s (s.raise d n) := of_accessed (.raise s d n)
theorem poisonObj (n : Nat) : SameNext s (s.poisonObj n) := of_accessed (.poisonObj s n)
theorem abandonReq (n : Nat) : SameNext s (s.abandonReq n) := of_accessed (.abandonReq s n)
theorem touchLine (pa : Nat) (write : Bool) (h : Hint) : SameNext s (s.touchLine pa write h) := of_accessed (.touchLine s pa write h)
theorem touch (pa n : Nat) (write : Bool) (h : Hint) : SameNext s (s.touch pa n write h) := of_accessed (.touch s pa n write h)
theorem readNear (pa n : Nat) : SameNext s (s.readNear pa n).2.2 := of_accessed (.readNear s pa n)
theorem writeNear (pa : Nat) (l : List Byte) (mark : Bool) : SameNext s (s.writeNear pa l mark) := of_accessed (.writeNear s pa l mark)
theorem freeSlots (l : List HeldWait) : SameNext s (s.freeSlots l) := of_stopsWork (.freeSlots s l)
theorem fatalOn (die ctx st cmdId : Nat) : SameNext s (s.fatalOn die ctx st cmdId) := of_stopsWork (.fatalOn s die ctx st cmdId)

/-! ## A residency miss (13 R319) -/

theorem startDown (n dst : Nat) : SameNext s (s.startDown n dst) := by
  unfold Mach.startDown
  extract_lets o src base o' t
  have ht : SameNext s t := rfl
  exact ht.trans (ite (of_accessed (.invalidateObj t n)) (refl t))

theorem evictLoop (x : Obj) (l : List Nat) : SameNext s (evictLoop x l s) := by
  induction l generalizing s with
  | nil => exact refl s
  | cons n l ih =>
    rw [Machine.evictLoop]
    exact ite (refl s) (ite (trans (startDown s n _) (ih _)) (ih s))

theorem startUp {s t : Mach} {n dst : Nat} (h : s.startUp n dst = some t) : SameNext s t := by
  unfold Mach.startUp at h
  extract_lets o src base at h
  obtain ⟨b, -, h⟩ := Option.bind_eq_some_iff.1 h
  extract_lets base' at h
  split at h
  · cases h
    rfl
  · split at h
    · cases h
    · cases h
      exact evictLoop (s.setObj n base') o _

theorem request (n : Nat) : SameNext s (s.request n).1 := by
  unfold Mach.request
  extract_lets o
  split
  · split
    · next t h => exact startUp h
    · exact refl s
  · exact refl s

theorem promote (n : Nat) : SameNext s (s.promote n).1 := by
  unfold Mach.promote
  extract_lets o
  split
  · exact request s n
  · split <;> rfl

theorem residencyMiss (n : Nat) : SameNext s (s.residencyMiss n).2 := by
  unfold Mach.residencyMiss
  extract_lets o t
  have hp : SameNext s (t.promote n).1 :=
    trans (trans (bump (s.setObj n _) _ 1) (raise _ _ _)) (promote t n)
  split
  all_goals
    next u _ he =>
    rw [he] at hp
    exact hp

/-! ## Accesses through translation (13 R297) -/

theorem readTables (ctx va : Nat) : SameNext s (s.readTables ctx va).state := by
  refine eachRes (fun level t => ?_) _ s
  extract_lets pa
  split
  · exact refl t
  · exact iteRes (bump t _ _) (touch t _ _ _ _)

theorem walkEnd (ctx va : Nat) (a : Access) (own : Bool) : SameNext s (s.walkEnd ctx va a own).state := by
  unfold Mach.walkEnd
  split
  · exact refl s
  · next m _ =>
    extract_lets o kept x t y u wr v pa
    split
    · exact iteRes (refl s) (residencyMiss t _)
    · have hu : SameNext s u := ite (refl s) rfl
      have hv : SameNext s v := hu.trans (ite (abandonReq u _) (refl u))
      generalize m.grants (if own then .read else a) = granted
      exact iteRes hu (iteRes hv hv)

theorem walk (ctx va : Nat) (a : Access) (own : Bool) : SameNext s (s.walk ctx va a own).state :=
  iteRes (walkEnd s ctx va a own) ((readTables s ctx va).bind fun _ t => walkEnd t ctx va a own)

theorem pieceH (ctx : Nat) (a : Access) (own : Bool) (h : Hint) (p : Nat × Nat) : SameNext s (s.pieceH ctx a own h p).state := by
  refine (walk s ctx p.1 a own).bind fun pa t => ?_
  split
  · exact refl t
  · exact touch t _ _ _ _

theorem readVa (ctx va n : Nat) : SameNext s (s.readVa ctx va n).state := by
  refine foldRes (fun acc p t => (pieceH t ctx .read false .none p).bind fun pa u => ?_) _ _ s
  have hr := readNear u pa p.2
  split
  next l bad v heq =>
  rw [heq] at hr
  dsimp only at hr ⊢
  refine iteRes (hr.trans ?_) hr
  change SameNext v (match v.objAt _ with | some o => _ | none => v)
  split
  · exact poisonObj v _
  · exact refl v

theorem readWord (ctx va n : Nat) : SameNext s (s.readWord ctx va n).state := map (readVa s ctx va n)

theorem writeVa (ctx va : Nat) (l : List Byte) : SameNext s (s.writeVa ctx va l).state := by
  refine map (foldRes (fun rest p t => ?_) _ _ s)
  exact (pieceH t ctx .write false .none p).bind fun _ u => writeNear u _ _ _

theorem writeWord (ctx va n v : Nat) : SameNext s (s.writeWord ctx va n v).state := writeVa s ctx va _

/-! ## Atomics and synchronisation objects (06 R162, R164; 14 R331 to R333) -/

theorem awaitCredit (r g : Nat) : SameNext s (s.awaitCredit r g) := by rw [SameNext, awaitCredit_frame]

theorem underCredit {s : Mach} (r g : Nat) {x : Res α} (h : SameNext s x.state) : SameNext s (underCredit r g x).state := by
  unfold Machine.underCredit
  split <;> exact h

theorem atomicAt (ctx va n : Nat) (wr own : Bool) : SameNext s (s.atomicAt ctx va n wr own).state :=
  iteRes (refl s) ((pieceH s ctx _ own .none (va, n)).bind fun _ t => iteRes (refl t) (bump t _ _))

theorem atomic (r ctx va n : Nat) (f : Nat → Nat) (wr own : Bool) : SameNext s (s.atomic r ctx va n f wr own).state :=
  iteRes (refl s) (underCredit _ _ ((atomicAt s ctx va n wr own).bind fun _ t => ite rfl (refl t)))

theorem onSyncLine (r obj : Nat) (wr atom : Bool) : SameNext s (s.onSyncLine r obj wr atom).state := by
  unfold Mach.onSyncLine
  extract_lets pa g
  split
  · exact refl s
  · exact iteRes (touchLine s _ _ _) (iteRes (refl s) (iteRes rfl (trans (touchLine s _ _ _) (bump _ _ _))))

theorem readSync (r obj : Nat) : SameNext s (s.readSync r obj).state := map (onSyncLine s r obj false true)

theorem doSync (obj op val ctx : Nat) : SameNext s (s.doSync obj op val ctx) := by
  unfold Mach.doSync
  extract_lets t x
  exact ite rfl rfl

theorem applySync (r obj op val ctx : Nat) : SameNext s (s.applySync r obj op val ctx) := by
  have hline := onSyncLine s r obj true (op != 3)
  unfold Mach.applySync
  extract_lets keep
  have hkeep : ∀ t, SameNext t (keep t) := fun _ => rfl
  refine ite (refl s) (ite (hkeep s) ?_)
  split
  · next t hr => exact (hline.of_ok hr).trans (doSync t obj op val ctx)
  · next g t hr => exact (hline.of_err hr).trans ((awaitCredit t _ _).trans (hkeep _))
  · next t hr => exact (hline.of_err hr).trans (hkeep t)
  · next t _ _ hr => exact (hline.of_err hr).trans (ite (raise _ _ _) (refl t))

/-! ## Commands that stop or retire (14 R332, R343, R344) -/

theorem addWait (id unit no pc : Nat) : SameNext s (s.addWait id unit no pc) := by
  unfold Mach.addWait
  split
  · exact refl s
  · refine ite rfl ?_
    unfold Mach.takeSlot
    split <;> rfl

theorem dropWaits (id : Nat) (p : HeldWait → Bool) : SameNext s (s.dropWaits id p) := by rw [SameNext, dropWaits_keeps]

/-- A fault's consequences start from one of two states. -/
theorem cmdFault_or (s s0 : Mach) (id unit no : Nat) (f : Flt) :
    SameNext s (s.cmdFault s0 id unit no f) ∨ SameNext s0 (s.cmdFault s0 id unit no f) := by
  cases f with
  | held pc => exact Or.inr (addWait s0 id unit no pc)
  | credit r g => exact Or.inr (awaitCredit s0 r g)
  | slot c => exact Or.inr (bump s0 _ _)
  | fatal st =>
    rw [Mach.cmdFault]
    split
    · exact Or.inl (fatalOn s _ _ _ _)
    · exact Or.inl (refl s)
  | restart cause =>
    rw [Mach.cmdFault]
    split
    · next c _ => exact Or.inl ((of_stopsWork (.stopCmd s c _ _)).trans (raise _ _ _))
    · exact Or.inl (refl s)

theorem cmdFault {s0 s : Mach} (id unit no : Nat) (f : Flt) (h : SameNext s0 s) : SameNext s0 (s.cmdFault s0 id unit no f) :=
  (cmdFault_or s s0 id unit no f).elim h.trans fun h0 => h0

theorem postEvent (k opcode status body : Nat) (final : Bool) : SameNext s (s.postEvent k opcode status body final) := by
  unfold Mach.postEvent
  extract_lets x n t
  refine ite (refl s) (ite rfl ?_)
  rw [SameNext, sendOn_frame]
  rfl

theorem postAll (ks : List Nat) (opcode status body : Nat) : SameNext s (s.postAll ks opcode status body) :=
  each _ (fun k t => postEvent t k _ _ _ _) _ s

theorem headerSignal (die ctx d : Nat) : SameNext s (headerSignal s die ctx d) := applySync s _ _ _ _ _

theorem jobDone (j : Option Nat) : SameNext s (s.jobDone j) := by cases j <;> rfl

theorem releaseWalker (cluster ctx : Nat) (w : Walker) : SameNext s (releaseWalker cluster ctx w s) := by
  have hadd : SameNext s (ctrlAdd (512 + cluster) ctx w.list (-1) s).state := atomic s _ _ _ _ _ _ _
  unfold Machine.releaseWalker
  extract_lets later
  have hlater : ∀ t, SameNext t (later t) := fun _ => rfl
  split
  · next t hr => exact (hadd.of_ok hr).trans (ite (bump _ _ _) (refl t))
  · exact hlater s
  · exact (awaitCredit s _ _).trans (hlater _)
  · next t hr => exact (hadd.of_err hr).trans (hlater t)
  · exact hlater s
  · next hr => exact hadd.of_err hr

theorem releaseWalkers (cmd : Cmd) : SameNext s (releaseWalkers cmd s) := each _ (fun w t => releaseWalker t _ _ w) _ s

theorem letGo (cmd : Cmd) : SameNext s (letGo s cmd) :=
  (of_stopsWork ((StopsWork.freeUnits s cmd.id).trans (.freeSlots _ cmd.heldOn))).trans <|
    (releaseWalkers _ cmd).trans (each (fun o t => t.unpin o) (fun _ _ => rfl) _ _)

theorem retire (cmd : Cmd) : SameNext s (retire s cmd) := by
  unfold Machine.retire
  extract_lets t u v w
  have ht : SameNext s t := (letGo s cmd).trans (headerSignal _ _ _ _)
  clear_value t
  have hu : SameNext t u := ite ((postAll t _ _ _ _).trans (raise _ _ _)) (refl t)
  clear_value u
  have hcharged : SameNext u ((u.charge cmd.ctx cmd.die cmd.charge).sliceEnd cmd.die) :=
    of_stopsWork ((StopsWork.charge u _ _ _).trans (.sliceEnd _ _))
  have hv : SameNext u v := hcharged.trans ((jobDone _ _).trans rfl)
  clear_value v
  exact ht.trans (hu.trans (hv.trans rfl))

theorem retireHeld (cmd : Cmd) : SameNext s (retireHeld s cmd) :=
  trans (b := (s.setQueue cmd.queue ((s.queue cmd.queue).passed cmd.pos)).tally cmd.die _) rfl (retire _ cmd)

theorem decideBranch (cmd : Cmd) (a atDeadline : Bool) : SameNext s (decideBranch s cmd a atDeadline) := by
  unfold Machine.decideBranch
  extract_lets d t u x p skip
  have hu : SameNext s u := trans (b := t) rfl (bump t _ _)
  exact hu.trans (trans (b := u.setQueue cmd.queue _) rfl (retireHeld _ cmd))

/-! ## The test of commands that wait (14 R333; 05 R139; 10 R239) -/

theorem waitHolds (cmd : Cmd) : SameNext s (waitHolds cmd s).state := map (foldRes (fun _ _ t => map (readSync t _ _)) _ _ s)

theorem lineAdd (r ctx va lo n : Nat) : SameNext s (lineAdd r ctx va lo n s).state := map (atomic s _ _ _ _ _ _ _)

theorem stashRun (cmd : Cmd) : SameNext s (stashRun cmd s).state := by
  unfold Machine.stashRun
  extract_lets d ctx va need k me flag
  have hflag : ∀ f t, SameNext t (flag f t).state := fun f t => map (atomic t _ _ _ _ _ _ _)
  refine (readWord s ctx va 64).bind fun h t => iteRes (refl t) ((atomic t _ _ _ _ _ _ _).bind fun w t => ?_)
  extract_lets ncred lvl ret
  refine iteRes (refl t) (bind (iteRes (refl t) (lineAdd t _ _ _ _ _)) fun _ t => ?_)
  refine bind (iteRes (hflag _ t) (refl t)) fun _ t => iteRes (refl t) (iteRes ?_ ?_)
  · exact (lineAdd t _ _ _ _ _).bind fun _ t => (lineAdd t _ _ _ _ _).bind fun _ t => bump t _ _
  · exact (hflag _ t).bind fun _ t => (lineAdd t _ _ _ _ _).bind fun _ t => bump t _ _

theorem branchRun (cmd : Cmd) (final : Bool) : SameNext s (branchRun cmd final s).state := by
  unfold Machine.branchRun
  refine iteRes (map (stashRun s cmd)) (bind ?_ fun v t => iteRes (refl t) (refl t))
  exact iteRes (readSync s _ _) (map (atomic s _ _ _ _ _ _ _))

theorem testCmd (final : Bool) (cmd : Cmd) : SameNext s (testCmd final cmd s) := by
  have hwait := waitHolds s cmd
  have hbranch := branchRun s cmd final
  unfold Machine.testCmd
  refine ite (refl s) (ite ?_ (ite ?_ (refl s)))
  · split
    · next t hr => exact (hwait.of_ok hr).trans (retireHeld t cmd)
    · next hr => exact hwait.of_ok hr
    · exact refl s
    · next hr => exact cmdFault _ _ _ _ (hwait.of_err hr)
  · split
    · next t hr => exact (hbranch.of_ok hr).trans (decideBranch t cmd _ _)
    · next t hr => exact (hbranch.of_ok hr).trans (dropWaits t _ _)
    · next hr => exact cmdFault _ _ _ _ (hbranch.of_err hr)

theorem testRound (p : Cmd → Bool) : SameNext s (testRound p s) := by
  refine trans (b := { s with syncNews := [] }) rfl (each _ (fun x t => ?_) _ _)
  split
  · exact ite (testCmd t false _) (refl t)
  · exact refl t

theorem retestLoop (n : Nat) : SameNext s (retestLoop n s) := by
  induction n generalizing s with
  | zero => exact refl s
  | succ n ih => exact ite (refl s) ((testRound s _).trans (ih _))

theorem retest : SameNext s s.retest := ite (refl s) ((testRound s _).trans (retestLoop _ _))

theorem retestAll : SameNext s s.retestAll := ite (refl s) ((testRound s _).trans (retestLoop _ _))

/-! ## What is read and refused at issue (03 R71, R75; 06 R155; 08 R180, R194, R195; 09 R209, R215, R224 to R226; 11 R250) -/

theorem check (p : Bool) (st : Nat) : SameNext s (Res.check p st s).state := iteRes (refl s) (refl s)

theorem checkRecord (ctx va : Nat) (f : Format) : SameNext s (checkRecord ctx va f s).state := by
  refine iteRes (iteRes (refl s) (refl s)) (iteRes (refl s) ((readWord s ctx va 128).bind fun _ t => ?_))
  exact iteRes (refl t) (iteRes (refl t) (refl t))

theorem record (cmd : Cmd) (va : Nat) (f : Format) : SameNext s (cmd.record va f s).state := by
  unfold Cmd.record
  split
  · exact refl s
  · exact checkRecord s cmd.ctx va f

theorem recordClass (cmd : Cmd) (va : Nat) (f : Format) : SameNext s (cmd.recordClass va f s).state :=
  iteRes (refl s) (iteRes (refl s) ((readWord s cmd.ctx va 128).bind fun _ t => iteRes (refl t) (refl t)))

theorem readTable (ctx va : Nat) : SameNext s (readTable ctx va s).state :=
  iteRes (refl s) <| (readWord s ctx va 64).bind fun _ t => iteRes (refl t) <|
    (readVa t ctx (va + 64) _).bind fun _ u => iteRes (refl u) (refl u)

theorem attnCheck (cmd : Cmd) : SameNext s (attnCheck cmd s).state :=
  iteRes (refl s) ((readTable s cmd.ctx _).bind fun _ t => iteRes (refl t) (refl t))

theorem readState (ctx va : Nat) : SameNext s (readState ctx va s).state :=
  iteRes (refl s) ((readWord s ctx va 256).bind fun _ t => iteRes (refl t) (refl t))

theorem readStreams (ctx va n tok : Nat) (o : StObj) : SameNext s (readStreams ctx va n tok o s).state :=
  (readVa s ctx va (8 * n)).bind fun _ t => iteRes (refl t) (refl t)

theorem recurrentCheck (cmd : Cmd) : SameNext s (recurrentCheck cmd s).state := by
  refine iteRes (iteRes (refl s) ?_) (iteRes (refl s) ?_)
  all_goals exact (readState s cmd.ctx _).bind fun o t => iteRes (refl t) (readStreams t cmd.ctx _ _ _ o)

theorem checkRoot (ctx r : Nat) : SameNext s (checkRoot ctx r s).state :=
  bind (map (iteRes (refl s) (readWord s ctx _ 64))) fun _ t => iteRes (refl t) (refl t)

theorem registerOne (ctx cluster root : Nat) : SameNext s (registerOne ctx cluster root s).state := by
  refine (atomic s _ _ _ _ _ _ _).bind fun r t => (checkRoot t ctx r).bind fun x t => ?_
  extract_lets va
  refine bind (atomic t _ _ _ _ _ _ _) fun old t => (atomic t _ _ _ _ _ _ _).bind fun _ t => iteRes ?_ ?_
  · exact map (map (readWord t ctx va 64))
  · exact bind (atomic t _ _ _ _ _ _ _) fun _ t => ite (bump _ _ _) (refl t)

theorem registerWalkers (id : Nat) : SameNext s (registerWalkers id s).state := by
  unfold Machine.registerWalkers
  split
  · exact refl s
  · next cmd _ =>
    refine iteRes (refl s) (bind (eachRes (fun x t => ?_) _ s) fun _ t => ?_)
    · split
      · exact refl t
      · next c _ =>
        refine iteRes (refl t) (bind (?_ : SameNext t (Res.state _)) fun w u => (writeWord u _ _ _ _).bind fun _ v => ?_)
        · split
          · exact refl t
          · exact (registerOne t _ _ _).bind fun _ _ => rfl
        · change SameNext v (match v.cmd? id with | some c => _ | none => v)
          split
          · rfl
          · exact refl v
    · split
      · exact refl t
      · exact check t _ _

theorem coreIssueCheck (id : Nat) : SameNext s (coreIssueCheck id s).state := by
  unfold Machine.coreIssueCheck
  split
  · exact refl s
  · next cmd _ =>
    refine iteRes (check s _ _) (iteRes (registerWalkers s id) (bind ?_ fun lt t => ?_))
    · exact iteRes (recurrentCheck s cmd) (attnCheck s cmd)
    · exact trans (b := t.setCmd { cmd with lt := lt }) rfl (registerWalkers _ id)

theorem normIssue (cmd : Cmd) : SameNext s (normIssue cmd s).state := iteRes (refl s) (map (readTable s cmd.ctx _))

theorem redIssue (cmd : Cmd) : SameNext s (redIssue cmd s).state := by
  unfold Machine.redIssue
  extract_lets d fn sh adapt hist fs fd comb dst dva nsrc shapeBad w wd
  refine iteRes (refl s) ((readVa s cmd.ctx _ _).bind fun l t => ?_)
  extract_lets es srcs bad2 aux
  refine iteRes (refl t) (iteRes (refl t) (bind (eachRes (fun (x : Nat × Format) u => recordClass u cmd x.1 x.2) _ t) fun _ u => ?_))
  refine bind (foldRes (fun _ (x : Nat × Nat) v => map (record v cmd x.2 fs)) _ _ u) fun sc v => ?_
  exact map (iteRes (iteRes (refl v) (refl v)) (map (record v cmd dst fd)))

theorem optIssue (cmd : Cmd) : SameNext s (optIssue cmd s).state := by
  unfold Machine.optIssue
  refine iteRes (refl s) ?_
  extract_lets d adamw n gf
  refine iteRes (refl s) ((readWord s cmd.ctx _ 128).bind fun b t => ?_)
  extract_lets nc ww wwt named f p rs wf gs ws
  refine iteRes (refl t) ((recordClass t cmd gs gf).bind fun _ t => (recordClass t cmd ws wf).bind fun _ t => ?_)
  have hclass : ∀ (va k : Nat) u, SameNext u (if va = 0 ∨ va % 128 ≠ 0 then Res.ok () u else (u.readRecord cmd.ctx va).bind fun r u =>
      if recordForm r && bits r 165 164 != k then .err (.fatal stShape) u else .ok () u).state := fun va k u =>
    iteRes (refl u) ((readWord u cmd.ctx va 128).bind fun _ v => iteRes (refl v) (refl v))
  refine (hclass gs 2 t).bind fun _ t => (hclass ws 1 t).bind fun _ t => iteRes (refl t) ?_
  exact (record t cmd gs gf).bind fun _ t => map (record t cmd ws wf)

theorem ladleIssue (cmd : Cmd) : SameNext s (ladleIssue cmd s).state := by
  unfold Machine.ladleIssue
  split
  · exact normIssue s cmd
  · exact optIssue s cmd
  · exact redIssue s cmd
  · exact iteRes (refl s) (refl s)
  · exact iteRes (refl s) (refl s)
  · exact refl s

theorem blobCheck (ctx d : Nat) : SameNext s (blobCheck ctx d s).state :=
  iteRes (refl s) <| (readState s ctx _).bind fun o t => (readStreams t ctx _ _ _ o).bind fun _ u => iteRes (refl u) (refl u)

theorem blobExport (ctx d : Nat) (o : StObj) (es : List Nat) : SameNext s (blobExport ctx d o es s).state :=
  bind (foldRes (fun _ _ t => bind (readVa t ctx _ _) fun _ u => map (readVa u ctx _ _)) _ _ s) fun l t =>
    (writeVa t ctx _ l).bind fun _ u => writeVa u ctx _ _

theorem blobImport (ctx d : Nat) (o : StObj) (es : List Nat) : SameNext s (blobImport ctx d o es s).state := by
  unfold Machine.blobImport
  extract_lets cap va n
  refine (readVa s ctx va 128).bind fun hb t => ?_
  extract_lets head len
  refine (readVa t ctx va len).bind fun l u => ?_
  extract_lets st
  refine iteRes (refl u) (map (eachRes (fun x v => ?_) _ u))
  exact (writeVa v ctx _ _).bind fun _ w => writeVa w ctx _ _

theorem flaskWork (cmd : Cmd) : SameNext s (flaskWork cmd s).state := by
  refine iteRes (refl s) ((blobCheck s cmd.ctx _).bind fun x t => iteRes ?_ (blobExport t _ _ _ _))
  exact (blobImport t _ _ _ _).bind fun st u => writeWord u _ _ _ _

/-! ## Issue (14 R326, R330, R335, R340, R343; 05 R139, R140) -/

theorem pinEntry (q p d : Nat) : SameNext s (s.pinEntry q p d) := by rw [SameNext, pinEntry_frame]

theorem grantPlaces (id : Nat) (ks : List Nat) : SameNext s (grantPlaces s id ks) := by
  refine each _ (fun x t => ?_) _ s
  split
  · exact refl t
  · rfl

theorem startBranch (cmd : Cmd) : SameNext s (startBranch s cmd) := testCmd s false cmd

theorem noteIdle (die ctx : Nat) : SameNext s (noteIdle s die ctx) := by rw [SameNext, noteIdle_frame]

/-! ## Candidates and selection (14 R330, R337, R338) -/

theorem readRing (q : Nat) : SameNext s (readRing s q).1 := by
  unfold Machine.readRing
  extract_lets x va waits
  have hread := readVa s x.ctx va 64
  clear_value waits
  split
  · exact refl s
  · split
    · next hr => exact hread.of_ok hr
    · next t hr => exact (hread.of_err hr).trans (fatalOn t _ _ _ _)
    · next hr => exact hread.of_err hr
    · exact refl s

theorem candidate (q : Nat) : SameNext s (candidate s q).1 := by
  unfold Machine.candidate
  extract_lets x
  have hring := readRing s q
  split
  · exact refl s
  · split
    · exact refl s
    · split
      · exact refl s
      · split
        all_goals
          next he =>
          rw [he] at hring
          exact hring

theorem candidates (die : Nat) : SameNext s (candidates s die).1 := by
  unfold Machine.candidates
  generalize (s.queues.filter fun p => p.2.state != 0#2 && homeDie p.2.dieMask == die) = l
  generalize hr : (s, ([] : List (Nat × Cand))) = r
  have hs : SameNext s r.1 := by rw [← hr]; exact refl s
  clear hr
  induction l generalizing r with
  | nil => exact hs
  | cons p l ih =>
    refine ih _ ?_
    have hp := hs.trans (candidate r.1 p.1)
    dsimp only
    split
    all_goals
      next he =>
      rw [he] at hp
      exact hp

theorem survey (die : Nat) : SameNext s (survey s die).1 :=
  (retestAll s).trans <| (candidates _ die).trans <| of_noted ((Noted.markEligible _ _).trans (Noted.preempt _ _))

theorem pickRound (die : Nat) (l : List Nat) : SameNext s (pickRound die l s) := by
  induction l generalizing s with
  | nil => exact refl s
  | cons c l ih =>
    rw [Machine.pickRound]
    exact ite (trans (b := s.setCtx c _) rfl ((bump _ _ 1).trans (ih _))) rfl

theorem pickHolder (die : Nat) (order : List Nat) (n : Nat) : SameNext s (pickHolder die order n s) := by
  induction n generalizing s with
  | zero => exact refl s
  | succ n ih => exact ite (refl s) ((pickRound s die order).trans (ih _))

end SameNext

/-! ## A turn takes at most one number (14 R326, R335) -/

/-- From s to t at most one command number has been taken. -/
def TakesOne (s t : Mach) : Prop := t.nextCmd ≤ s.nextCmd + 1

theorem takesOne_of_same {s t : Mach} (h : SameNext s t) : TakesOne s t := by
  rw [TakesOne, h]
  omega

namespace TakesOne

variable {s t u : Mach}

theorem trans_same (h : TakesOne s t) (hu : SameNext t u) : TakesOne s u := by
  rw [TakesOne, hu]
  exact h

theorem after_same (h : SameNext s t) (hu : TakesOne t u) : TakesOne s u := by
  rw [TakesOne, ← h]
  exact hu

/-- An entry that becomes a command takes one. -/
theorem enterCmd (s : Mach) (q d : Nat) (st : CmdSt) : TakesOne s (enterCmd s q d st).2 := by
  unfold Machine.enterCmd
  extract_lets t x die c x' u v w
  have ht : SameNext s t := .ite (.pinEntry s q _ d) rfl
  have hw : SameNext u w := .ite rfl rfl
  exact after_same ht (trans_same (t := u) (le_refl _) (hw.trans (.bump w _ 1)))

section Checks

variable {id : Nat} {s0 : Mach}

/-- A command whose checks at issue fail takes no further number; one that must wait takes none. -/
theorem issued {r : Res Unit} (h : TakesOne s0 r.state) : ∀ t ∈ issued s0 id r, TakesOne s0 t := by
  intro t ht
  unfold Machine.issued at ht
  split at ht
  · cases ht
    exact h
  · cases ht
  · cases ht
  · split at ht
    · cases ht
    · cases ht
      exact takesOne_of_same (.awaitCredit s0 _ _)
  · next f u _ _ _ =>
    cases ht
    rcases SameNext.cmdFault_or u s0 id 0 0 f with hu | hu
    · exact trans_same h hu
    · exact takesOne_of_same hu

theorem startCore (h : TakesOne s0 s) : ∀ t ∈ startCore s0 s id, TakesOne s0 t :=
  issued (h.trans_same (.coreIssueCheck s id))

theorem startLadle {c : Cmd} (h : TakesOne s0 s) : ∀ t ∈ startLadle s0 s c, TakesOne s0 t :=
  issued (h.trans_same (.bind (.ladleIssue s c) fun _ _ => rfl))

theorem startFlask {c : Cmd} (h : TakesOne s0 s) : ∀ t ∈ startFlask s0 s c, TakesOne s0 t :=
  issued (h.trans_same (.bind (.flaskWork s c) fun _ _ => rfl))

end Checks

/-- The entry at RD_PTR issues, is refused or waits. -/
theorem tryIssue (s : Mach) (q d : Nat) (avoid : List Nat) : ∀ t ∈ tryIssue s q d avoid, TakesOne s t := by
  intro t ht
  unfold Machine.tryIssue at ht
  extract_lets x op die c fault at ht
  have hfault : ∀ st, fault st = some t → TakesOne s t := fun st h => by
    cases h
    exact takesOne_of_same ((SameNext.fatalOn s _ _ st _).trans rfl)
  have henter := enterCmd s q d
  split at ht
  · cases ht
  split at ht
  · exact hfault _ ht
  split at ht
  · split at ht
    · cases ht
    · exact startCore ((henter .running).trans_same (.grantPlaces _ _ _)) t ht
  split at ht
  · exact startLadle (henter .offered) t ht
  split at ht
  · exact startFlask (henter .running) t ht
  split at ht
  · split at ht
    · exact hfault _ ht
    · cases ht
      exact (henter .waiting).trans_same ((SameNext.testCmd _ _ _).trans (.retest _))
  split at ht
  · split at ht
    · exact hfault _ ht
    · cases ht
      refine (henter .complete).trans_same (.trans (.each _ (fun o u => ?_) _ _) ((SameNext.retire _ _).trans (.retest _)))
      exact (SameNext.applySync u _ _ _ _ _).trans (.retest _)
  · split at ht
    · exact hfault _ ht
    · cases ht
    · cases ht
      refine (henter .branching).trans_same (SameNext.trans ?_ ((SameNext.startBranch _ _).trans (.retest _)))
      rfl

theorem skipEntry (s : Mach) (q d : Nat) : ∀ t ∈ skipEntry s q d, SameNext s t := by
  intro t ht
  unfold Machine.skipEntry at ht
  extract_lets x pins u v at ht
  have hu : SameNext s u := .trans (.each (fun o t => t.unpin o) (fun _ _ => rfl) pins s) (.headerSignal _ _ _ _)
  have hv : SameNext u v := .trans (.jobDone u _) rfl
  split at ht
  · cases ht
  · cases ht
    exact hu.trans (hv.trans (.trans rfl (.retest _)))

theorem advance (s : Mach) (q d : Nat) (avoid : List Nat) : ∀ t ∈ advance s q d avoid, TakesOne s t := by
  unfold Machine.advance
  split
  · exact fun t ht => takesOne_of_same (skipEntry s q d t ht)
  · exact tryIssue s q d avoid

/-- A replay is of a command that has its number. -/
theorem tryReplay (s : Mach) (c : Cmd) (avoid : List Nat) : ∀ t ∈ tryReplay s c avoid, TakesOne s t := by
  intro t ht
  unfold Machine.tryReplay at ht
  extract_lets op go at ht
  have hgo : ∀ st, SameNext s (go st s).2 := fun st => .trans rfl (.bump _ _ _)
  split at ht
  · cases ht
  split at ht
  · split at ht
    · cases ht
    · exact startCore (takesOne_of_same ((hgo .running).trans (.grantPlaces _ _ _))) t ht
  split at ht
  · exact startLadle (takesOne_of_same (hgo .offered)) t ht
  split at ht
  · exact startFlask (takesOne_of_same (hgo .running)) t ht
  · cases ht
    exact takesOne_of_same ((hgo .branching).trans ((SameNext.startBranch _ _).trans (.retest _)))

theorem issueCand (s : Mach) (q : Nat) (x : Cand) (avoid : List Nat) : ∀ t ∈ issueCand s q x avoid, TakesOne s t := by
  cases x with
  | replay c => exact tryReplay s c avoid
  | entry d => exact advance s q d avoid

/-- The first that can issues; what those before it did is not kept. -/
theorem issueFirst (s : Mach) (die : Nat) (h : Option Nat) (l : List (Nat × Nat × Cand)) (avoid : List Nat) :
    ∀ t ∈ issueFirst s die h l avoid, TakesOne s t := by
  induction l generalizing avoid with
  | nil => exact fun t ht => nomatch ht
  | cons y l ih =>
    obtain ⟨c, q, x⟩ := y
    have hissue := issueCand s q x avoid
    rw [Machine.issueFirst]
    split
    · next u hu =>
      rintro _ ⟨⟩
      exact hissue u hu
    · exact ih _

theorem selectContext (s : Mach) (die : Nat) : TakesOne s (selectContext s die) := by
  have hsurvey := SameNext.survey s die
  unfold Machine.selectContext
  split
  · exact takesOne_of_same (.refl s)
  split
  next y cs es he =>
  rw [he] at hsurvey
  extract_lets order z h order' todo
  have hz : SameNext s z := hsurvey.trans (.ite (.refl y) (.pickHolder y die order _))
  have hissue : TakesOne z ((Machine.issueFirst z die h todo []).getD z) := by
    cases hf : Machine.issueFirst z die h todo [] with
    | none => exact takesOne_of_same (.refl z)
    | some u => exact issueFirst z die h todo [] u hf
  exact (after_same hz hissue).trans_same (.each _ (fun c u => .noteIdle u die c) _ _)

end TakesOne

end Sys2Proof.Proofs
end

section
/-! SUPPORT. The statement on the dispatchers' choice (14 R337 to R339; 08 R205). -/

namespace Sys2Proof.Proofs

open Sys2Proof.Machine Sys2Proof.Laws Sys2Proof.Safety

/-! ## One context ready (14 R338) -/

/-- The machine once a context with REMAIN above 0 has the slice of a die. -/
def sliceGiven (s : Mach) (die c : Nat) : Mach :=
  (s.setCtx c ((s.ctx c).setRemain die ((s.ctx c).remainAt die))).setSched die { s.sched die with holder := some c }

section Only

variable {s y : Mach} {die q c : Nat} {x : Cand}

theorem pickRound_of_remain (h : 0 < (y.ctx c).remainAt die) (l : List Nat) : pickRound die (c :: l) y = sliceGiven y die c := by
  rw [pickRound]
  dsimp only
  rw [if_neg (by omega), if_neg (by omega)]
  rfl

theorem holder_sliceGiven : ((sliceGiven y die c).sched die).holder = some c := by
  rw [sliceGiven, sched_setSched, if_pos rfl]

theorem pickHolder_of_holder (h : (y.sched die).holder.isSome = true) (order : List Nat) (n : Nat) : pickHolder die order n y = y := by
  cases n with
  | zero => rfl
  | succ n => exact if_pos h

/-- The first in order, with REMAIN above 0, takes the slice that no context holds. -/
theorem pickHolder_of_remain (hnone : (y.sched die).holder = none) (hremain : 0 < (y.ctx c).remainAt die)
    (hticks : 0 < y.sliceTicks die) (l : List Nat) :
    pickHolder die (c :: l) (pickFuel y die (c :: l)) y = sliceGiven y die c := by
  rw [pickFuel, if_neg (by omega), pickHolder, if_neg (by simp [hnone]), pickRound_of_remain hremain]
  exact pickHolder_of_holder (by rw [holder_sliceGiven]; rfl) _ _

theorem sliceGiven_frame : sliceGiven y die c = { y with ctxs := (sliceGiven y die c).ctxs, scheds := (sliceGiven y die c).scheds } := rfl

theorem ctx_sliceGiven (k : Nat) :
    (sliceGiven y die c).ctx k = { y.ctx k with remain := ((sliceGiven y die c).ctx k).remain } := by
  rw [sliceGiven, ctx_setSched, ctx_setCtx]
  split
  · next hk => rw [hk]; rfl
  · rfl

theorem sched_sliceGiven_other {e : Nat} (he : e ≠ die) : (sliceGiven y die c).sched e = y.sched e := by
  rw [sliceGiven, sched_setSched, if_neg he, sched_setCtx]

/-- The turn of a dispatcher with one context ready, one queue's entry of it. -/
theorem selectContext_of_only (hissues : s.issues = true) (hsurvey : survey s die = (y, [(q, x)], [c])) (hctx : (y.queue q).ctx = c)
    (hnone : (y.sched die).holder = none) (hremain : 0 < (y.ctx c).remainAt die) (hticks : 0 < y.sliceTicks die) :
    selectContext s die = noteIdle ((issueCand (sliceGiven y die c) q x []).getD (sliceGiven y die c)) die c := by
  have hpick := pickHolder_of_remain hnone hremain hticks []
  have hfirst : holderFirst (sliceGiven y die c) c [c] = [c] := by simp [holderFirst]
  have hqueue : ((sliceGiven y die c).queue q).ctx = c := hctx
  unfold selectContext
  rw [if_neg (by simp [hissues]), hsurvey]
  dsimp only
  rw [show selectOrder y die [c] = [c] from rfl, if_neg (by simp), hpick, holder_sliceGiven]
  dsimp only
  rw [if_pos (by simp), hfirst]
  have htodo : ([(q, x)].filter fun p => ((sliceGiven y die c).queue p.1).ctx == c) = [(q, x)] := by simp [hqueue]
  rw [List.flatMap_singleton, htodo, List.map_singleton, issueFirst]
  cases issueCand (sliceGiven y die c) q x [] <;> rfl

end Only

/-! ## Queues considered, urgent contexts (14 R337, R339) -/

section Urgent

variable {s m : Mach} {die : Nat} {cs : List (Nat × Cand)}

theorem mem_candCtxs {k : Nat} : k ∈ candCtxs m cs ↔ ∃ p ∈ cs, (m.queue p.1).ctx = k := by
  rw [candCtxs, List.mem_eraseDups, List.mem_map]

theorem urgentPreempt_eq (hissues : s.issues = true) (hcand : candidates s.retestAll die = (m, cs)) :
    urgentPreempt s die = noteEligible m die (candCtxs m cs) := by
  rw [urgentPreempt, if_neg (by simp [hissues]), survey, hcand]

variable {es : List Nat}

theorem noted_noteEligible : Noted die m (noteEligible m die es) := (Noted.markEligible m es).trans (.preempt _ _)

theorem eligible_noteEligible {k : Nat} (hk : k ∈ es) : ((noteEligible m die es).ctx k).eligibleAt die = true := by
  rw [noteEligible, ctx_preempt]
  exact eligible_markEligible m hk

/-- Marking eligibility is of contexts alone. -/
theorem markEligible_frame : markEligible m die es = { m with ctxs := (markEligible m die es).ctxs } := by
  refine rel_each (fun a b => b = { a with ctxs := b.ctxs }) (fun a b c h h' => ?_) (fun _ => rfl) _ (fun c t => ?_) es _
  · rw [h] at h'
    exact h'
  · dsimp only
    split <;> rfl

theorem priority_markEligible (k : Nat) : ((markEligible m die es).ctx k).priority = (m.ctx k).priority := by
  rw [(Noted.markEligible m es).ctx k]

/-- An urgent context that becomes eligible ends an ordinary one's slice, which is counted. -/
theorem noteEligible_of_urgent {h : Nat} (hholder : (m.sched die).holder = some h) (hordinary : (m.ctx h).priority = false)
    (hurgent : ∃ c ∈ es, (m.ctx c).priority = true ∧ (m.ctx c).eligibleAt die = false) :
    ((noteEligible m die es).sched die).holder = none ∧
      (noteEligible m die es).reg (schReg die 0x14) = satAdd (m.reg (schReg die 0x14)) 1 := by
  obtain ⟨c, hc, hprio, hnew⟩ := hurgent
  have hany : (es.filter fun k => !(m.ctx k).eligibleAt die).any (fun k => ((markEligible m die es).ctx k).priority) = true := by
    rw [List.any_eq_true]
    exact ⟨c, List.mem_filter.2 ⟨hc, by simp [hnew]⟩, by rw [priority_markEligible, hprio]⟩
  have hsched : ∀ j, (markEligible m die es).sched j = m.sched j := fun j => by rw [markEligible_frame]; rfl
  have hreg : ∀ j, (markEligible m die es).reg j = m.reg j := fun j => by rw [markEligible_frame]; rfl
  rw [noteEligible, preempt, hsched, hholder]
  dsimp only
  rw [if_pos (by rw [priority_markEligible, hordinary, hany]; rfl), sched_bump, sched_setSched, if_pos rfl, reg_bump, if_pos rfl,
    reg_setSched, hreg]
  exact ⟨rfl, rfl⟩

/-- Where every urgent context was eligible, no slice ends. -/
theorem noteEligible_of_none (h : ∀ c ∈ es, (m.ctx c).priority = true → (m.ctx c).eligibleAt die = true) :
    noteEligible m die es = markEligible m die es := by
  have hany : (es.filter fun k => !(m.ctx k).eligibleAt die).any (fun k => ((markEligible m die es).ctx k).priority) = false := by
    rw [List.any_eq_false]
    intro c hc hprio
    obtain ⟨hc, hnew⟩ := List.mem_filter.1 hc
    rw [priority_markEligible] at hprio
    simp [h c hc hprio] at hnew
  rw [noteEligible, preempt]
  split
  · rw [if_neg (by simp [hany])]
  · rfl

end Urgent

/-! ## Deferred frees (08 R205; 14 R336) -/

/-- The command that a deferred free becomes: a FREE_LIST of the list's context, on die 0. -/
def freeCmd (s : Mach) (p va : Nat) : Cmd :=
  { id := s.nextCmd, ctx := (s.pool p).ctx, queue := noQueue, pos := 0, die := 0, desc := dSet (p <<< 128) 10 false, st := .check,
    free := some (p, va) }

/-- The machine once a command that a deferred free becomes is delivered; l is still deferred. -/
def freeDelivered (s : Mach) (l : List (Nat × Nat)) (c : Cmd) : Mach :=
  { s with deferred := l, nextCmd := s.nextCmd + 1, cmds := s.cmds ++ [c] }

section Free

variable {s : Mach} {p va : Nat} {l : List (Nat × Nat)}

theorem deferredFree_eq (hdue : s.deferred = (p, va) :: l) (hissues : s.issues = true) :
    deferredFree s = takeNext (freeDelivered s l (freeCmd s p va)) true := by
  unfold deferredFree
  rw [hdue]
  dsimp only
  rw [if_neg (by simp [hissues])]
  rfl

theorem deferredFree_eq_self (h : s.deferred = [] ∨ s.issues = false) : deferredFree s = s := by
  unfold deferredFree
  split
  · rfl
  · next hdue =>
    rcases h with h | h
    · rw [h] at hdue
      cases hdue
    · exact if_pos (by simp [h])

/-- Behind a page command past its check it waits. -/
theorem deferredFree_of_head {h : Cmd} (hdue : s.deferred = (p, va) :: l) (hissues : s.issues = true)
    (hhead : classHead s true = some h) (hst : h.st ≠ .check) : deferredFree s = freeDelivered s l (freeCmd s p va) := by
  have hhead' : classHead (freeDelivered s l (freeCmd s p va)) true = some h :=
    classHead_of_later (p := fun _ => true) (r := [freeCmd s p va]) hhead (by simp [freeDelivered]) (fun _ => rfl) rfl
  rw [deferredFree_eq hdue hissues]
  refine takeNext_eq_self fun c hc => ?_
  rw [hhead'] at hc
  cases hc
  exact hst

theorem atUnits_freeCmd (hruns : s.runs (freeCmd s p va).ctx = true) : atUnits s true (freeCmd s p va) = true := by
  have hop : dOp (freeCmd s p va).desc = 10 := dOp_dSet _ false (by decide)
  rw [atUnits, hop, hruns]
  rfl

/-- With the page class free it takes its check phase. -/
theorem deferredFree_of_free {b z : Cmd} {y : Mach} (hdue : s.deferred = (p, va) :: l) (hissues : s.issues = true)
    (hhead : classHead s true = none) (hruns : s.runs (freeCmd s p va).ctx = true) (hfresh : NumbersFresh s)
    (hb : b = (freeCmd s p va).begin (s.reg (memReg 0)).toNat)
    (hcheck : ladleCheck b { freeDelivered s l b with leafUse := .check [] } = .ok z y) :
    deferredFree s = (({ y with leafUse := .walk } : Mach).setCmd { z with st := .checked, leaves := y.leafUse.noted }).dropWaits z.id
      fun h => h.no == 1 := by
  have hid : (freeCmd s p va).id = b.id := by rw [hb]; rfl
  have hids : ∀ x ∈ s.cmds, x.id ≠ b.id := fun x hx => hid ▸ (hfresh x hx).ne
  have hnone : ∀ x ∈ s.cmds, atUnits s true x = false := fun x hx =>
    Bool.eq_false_iff.2 (List.find?_eq_none.1 (classHead_eq s true ▸ hhead) x hx)
  have hhead' : classHead (freeDelivered s l (freeCmd s p va)) true = some (freeCmd s p va) :=
    classHead_append rfl (fun _ => rfl) hnone (atUnits_freeCmd hruns)
  have hset : (freeDelivered s l (freeCmd s p va)).setCmd b = freeDelivered s l b := setCmd_append rfl hids hid
  have hz : z.id = (freeCmd s p va).id := (Names.ladleCheck _ _ _ _ hcheck).trans hid.symm
  rw [deferredFree_eq hdue hissues, takeNext_of_check (s := freeDelivered s l (freeCmd s p va)) hissues hhead' rfl hb hset hcheck, hz]

end Free

/-! ## The statement -/

/-- Settles O34: a turn takes at most one number, since a command enters by `enterCmd` alone (`TakesOne.selectContext`); the only
context ready takes the slice and its entry issues (`selectContext_of_only`); what URGENT_PREEMPT does is `noteEligible`, by whether an
urgent context becomes eligible; a deferred free joins the page class as its last command. -/
theorem dispatchersChoose : Obligations.DispatchersChoose := by
  refine ⟨fun s d => ?_, ?_, fun s d hstopped => ?_, ?_, ?_, fun s h => ?_⟩
  · refine ⟨_, rfl, TakesOne.selectContext s.m d.toNat, fun hstopped => ?_⟩
    rw [selectContext, if_pos (by simp [hstopped])]
  · intro s d y q c x hissues hsurvey hctx hnone hremain hticks
    refine ⟨_, sliceGiven y d.toNat c, rfl, ?_, holder_sliceGiven, sliceGiven_frame, ctx_sliceGiven, fun e he => ?_⟩
    · rw [selectContext_of_only hissues hsurvey hctx hnone hremain hticks]
    · exact sched_sliceGiven_other he
  · change Host.Outcome.next { s with m := urgentPreempt s.m d.toNat } = _
    rw [urgentPreempt, if_pos (by simp [hstopped])]
  · intro s d m cs hissues hcand
    have heq := urgentPreempt_eq hissues hcand
    refine ⟨_, rfl, fun p hp => ?_, fun h hholder hordinary ⟨p, hp, hurgent⟩ => ?_, fun hnone => ?_, ?_⟩
    all_goals dsimp only
    all_goals rw [heq]
    · exact eligible_noteEligible (mem_candCtxs.2 ⟨p, hp, rfl⟩)
    · exact noteEligible_of_urgent hholder hordinary ⟨_, mem_candCtxs.2 ⟨p, hp, rfl⟩, hurgent⟩
    · have hall : ∀ c ∈ candCtxs m cs, (m.ctx c).priority = true → (m.ctx c).eligibleAt d.toNat = true := fun c hc => by
        obtain ⟨p, hp, rfl⟩ := mem_candCtxs.1 hc
        exact hnone p hp
      rw [noteEligible_of_none hall, markEligible_frame]
      exact ⟨rfl, rfl⟩
    · rw [← noted_noteEligible.frame]
  · rintro s p va l c z y hdue hissues rfl
    refine ⟨fun h hhead hst => ?_, fun b hhead hruns hfresh hb hcheck => ?_⟩
    · exact congrArg (fun m => Host.Outcome.next { s with m := m }) (deferredFree_of_head hdue hissues hhead hst)
    · exact congrArg (fun m => Host.Outcome.next { s with m := m })
        (deferredFree_of_free hdue hissues hhead hruns hfresh hb hcheck)
  · exact congrArg (fun m => Host.Outcome.next { s with m := m }) (deferredFree_eq_self h)

end Sys2Proof.Proofs
end

section
/-! SUPPORT. The phases of recurrent commands and the retirement of commands (09 R213, R214, R218; 14 R324, R332, R336; 17 R412). -/

namespace Sys2Proof.Proofs

open Sys2Proof.Machine Sys2Proof.Laws Sys2Proof.Safety

/-! ## The phases (R213, R214, R218) -/

section Phases

variable {s y z : Mach} {id : Nat} {cmd : Cmd} {x : Slot} (hcmd : s.cmd? id = some cmd) (hslots : cmd.slots = [x])
  (hst : cmd.st = .running)
include hcmd hslots hst

/-- A GATED_STEP that has joined all the cores it can fixes them and loads the state. -/
theorem gatedLoad_of_joined (hop : dOp cmd.desc = 6) (hloaded : cmd.loaded = false) (hplanned : cmd.planned = true)
    (hjoined : min (dCores cmd.desc) ((List.range 16).filter fun c => !(s.core (16 * x.cluster + c)).fenced).length ≤ x.cores.length)
    (hload : stateLoad cmd x.cluster (s.setCmd { cmd with loaded := true, fixed := (List.range 512).filter fun c => x.cores.contains c })
      = .ok () y) :
    gatedLoad s id = y.dropWaits id fun w => w.is (512 + x.cluster) 32 := by
  have hopen := not_lt.2 hjoined
  rw [hslots] at hload
  unfold gatedLoad
  rw [hcmd]
  dsimp only
  rw [hslots]
  dsimp only
  rw [if_neg (by simp only [hop, hst, hloaded, hplanned, hopen]; decide), hload]
  rfl

/-- After the last barrier of a step the cell phase runs, and the next step begins or the state is stored. -/
theorem cellPhase_of_barriers (hop : dOp cmd.desc = 6) (hloaded : cmd.loaded = true) (hstep : cmd.step < gSteps cmd.desc)
    (hbarriers : allBarriers s cmd = true) (hcell : cellStep cmd x.cluster cmd.step s = .ok () y)
    (hnext : (if cmd.step + 1 < gSteps cmd.desc then
        startPhases { cmd with step := cmd.step + 1, slots := [{ x with barriers := gPro cmd.desc }] } (cmd.fixed.headD 0)
          (((y.bump (clReg x.cluster 0x2C) 1).phases (cmd.fixed.headD 0)).drop (gPro cmd.desc))
          ((freshPhase (y.bump (clReg x.cluster 0x2C) 1) id).setCmd
            { cmd with step := cmd.step + 1, slots := [{ x with barriers := gPro cmd.desc }] })
      else stateStore cmd x.cluster ((y.bump (clReg x.cluster 0x2C) 1).setCmd { cmd with step := cmd.step + 1 })) = .ok () z) :
    cellPhase s id = z.dropWaits id fun w => w.is (512 + x.cluster) 33 := by
  rw [hslots] at hnext
  unfold cellPhase
  rw [hcmd]
  dsimp only
  rw [hslots]
  dsimp only
  rw [if_neg (by simp [hop, hst, hloaded, hstep, hbarriers]), hcell, Res.bind, hnext]
  rfl

/-- After the last barrier of a SCAN_CHUNK every stream is scanned, and the scan is noted as done. -/
theorem scanPhase_of_barriers {o : StObj} (hop : dOp cmd.desc = 7) (hstep : cmd.step = 0) (hbarriers : allBarriers s cmd = true)
    (hread : readState cmd.ctx (bits cmd.desc 239 192) s = .ok o y)
    (hscan : eachRes (fun (p : Nat × Nat) m => scanStream cmd x.cluster o p.1 p.2 m) cmd.lt.zipIdx y = .ok () z) :
    scanPhase s id = (z.setCmd { cmd with step := 1 }).dropWaits id fun w => w.is (512 + x.cluster) 34 := by
  unfold scanPhase
  rw [hcmd]
  dsimp only
  rw [hslots]
  dsimp only
  rw [if_neg (by simp [hop, hst, hstep, hbarriers]), hread, Res.bind, hscan]
  rfl

end Phases

/-- What is found under the number of a command just written is that command. -/
theorem eq_of_cmd?_setCmd {s : Mach} {c d : Cmd} (h : (s.setCmd c).cmd? c.id = some d) : d = c := by
  obtain ⟨x, -, hx⟩ := List.mem_map.1 (mem_cmds_of_cmd? h)
  split at hx
  · exact hx.symm
  · next hne => exact absurd (hx ▸ cmd?_id h) (by simpa using hne)

/-! ## What a command held comes free (05 R132; 09 R221) -/

/-- From a to b units, transaction slots of ladle units and pins have come free. No atomic unit's credits have moved. -/
structure Released (a b : Mach) : Prop where
  frame : b = { a with clusters := b.clusters, cores := b.cores, engines := b.engines, slices := b.slices, objs := b.objs }
  admits : ∀ g r frozen, (b.slice g).admits r frozen = (a.slice g).admits r frozen

namespace Released

variable {a b c : Mach}

theorem refl (s : Mach) : Released s s := ⟨rfl, fun _ _ _ => rfl⟩

theorem trans (h : Released a b) (h' : Released b c) : Released a c where
  frame := by
    have hb := h.frame
    have hc := h'.frame
    rw [hb] at hc
    exact hc
  admits g r frozen := (h'.admits g r frozen).trans (h.admits g r frozen)

/-- Where the slices stand, so do their credits. -/
theorem of_frame (h : b = { a with clusters := b.clusters, cores := b.cores, engines := b.engines, objs := b.objs }) : Released a b := by
  have hslices : b.slices = a.slices := by rw [h]
  refine ⟨?_, fun g _ _ => ?_⟩
  · rw [hslices]
    exact h
  · rw [Mach.slice, hslices]
    rfl

theorem freeSlots (s : Mach) (l : List HeldWait) : Released s (s.freeSlots l) := by
  refine rel_each Released (fun _ _ _ => trans) refl _ (fun w t => ?_) l s
  split
  · exact refl t
  · refine ⟨rfl, fun g r frozen => ?_⟩
    rw [slice_setSlice]
    split
    · next hg => rw [hg]; rfl
    · rfl

/-- A command that no walker is registered for. -/
theorem letGo (s : Mach) {cmd : Cmd} (hwalkers : cmd.walkers = []) : Released s (letGo s cmd) := by
  unfold Machine.letGo releaseWalkers
  rw [hwalkers]
  have hunits : Released s (s.freeUnits cmd.id) := of_frame rfl
  exact (hunits.trans (freeSlots _ _)).trans (rel_each Released (fun _ _ _ => trans) refl _ (fun _ _ => of_frame rfl) _ _)

end Released

/-! ## Operations on synchronisation objects (06 R164; 14 R332) -/

/-- From a to b a request has passed to a line through its shared cache, and waits or credits of its atomic unit have moved. -/
def Lined (a b : Mach) : Prop :=
  b = { a with cache := b.cache, under := b.under, slag := b.slag, objs := b.objs, regs := b.regs, cores := b.cores,
               recordsDue := b.recordsDue, slices := b.slices }

theorem Lined.onSyncLine (s : Mach) (r obj : Nat) (wr atom : Bool) : Lined s (s.onSyncLine r obj wr atom).state := by
  have htouch : Lined s (s.touchLine (syncPa obj) wr .none) := by
    unfold Lined
    rw [Cached.touchLine s (syncPa obj) wr .none]
  unfold Mach.onSyncLine
  extract_lets pa g
  split
  · rfl
  · split
    · exact htouch
    · split
      · rfl
      · split
        · rfl
        · unfold Lined at htouch ⊢
          rw [Res.state, bump_frame, htouch]
          rfl

/-- Whether an operation of requester r on an object is done at once: it is one, no freeze and no earlier one of r on the object keeps
it back, and its line is reached. -/
def SyncGoes (s : Mach) (r obj op : Nat) : Prop :=
  op ≠ 0 ∧ (s.frozen || s.syncDue.any fun x => x.unit == r && x.obj == obj) = false ∧ s.heldAt (syncPa obj) = none ∧
    (op = 3 ∨ ((s.slice (s.sliceOf (syncPa obj))).admits r s.frozen = true ∧ s.isSlag (syncPa obj) = false))

theorem onSyncLine_ok_iff (s : Mach) (r obj : Nat) (wr atom : Bool) : (∃ t, s.onSyncLine r obj wr atom = .ok () t) ↔
    s.heldAt (syncPa obj) = none ∧
      (atom = false ∨ ((s.slice (s.sliceOf (syncPa obj))).admits r s.frozen = true ∧ s.isSlag (syncPa obj) = false)) := by
  unfold Mach.onSyncLine
  dsimp only
  split
  · next hheld => simp [hheld]
  · next hheld =>
    cases atom with
    | false => simp [hheld]
    | true =>
      cases hadmits : (s.slice (s.sliceOf (syncPa obj))).admits r s.frozen with
      | false => simp
      | true => cases hslag : s.isSlag (syncPa obj) with | _ => simp [hheld]

/-- What an operation makes of the objects depends on them alone. -/
theorem sync_doSync_congr {s t : Mach} (h : t.syncs = s.syncs) (obj op val ctx o : Nat) :
    (t.doSync obj op val ctx).sync o = (s.doSync obj op val ctx).sync o := by
  have hsync : ∀ n, t.sync n = s.sync n := fun n => by rw [Mach.sync, h]; rfl
  unfold Mach.doSync
  extract_lets t' x cx v cx' s' y cy
  have hx : x = y := hsync obj
  have hother : t'.sync o = s'.sync o := hsync o
  clear_value x y
  subst hx
  split
  · exact hother
  · rw [sync_setSync, sync_setSync, hother]

/-- From a to b synchronisation objects have been operated on, or an operation has been kept or has faulted. -/
structure Signalled (a b : Mach) : Prop where
  frame : b = { a with
    cache := b.cache, under := b.under, slag := b.slag, objs := b.objs, regs := b.regs, cores := b.cores,
    recordsDue := b.recordsDue, slices := b.slices, syncs := b.syncs, syncDue := b.syncDue, syncNews := b.syncNews,
    appliedTotal := b.appliedTotal, sent := b.sent, ctxs := b.ctxs }
  retired : ∀ k, (b.ctx k).retired = (a.ctx k).retired

namespace Signalled

variable {a b c : Mach}

theorem trans (h : Signalled a b) (h' : Signalled b c) : Signalled a c where
  frame := by
    have hb := h.frame
    have hc := h'.frame
    rw [hb] at hc
    exact hc
  retired k := (h'.retired k).trans (h.retired k)

/-- Where the contexts stand, so do their counts. -/
theorem of_frame (h : b = { a with
    cache := b.cache, under := b.under, slag := b.slag, objs := b.objs, regs := b.regs, cores := b.cores,
    recordsDue := b.recordsDue, slices := b.slices, syncs := b.syncs, syncDue := b.syncDue, syncNews := b.syncNews,
    appliedTotal := b.appliedTotal, sent := b.sent }) : Signalled a b := by
  have hctxs : b.ctxs = a.ctxs := by rw [h]
  refine ⟨?_, fun k => ?_⟩
  · rw [hctxs]
    exact h
  · rw [Mach.ctx, hctxs]
    rfl

theorem of_lined (h : Lined a b) : Signalled a b := of_frame (by rw [h])

variable (s : Mach)

theorem awaitCredit (r g : Nat) : Signalled s (s.awaitCredit r g) := of_frame (by rw [awaitCredit_frame])

theorem raise (d n : Nat) : Signalled s (s.raise d n) := of_frame (by rw [raise_frame])

theorem setCtx (n : Nat) (x : CtxSt) (hx : x.retired = (s.ctx n).retired) : Signalled s (s.setCtx n x) := by
  refine ⟨rfl, fun k => ?_⟩
  rw [ctx_setCtx]
  split
  · next hk => rw [hx, hk]
  · rfl

theorem doSync (obj op val ctx : Nat) : Signalled s (s.doSync obj op val ctx) := by
  unfold Mach.doSync
  extract_lets t x
  split
  · exact of_frame rfl
  · exact of_frame rfl

end Signalled

/-- An operation is done on an object of the machine as its line leaves it, or it leaves the objects. -/
theorem applySync_cases (s : Mach) (r obj op val ctx : Nat) :
    (SyncGoes s r obj op ∧ ∃ t, Lined s t ∧ s.applySync r obj op val ctx = t.doSync obj op val ctx) ∨
    (¬ SyncGoes s r obj op ∧ Signalled s (s.applySync r obj op val ctx) ∧ (s.applySync r obj op val ctx).syncs = s.syncs) := by
  have hline : SyncGoes s r obj op → ∃ t, s.onSyncLine r obj true (op != 3) = .ok () t := fun ⟨_, _, hheld, h⟩ =>
    (onSyncLine_ok_iff s r obj true (op != 3)).2 ⟨hheld, by simpa using h⟩
  have hlined := Lined.onSyncLine s r obj true (op != 3)
  unfold Mach.applySync
  extract_lets keep
  have hkeep : ∀ t, Signalled t (keep t) := fun _ => .of_frame rfl
  split
  · next hop => exact Or.inr ⟨fun h => h.1 hop, .of_frame rfl, rfl⟩
  · next hop =>
    split
    · next hnow => exact Or.inr ⟨fun ⟨_, h, _⟩ => by simp [h] at hnow, hkeep s, rfl⟩
    · next hnow =>
      cases hres : s.onSyncLine r obj true (op != 3) with
      | ok a t =>
        obtain ⟨hheld, h⟩ := (onSyncLine_ok_iff s r obj true (op != 3)).1 ⟨t, hres⟩
        rw [hres] at hlined
        exact Or.inl ⟨⟨hop, by simpa using hnow, hheld, by simpa using h⟩, t, hlined, rfl⟩
      | err f t =>
        rw [hres] at hlined hline
        have hnot : ¬ SyncGoes s r obj op := fun h => by
          obtain ⟨u, hu⟩ := hline h
          cases hu
        have ht : Signalled s t := .of_lined hlined
        have hsyncs : t.syncs = s.syncs := by rw [show Lined s t from hlined]
        refine Or.inr ⟨hnot, ?_⟩
        cases f with
        | credit r' g => exact ⟨(ht.trans (.awaitCredit t r' g)).trans (hkeep _), by
            change (t.awaitCredit r' g).syncs = _
            rw [awaitCredit_frame, hsyncs]⟩
        | held pc => exact ⟨ht.trans (hkeep t), hsyncs⟩
        | _ =>
          dsimp only
          split
          · refine ⟨(ht.trans ?_).trans (.raise _ _ _), ?_⟩
            · exact .setCtx t ctx _ rfl
            · rw [raise_frame]
              exact hsyncs
          · exact ⟨ht, hsyncs⟩

theorem Signalled.applySync (s : Mach) (r obj op val ctx : Nat) : Signalled s (s.applySync r obj op val ctx) := by
  obtain ⟨-, t, ht, heq⟩ | ⟨-, h, -⟩ := applySync_cases s r obj op val ctx
  · exact heq ▸ (of_lined ht).trans (doSync t obj op val ctx)
  · exact h

/-- Units, slots and pins that come free change nothing of whether an operation is done. -/
theorem Released.syncGoes {a b : Mach} (h : Released a b) (r obj op : Nat) : SyncGoes b r obj op ↔ SyncGoes a r obj op := by
  have hplace : b.sliceOf (syncPa obj) = a.sliceOf (syncPa obj) := by rw [h.frame]; rfl
  have hfrozen : b.frozen = a.frozen := by rw [h.frame]
  have hdue : b.syncDue = a.syncDue := by rw [h.frame]
  have hheld : b.heldAt (syncPa obj) = a.heldAt (syncPa obj) := by rw [h.frame]; rfl
  have hslag : b.isSlag (syncPa obj) = a.isSlag (syncPa obj) := by rw [h.frame]; rfl
  unfold SyncGoes
  rw [hplace, h.admits, hfrozen, hdue, hheld, hslag]

theorem Released.sync_applySync {a b : Mach} (h : Released a b) (r obj op val ctx o : Nat) :
    (b.applySync r obj op val ctx).sync o = (a.applySync r obj op val ctx).sync o := by
  have hsyncs : b.syncs = a.syncs := by rw [h.frame]
  have hgoes := h.syncGoes r obj op
  obtain ⟨hb, t, ht, hbeq⟩ | ⟨hb, -, hbeq⟩ := applySync_cases b r obj op val ctx
  all_goals obtain ⟨ha, u, hu, haeq⟩ | ⟨ha, -, haeq⟩ := applySync_cases a r obj op val ctx
  · have htu : t.syncs = u.syncs := by rw [ht, hu, hsyncs]
    rw [hbeq, haeq, sync_doSync_congr htu]
  · exact absurd (hgoes.1 hb) ha
  · exact absurd (hgoes.2 ha) hb
  · rw [Mach.sync, hbeq, hsyncs, ← haeq]
    rfl

/-! ## Retirement (14 R324, R332, R336; 15 R367) -/

/-- From a to b a command has been charged and reported, and its job has gone on: of contexts and dispatchers the counts of what has
retired stand. -/
structure Reported (a b : Mach) : Prop where
  frame : b = { a with
    regs := b.regs, ctxs := b.ctxs, scheds := b.scheds, chargedTotal := b.chargedTotal, sessions := b.sessions, out := b.out,
    txHeld := b.txHeld, jobs := b.jobs }
  ofCtx : ∀ k, (b.ctx k).retired = (a.ctx k).retired
  ofSched : ∀ k, (b.sched k).retired = (a.sched k).retired

namespace Reported

variable {a b c : Mach}

theorem trans (h : Reported a b) (h' : Reported b c) : Reported a c where
  frame := by
    have hb := h.frame
    have hc := h'.frame
    rw [hb] at hc
    exact hc
  ofCtx k := (h'.ofCtx k).trans (h.ofCtx k)
  ofSched k := (h'.ofSched k).trans (h.ofSched k)

/-- Where contexts and dispatchers stand, so do their counts. -/
theorem of_frame (h : b = { a with
    regs := b.regs, chargedTotal := b.chargedTotal, sessions := b.sessions, out := b.out, txHeld := b.txHeld, jobs := b.jobs }) :
    Reported a b := by
  have hctxs : b.ctxs = a.ctxs := by rw [h]
  have hscheds : b.scheds = a.scheds := by rw [h]
  refine ⟨?_, fun k => ?_, fun k => ?_⟩
  · rw [hctxs, hscheds]
    exact h
  · rw [Mach.ctx, hctxs]
    rfl
  · rw [Mach.sched, hscheds]
    rfl

theorem refl (s : Mach) : Reported s s := of_frame rfl

variable (s : Mach)

theorem setCtx (n : Nat) (x : CtxSt) (hx : x.retired = (s.ctx n).retired) : Reported s (s.setCtx n x) := by
  refine ⟨rfl, fun k => ?_, fun _ => rfl⟩
  rw [ctx_setCtx]
  split
  · next hk => rw [hx, hk]
  · rfl

theorem setSched (n : Nat) (x : SchedSt) (hx : x.retired = (s.sched n).retired) : Reported s (s.setSched n x) := by
  refine ⟨rfl, fun _ => rfl, fun k => ?_⟩
  rw [sched_setSched]
  split
  · next hk => rw [hx, hk]
  · rfl

theorem postEvent (k opcode status body : Nat) (final : Bool) : Reported s (s.postEvent k opcode status body final) := by
  unfold Mach.postEvent
  extract_lets x n t
  split
  · exact refl s
  · split
    · exact of_frame rfl
    · refine trans (b := t) (of_frame rfl) (of_frame ?_)
      rw [sendOn_frame]

theorem postAll (ks : List Nat) (opcode status body : Nat) : Reported s (s.postAll ks opcode status body) :=
  rel_each Reported (fun _ _ _ => trans) refl _ (fun k t => postEvent t k _ _ _ _) _ s

theorem raise (d n : Nat) : Reported s (s.raise d n) := of_frame (by rw [raise_frame])

theorem charge (ctx die t : Nat) : Reported s (s.charge ctx die t) := by
  unfold Mach.charge
  extract_lets x stride y
  split
  · exact refl s
  · exact trans (b := { s with chargedTotal := s.chargedTotal + t }) (of_frame rfl) (setCtx _ _ _ rfl)

theorem sliceEnd (die : Nat) : Reported s (s.sliceEnd die) := by
  unfold Mach.sliceEnd
  extract_lets d
  split
  · exact refl s
  · split
    · exact setSched s _ _ rfl
    · exact refl s

theorem jobDone (j : Option Nat) : Reported s (s.jobDone j) := by
  cases j with
  | none => exact refl s
  | some n => exact of_frame rfl

theorem logCmd (cmd : Cmd) (status : Nat) : Reported s (s.logCmd cmd status) := setCtx s _ _ rfl

end Reported

/-- The machine once a command is counted and gone. -/
def countedOut (s : Mach) (c : Cmd) : Mach :=
  ((s.tally c.die fun x => { x with retired := x.retired + 1 }).setCtx c.ctx
    { s.ctx c.ctx with retired := (s.ctx c.ctx).retired + 1 }).dropCmd c.id

theorem countedOut_frame (s : Mach) (c : Cmd) : countedOut s c = { s with
    cmds := s.cmds.filter fun x => x.id != c.id, ctxs := (countedOut s c).ctxs, scheds := (countedOut s c).scheds } := by
  unfold countedOut Mach.dropCmd Mach.setCtx Mach.tally Mach.setSched
  rfl

theorem retired_ctx_countedOut (s : Mach) (c : Cmd) : ((countedOut s c).ctx c.ctx).retired = (s.ctx c.ctx).retired + 1 :=
  congrArg CtxSt.retired (tabGet_tabSet_same _ s.ctxs c.ctx _)

theorem retired_sched_countedOut (s : Mach) (c : Cmd) : ((countedOut s c).sched c.die).retired = (s.sched c.die).retired + 1 :=
  congrArg SchedSt.retired (tabGet_tabSet_same _ s.scheds c.die _)

theorem retire_eq (s : Mach) (c : Cmd) :
    ∃ t, Reported (headerSignal (letGo s c) c.die c.ctx c.desc) t ∧ retire s c = countedOut t c := by
  unfold retire
  extract_lets t u v w
  have hu : Reported t u := by
    simp only [u]
    split
    · exact (Reported.postAll t _ _ _ _).trans (.raise _ _ _)
    · exact .refl t
  have hv : Reported u v := (((Reported.charge u _ _ _).trans (.sliceEnd _ _)).trans (.jobDone _ _)).trans (.logCmd _ _ _)
  exact ⟨v, hu.trans hv, rfl⟩

/-- What a retirement leaves: the command is gone and counted, its signal is applied, and queues, near tier and mappings stand. -/
theorem retire_facts (s : Mach) {c : Cmd} (hwalkers : c.walkers = []) :
    (retire s c).cmds = (s.cmds.filter fun x => x.id != c.id) ∧
      ((retire s c).sched c.die).retired = (s.sched c.die).retired + 1 ∧
      ((retire s c).ctx c.ctx).retired = (s.ctx c.ctx).retired + 1 ∧
      (∀ o, (retire s c).sync o = (headerSignal s c.die c.ctx c.desc).sync o) ∧ (∀ j, (retire s c).queue j = s.queue j) ∧
      (retire s c).near = s.near ∧ (retire s c).maps = s.maps := by
  have hgone := Released.letGo s hwalkers
  have hsignal : Signalled (letGo s c) (headerSignal (letGo s c) c.die c.ctx c.desc) := .applySync _ _ _ _ _ _
  have hsync : ∀ o, (headerSignal (letGo s c) c.die c.ctx c.desc).sync o = (headerSignal s c.die c.ctx c.desc).sync o :=
    hgone.sync_applySync _ _ _ _ _
  obtain ⟨t, hreport, heq⟩ := retire_eq s c
  generalize headerSignal (letGo s c) c.die c.ctx c.desc = u at hsignal hsync hreport
  have hcmds : t.cmds = s.cmds := by rw [hreport.frame, hsignal.frame, hgone.frame]
  have hqueues : t.queues = s.queues := by rw [hreport.frame, hsignal.frame, hgone.frame]
  have hnear : t.near = s.near := by rw [hreport.frame, hsignal.frame, hgone.frame]
  have hmaps : t.maps = s.maps := by rw [hreport.frame, hsignal.frame, hgone.frame]
  have hsyncs : t.syncs = u.syncs := by rw [hreport.frame]
  have hsched : (t.sched c.die).retired = (s.sched c.die).retired := by
    rw [hreport.ofSched, hsignal.frame, hgone.frame]
    rfl
  have hctx : (t.ctx c.ctx).retired = (s.ctx c.ctx).retired := by
    rw [hreport.ofCtx, hsignal.retired, hgone.frame]
    rfl
  rw [heq, retired_sched_countedOut, retired_ctx_countedOut, hsched, hctx]
  refine ⟨?_, rfl, rfl, fun o => ?_, fun j => ?_, ?_, ?_⟩
  · rw [countedOut_frame, hcmds]
  · rw [← hsync o, Mach.sync, countedOut_frame, hsyncs]
    rfl
  · rw [Mach.queue, countedOut_frame, hqueues]
    rfl
  · rw [countedOut_frame, hnear]
  · rw [countedOut_frame, hmaps]

/-- The test after operations on objects changes nothing else where no command waits. -/
theorem retest_frame {s : Mach} (h : NoneHeld s) : s.retest = { s with syncNews := s.retest.syncNews } := by
  cases hsafe : s.safe with
  | true => rw [Mach.retest, if_pos hsafe]
  | false => rw [retest_of_noneHeld h hsafe]

theorem commandRetire_of_done {s : Mach} {id : Nat} {cmd : Cmd} (hcmd : s.cmd? id = some cmd) (hsafe : s.safe = false)
    (hruns : s.runs cmd.ctx = true) (hdone : workDone s cmd = true) : commandRetire s id = (retire s cmd).retest := by
  unfold commandRetire
  rw [hcmd]
  exact if_neg (by simp [hsafe, hruns, hdone])

theorem commandRetire_eq_self {s : Mach} {id : Nat} {cmd : Cmd} (hcmd : s.cmd? id = some cmd)
    (h : s.safe = true ∨ s.runs cmd.ctx = false ∨ workDone s cmd = false) : commandRetire s id = s := by
  unfold commandRetire
  rw [hcmd]
  exact if_pos (by simpa [or_assoc] using h)

/-! ## The statement -/

/-- Settles O17: each phase is its own work once the waits of its unit are over (`gatedLoad_of_joined`, `cellPhase_of_barriers`,
`scanPhase_of_barriers`); a retirement leaves what `retire_facts` says, since what the command held comes free without any credit
moving, so that its signal finds the line as before (`Released.sync_applySync`). -/
theorem recurrentPhasesAndRetirement : Obligations.RecurrentPhasesAndRetirement := by
  refine ⟨?_, ?_, ?_, ?_, ?_⟩
  · intro s id cmd x y hcmd hslots hop hst hloaded hplanned hjoined hload hheld
    change Host.Outcome.next { s with m := gatedLoad s.m id } = _
    rw [gatedLoad_of_joined hcmd hslots hst hop hloaded hplanned hjoined hload, dropWaits_eq_self hheld]
  · intro s id cmd x y z hcmd hslots hop hst hloaded hstep hbarriers hcell hheld hnext
    change Host.Outcome.next { s with m := cellPhase s.m id } = _
    rw [cellPhase_of_barriers hcmd hslots hst hop hloaded hstep hbarriers hcell hnext, dropWaits_eq_self hheld]
  · intro s id cmd x o y z hcmd hslots hop hst hstep hbarriers hheld hread hscan
    have hkept : ∀ v, (z.setCmd { cmd with step := 1 }).cmd? id = some v →
        v.heldOn.any (fun h => h.is (512 + x.cluster) 34) = false := fun v hv => by
      obtain rfl := cmd?_id hcmd
      rw [eq_of_cmd?_setCmd hv]
      exact hheld
    change Host.Outcome.next { s with m := scanPhase s.m id } = _
    rw [scanPhase_of_barriers hcmd hslots hst hop hstep hbarriers hread hscan, dropWaits_eq_self hkept]
  · intro s id cmd hcmd hsafe hruns hdone hnone hwalkers
    obtain rfl := cmd?_id hcmd
    have hfacts := retire_facts s.m hwalkers
    have hrest : NoneHeld (retire s.m cmd) := fun c hc => by
      rw [hfacts.1] at hc
      exact hnone c (List.mem_filter.1 hc).1
    refine ⟨{ s with m := commandRetire s.m cmd.id }, rfl, ?_⟩
    dsimp only
    rw [commandRetire_of_done hcmd hsafe hruns hdone, retest_frame hrest]
    exact hfacts
  · intro s id cmd hcmd h
    change Host.Outcome.next { s with m := commandRetire s.m id } = _
    rw [commandRetire_eq_self hcmd h]

end Sys2Proof.Proofs
end

section
/-! SUPPORT. The sector code (12 R268): multiplication by α is additive and moves no symbol but 0 back to itself within 67 steps, so
that no one error gives the syndromes of two. -/

namespace Sys2Proof.Proofs

open Sys2Proof.Machine Sys2Proof.Laws

/-! ## The field -/

theorem gfX_lt : ∀ a < 256, gfX a < 256 := by decide +kernel

theorem gfX_zero : gfX 0 = 0 := by decide

theorem xor_lt {a b : Nat} (ha : a < 256) (hb : b < 256) : a ^^^ b < 256 := Nat.xor_lt_two_pow (n := 8) ha hb

/-- Multiplication by α is a shift, less the field polynomial where bit 7 leaves. -/
theorem gfX_eq {a : Nat} (ha : a < 256) : gfX a = 2 * a ^^^ (if a.testBit 7 then 0x11D else 0) := by
  have hbit : a.testBit 7 = decide (128 ≤ a) := by
    rw [Nat.testBit_eq_decide_div_mod_eq]
    exact decide_eq_decide.2 (by omega)
  rw [gfX, hbit]
  by_cases h : 128 ≤ a <;> simp [h]

theorem gfX_xor {a b : Nat} (ha : a < 256) (hb : b < 256) : gfX (a ^^^ b) = gfX a ^^^ gfX b := by
  rw [gfX_eq (xor_lt ha hb), gfX_eq ha, gfX_eq hb, Nat.testBit_xor]
  have hdouble : 2 * (a ^^^ b) = 2 * a ^^^ 2 * b := by
    simpa [Nat.shiftLeft_eq, Nat.mul_comm] using Nat.shiftLeft_xor_distrib (a := a) (b := b) (i := 1)
  rw [hdouble]
  cases a.testBit 7 <;> cases b.testBit 7 <;> simp [Nat.xor_assoc, Nat.xor_comm, Nat.xor_left_comm]

theorem gfX_iterate_lt {a : Nat} (n : Nat) (ha : a < 256) : gfX^[n] a < 256 := by
  induction n with
  | zero => exact ha
  | succ n ih => rw [Function.iterate_succ_apply']; exact gfX_lt _ ih

theorem gfX_iterate_xor {a b : Nat} (n : Nat) (ha : a < 256) (hb : b < 256) : gfX^[n] (a ^^^ b) = gfX^[n] a ^^^ gfX^[n] b := by
  induction n with
  | zero => rfl
  | succ n ih =>
    simp only [Function.iterate_succ_apply']
    rw [ih, gfX_xor (gfX_iterate_lt n ha) (gfX_iterate_lt n hb)]

/-- Multiplication is additive in the bits it goes by. -/
theorem gfMulAux_xor (k a b c x y : Nat) : gfMulAux k a (b ^^^ c) (x ^^^ y) = gfMulAux k a b x ^^^ gfMulAux k a c y := by
  induction k generalizing a b c x y with
  | zero => rfl
  | succ k ih =>
    have hmod : (b ^^^ c) % 2 = (b % 2 + c % 2) % 2 := by
      have := Nat.xor_mod_two_eq (m := b) (n := c); omega
    simp only [gfMulAux]
    rw [Nat.xor_div_two, ← ih, hmod]
    congr 1
    rcases Nat.mod_two_eq_zero_or_one b with hb | hb <;> rcases Nat.mod_two_eq_zero_or_one c with hc | hc <;>
      simp [hb, hc, Nat.xor_left_comm, Nat.xor_comm]

theorem gfMul_xor (a b c : Nat) : gfMul a (b ^^^ c) = gfMul a b ^^^ gfMul a c := gfMulAux_xor 8 a b c 0 0

theorem gfMul_one (a : Nat) : gfMul a 1 = a := by simp [gfMul, gfMulAux]

theorem gfMul_two (a : Nat) : gfMul a 2 = gfX a := by simp [gfMul, gfMulAux]

/-- A factor below 2^k has no bit to go by after k steps. -/
theorem gfMulAux_succ_of_lt {k b : Nat} (a acc : Nat) (hb : b < 2 ^ k) : gfMulAux (k + 1) a b acc = gfMulAux k a b acc := by
  induction k generalizing a b acc with
  | zero => obtain rfl : b = 0 := by omega
            simp [gfMulAux]
  | succ k ih => rw [gfMulAux, ih _ _ (by omega)]; rfl

theorem gfX_gfMulAux {a acc : Nat} (k b : Nat) (ha : a < 256) (hacc : acc < 256) :
    gfX (gfMulAux k a b acc) = gfMulAux k (gfX a) b (gfX acc) := by
  induction k generalizing a b acc with
  | zero => rfl
  | succ k ih =>
    simp only [gfMulAux]
    split
    · rw [ih _ (gfX_lt _ ha) (xor_lt hacc ha), gfX_xor hacc ha]
    · rw [ih _ (gfX_lt _ ha) hacc]

theorem gfMulAux_succ (k a b acc : Nat) :
    gfMulAux (k + 1) a b acc = gfMulAux k (gfX a) (b / 2) (if b % 2 = 1 then acc ^^^ a else acc) := rfl

theorem gfMul_double {a c : Nat} (ha : a < 256) (hc : c < 128) : gfMul a (gfX c) = gfX (gfMul a c) := by
  have hdouble : gfX c = 2 * c := if_neg (by omega)
  have hhalf : 2 * c / 2 = c := by omega
  calc gfMul a (gfX c) = gfMulAux 7 (gfX a) c 0 := by rw [hdouble, gfMul, gfMulAux_succ 7, hhalf, if_neg (by omega)]
    _ = gfMulAux 8 (gfX a) c 0 := (gfMulAux_succ_of_lt (k := 7) _ _ hc).symm
    _ = gfX (gfMul a c) := by rw [gfMul, gfX_gfMulAux 8 c ha (by decide), gfX_zero]

theorem gfMul_gfX_top : ∀ a < 256, gfMul a (gfX 128) = gfX (gfMul a 128) := by decide +kernel

theorem gfMul_lt {a b : Nat} (ha : a < 256) : gfMul a b < 256 := by
  have key : ∀ k a b acc, a < 256 → acc < 256 → gfMulAux k a b acc < 256 := by
    intro k
    induction k with
    | zero => exact fun _ _ _ _ h => h
    | succ k ih => exact fun a b acc ha h => ih _ _ _ (gfX_lt _ ha) (by split; exacts [xor_lt h ha, h])
  exact key 8 a b 0 ha (by decide)

/-- Multiplication by α · b is multiplication by b, then by α. -/
theorem gfMul_gfX {a b : Nat} (ha : a < 256) (hb : b < 256) : gfMul a (gfX b) = gfX (gfMul a b) := by
  by_cases h : b < 128
  · exact gfMul_double ha h
  · have hsplit : ∀ c < 128, c + 128 = c ^^^ 128 := by decide +kernel
    obtain ⟨c, hc, rfl⟩ : ∃ c < 128, b = c + 128 := ⟨b - 128, by omega, by omega⟩
    rw [hsplit c hc, gfX_xor (by omega) (by decide), gfMul_xor, gfMul_double ha hc, gfMul_gfX_top a ha, gfMul_xor,
      gfX_xor (gfMul_lt ha) (gfMul_lt ha)]

theorem gfPow_lt (n : Nat) : gfPow n < 256 := by
  induction n with
  | zero => decide
  | succ n ih => exact gfX_lt _ ih

/-- Multiplication by α^n is n multiplications by α. -/
theorem gfMul_gfPow {a : Nat} (n : Nat) (ha : a < 256) : gfMul a (gfPow n) = gfX^[n] a := by
  induction n with
  | zero => exact gfMul_one a
  | succ n ih => rw [gfPow, gfMul_gfX ha (gfPow_lt n), ih, Function.iterate_succ_apply']

/-- α^255 is 1. -/
theorem gfX_period {u : Nat} (hu : u < 256) : Function.IsPeriodicPt gfX 255 u := by
  have hpow : gfPow 255 = 1 := by decide +kernel
  have hmul : gfMul u (gfPow 255) = u := by rw [hpow, gfMul_one]
  exact (gfMul_gfPow 255 hu).symm.trans hmul

theorem eq_zero_of_gfMul_pow15 : ∀ u < 256, gfMul u (gfPow 15) = u → u = 0 := by decide +kernel

theorem eq_zero_of_gfMul_pow51 : ∀ u < 256, gfMul u (gfPow 51) = u → u = 0 := by decide +kernel

/-- A symbol that comes back within 67 steps comes back within gcd(i, 255), a divisor of 15 or of 51: it is 0. -/
theorem eq_zero_of_gfX_iterate {u i : Nat} (hu : u < 256) (hi : 0 < i) (h67 : i ≤ 67) (h : gfX^[i] u = u) : u = 0 := by
  have hgcd : Function.IsPeriodicPt gfX (i.gcd 255) u := Function.IsPeriodicPt.gcd h (gfX_period hu)
  have hdvd : ∀ i < 68, 0 < i → i.gcd 255 ∣ 15 ∨ i.gcd 255 ∣ 51 := by decide +kernel
  rcases hdvd i (by omega) hi with hd | hd
  · exact eq_zero_of_gfMul_pow15 u hu ((gfMul_gfPow 15 hu).trans (hgcd.trans_dvd hd))
  · exact eq_zero_of_gfMul_pow51 u hu ((gfMul_gfPow 51 hu).trans (hgcd.trans_dvd hd))

theorem gfX_injective {a b : Nat} (ha : a < 256) (hb : b < 256) (h : gfX a = gfX b) : a = b := by
  have hback : ∀ c < 256, gfX^[254] (gfX c) = c := fun c hc => by
    rw [← Function.iterate_succ_apply]
    exact gfX_period hc
  rw [← hback a ha, ← hback b hb, h]

theorem gfX_iterate_injective {a b : Nat} (n : Nat) (ha : a < 256) (hb : b < 256) (h : gfX^[n] a = gfX^[n] b) : a = b := by
  induction n with
  | zero => exact h
  | succ n ih =>
    simp only [Function.iterate_succ_apply'] at h
    exact ih (gfX_injective (gfX_iterate_lt n ha) (gfX_iterate_lt n hb) h)

/-- Two different powers of α below α^68 agree on 0 alone. -/
theorem eq_zero_of_gfX_iterate_eq {u m n : Nat} (hu : u < 256) (hm : m ≤ 67) (hn : n ≤ 67) (hmn : m ≠ n)
    (h : gfX^[m] u = gfX^[n] u) : u = 0 := by
  wlog hlt : m < n generalizing m n
  · exact this hn hm (Ne.symm hmn) h.symm (by omega)
  · refine eq_zero_of_gfX_iterate (i := n - m) hu (by omega) (by omega) (gfX_iterate_injective m (gfX_iterate_lt _ hu) hu ?_)
    rw [← Function.iterate_add_apply, Nat.add_sub_cancel' hlt.le, h]

end Sys2Proof.Proofs
end

section
/-! SUPPORT. The statement on the sector code (12 R268). -/

namespace Sys2Proof.Proofs

open Sys2Proof Sys2Proof.Machine Sys2Proof.Laws

/-! ## Syndromes -/

/-- Horner's value of a word at α^j, from a first value. -/
def horner (j a : Nat) (w : List Nat) : Nat := w.foldl (fun a s => gfX^[j] a ^^^ s) a

variable {w : List Nat} {a j p : Nat}

theorem foldl_gfMul_eq_horner (ha : a < 256) (hw : ∀ v ∈ w, v < 256) :
    w.foldl (fun a s => gfMul a (gfPow j) ^^^ s) a = horner j a w := by
  induction w generalizing a with
  | nil => rfl
  | cons s w ih =>
    have hs : s < 256 := hw s (by simp)
    rw [List.foldl_cons, gfMul_gfPow j ha]
    exact ih (xor_lt (gfX_iterate_lt j ha) hs) fun v hv => hw v (by simp [hv])

theorem rsSyndrome_eq_horner (hw : ∀ v ∈ w, v < 256) : rsSyndrome w j = horner j 0 w := foldl_gfMul_eq_horner (by decide) hw

theorem horner_lt (ha : a < 256) (hw : ∀ v ∈ w, v < 256) : horner j a w < 256 := by
  induction w generalizing a with
  | nil => exact ha
  | cons s w ih => exact ih (xor_lt (gfX_iterate_lt j ha) (hw s (by simp))) fun v hv => hw v (by simp [hv])

theorem horner_append (a j : Nat) (u v : List Nat) : horner j a (u ++ v) = horner j (horner j a u) v := List.foldl_append

/-- A difference before a word is multiplied by α^j once for each symbol. -/
theorem horner_xor {e : Nat} (ha : a < 256) (he : e < 256) (hw : ∀ v ∈ w, v < 256) :
    horner j (a ^^^ e) w = horner j a w ^^^ gfX^[j * w.length] e := by
  induction w generalizing a e with
  | nil => rfl
  | cons s w ih =>
    have hs : s < 256 := hw s (by simp)
    have hstep : gfX^[j] (a ^^^ e) ^^^ s = (gfX^[j] a ^^^ s) ^^^ gfX^[j] e := by
      rw [gfX_iterate_xor j ha he, Nat.xor_right_comm]
    calc horner j (a ^^^ e) (s :: w) = horner j ((gfX^[j] a ^^^ s) ^^^ gfX^[j] e) w := congrArg (horner j · w) hstep
      _ = horner j a (s :: w) ^^^ gfX^[j * w.length] (gfX^[j] e) :=
        ih (xor_lt (gfX_iterate_lt j ha) hs) (gfX_iterate_lt j he) fun v hv => hw v (by simp [hv])
      _ = horner j a (s :: w) ^^^ gfX^[j * (w.length + 1)] e := by rw [← Function.iterate_add_apply, Nat.mul_succ]

/-- A word with one symbol changed by a difference. -/
def flipAt (w : List Nat) (p d : Nat) : List Nat := w.set p (w.getD p 0 ^^^ d)

@[simp] theorem length_flipAt (w : List Nat) (p d : Nat) : (flipAt w p d).length = w.length := List.length_set

theorem withErrors_cons (w : List Nat) (p : Fin 68) (d : Byte) (l : SymbolErrors) :
    withErrors w ((p, d) :: l) = withErrors (flipAt w p d.toNat) l := rfl

theorem getD_lt (hw : ∀ v ∈ w, v < 256) (p : Nat) : w.getD p 0 < 256 := by
  rw [List.getD_eq_getElem?_getD]
  cases h : w[p]? with
  | none => decide
  | some v => exact hw v (List.mem_of_getElem? h)

theorem flipAt_lt {d : Nat} (hw : ∀ v ∈ w, v < 256) (hd : d < 256) : ∀ v ∈ flipAt w p d, v < 256 := fun v hv => by
  rcases List.mem_or_eq_of_mem_set hv with h | rfl
  · exact hw v h
  · exact xor_lt (getD_lt hw p) hd

/-- A changed symbol is changed back. -/
theorem flipAt_flipAt (hp : p < w.length) (d : Nat) : flipAt (flipAt w p d) p d = w := by
  have hget : (flipAt w p d).getD p 0 = w[p] ^^^ d := by
    rw [flipAt, List.getD_eq_getElem _ _ (by simpa using hp), List.getElem_set_self, List.getD_eq_getElem _ _ hp]
  rw [flipAt, hget, Nat.xor_assoc, Nat.xor_self, Nat.xor_zero, flipAt, List.set_set, List.set_getElem_self]

/-- What a changed symbol adds to Horner's value: its difference, once α^j for each symbol after it. -/
theorem horner_flipAt {d : Nat} (ha : a < 256) (hd : d < 256) (hw : ∀ v ∈ w, v < 256) (hp : p < w.length) :
    horner j a (flipAt w p d) = horner j a w ^^^ gfX^[j * (w.length - 1 - p)] d := by
  induction w generalizing a p with
  | nil => exact absurd hp (by simp)
  | cons s w ih =>
    have hs : s < 256 := hw s (by simp)
    have hw' : ∀ v ∈ w, v < 256 := fun v hv => hw v (by simp [hv])
    have hstep : gfX^[j] a ^^^ s < 256 := xor_lt (gfX_iterate_lt j ha) hs
    cases p with
    | zero =>
      calc horner j a (flipAt (s :: w) 0 d) = horner j ((gfX^[j] a ^^^ s) ^^^ d) w := by
            rw [Nat.xor_assoc]; rfl
        _ = horner j a (s :: w) ^^^ gfX^[j * w.length] d := horner_xor hstep hd hw'
    | succ p =>
      have hp' : p < w.length := by simpa using hp
      calc horner j a (flipAt (s :: w) (p + 1) d) = horner j (gfX^[j] a ^^^ s) (flipAt w p d) := rfl
        _ = horner j a (s :: w) ^^^ gfX^[j * (w.length - 1 - p)] d := ih hstep hw' hp'
        _ = _ := by rw [List.length_cons]; congr 3; omega

theorem rsSyndrome_flipAt {d : Nat} (hd : d < 256) (hw : ∀ v ∈ w, v < 256) (hp : p < w.length) :
    rsSyndrome (flipAt w p d) j = rsSyndrome w j ^^^ gfX^[j * (w.length - 1 - p)] d := by
  rw [rsSyndrome_eq_horner hw, rsSyndrome_eq_horner (flipAt_lt hw hd), horner_flipAt (by decide) hd hw hp]

/-! ## The decoder -/

/-- A word of the code: 68 symbols, a polynomial that vanishes at 1, α and α². -/
structure IsCode (w : List Nat) : Prop where
  length : w.length = 68
  symbols : ∀ v ∈ w, v < 256
  vanishes : ∀ j < 3, rsSyndrome w j = 0

theorem rsDecode_of_isCode (h : IsCode w) : rsDecode w = .clean := by
  simp [rsDecode, h.vanishes]

/-- The error of a single symbol that the syndromes would have at position k. -/
def pointsAt (w : List Nat) (k : Nat) : Prop :=
  rsSyndrome w 0 ≠ 0 ∧ gfX^[67 - k] (rsSyndrome w 0) = rsSyndrome w 1 ∧ gfX^[67 - k] (rsSyndrome w 1) = rsSyndrome w 2

theorem rsSyndrome_lt (hw : ∀ v ∈ w, v < 256) : rsSyndrome w j < 256 := by
  rw [rsSyndrome_eq_horner hw]
  exact horner_lt (by decide) hw

theorem pointsAt_iff (hw : ∀ v ∈ w, v < 256) (k : Nat) :
    (rsSyndrome w 0 != 0 && gfMul (rsSyndrome w 0) (gfPow (67 - k)) == rsSyndrome w 1 &&
      gfMul (rsSyndrome w 1) (gfPow (67 - k)) == rsSyndrome w 2) = true ↔ pointsAt w k := by
  rw [gfMul_gfPow _ (rsSyndrome_lt hw), gfMul_gfPow _ (rsSyndrome_lt hw), pointsAt]
  simp [and_assoc]

/-- Where the syndromes point at one position, the decode changes the symbol there by the first of them. -/
theorem rsDecode_of_pointsAt (hw : ∀ v ∈ w, v < 256) (hp : p < 68) (h : pointsAt w p) (hone : ∀ k < 68, pointsAt w k → k = p) :
    rsDecode w = if p = 64 ∧ (flipAt w p (rsSyndrome w 0)).getD 64 0 ≥ 2 then .uncorrectable
      else .corrected (flipAt w p (rsSyndrome w 0)) := by
  have hfind : (List.range 68).find? (fun k => rsSyndrome w 0 != 0 && gfMul (rsSyndrome w 0) (gfPow (67 - k)) == rsSyndrome w 1 &&
      gfMul (rsSyndrome w 1) (gfPow (67 - k)) == rsSyndrome w 2) = some p := by
    rw [List.find?_range_eq_some]
    refine ⟨(pointsAt_iff hw p).2 h, List.mem_range.2 hp, fun k hk => ?_⟩
    have hk' : ¬pointsAt w k := fun hpk => absurd (hone k (by omega) hpk) (by omega)
    rw [Bool.not_eq_true', Bool.eq_false_iff]
    exact mt (pointsAt_iff hw k).1 hk'
  unfold rsDecode
  dsimp only
  rw [if_neg (fun hz => h.1 hz.1), hfind]
  rfl

/-- Where the syndromes are not zero and point at no position, the decode finds no correction. -/
theorem rsDecode_of_not_pointsAt (hw : ∀ v ∈ w, v < 256) (hz : rsSyndrome w 0 = 0 → rsSyndrome w 1 ≠ 0)
    (hnone : ∀ k < 68, ¬pointsAt w k) : rsDecode w = .uncorrectable := by
  have hfind : (List.range 68).find? (fun k => rsSyndrome w 0 != 0 && gfMul (rsSyndrome w 0) (gfPow (67 - k)) == rsSyndrome w 1 &&
      gfMul (rsSyndrome w 1) (gfPow (67 - k)) == rsSyndrome w 2) = none := by
    rw [List.find?_eq_none]
    exact fun k hk => mt (pointsAt_iff hw k).1 (hnone k (List.mem_range.1 hk))
  unfold rsDecode
  dsimp only
  rw [if_neg (fun h => hz h.1 h.2.1), hfind]

theorem byte_toNat_lt (d : Byte) : d.toNat < 256 := d.isLt

theorem byte_toNat_ne {d : Byte} (h : d ≠ 0#8) : d.toNat ≠ 0 := fun e => h (BitVec.eq_of_toNat_eq e)

/-- One changed symbol has the syndromes of its difference at its position. -/
theorem rsSyndrome_one_error (h : IsCode w) (hp : p < 68) (d : Byte) (hj : j < 3) :
    rsSyndrome (flipAt w p d.toNat) j = gfX^[j * (67 - p)] d.toNat := by
  rw [rsSyndrome_flipAt (byte_toNat_lt d) h.symbols (by rw [h.length]; exact hp), h.vanishes j hj, h.length, Nat.zero_xor]

/-- A word of the code with one symbol changed is given back, unless that symbol is a metadata byte with a bit of [7:1] set. -/
theorem rsDecode_one_error (h : IsCode w) (p : Fin 68) {d : Byte} (hd : d ≠ 0#8) :
    rsDecode (withErrors w [(p, d)]) = if p.val = 64 ∧ w.getD 64 0 ≥ 2 then .uncorrectable else .corrected w := by
  have hp := p.isLt
  have hd256 := byte_toNat_lt d
  have hsyn := fun j => rsSyndrome_one_error (j := j) h hp d
  have h0 : rsSyndrome (flipAt w p d.toNat) 0 = d.toNat := by rw [hsyn 0 (by decide), Nat.zero_mul]; rfl
  have h1 : rsSyndrome (flipAt w p d.toNat) 1 = gfX^[67 - p] d.toNat := by rw [hsyn 1 (by decide), Nat.one_mul]
  have h2 : rsSyndrome (flipAt w p d.toNat) 2 = gfX^[67 - p] (gfX^[67 - p] d.toNat) := by
    rw [hsyn 2 (by decide), Nat.two_mul, Function.iterate_add_apply]
  have hpoints : pointsAt (flipAt w p d.toNat) p := by
    rw [pointsAt, h0, h1, h2]
    exact ⟨byte_toNat_ne hd, rfl, rfl⟩
  have hone : ∀ k < 68, pointsAt (flipAt w p d.toNat) k → k = p := fun k hk hpk => by
    obtain ⟨-, hk1, -⟩ := hpk
    rw [h0, h1] at hk1
    by_contra hne
    exact byte_toNat_ne hd (eq_zero_of_gfX_iterate_eq hd256 (by omega) (by omega) (by omega) hk1)
  rw [withErrors_cons, withErrors, List.foldl_nil, rsDecode_of_pointsAt (flipAt_lt h.symbols hd256) hp hpoints hone, h0,
    flipAt_flipAt (by rw [h.length]; exact hp)]

/-- Two differences at two positions are no single error: with T^z the factor of that error, both differences would have to meet at
u = (T^z + T^m) d = (T^z + T^n) e with T^m u = T^n u, which is 0. -/
theorem not_pointsAt_two_errors {d e m n z : Nat} (hd : d < 256) (he : e < 256) (hd0 : d ≠ 0) (he0 : e ≠ 0) (hm : m ≤ 67)
    (hn : n ≤ 67) (hz : z ≤ 67) (hmn : m ≠ n)
    (h1 : gfX^[z] (d ^^^ e) = gfX^[m] d ^^^ gfX^[n] e)
    (h2 : gfX^[z] (gfX^[m] d ^^^ gfX^[n] e) = gfX^[m] (gfX^[m] d) ^^^ gfX^[n] (gfX^[n] e)) : False := by
  have lt := fun {a : Nat} (n : Nat) (ha : a < 256) => gfX_iterate_lt n ha
  rw [gfX_iterate_xor z hd he] at h1
  rw [gfX_iterate_xor z (lt m hd) (lt n he)] at h2
  have hmeet : gfX^[z] d ^^^ gfX^[m] d = gfX^[z] e ^^^ gfX^[n] e := by
    have := congrArg (· ^^^ (gfX^[m] d ^^^ gfX^[z] e)) h1
    simpa [Nat.xor_assoc, Nat.xor_comm, Nat.xor_left_comm] using this
  have hmove : gfX^[m] (gfX^[z] d ^^^ gfX^[m] d) = gfX^[n] (gfX^[z] d ^^^ gfX^[m] d) := by
    conv_rhs => rw [hmeet]
    rw [gfX_iterate_xor m (lt z hd) (lt m hd), gfX_iterate_xor n (lt z he) (lt n he), ← Function.iterate_add_apply,
      ← Function.iterate_add_apply, ← Function.iterate_add_apply, ← Function.iterate_add_apply]
    simp only [← Function.iterate_add_apply] at h2
    rw [Nat.add_comm m z, Nat.add_comm n z]
    have := congrArg (· ^^^ (gfX^[m + m] d ^^^ gfX^[z + n] e)) h2
    simpa [Nat.xor_assoc, Nat.xor_comm, Nat.xor_left_comm] using this
  have hzero := eq_zero_of_gfX_iterate_eq (xor_lt (lt z hd) (lt m hd)) hm hn hmn hmove
  have hzm : z = m := by
    by_contra hne
    exact hd0 (eq_zero_of_gfX_iterate_eq hd hz hm hne (Nat.xor_eq_zero_iff.1 hzero))
  have hzn : z = n := by
    by_contra hne
    exact he0 (eq_zero_of_gfX_iterate_eq he hz hn hne (Nat.xor_eq_zero_iff.1 (hmeet ▸ hzero)))
  exact hmn (hzm.symm.trans hzn)

/-- A word of the code with two symbols changed is uncorrectable. -/
theorem rsDecode_two_errors (h : IsCode w) {p q : Fin 68} {d e : Byte} (hd : d ≠ 0#8) (he : e ≠ 0#8) (hpq : p ≠ q) :
    rsDecode (withErrors w [(p, d), (q, e)]) = .uncorrectable := by
  have hp := p.isLt
  have hq := q.isLt
  have hpq' : p.val ≠ q.val := fun e => hpq (Fin.ext e)
  have hd256 := byte_toNat_lt d
  have he256 := byte_toNat_lt e
  have hsymbols := flipAt_lt (p := p) h.symbols hd256
  set v := flipAt (flipAt w p d.toNat) q e.toNat with hv
  have hsyn : ∀ j < 3, rsSyndrome v j = gfX^[j * (67 - p)] d.toNat ^^^ gfX^[j * (67 - q)] e.toNat := fun j hj => by
    rw [hv, rsSyndrome_flipAt he256 hsymbols (by rw [length_flipAt, h.length]; exact hq), rsSyndrome_one_error h hp d hj,
      length_flipAt, h.length]
  have h0 : rsSyndrome v 0 = d.toNat ^^^ e.toNat := by rw [hsyn 0 (by decide), Nat.zero_mul, Nat.zero_mul]; rfl
  have h1 : rsSyndrome v 1 = gfX^[67 - p] d.toNat ^^^ gfX^[67 - q] e.toNat := by
    rw [hsyn 1 (by decide), Nat.one_mul, Nat.one_mul]
  have h2 : rsSyndrome v 2 = gfX^[67 - p] (gfX^[67 - p] d.toNat) ^^^ gfX^[67 - q] (gfX^[67 - q] e.toNat) := by
    rw [hsyn 2 (by decide), Nat.two_mul, Nat.two_mul, Function.iterate_add_apply, Function.iterate_add_apply]
  rw [withErrors_cons, withErrors_cons, withErrors, List.foldl_nil]
  refine rsDecode_of_not_pointsAt (flipAt_lt hsymbols he256) (fun hz0 hz1 => ?_) fun k hk hpk => ?_
  · have hde : d.toNat = e.toNat := Nat.xor_eq_zero_iff.1 (h0.symm.trans hz0)
    have hmove := Nat.xor_eq_zero_iff.1 (h1.symm.trans hz1)
    rw [← hde] at hmove
    exact byte_toNat_ne hd (eq_zero_of_gfX_iterate_eq hd256 (by omega) (by omega) (by omega) hmove)
  · obtain ⟨-, hk1, hk2⟩ := hpk
    rw [← hv, h0, h1] at hk1
    rw [← hv, h1, h2] at hk2
    exact not_pointsAt_two_errors hd256 he256 (byte_toNat_ne hd) (byte_toNat_ne he) (by omega) (by omega) (by omega) (by omega)
      hk1 hk2

/-! ## The encoder -/

/-- The generator polynomial vanishes at 1, α and α², whatever it is multiplied by. -/
theorem generator_vanishes : ∀ f < 256, ∀ j < 3,
    gfX^[j + j + j] f = gfX^[j + j] (gfMul f rsG2) ^^^ gfX^[j] (gfMul f rsG1) ^^^ gfMul f rsG0 := by decide +kernel

/-- The remainder r of the symbols so far has the value of those symbols times x³. -/
def IsRemainder (j a : Nat) (r : Nat × Nat × Nat) : Prop :=
  r.1 < 256 ∧ r.2.1 < 256 ∧ r.2.2 < 256 ∧ gfX^[j + j + j] a = gfX^[j + j] r.1 ^^^ gfX^[j] r.2.1 ^^^ r.2.2

/-- One step of the division by the generator polynomial (R268). -/
def divStep (r : Nat × Nat × Nat) (s : Nat) : Nat × Nat × Nat :=
  (r.2.1 ^^^ gfMul (s ^^^ r.1) rsG2, r.2.2 ^^^ gfMul (s ^^^ r.1) rsG1, gfMul (s ^^^ r.1) rsG0)

theorem rsCheck_eq (info : List Nat) : rsCheck info =
    [(info.foldl divStep (0, 0, 0)).1, (info.foldl divStep (0, 0, 0)).2.1, (info.foldl divStep (0, 0, 0)).2.2] := rfl

theorem isRemainder_divStep {r : Nat × Nat × Nat} {s : Nat} (hj : j < 3) (ha : a < 256) (hs : s < 256)
    (h : IsRemainder j a r) : IsRemainder j (gfX^[j] a ^^^ s) (divStep r s) := by
  obtain ⟨hr2, hr1, hr0, hval⟩ := h
  have hf : s ^^^ r.1 < 256 := xor_lt hs hr2
  have lt := fun {a : Nat} (n : Nat) (ha : a < 256) => gfX_iterate_lt n ha
  have hgen := generator_vanishes _ hf j hj
  refine ⟨xor_lt hr1 (gfMul_lt hf), xor_lt hr0 (gfMul_lt hf), gfMul_lt (b := rsG0) hf, ?_⟩
  have hmul : gfX^[j + j + j] (gfX^[j] a) = gfX^[j + j + j] r.1 ^^^ gfX^[j + j] r.2.1 ^^^ gfX^[j] r.2.2 := by
    have := congrArg gfX^[j] hval
    rw [gfX_iterate_xor j (xor_lt (lt _ hr2) (lt _ hr1)) hr0, gfX_iterate_xor j (lt _ hr2) (lt _ hr1)] at this
    simpa only [← Function.iterate_add_apply, Nat.add_assoc] using this
  rw [gfX_iterate_xor _ (lt _ ha) hs, hmul, divStep, gfX_iterate_xor _ hr1 (gfMul_lt hf), gfX_iterate_xor _ hr0 (gfMul_lt hf)]
  rw [gfX_iterate_xor _ hs hr2] at hgen
  have := congrArg (· ^^^ (gfX^[j + j + j] r.1 ^^^ gfX^[j + j] r.2.1 ^^^ gfX^[j] r.2.2 ^^^ gfX^[j + j + j] r.1)) hgen
  simpa [Nat.xor_assoc, Nat.xor_comm, Nat.xor_left_comm] using this

theorem isRemainder_foldl {r : Nat × Nat × Nat} (hj : j < 3) (ha : a < 256) (hw : ∀ v ∈ w, v < 256) (h : IsRemainder j a r) :
    IsRemainder j (horner j a w) (w.foldl divStep r) := by
  induction w generalizing a r with
  | nil => exact h
  | cons s w ih =>
    have hs : s < 256 := hw s (by simp)
    exact ih (xor_lt (gfX_iterate_lt j ha) hs) (fun v hv => hw v (by simp [hv])) (isRemainder_divStep hj ha hs h)

theorem gfX_iterate_zero (n : Nat) : gfX^[n] 0 = 0 := Function.iterate_fixed gfX_zero n

/-- Information symbols with their check symbols are a word of the code. -/
theorem isCode_rsCheck (hlen : w.length = 65) (hw : ∀ v ∈ w, v < 256) : IsCode (w ++ rsCheck w) := by
  have hrem : ∀ j < 3, IsRemainder j (horner j 0 w) (w.foldl divStep (0, 0, 0)) := fun j hj =>
    isRemainder_foldl hj (by decide) hw (by simp [IsRemainder, gfX_iterate_zero])
  rw [rsCheck_eq]
  generalize w.foldl divStep (0, 0, 0) = r at hrem ⊢
  have hsymbols : ∀ v ∈ w ++ [r.1, r.2.1, r.2.2], v < 256 := fun v hv => by
    obtain ⟨hr2, hr1, hr0, -⟩ := hrem 0 (by decide)
    simp only [List.mem_append, List.mem_cons, List.not_mem_nil, or_false] at hv
    rcases hv with h | rfl | rfl | rfl
    exacts [hw v h, hr2, hr1, hr0]
  refine ⟨by simp [hlen], hsymbols, fun j hj => ?_⟩
  obtain ⟨hr2, hr1, hr0, hval⟩ := hrem j hj
  have ha : horner j 0 w < 256 := horner_lt (by decide) hw
  rw [rsSyndrome_eq_horner hsymbols, horner_append]
  generalize horner j 0 w = a at ha hval
  have lt := fun {a : Nat} (n : Nat) (ha : a < 256) => gfX_iterate_lt n ha
  calc gfX^[j] (gfX^[j] (gfX^[j] a ^^^ r.1) ^^^ r.2.1) ^^^ r.2.2
      = gfX^[j + j + j] a ^^^ gfX^[j + j] r.1 ^^^ gfX^[j] r.2.1 ^^^ r.2.2 := by
        rw [gfX_iterate_xor j (lt _ ha) hr2, gfX_iterate_xor j (xor_lt (lt _ (lt _ ha)) (lt _ hr2)) hr1,
          gfX_iterate_xor j (lt _ (lt _ ha)) (lt _ hr2)]
        simp only [← Function.iterate_add_apply, Nat.add_assoc]
    _ = 0 := by rw [hval]; simp [Nat.xor_comm, Nat.xor_left_comm]

/-! ## Stored sectors -/

/-- The 64 bytes and the metadata byte of a sector. -/
def infoOf (x : Stored) : List Nat := (x.bytes.map fun b => b.toNat) ++ [b2n x.slag]

theorem symbolsOf_eq (x : Stored) : symbolsOf x = infoOf x ++ rsCheck (infoOf x) := rfl

variable {x : Stored}

theorem isCode_symbolsOf (h : x.bytes.length = 64) : IsCode (symbolsOf x) := by
  refine isCode_rsCheck (by simp [h]) fun v hv => ?_
  rcases List.mem_append.1 hv with hv | hv
  · obtain ⟨b, -, rfl⟩ := List.mem_map.1 hv
    exact b.isLt
  · obtain rfl : v = b2n x.slag := by simpa using hv
    cases x.slag <;> decide

theorem symbolsOf_byte (h : x.bytes.length = 64) {k : Nat} (hk : k < 64) :
    (symbolsOf x).getD k 0 = (x.bytes.getD k 0#8).toNat := by
  have hk' : k < x.bytes.length := by omega
  rw [symbolsOf_eq, infoOf, List.append_assoc, List.getD_append _ _ _ _ (by simpa using hk'), List.getD_eq_getElem _ _ (by simpa using hk'),
    List.getElem_map, List.getD_eq_getElem _ _ hk']

theorem symbolsOf_metadata (h : x.bytes.length = 64) : (symbolsOf x).getD 64 0 = b2n x.slag := by
  rw [symbolsOf_eq, infoOf, List.append_assoc, List.getD_append_right _ _ _ _ (by simp [h])]
  simp [h]

/-- The symbols of a sector spell it. -/
theorem spelled_symbolsOf (h : x.bytes.length = 64) : spelled (symbolsOf x) = x := by
  have hbytes : ((symbolsOf x).take 64).map (fun n => BitVec.ofNat 8 n) = x.bytes := by
    rw [symbolsOf_eq, infoOf, List.append_assoc, List.take_left' (by simpa using h), List.map_map]
    exact (List.map_congr_left fun b _ => by simp).trans (List.map_id _)
  have hslag : ((symbolsOf x).getD 64 0).testBit 0 = x.slag := by
    rw [symbolsOf_metadata h]
    cases x.slag <;> decide
  rw [spelled, hbytes, hslag]

/-- Settles O21: multiplication by α is additive, so a changed symbol adds its difference's powers to the syndromes
(`rsSyndrome_flipAt`); one error points at its position alone and two at none (`rsDecode_one_error`, `rsDecode_two_errors`), because
different powers of α below α^68 agree on 0 alone (`eq_zero_of_gfX_iterate_eq`). -/
theorem sectorCodeCorrectsOneDetectsTwo : Obligations.SectorCodeCorrectsOneDetectsTwo := by
  refine ⟨fun a b c ha hb hc => ⟨gfMul_one a, ?_, gfMul_xor a b c⟩, fun x hx => ?_, fun w d hlen hw hvan hmeta hd => ?_⟩
  · rw [gfMul_two, gfX]
    by_cases h : a < 128
    · rw [if_neg (by omega), if_pos h]
    · rw [if_pos (by omega), if_neg h]
  · have hcode := isCode_symbolsOf hx
    have hmark : ¬2 ≤ (symbolsOf x).getD 64 0 := by
      rw [symbolsOf_metadata hx]
      cases x.slag <;> decide
    refine ⟨hcode.length, fun k hk => symbolsOf_byte hx hk, symbolsOf_metadata hx, hcode.vanishes, spelled_symbolsOf hx,
      rsDecode_of_isCode hcode, fun p d hd => ?_, fun p q d e hd he hpq => rsDecode_two_errors hcode hd he hpq⟩
    rw [rsDecode_one_error hcode p hd, if_neg fun h => hmark h.2]
  · rw [rsDecode_one_error ⟨hlen, hw, hvan⟩ 64 hd, if_pos ⟨rfl, hmeta⟩]

end Sys2Proof.Proofs
end

section
/-! SUPPORT. The state after reset. -/

namespace Sys2Proof.Proofs

open Sys2Proof.Machine Sys2Proof.Laws Sys2Proof.Safety

/-- A plain register after reset holds its reset value. -/
theorem reg_reset (a : Nat) : State.reset.m.reg a = regReset a := rfl

/-- The entry of HBM_REMAP of a logical channel after reset (12 R265, R294). -/
theorem regReset_remap {c : Nat} (hc : c < 1024) : regReset (memReg (0x1000 + 4 * c)) = w32 c := by
  have hblock : inBlock (memReg (0x1000 + 4 * c)) 0x07801000 0x1000 = true := by
    refine Bool.and_eq_true_iff.2 ⟨decide_eq_true ?_, decide_eq_true ?_⟩ <;> rw [memReg] <;> omega
  have hne : memReg (0x1000 + 4 * c) ≠ 0x07E00000 := by
    rw [memReg]
    omega
  have hentry : (memReg (0x1000 + 4 * c) - 0x07801000) / 4 = c := by
    rw [memReg]
    omega
  rw [regReset, if_neg hne, if_pos hblock, hentry]

/-- A channel number as a remap entry: DIRECT, lane 0. -/
theorem remap_reset {c : Nat} (hc : c < 1024) : State.reset.m.remap c = (0, 0, c) := by
  have hword : (w32 c).toNat = c := by
    rw [w32, BitVec.toNat_ofNat]
    omega
  have hmode : c >>> 30 % 2 ^ 2 = 0 := by
    rw [Nat.shiftRight_eq_div_pow]
    omega
  have hlane : c >>> 27 % 2 ^ 3 = 0 := by
    rw [Nat.shiftRight_eq_div_pow]
    omega
  have hphys : c >>> 0 % 2 ^ 10 = c := by
    rw [Nat.shiftRight_zero]
    omega
  rw [Mach.remap, reg_reset, regReset_remap hc, hword]
  exact Prod.ext hmode (Prod.ext hlane hphys)

/-- Settles O2: every table is empty, so each part reads as its default, and each register as `regReset` gives it. -/
theorem resetLeaves : Obligations.ResetLeaves := by
  refine ⟨rfl, fun c hc => absurd hc (by simp [State.reset]), rfl, rfl, fun d => rfl, fun k => ⟨rfl, rfl, rfl, rfl, rfl⟩, ?_, ?_, ?_, ?_,
    fun k => ⟨rfl, rfl, rfl, rfl⟩, fun c hc => remap_reset hc, ?_, ?_, ?_, fun k => rfl⟩
  all_goals decide +kernel

end Sys2Proof.Proofs
end

section
/-! SUPPORT. The queue over every command (log entry 2): a command gives the module a new machine, fuses or flash, and the queue stays. -/

namespace Sys2Proof.Proofs

open Sys2Proof Sys2Proof.Machine Sys2Proof.Laws

/-- A state that has the queue of another. -/
structure KeepsQueue (s t : State) : Prop where
  pending : t.pending = s.pending

namespace KeepsQueue

theorem refl (s : State) : KeepsQueue s s := ⟨rfl⟩

theorem trans {s t u : State} (h : KeepsQueue s t) (h' : KeepsQueue t u) : KeepsQueue s u := ⟨h'.pending.trans h.pending⟩

/-- Whatever fuses, flash and machine a state is given, its queue stays. -/
theorem mk' (s : State) (f : Tab Fuses) (fl : Flash) (m : Mach) : KeepsQueue s ⟨s.pending, f, fl, m⟩ := ⟨rfl⟩

theorem foldl {α : Type} {f : State → α → State} (h : ∀ s a, KeepsQueue s (f s a)) (l : List α) (s : State) :
    KeepsQueue s (l.foldl f s) := by
  induction l generalizing s with
  | nil => exact refl s
  | cons a l ih => exact (h s a).trans (ih (f s a))

variable (s : State)

/-! ## The mailbox (15, 18) -/

theorem sealStops : KeepsQueue s (Machine.sealStops s).1 := mk' s _ _ _

theorem msgAttest (b : Nat) : KeepsQueue s (Machine.msgAttest s b).1 := by
  unfold Machine.msgAttest
  split
  · exact refl s
  · exact mk' s _ _ _

theorem msgFwUpdate (k : Nat) (r : Req) : KeepsQueue s (Machine.msgFwUpdate s k r).1 := by
  unfold Machine.msgFwUpdate
  extract_lets b n
  split
  · exact refl s
  split
  · exact refl s
  split
  · exact mk' s _ _ _
  · exact mk' s _ _ _
  · extract_lets t v copy u f
    have ht : KeepsQueue s t := mk' s _ _ _
    split
    · exact ht
    split
    · exact ht
    split
    · exact ht.trans (sealStops t)
    · exact ht.trans ((mk' t _ _ _).trans (sealStops u))
    · split
      · exact ht.trans (mk' t _ _ _)
      · exact ht.trans (mk' t _ _ _)

theorem blow (k n : Nat) : KeepsQueue s ((List.range n).foldl (fun (s : State) d => s.revokeBelow k d) s).showKey :=
  (foldl (fun t _ => mk' t _ _ _) _ s).trans (mk' _ _ _ _)

theorem msgKeyRotate (r : Req) : KeepsQueue s (Machine.msgKeyRotate s r).1 := by
  unfold Machine.msgKeyRotate
  extract_lets k bad other blown t
  split
  · exact refl s
  split
  · exact refl s
  split
  · exact (blow s k _).trans (sealStops _)
  · exact (blow s k 4).trans (mk' _ _ _ _)

theorem msgFactoryReset (r : Req) : KeepsQueue s (Machine.msgFactoryReset s r).1 := by
  unfold Machine.msgFactoryReset
  split
  · exact refl s
  extract_lets t
  have ht : KeepsQueue s t := mk' s _ _ _
  split
  · exact sealStops s
  · exact ht.trans (sealStops t)
  · exact ht.trans (mk' t _ _ _)

theorem msgNetConfig (r : Req) : KeepsQueue s (Machine.msgNetConfig s r).1 := by
  unfold Machine.msgNetConfig
  split
  · exact refl s
  extract_lets t
  have ht : KeepsQueue s t := mk' s _ _ _
  split
  · exact sealStops s
  · exact ht.trans (sealStops t)
  · split
    · exact ht.trans (mk' t _ _ _)
    · exact ht

/-- A request is handled by its message's rule, which answers with a new machine, or is one of five that keep the queue. -/
theorem runMessage (op k : Nat) (x : Buffered) : KeepsQueue s (Machine.runMessage op k x s).1 := by
  unfold Machine.runMessage
  extract_lets env r b m onMach
  have hmach : ∀ y, KeepsQueue s (onMach y).1 := fun y => mk' s _ _ _
  clear_value onMach
  split
  case h_13 =>
    split
    · exact hmach _
    · split <;> exact hmach _
  case h_15 => exact msgAttest s b
  case h_16 => exact msgFwUpdate s k r
  case h_18 => exact msgKeyRotate s r
  case h_19 => exact msgFactoryReset s r
  case h_20 => exact msgNetConfig s r
  all_goals exact hmach _

theorem handle (op k : Nat) (x : Buffered) : KeepsQueue s (Machine.handle op k x s).1 := by
  unfold Machine.handle
  split
  · exact refl s
  split
  · exact refl s
  · exact runMessage s op k x

theorem serveRing (k : Nat) : KeepsQueue s (Machine.serveRing k s) := by
  unfold Machine.serveRing
  extract_lets y
  split
  · exact refl s
  split
  · exact refl s
  split
  · exact mk' s _ _ _
  · exact ((mk' s _ _ _).trans (handle _ _ _ _)).trans (mk' _ _ _ _)

theorem arriveRing (op : Nat) (r : Req) (now : Bool) : KeepsQueue s (Machine.arriveRing op r now s) := by
  unfold Machine.arriveRing
  extract_lets k m y q b t
  have ht : KeepsQueue s t := mk' s _ _ _
  split
  · split
    · exact mk' s _ _ _
    split
    · exact ht.trans (serveRing t k)
    · exact ht
  split
  · split <;> exact mk' s _ _ _
  · exact mk' s _ _ _

theorem arrive (op : Nat) (r : Req) (now : Bool) : KeepsQueue s (Machine.arrive op r now s) := by
  unfold Machine.arrive
  split
  · exact refl s
  iterate 7
    split
    · exact mk' s _ _ _
  exact arriveRing s op r now

theorem message (op : Nat) (r : Req) : KeepsQueue s (Machine.message op r s) := (mk' s _ _ _).trans (arrive _ op r true)

theorem requestRing (k : Nat) : KeepsQueue s (Machine.requestRing k s) := by
  unfold Machine.requestRing
  split
  · exact serveRing s k
  · exact refl s

theorem mailboxGrant : KeepsQueue s (Machine.mailboxGrant s) := by
  unfold Machine.mailboxGrant
  split
  · exact refl s
  split
  · exact mk' s _ _ _
  · exact serveRing s _

/-! ## The port (14, 15) -/

theorem frameReceive (f : Frame) : KeepsQueue s (Machine.frameReceive s f) := by
  unfold Machine.frameReceive
  extract_lets m put
  have hput : ∀ y, KeepsQueue s (put y) := fun y => mk' s _ _ _
  clear_value put
  split
  · exact refl s
  split
  · exact hput _
  split
  · exact hput _
  split
  · exact hput _
  · exact (hput m).trans (arrive _ _ _ _)
  · exact hput _

theorem creditGrant (x : SharedResource) : KeepsQueue s (Machine.creditGrant x s) := by
  cases x with
  | mailbox => exact mailboxGrant s
  | ladleSlots => exact refl s
  | atomicUnit | coreSlots | clusterPlaces | startLimiter | meshChannel | gateClass | linkChannel => exact mk' s _ _ _

/-! ## Security and start-up (18, 19) -/

theorem svnAdvance : KeepsQueue s (Machine.svnAdvance s) := by
  unfold Machine.svnAdvance
  extract_lets v
  split
  · exact (foldl (fun t _ => mk' t _ _ _) _ s).trans (mk' _ _ _ _)
  · exact refl s

theorem harmonise : KeepsQueue s (Machine.harmonise s) := foldl (fun t _ => mk' t _ _ _) _ s

theorem tryCopy (b : Bool) (e : BitVec 2) : KeepsQueue s (Machine.tryCopy s b e).1 := mk' s _ _ _

theorem bootCopy (b fallback : Bool) : KeepsQueue s (Machine.bootCopy s b fallback) := mk' s _ _ _

/-- The copy that boots is tried before; where none does, the pairs halt. -/
theorem startBoot (r : StartReport) : KeepsQueue s (Machine.startBoot s r).1 := by
  unfold Machine.startBoot
  extract_lets m m' t u v first
  have ht : KeepsQueue s t := mk' s _ _ _
  split
  · exact ht.trans (mk' t _ _ _)
  have hv : KeepsQueue s v := (ht.trans (mk' t _ _ _)).trans (harmonise u)
  clear_value v first
  have hfirst := hv.trans (tryCopy v first r.flashError)
  generalize Machine.tryCopy v first r.flashError = y at hfirst ⊢
  obtain ⟨w, ok⟩ := y
  dsimp only at hfirst ⊢
  split
  · exact hfirst.trans (bootCopy w _ _)
  have hother := hfirst.trans (tryCopy w (!first) r.flashError)
  generalize Machine.tryCopy w (!first) r.flashError = y at hother ⊢
  obtain ⟨x, ok'⟩ := y
  dsimp only at hother ⊢
  split
  · exact hother.trans (bootCopy x _ _)
  · exact hother.trans (mk' x _ _ _)

/-- Start-up ends with a machine put into the state before step 2, or into the one that step 2 left. -/
theorem startUpAll (r : StartReport) : KeepsQueue s (Machine.startUpAll s r) := by
  unfold Machine.startUpAll
  extract_lets ms put src base
  have hput : ∀ t m, KeepsQueue t (put t m) := fun t m => mk' t _ _ _
  clear_value put base
  split
  · exact refl s
  split
  split
  · exact hput s _
  · next m _ _ _ =>
    have hboot := (hput s (stepDone m 1 (ms 1))).trans (startBoot _ r)
    split
    next t _ hst =>
      rw [hst] at hboot
      have ht : ∀ m, KeepsQueue s (put t m) := fun m => hboot.trans (hput t m)
      split
      · exact ht _
      iterate 2
        split
        split
        · exact ht _
      extract_lets y
      split
      split
      · exact ht _
      · exact ht _

end KeepsQueue

/-! ## The statement -/

/-- A command that faults unless its operands are well-formed keeps the queue where they are. -/
theorem keepsQueue_or_illFormed {c : Instr} {s t : State} {b : Bool} {what : String} (hb : c.wf = b)
    (hexec : exec c s = if !b then .fault (.illFormed what) else .next t) (ht : KeepsQueue s t) :
    (∃ t, exec c s = .next t ∧ t.pending = s.pending) ∨ c.wf = false ∧ ∃ what, exec c s = .fault (.illFormed what) := by
  subst hb
  cases hwf : c.wf with
  | true => exact .inl ⟨t, by rw [hexec, hwf]; rfl, ht.pending⟩
  | false => exact .inr ⟨rfl, what, by rw [hexec, hwf]; rfl⟩

/-- Settles O3: a row of the mailbox, the port, security or start-up keeps the queue by its function's lemma, every other row gives
the state a new machine alone; five rows fault first where their operands are ill-formed. -/
theorem commandsKeepTheQueue : Obligations.CommandsKeepTheQueue := by
  intro c s
  have next : ∀ {t}, exec c s = .next t → KeepsQueue s t → ∃ t, exec c s = .next t ∧ t.pending = s.pending :=
    fun {t} h hk => ⟨t, h, hk.pending⟩
  cases c
  case sectorRead a errs =>
    exact (keepsQueue_or_illFormed rfl rfl (.mk' s _ _ _)).imp id fun h => ⟨h.1, h.2, .inl ⟨a, errs, rfl⟩⟩
  case sectorWrite a data mask slag errs =>
    exact (keepsQueue_or_illFormed rfl rfl (.mk' s _ _ _)).imp id fun h => ⟨h.1, h.2, .inr (.inl ⟨a, data, mask, slag, errs, rfl⟩)⟩
  case patrolRead g errs =>
    have hrows : exec (.patrolRead g errs) s = if !errorsWf errs then .fault (.illFormed "symbol errors") else .next { s with
        m := match g with | .stack g => patrolRead s.m g.toNat errs | .package p => pkgPatrol s.m p.toNat errs } := by
      cases g <;> rfl
    exact (keepsQueue_or_illFormed rfl hrows (.mk' s _ _ _)).imp id fun h => ⟨h.1, h.2, .inr (.inr (.inl ⟨g, errs, rfl⟩))⟩
  case flitRetry h =>
    exact (keepsQueue_or_illFormed rfl rfl (.mk' s _ _ _)).imp id fun x => ⟨x.1, x.2, .inr (.inr (.inr (.inl ⟨h, rfl⟩)))⟩
  case retryExhaustion h =>
    exact (keepsQueue_or_illFormed rfl rfl (.mk' s _ _ _)).imp id fun x => ⟨x.1, x.2, .inr (.inr (.inr (.inr ⟨h, rfl⟩)))⟩
  case requestRingExecute => exact .inl (next rfl (.requestRing s _))
  case frameReceive => exact .inl (next rfl (.frameReceive s _))
  case creditGrant => exact .inl (next rfl (.creditGrant s _))
  case svnAdvance => exact .inl (next rfl (.svnAdvance s))
  case startUp => exact .inl (next rfl (.startUpAll s _))
  case sessionOpen | sessionClose | nop | contextCreate | queueCreate | objectAlloc | objectPlace | map | syncCreate | endpointSet |
      doorbell | abort | stateExportMessage | stateImportMessage | status | telemetry | regRead | attest | fwUpdate | debugUnlock |
      keyRotate | factoryReset | netConfig | retrain | margin | clkobs | enterTest | exitTest | selftest =>
    exact .inl (next rfl (.message s _ _))
  all_goals exact .inl (next rfl (.mk' s _ _ _))

end Sys2Proof.Proofs
end

section
/-! SUPPORT. The statement on sector reads and writes (12 R269; 06 R160). A read that finds a sector uncorrectable rewrites it, and the
rewrite clears the mark that waits beneath a line. The statement has every such mark stand where no valid line holds the sector, and
no hypothesis says that there is none then. -/

namespace Sys2Proof.Proofs

open Sys2Proof Sys2Proof.Machine

/-! ## A mark that no line covers -/

/-- The machine after reset with a mark beneath sector 0, while the shared caches are empty. -/
def markedMach : Mach := { under := [(0, true)] }

/-- Two symbols in error. -/
def twoErrors : SymbolErrors := [(0, 1#8), (1, 1#8)]

theorem twoErrors_wf : (Instr.sectorRead (.hbm 0#10 0#24) twoErrors).wf = true := by decide

theorem markedMach_sectorState : markedMach.sectorState (.hbm 0#10 0#24) = 0#2 := by decide

theorem markedMach_not_cached (pa : Nat) : markedMach.cached pa = false := rfl

theorem length_stored_markedMach : (markedMach.stored (.hbm 0#10 0#24)).bytes.length = 64 := by decide +kernel

theorem under_sectorRead_markedMach : (sectorRead markedMach (.hbm 0#10 0#24) twoErrors).under = [] := by decide +kernel

/-- Refutes O22: the mark beneath an uncorrectable sector goes with the rewrite. In `markedMach` no line holds sector 0 and its mark
stands; SECTOR_READ with two symbols in error stores the sector with slag set and leaves no mark. -/
theorem not_sectorReadsAndWrites : ¬Obligations.SectorReadsAndWrites := by
  rintro ⟨hreads, -⟩
  obtain ⟨-, -, hread⟩ := hreads { State.reset with m := markedMach } (.hbm 0#10 0#24) twoErrors twoErrors_wf
  have hstate := markedMach_sectorState
  obtain ⟨-, -, hbad⟩ := hread (by rw [hstate]; decide) (by rw [hstate]; decide)
  obtain ⟨t, l, hexec, hfree, -⟩ := hbad
    (rsDecode_two_errors (isCode_symbolsOf length_stored_markedMach) (by decide) (by decide) (by decide))
  obtain ⟨-, hunder⟩ := hfree fun _ _ pa _ _ => markedMach_not_cached pa
  have hnext : exec (.sectorRead (.hbm 0#10 0#24) twoErrors) { State.reset with m := markedMach } =
      .next { State.reset with m := sectorRead markedMach (.hbm 0#10 0#24) twoErrors } := rfl
  obtain rfl := Host.Outcome.next.inj (hnext.symm.trans hexec)
  exact absurd (under_sectorRead_markedMach.symm.trans hunder) (by decide)

end Sys2Proof.Proofs
end

section
/-! SUPPORT. Retirement and migration (12 R278 to R283). -/

namespace Sys2Proof.Proofs

open Sys2Proof Sys2Proof.Machine Sys2Proof.Laws

/-! ## Plain registers -/

/-- From a to b at most plain registers have changed. -/
def RegsOnly (a b : Mach) : Prop := b = { a with regs := b.regs }

theorem RegsOnly.trans {a b c : Mach} (h : RegsOnly a b) (h' : RegsOnly b c) : RegsOnly a c := regs_trans h h'

theorem RegsOnly.setRemap (s : Mach) (c mode lane phys : Nat) : RegsOnly s (s.setRemap c mode lane phys) := by
  unfold RegsOnly
  rfl

theorem each_regsOnly {α : Type} {f : α → Mach → Mach} (h : ∀ a s, RegsOnly s (f a s)) (l : List α) (s : Mach) :
    RegsOnly s (each f l s) :=
  rel_each RegsOnly (fun _ _ _ => RegsOnly.trans) (fun _ => rfl) f h l s

/-! ## Retirement (R278, R279, R283) -/

/-- The lane a retirement takes: the lowest of the die's eight that is not taken. -/
theorem find?_lane {taken : List Nat} (h : taken.length < 8) :
    ∃ lane, ((List.range 8).find? fun j => !taken.contains j) = some lane ∧ lane < 8 ∧ lane ∉ taken ∧ ∀ j, j < lane → j ∈ taken := by
  cases hf : (List.range 8).find? fun j => !taken.contains j with
  | none =>
    have hall : List.range 8 ⊆ taken := fun j hj => by simpa using List.find?_eq_none.1 hf j hj
    have hlen := (List.subperm_of_subset List.nodup_range hall).length_le
    rw [List.length_range] at hlen
    omega
  | some lane =>
    obtain ⟨hfree, hlane, hbelow⟩ := List.find?_range_eq_some.1 hf
    exact ⟨lane, rfl, List.mem_range.1 hlane, by simpa using hfree, fun j hj => by simpa using hbelow j hj⟩

/-- A die that can retire one more, or whose FAILED pseudo-channels are all on their way out, leaves none in FAILED mode. -/
theorem failAll_eq_self {s : Mach} {d : Nat}
    (h : s.canRetire d = true ∨ ∀ i, i < 256 → (s.pc (256 * d + i)).state = 2#2 → (s.goneOn d).contains i = true) : failAll s d = s := by
  unfold failAll
  split
  · rfl
  · next hcan =>
    have hgone := h.resolve_left hcan
    have hnone : ((List.range 256).filter fun i => (s.pc (256 * d + i)).state == 2#2 && !(s.goneOn d).contains i &&
        (s.mappedOn (256 * d + i)).any fun x => x.2.isNone) = [] := by
      refine List.filter_eq_nil_iff.2 fun i hi hleft => ?_
      simp only [Bool.and_eq_true, beq_iff_eq, Bool.not_eq_true'] at hleft
      obtain ⟨⟨hfailed, hnot⟩, -⟩ := hleft
      rw [hgone i (List.mem_range.1 hi) hfailed] at hnot
      cases hnot
    simp only [hnone]
    rfl

/-- A die's repair state once a migration to a lane has started or waits. -/
def retiring (r : RepairSt) (g : Migration) : RepairSt :=
  match r.mig with
  | none => { r with lanesTaken := r.lanesTaken ++ [g.lane], mig := some g }
  | some _ => { r with lanesTaken := r.lanesTaken ++ [g.lane], waiting := r.waiting ++ [g] }

theorem lanesTaken_retiring (r : RepairSt) (g : Migration) : (retiring r g).lanesTaken = r.lanesTaken ++ [g.lane] := by
  unfold retiring; split <;> rfl

theorem mem_retiring (r : RepairSt) (g : Migration) : g ∈ (retiring r g).mig.toList ++ (retiring r g).waiting := by
  unfold retiring; split <;> simp

/-- What a retirement does: a migration of the pseudo-channel to the lane found starts or waits, the maps are written, and the record
is due. -/
theorem startRetire_eq (s : Mach) (n : Nat) : ∃ (a : Mach) (g : Migration) (r : RecordReq), RegsOnly s a ∧ g.target = n ∧
    g.w = 0 ∧ g.lane = ((List.range 8).find? fun j => !(s.repairOf (n / 256)).lanesTaken.contains j).getD 0 ∧
    startRetire s n = (failAll ((a.setRepair (n / 256) (retiring (s.repairOf (n / 256)) g)).setPc n
      { a.pc n with retireDue := false }) (n / 256)).recordDue r := by
  unfold startRetire
  extract_lets d t r gone lane list lanes logical g s1 s2 r' s3 x s4 s5
  have h1 : RegsOnly s s1 := each_regsOnly (fun _ u => setField_frame u _ _ _ _) _ s
  have h2 : RegsOnly s1 s2 := each_regsOnly (fun _ u => .setRemap u _ _ _ _) _ s1
  have h3 : s3 = s2.setRepair d (retiring r g) := by
    unfold retiring
    cases hm : r.mig <;> simp only [s3, r', hm] <;> rfl
  have hx : x = s2.pc n := pc_setRepair s2 _ _ _
  exact ⟨s2, g, _, h1.trans h2, rfl, rfl, rfl, by rw [← h3, ← hx]⟩

/-- The state a retirement leaves its die in leaves no pseudo-channel in FAILED mode. -/
theorem failAll_retiring {a : Mach} {n : Nat} {g : Migration} (hg : g.target = n) (hcan : a.canRetire (n / 256) = true)
    (hleft : (a.repairOf (n / 256)).lanesTaken.length < 7 ∨
      ∀ i, i < 256 → (a.pc (256 * (n / 256) + i)).state = 2#2 → i = n % 256) :
    ∀ y, (a.setRepair (n / 256) (retiring (a.repairOf (n / 256)) g)).setPc n { a.pc n with retireDue := false } = y →
      failAll y (n / 256) = y := by
  intro y hy
  have hrepair : y.repairOf (n / 256) = retiring (a.repairOf (n / 256)) g := by
    subst hy
    rw [repairOf_setPc, repairOf_setRepair, if_pos rfl]
  have hpc : ∀ k, (y.pc k).state = (a.pc k).state := fun k => by
    subst hy
    rw [pc_setPc, pc_setRepair]
    split
    · next h => rw [h]
    · rfl
  refine failAll_eq_self (hleft.imp (fun hlt => ?_) fun honly i hi hfailed => ?_)
  · have hrep : y.repair = true := by
      subst hy
      exact (Bool.and_eq_true_iff.1 hcan).1
    rw [Mach.canRetire, hrep, hrepair, lanesTaken_retiring, List.length_append, Bool.true_and]
    exact decide_eq_true (Nat.add_lt_add_right hlt 1)
  · obtain rfl := honly i hi (by rw [← hpc]; exact hfailed)
    unfold Mach.goneOn
    simp only [hrepair, List.contains_iff_mem, List.mem_filter, List.mem_range, Bool.or_eq_true, List.mem_map]
    exact ⟨hi, Or.inr ⟨g, mem_retiring _ g, by rw [hg]⟩⟩

/-- What a retirement leaves, where it leaves no pseudo-channel in FAILED mode: the die's migration to the lane, the pseudo-channel no
longer due, and one more record. -/
theorem startRetire_of_find? {s : Mach} {n lane : Nat} (hcan : s.canRetire (n / 256) = true)
    (hleft : (s.repairOf (n / 256)).lanesTaken.length < 7 ∨
      ∀ i, i < 256 → (s.pc (256 * (n / 256) + i)).state = 2#2 → i = n % 256)
    (hfind : ((List.range 8).find? fun j => !(s.repairOf (n / 256)).lanesTaken.contains j) = some lane) :
    ∃ (g : Migration) (t : Mach), startRetire s n = t ∧ g.target = n ∧ g.lane = lane ∧ g.w = 0 ∧
      (∀ d, t.repairOf d = if d = n / 256 then retiring (s.repairOf (n / 256)) g else s.repairOf d) ∧
      (∀ k, t.pc k = if k = n then { s.pc k with retireDue := false } else s.pc k) ∧
      t.recordsDue.length = s.recordsDue.length + 1 ∧
      t = { s with regs := t.regs, repairs := t.repairs, pcs := t.pcs, recordsDue := t.recordsDue } := by
  obtain ⟨a, g, r, ha, hg, hw, hgl, hstart⟩ := startRetire_eq s n
  rw [hfind, Option.getD_some] at hgl
  have hrep (d : Nat) : a.repairOf d = s.repairOf d := by rw [ha]; rfl
  have hpc (k : Nat) : a.pc k = s.pc k := by rw [ha]; rfl
  have hcan' : a.canRetire (n / 256) = true := by rw [ha]; exact hcan
  rw [← hrep, failAll_retiring hg hcan' (by simpa only [hrep, hpc] using hleft) _ rfl] at hstart
  refine ⟨g, _, hstart, hg, hgl, hw, fun d => ?_, fun k => ?_, ?_, ?_⟩
  · rw [← hrep, ← hrep]
    exact repairOf_setRepair a (n / 256) _ d
  · rw [← hpc]
    refine (pc_setPc _ n _ k).trans ?_
    by_cases h : k = n
    · rw [if_pos h, if_pos h, h]
    · rw [if_neg h, if_neg h, pc_setRepair]
  · rw [ha]
    exact List.length_append
  · rw [ha]
    rfl

/-- The retirements the spec allows: out of the safe state, with repair and a lane, under production firmware, of one that is due or FAILED and
not on its way out. -/
theorem pcRetire_eq_startRetire {s : Mach} {n : Nat} (hsafe : s.safe = false) (hcan : s.canRetire (n / 256) = true)
    (hfw : bit (s.reg (safReg 0)).toNat 26 = true) (hdue : (s.pc n).retireDue = true ∨ (s.pc n).state = 2#2)
    (hgone : (s.goneOn (n / 256)).contains (n % 256) = false) : pcRetire s n = startRetire s n := by
  have hdue' : ((s.pc n).retireDue || (s.pc n).state == 2#2) = true := by simpa using hdue
  unfold pcRetire
  simp only [hsafe, hcan, hfw, hdue', hgone]
  rfl

/-- Any other retirement is not made. -/
theorem pcRetire_eq_self {s : Mach} {n : Nat} (h : s.safe = true ∨ s.repair = false ∨ bit (s.reg (safReg 0)).toNat 26 = false ∨
    8 ≤ (s.repairOf (n / 256)).lanesTaken.length ∨ (s.pc n).retireDue = false ∧ (s.pc n).state ≠ 2#2) : pcRetire s n = s := by
  refine if_pos ?_
  rcases h with h | h | h | h | ⟨hdue, hstate⟩
  · simp [h]
  · simp [Mach.canRetire, h]
  · simp [h]
  · simp [Mach.canRetire, Nat.not_lt.2 h]
  · simp [hdue, hstate]

theorem exec_pseudoChannelRetire (s : State) (n : PcNo) :
    exec (.pseudoChannelRetire n) s = .next { s with m := pcRetire s.m n.toNat } := rfl


theorem mig_retiring {r : RepairSt} (g : Migration) (h : r.mig = none) : (retiring r g).mig = some g := by
  unfold retiring; rw [h]

theorem waiting_retiring {r : RepairSt} (g : Migration) (h : r.mig ≠ none) : (retiring r g).waiting = r.waiting ++ [g] := by
  unfold retiring
  split
  · next hn => exact absurd hn h
  · rfl

/-! ## A step of a migration (R280, R281) -/

/-- Lines that leave a cache beneath which no mark waits leave nothing else. -/
theorem dropLine_of_under {s : Mach} (h : s.under = []) (l : Line) : s.dropLine l = s := by
  refine each_eq_self _ _ s fun k _ => ?_
  simp only [h]
  rfl

theorem dropLines_of_under {s : Mach} (h : s.under = []) (gs : List (Nat × Nat)) :
    ∃ cache, dropLines s gs = { s with cache := cache } := by
  unfold dropLines
  extract_lets mine gone
  refine ⟨_, each_eq_self _ gone _ ?_⟩
  exact fun l _ => by rw [dropLine_of_under]; exact h

/-- The copy of a step from a pseudo-channel that has not FAILED writes what the places of no address hold, and nothing else. -/
theorem copyStep_frame (s : Mach) (gs : List (Nat × Nat)) : ∃ x, copyStep s false gs = { s with spare := x } := by
  unfold copyStep
  rw [if_neg Bool.false_ne_true]
  extract_lets secs
  refine rel_each (fun a b => ∃ x, b = { a with spare := x }) (fun a b c hb hc => ?_) (fun s => ⟨s.spare, rfl⟩) _ (fun k u => ?_) secs s
  · obtain ⟨x, rfl⟩ := hb
    exact hc
  · split
    · exact ⟨_, rfl⟩
    · exact ⟨u.spare, rfl⟩

theorem dropMoved_eq_self {s : Mach} (h : ∀ x ∈ s.pcs, x.2.state ≠ 2#2) (gs : List (Nat × Nat)) : dropMoved s gs = s :=
  if_pos (List.all_eq_true.2 fun x hx => bne_iff_ne.2 (h x hx))

theorem publishStep_of_lt {s : Mach} {d : Nat} {g : Migration} {x : Region} {l : List Region} (hg : g.regions = x :: l)
    (hw : g.w + 4096 < regionSize x) : publishStep s d g =
      (s.setReg (memReg 0) (s.reg (memReg 0) + 1#32)).setRepair d { s.repairOf d with mig := some { g with w := g.w + 4096 } } := by
  unfold publishStep
  simp only [hg]
  exact if_pos hw

theorem exec_migrationStep (s : State) (d : DieNo) : exec (.migrationStep d) s = .next { s with m := migrationStep s.m d.toNat } := rfl

/-- The machine with the watermark of a die's migration moved and the map's generation one on. -/
def watermarkMoved (s : Mach) (d : Nat) (g : Migration) (cache : Tab (List Line)) (spare : Tab (BitVec 513)) : Mach :=
  { (s.setReg (memReg 0) (s.reg (memReg 0) + 1#32)).setRepair d { s.repairOf d with mig := some { g with w := g.w + 4096 } } with
    cache := cache, spare := spare }

/-- The parts of the machine that a step of a migration may change. -/
def Stepped (a b : Mach) : Prop :=
  b = { a with regs := b.regs, repairs := b.repairs, cache := b.cache, spare := b.spare, lastStep := b.lastStep }

theorem Stepped.trans {a b c : Mach} (h : Stepped a b) (h' : Stepped b c) : Stepped a c := by
  unfold Stepped at h h'
  rw [h] at h'
  exact h'

theorem Stepped.of_regs {a b : Mach} (h : RegsOnly a b) : Stepped a b := by
  unfold Stepped
  rw [h]

theorem Stepped.lastStep {a b : Mach} (h : Stepped a b) (x : Option StepRec) : Stepped a { b with lastStep := x } := by
  unfold Stepped at h ⊢
  rw [h]

theorem stepped_watermarkMoved (s : Mach) (d : Nat) (g : Migration) (cache : Tab (List Line)) (spare : Tab (BitVec 513)) :
    Stepped s (watermarkMoved s d g cache spare) := rfl

theorem repairOf_watermarkMoved (s : Mach) (d : Nat) (g : Migration) (cache : Tab (List Line)) (spare : Tab (BitVec 513)) (e : Nat) :
    (watermarkMoved s d g cache spare).repairOf e =
      if e = d then { s.repairOf d with mig := some { g with w := g.w + 4096 } } else s.repairOf e :=
  repairOf_setRepair _ _ _ _

theorem reg_watermarkMoved (s : Mach) (d : Nat) (g : Migration) (cache : Tab (List Line)) (spare : Tab (BitVec 513)) (x : Nat) :
    (watermarkMoved s d g cache spare).reg x = if x = memReg 0 then s.reg (memReg 0) + 1#32 else s.reg x :=
  reg_setReg _ _ _ _

theorem dropMoved_publishStep {s : Mach} {d : Nat} {g : Migration} {x : Region} {l : List Region} (hg : g.regions = x :: l)
    (hw : g.w + 4096 < regionSize x) (hunder : s.under = []) (hpcs : ∀ x ∈ s.pcs, x.2.state ≠ 2#2) (gs : List (Nat × Nat)) :
    ∃ cache spare, dropMoved (publishStep (copyStep (dropLines s gs) false gs) d g) gs = watermarkMoved s d g cache spare := by
  obtain ⟨cache, hdrop⟩ := dropLines_of_under hunder gs
  obtain ⟨spare, hcopy⟩ := copyStep_frame (dropLines s gs) gs
  rw [publishStep_of_lt hg hw, hcopy, hdrop]
  refine ⟨cache, spare, ?_⟩
  rw [dropMoved_eq_self]
  · rfl
  · exact hpcs

/-- The interrupt that ends a step's hold touches neither the map's generation nor a count of holds. -/
theorem reg_raise_pcSrc (s : Mach) (n x : Nat) (hx : x = memReg 0 ∨ ∃ g, x = ldlReg g 0x10C) :
    (s.raise (pcSrc n).1 ((pcSrc n).2 + 2)).reg x = s.reg x := by
  have hsrc : (pcSrc n).2 + 2 = 50 + 4 * (n / 32 % 8) := by unfold pcSrc; omega
  refine reg_raise_other s _ _ _ ?_ ?_ <;> rcases hx with rfl | ⟨g, rfl⟩ <;> unfold flaskReg <;> simp only [memReg, ldlReg] <;> omega

/-- A step of a region of a logical channel with more steps: one hold counted, lines dropped, granules copied, the watermark moved. -/
theorem migrationStep_of_logical {s : Mach} {d : Nat} {g : Migration} {c : Nat} {l : List Region} (hsafe : s.safe = false)
    (hmig : (s.repairOf d).mig = some g) (hreg : g.regions = .logical c :: l) (hw : g.w + 4096 < 3047424)
    (hsrc : (s.pc g.target).state = 0#2) (hheld : ∀ k, k < 248 → (s.pc (256 * d + s.spread d g.lane k)).state ≠ 1#2)
    (hladle : ∀ x ∈ s.cmds, isLadleOp (dOp x.desc) = false) (hunder : s.under = []) (hpcs : ∀ x ∈ s.pcs, x.2.state ≠ 2#2) :
    ∃ cache spare, migrationStep s d = ({ watermarkMoved (s.bump (ldlReg (g.target / 32) 0x10C) 1) d g cache spare with
      lastStep := some ⟨(s.reg (memReg 0) + 1#32).toNat, d, .logical c, g.w, g.target / 32⟩ } : Mach).raise
        (pcSrc g.target).1 ((pcSrc g.target).2 + 2) := by
  have hmem : (s.bump (ldlReg (g.target / 32) 0x10C) 1).reg (memReg 0) = s.reg (memReg 0) :=
    (reg_bump s _ 1 _).trans (if_neg (by unfold memReg ldlReg; omega))
  have hold : (s.cmds.any fun c => isLadleOp (dOp c.desc) && (c.st == .check || c.st == .checked || c.st == .work) && c.begun &&
      c.mapGen != (s.reg (memReg 0)).toNat) = false := by
    rw [List.any_eq_false]
    intro x hx
    simp [hladle x hx]
  have hbusy : (((List.range 248).map fun k => 256 * d + s.spread d g.lane k).any
      fun n => (s.pc n).state == 1#2 && (s.pc n).reason != 2#2) = false := by
    rw [List.any_eq_false]
    intro n hn
    obtain ⟨k, hk, rfl⟩ := List.mem_map.1 hn
    simp [hheld k (List.mem_range.1 hk)]
  unfold migrationStep
  split
  case h_1 hnone => rw [hmig] at hnone; cases hnone
  case h_2 g' hsome =>
  obtain rfl : g = g' := Option.some.inj (hmig.symm.trans hsome)
  extract_lets src gs old mine busy targets s1 s2 s3 s4 s5 fresh s6
  have hsrc' : src = g.target := by
    unfold src Mach.regionSrc
    rw [hreg]
  have htargets : targets = (List.range 248).map fun k => 256 * d + s.spread d g.lane k := by
    unfold targets
    rw [hreg]
  have hmine : mine = false := by simp [mine, hsrc', hsrc]
  rw [if_neg (by simp [hsafe, hreg, old, hold, busy, hsrc', hsrc, htargets, hbusy])]
  have h1 : s1 = s.bump (ldlReg (g.target / 32) 0x10C) 1 := by simp [s1, hmine, hsrc']
  have hframe : s1 = { s with regs := s1.regs } := by rw [h1]; exact bump_frame s _ 1
  have hunder1 : s1.under = [] := by rw [hframe]; exact hunder
  have hfailed : ((s2.pc src).state == 2#2) = false := by
    obtain ⟨cache, hdrop⟩ := dropLines_of_under hunder1 gs
    have hpc : s2.pc src = s.pc g.target := by
      unfold s2
      rw [hdrop, hframe, hsrc']
      rfl
    rw [hpc, hsrc]
    rfl
  have h3 : s3 = copyStep (dropLines s1 gs) false gs := by rw [← hfailed]
  obtain ⟨cache, spare, h4⟩ := dropMoved_publishStep (s := s1) (d := d) hreg hw hunder1 (by rw [hframe]; exact hpcs) gs
  rw [← h3] at h4
  have h5 : s5 = { s4 with lastStep := some ⟨(s4.reg (memReg 0)).toNat, d, .logical c, g.w, g.target / 32⟩ } := by
    unfold s5
    rw [hreg, hsrc']
  have hgen : s4.reg (memReg 0) = s.reg (memReg 0) + 1#32 := by
    rw [show s4 = _ from h4]
    exact (reg_setReg _ _ _ _).trans ((if_pos rfl).trans (by rw [h1, hmem]))
  rw [hmine, if_neg Bool.false_ne_true, hsrc']
  refine ⟨cache, fresh, congrArg (fun m : Mach => m.raise _ _) ?_⟩
  unfold s6
  rw [h5, hgen, show s4 = _ from h4, h1]
  rfl

/-- Settles O25: a retirement takes the lowest lane (`find?_lane`) and changes what `startRetire_of_find?` lists; a step of a migration drops
lines beneath which no mark waits, copies to places of no address, and moves the watermark (`migrationStep_of_logical`). -/
theorem retirementAndMigration : Obligations.RetirementAndMigration := by
  refine ⟨fun s n hsafe hcan hfw hdue hgone hleft => ?_, fun s n hnot => ?_, ?_⟩
  · obtain ⟨lane, hfind, hlane, hfree, hbelow⟩ := find?_lane (of_decide_eq_true (Bool.and_eq_true_iff.1 hcan).2)
    obtain ⟨g, t, hstart, hg, hgl, hw, hrep, hpc, hrec, hframe⟩ := startRetire_of_find? hcan hleft hfind
    have hdie := (hrep (n.toNat / 256)).trans (if_pos rfl)
    refine ⟨{ s with m := t }, lane, ?_, hlane, hfree, hbelow, ?_, ⟨g, hg, hgl, hw, fun h => ?_, fun h => ?_⟩, hpc,
      fun d hd => (hrep d).trans (if_neg hd), hrec, congrArg (fun m => ({ s with m := m } : State)) hframe⟩
    · rw [exec_pseudoChannelRetire, pcRetire_eq_startRetire hsafe hcan hfw hdue hgone, hstart]
    · rw [hdie, lanesTaken_retiring, hgl]
    · rw [hdie, mig_retiring g h]
    · rw [hdie, waiting_retiring g h]
  · rw [exec_pseudoChannelRetire, pcRetire_eq_self hnot]
  · intro s d g c l hsafe hmig hreg hw hsrc hheld hladle hunder hpcs
    obtain ⟨cache, spare, hstep⟩ := migrationStep_of_logical hsafe hmig hreg hw hsrc hheld hladle hunder hpcs
    have hgen : memReg 0 ≠ ldlReg (g.target / 32) 0x10C := by unfold memReg ldlReg; omega
    have hcount (x : Nat) := reg_bump s.m (ldlReg (g.target / 32) 0x10C) 1 x
    have hbump := bump_frame s.m (ldlReg (g.target / 32) 0x10C) 1
    generalize s.m.bump (ldlReg (g.target / 32) 0x10C) 1 = y at hstep hcount hbump
    have hmoved := stepped_watermarkMoved y d.toNat g cache spare
    have hrepair (e : Nat) := repairOf_watermarkMoved y d.toNat g cache spare e
    have hregs (x : Nat) := reg_watermarkMoved y d.toNat g cache spare x
    generalize watermarkMoved y d.toNat g cache spare = z at hstep hmoved hrepair hregs
    have hraise := raise_frame { z with lastStep := some ⟨(s.m.reg (memReg 0) + 1#32).toNat, d.toNat, .logical c, g.w, g.target / 32⟩ }
      (pcSrc g.target).1 ((pcSrc g.target).2 + 2)
    have hsame := reg_raise_pcSrc { z with
      lastStep := some ⟨(s.m.reg (memReg 0) + 1#32).toNat, d.toNat, .logical c, g.w, g.target / 32⟩ } g.target
    rw [← hstep] at hraise hsame
    have hrep (e : Nat) : (migrationStep s.m d.toNat).repairOf e =
        if e = d.toNat then { s.m.repairOf d.toNat with mig := some { g with w := g.w + 4096 } } else s.m.repairOf e := by
      rw [hraise]
      refine (hrepair e).trans ?_
      rw [hbump]
      rfl
    refine ⟨{ s with m := migrationStep s.m d.toNat }, exec_migrationStep s d, (hrep _).trans (if_pos rfl),
      fun e he => (hrep e).trans (if_neg he), ?_, ?_, ?_, ?_⟩
    · exact (hsame _ (.inl rfl)).trans ((hregs _).trans ((if_pos rfl).trans (by rw [hcount, if_neg hgen])))
    · exact (hsame _ (.inr ⟨_, rfl⟩)).trans ((hregs _).trans ((if_neg hgen.symm).trans ((hcount _).trans (if_pos rfl))))
    · exact congrArg Mach.lastStep hraise
    · exact congrArg (fun m => ({ s with m := m } : State))
        ((Stepped.of_regs hbump).trans ((hmoved.lastStep _).trans (Stepped.of_regs hraise)))

end Sys2Proof.Proofs
end

section
/-! SUPPORT. The loss of the module tier (12 R288; 13 R318): what the moves it starts, ends and reports leave as it was. -/

namespace Sys2Proof.Proofs

open Sys2Proof Sys2Proof.Machine Sys2Proof.Laws Sys2Proof.Safety

/-! ## What the bookkeeping of moves leaves (13 R303 to R307) -/

/-- From a to b moves have been started, ended and reported: no stored byte, package or command has changed, and records have been added
at the end of those due. -/
structure TiersStand (a b : Mach) : Prop where
  near : b.near = a.near
  lp : b.lp = a.lp
  pkgs : b.pkgs = a.pkgs
  moduleOut : b.moduleOut = a.moduleOut
  cmds : b.cmds = a.cmds
  records : ∃ l, b.recordsDue = a.recordsDue ++ l

namespace TiersStand

variable {a b c : Mach}

theorem refl (s : Mach) : TiersStand s s := ⟨rfl, rfl, rfl, rfl, rfl, [], (List.append_nil _).symm⟩

theorem trans (h : TiersStand a b) (h' : TiersStand b c) : TiersStand a c where
  near := h'.near.trans h.near
  lp := h'.lp.trans h.lp
  pkgs := h'.pkgs.trans h.pkgs
  moduleOut := h'.moduleOut.trans h.moduleOut
  cmds := h'.cmds.trans h.cmds
  records := by
    obtain ⟨l, hl⟩ := h.records
    obtain ⟨l', hl'⟩ := h'.records
    exact ⟨l ++ l', by rw [hl', hl, List.append_assoc]⟩

/-- Parts that no tier, package or command is kept in may change in any way. -/
theorem of_frame (h : b = { a with
    regs := b.regs, slag := b.slag, under := b.under, cache := b.cache, cores := b.cores, slices := b.slices, objs := b.objs,
    victimStart := b.victimStart, ctxs := b.ctxs, syncs := b.syncs, syncDue := b.syncDue, syncNews := b.syncNews,
    appliedTotal := b.appliedTotal, sent := b.sent, sessions := b.sessions, out := b.out, txHeld := b.txHeld }) : TiersStand a b := by
  rw [h]
  exact ⟨rfl, rfl, rfl, rfl, rfl, [], (List.append_nil _).symm⟩

theorem ite {p : Prop} [Decidable p] {s t u : Mach} (ht : TiersStand s t) (hu : TiersStand s u) :
    TiersStand s (if p then t else u) := by
  split
  · exact ht
  · exact hu

theorem each {α : Type} (f : α → Mach → Mach) (h : ∀ x s, TiersStand s (f x s)) (l : List α) (s : Mach) :
    TiersStand s (Machine.each f l s) := rel_each TiersStand (fun _ _ _ => trans) refl f h l s

variable (s : Mach)

theorem bump (x n : Nat) : TiersStand s (s.bump x n) := of_frame (by rw [bump_frame])
theorem raise (d n : Nat) : TiersStand s (s.raise d n) := of_frame (by rw [raise_frame])
theorem setObj (n : Nat) (x : Obj) : TiersStand s (s.setObj n x) := of_frame rfl
theorem setCtx (n : Nat) (x : CtxSt) : TiersStand s (s.setCtx n x) := of_frame rfl
theorem recordDue (r : RecordReq) : TiersStand s (s.recordDue r) := ⟨rfl, rfl, rfl, rfl, rfl, _, rfl⟩
theorem awaitCredit (r g : Nat) : TiersStand s (s.awaitCredit r g) := of_frame (by rw [awaitCredit_frame])
theorem invalidateObj (n : Nat) : TiersStand s (s.invalidateObj n) := of_frame (by rw [invalidateObj_frame])

theorem poisonObj (n : Nat) : TiersStand s (s.poisonObj n) := by
  unfold Mach.poisonObj
  extract_lets o clean t u
  have hu : TiersStand s u := ((setObj s n _).trans (bump _ _ _)).trans (recordDue t _)
  exact ite (refl s) (ite hu ((hu.trans (setObj u n _)).trans (invalidateObj _ _)))

/-! ### Operations on synchronisation objects (06 R160, R164; 14 R332) -/

theorem setSlag (pa : Nat) (v : Bool) : TiersStand s (s.setSlag pa v) := by
  unfold Mach.setSlag
  extract_lets t
  have ht : TiersStand s t := of_frame rfl
  split
  · split
    · exact ht.trans (poisonObj t _)
    · exact ht
  · exact ht

theorem dropLine (l : Line) : TiersStand s (s.dropLine l) := by
  refine each _ (fun k t => ?_) _ s
  extract_lets u
  have hu : TiersStand t u := of_frame rfl
  exact ite (refl t) (ite hu (hu.trans (setSlag u _ _)))

theorem replaceSet (g set : Nat) (l : List Line) : TiersStand s (s.replaceSet g set l) :=
  trans (b := s.setCacheSet g set l) (of_frame rfl) (each _ (fun x t => dropLine t x) _ _)

theorem touchLine (pa : Nat) (write : Bool) (h : Hint) : TiersStand s (s.touchLine pa write h) := by
  unfold Mach.touchLine
  extract_lets g set l tag hit t others kind kept rest line
  have ht : TiersStand s t := bump s _ _
  have hset : ∀ ls, TiersStand s (t.replaceSet g set ls) := fun ls => ht.trans (replaceSet t g set ls)
  clear_value kind
  split
  · exact ht
  · split
    · exact ite ((hset _).trans (bump _ _ _)) (hset _)
    · exact hset _

theorem onSyncLine (r obj : Nat) (wr atom : Bool) : TiersStand s (s.onSyncLine r obj wr atom).state := by
  unfold Mach.onSyncLine
  extract_lets pa g
  have htouch := touchLine s pa wr .none
  split
  · exact refl s
  · split
    · exact htouch
    · split
      · exact refl s
      · split
        · exact of_frame rfl
        · exact (htouch.trans (bump _ _ _)).trans (of_frame rfl)

theorem doSync (obj op val ctx : Nat) : TiersStand s (s.doSync obj op val ctx) := by
  unfold Mach.doSync
  extract_lets t x cx v cx'
  have ht : TiersStand s t := of_frame rfl
  exact ite ht (ht.trans (of_frame rfl))

theorem applySync (r obj op val ctx : Nat) : TiersStand s (s.applySync r obj op val ctx) := by
  unfold Mach.applySync
  extract_lets keep
  have hkeep : ∀ t, TiersStand t (keep t) := fun _ => of_frame rfl
  have hline := onSyncLine s r obj true (op != 3)
  split
  · exact refl s
  · split
    · exact hkeep s
    · generalize s.onSyncLine r obj true (op != 3) = res at hline
      cases res with
      | ok _ t => exact hline.trans (doSync t obj op val ctx)
      | err f t =>
        have ht : TiersStand s t := hline
        cases f with
        | credit r' g => exact (ht.trans (awaitCredit t r' g)).trans (hkeep _)
        | held pc => exact ht.trans (hkeep t)
        | _ => exact ite ((ht.trans (setCtx t _ _)).trans (raise _ _ _)) ht

/-! ### Faults, events and reports (14 R344; 15 R367, R376) -/

theorem fatalOn (die ctx st cmdId : Nat) : TiersStand s (s.fatalOn die ctx st cmdId) :=
  ite (refl s) ((setCtx s _ _).trans (raise _ _ _))

theorem postEvent (k opcode status body : Nat) (final : Bool) : TiersStand s (s.postEvent k opcode status body final) := by
  unfold Mach.postEvent
  extract_lets x n t
  refine ite (refl s) (ite (of_frame rfl) (trans (b := t) (of_frame rfl) (of_frame ?_)))
  rw [sendOn_frame]

theorem reportPlaces (n : Nat) (p : Nat → Bool) (st : Nat) : TiersStand s (reportPlaces s n p st) :=
  (setObj s n _).trans (each _ (fun _ t => postEvent t _ _ _ _ _) _ _)

theorem signalPlaced (n : Nat) (h : NoneHeld s) : TiersStand s (signalPlaced s n) := by
  unfold Machine.signalPlaced
  extract_lets o t
  split
  · exact refl s
  · have ht : TiersStand s t := applySync s _ _ _ _ _
    have hset := ht.trans (setObj t n { t.obj n with syncEn := false })
    have hnone : NoneHeld (t.setObj n { t.obj n with syncEn := false }) := by
      unfold NoneHeld
      rw [hset.cmds]
      exact h
    exact hset.trans (of_frame (by rw [retest_frame hnone]))

/-! ### Moves (13 R303 to R307) -/

theorem startDown (n dst : Nat) : TiersStand s (s.startDown n dst) := by
  unfold Mach.startDown
  extract_lets o src base o' t
  have ht : TiersStand s t := of_frame rfl
  exact ite (ht.trans (invalidateObj t n)) ht

theorem evictLoop (x : Obj) (l : List Nat) : TiersStand s (evictLoop x l s) := by
  induction l generalizing s with
  | nil => exact refl s
  | cons n l ih =>
    rw [Machine.evictLoop]
    exact ite (refl s) (ite (((startDown s n _).trans (of_frame rfl)).trans (ih _)) (ih s))

theorem startUp {s t : Mach} {n dst : Nat} (h : s.startUp n dst = some t) : TiersStand s t := by
  unfold Mach.startUp at h
  extract_lets o src base at h
  obtain ⟨b, -, h⟩ := Option.bind_eq_some_iff.1 h
  extract_lets base' at h
  split at h
  · cases h
    exact setObj s n _
  · split at h
    · cases h
    · cases h
      exact ((setObj s n _).trans (evictLoop _ o _)).trans (setObj _ n _)

theorem healed (n : Nat) : TiersStand s (healed s n) := ite (refl s) (setObj s n _)

theorem failPromotion (n st : Nat) : TiersStand s (failPromotion s n st) := by
  unfold Machine.failPromotion
  extract_lets o ws rs t u v
  have ht : TiersStand s t := (setObj s n _).trans (healed _ n)
  have hu : TiersStand s u := ht.trans (each _ (fun _ m => fatalOn m _ _ _ _) _ t)
  exact (hu.trans (each _ (fun _ m => fatalOn m _ _ _ _) _ u)).trans (reportPlaces v n _ _)

theorem startUpOr (n dst : Nat) : TiersStand s (startUpOr s n dst) := by
  unfold Machine.startUpOr
  split
  · next h => exact startUp h
  · exact failPromotion s n _

theorem abandonMove (n : Nat) (h : NoneHeld s) : TiersStand s (abandonMove s n) := by
  unfold Machine.abandonMove
  extract_lets o t o' u near x v w
  have ht : TiersStand s t := bump s _ _
  split
  · have hu : TiersStand s u := (ht.trans (setObj t n _)).trans (invalidateObj _ n)
    have hnone : NoneHeld u := by
      unfold NoneHeld
      rw [hu.cmds]
      exact h
    have hv : TiersStand s v := ite (hu.trans (signalPlaced u n hnone)) (hu.trans (setObj u n _))
    exact (hv.trans (reportPlaces v n _ _)).trans (reportPlaces _ n _ _)
  · exact ((ht.trans (setObj t n _)).trans (reportPlaces _ n _ _)).trans (startUpOr w n 1)


theorem leaveModule (n : Nat) : TiersStand s (leaveModule s n) := by
  unfold Machine.leaveModule
  exact (setObj s n _).trans (reportPlaces _ n _ _)

theorem noneHeld (h : TiersStand a b) (hnone : NoneHeld a) : NoneHeld b := by
  unfold NoneHeld
  rw [h.cmds]
  exact hnone

theorem each_of_noneHeld {α : Type} (f : α → Mach → Mach) (h : ∀ x s, NoneHeld s → TiersStand s (f x s)) (l : List α)
    (hnone : NoneHeld s) : TiersStand s (Machine.each f l s) :=
  rel_each (fun a b => NoneHeld a → TiersStand a b)
    (fun _ _ _ hab hbc ha => (hab ha).trans (hbc ((hab ha).noneHeld ha))) (fun s _ => refl s) f h l s hnone

end TiersStand

/-! ## LPDDR_PACKAGE_FAIL (12 R288; 13 R318) -/

theorem loseModule_stands {s : Mach} (h : NoneHeld s) (hin : s.moduleOut = false) :
    TiersStand { s with moduleOut := true } (loseModule s) := by
  unfold loseModule
  rw [if_neg (by simp [hin])]
  extract_lets t
  refine TiersStand.each_of_noneHeld _ _ (fun p u hu => ?_) _ h
  extract_lets n o v o' w
  have hv : TiersStand u v := .poisonObj u n
  exact .ite (.ite ((hv.trans (.setObj v n _)).trans (.startUpOr w n 1)) hv)
    (.ite (.abandonMove u n hu) (.ite (.leaveModule u n) (.refl u)))

theorem moduleOut_loseModule {s : Mach} (h : NoneHeld s) : (loseModule s).moduleOut = true := by
  cases hin : s.moduleOut with
  | true => rw [loseModule, if_pos hin, hin]
  | false => exact (loseModule_stands h hin).moduleOut

/-- The tiers but for the module tier's use stand when that goes. -/
theorem loseModule_parts {s : Mach} (h : NoneHeld s) : (loseModule s).near = s.near ∧ (loseModule s).lp = s.lp ∧
    (loseModule s).pkgs = s.pkgs ∧ ∃ l, (loseModule s).recordsDue = s.recordsDue ++ l := by
  cases hin : s.moduleOut with
  | true =>
    rw [loseModule, if_pos hin]
    exact ⟨rfl, rfl, rfl, [], (List.append_nil _).symm⟩
  | false =>
    have hlost := loseModule_stands h hin
    exact ⟨hlost.near, hlost.lp, hlost.pkgs, hlost.records⟩

theorem exec_lpddrPackageFail (s : State) (p : PkgNo) :
    exec (.lpddrPackageFail p) s = .next { s with m := packageFail s.m p.toNat } := rfl

theorem packageFail_of_failed {s : Mach} {p : Nat} (h : (s.pkg p).state = 2#2) : packageFail s p = s :=
  if_pos (by rw [h]; rfl)

/-- A package that fails: the record, the request it was to answer, the loss of the module tier. -/
theorem packageFail_eq {s : Mach} {p : Nat} (h : (s.pkg p).state ≠ 2#2) : ∃ y, TiersStand
      ((s.setPkg p { s.pkg p with state := 2#2 }).recordDue
        ⟨0x24#8, w32 p, BitVec.ofNat 2 (p / 4), 0x3FF#10, 0#16, [(s.setPkg p { s.pkg p with state := 2#2 }).pkgState p]⟩) y ∧
    packageFail s p = loseModule y := by
  unfold packageFail
  rw [if_neg (by simpa using h)]
  extract_lets x t u y
  refine ⟨y, .ite ?_ (.refl _), rfl⟩
  exact ⟨rfl, rfl, rfl, rfl, rfl, [], (List.append_nil _).symm⟩

end Sys2Proof.Proofs
end

section
/-! SUPPORT. Margining holds and patrol (12 R272, R287, R289, R290; 21 R475). -/

namespace Sys2Proof.Proofs

open Sys2Proof Sys2Proof.Machine Sys2Proof.Laws Sys2Proof.Safety

/-! ## Margining holds (R289, R290; 21 R475) -/

/-- From a to b a target has been margined: registers, pseudo-channels and the sectors of its own patterns may have changed. -/
def Margined (a b : Mach) : Prop :=
  b = { a with regs := b.regs, pcs := b.pcs, near := b.near, slag := b.slag, under := b.under, spare := b.spare,
               lpSpare := b.lpSpare, free := b.free }

theorem Margined.trans {a b c : Mach} (h : Margined a b) (h' : Margined b c) : Margined a c := by
  unfold Margined at h h'
  rw [h] at h'
  exact h'

theorem Margined.of_regs {a b : Mach} (h : RegsOnly a b) : Margined a b := by
  unfold Margined
  rw [h]

theorem Margined.setSpare (s : Mach) (t : Tab (BitVec 513)) : Margined s { s with spare := t } := rfl

theorem Margined.setLpSpare (s : Mach) (t : Tab (Option (BitVec 513))) : Margined s { s with lpSpare := t } := rfl

/-- A sector stored without a mark poisons nothing; of a package it lies beyond the data. -/
theorem margined_store {s : Mach} {a : SectorAt} (ha : ∀ p k, a = .lpddr p k → pkgData ≤ k.toNat) (l : List Byte) :
    Margined s (s.store a { bytes := l, slag := false }) := by
  cases a with
  | hbm n k =>
    unfold Mach.store
    dsimp only
    split
    · split <;> rfl
    · exact .setSpare s _
  | lpddr p k =>
    unfold Mach.store
    dsimp only
    rw [if_pos (ha p k rfl)]
    exact .setLpSpare s _

/-- The sectors of a package that write margining writes are those of its test area. -/
theorem pkgData_le_of_mem_written {x : Sweep} {p : PkgNo} {k : BitVec 29} (h : SectorAt.lpddr p k ∈ x.written) : pkgData ≤ k.toNat := by
  unfold Sweep.written at h
  split at h
  · cases h
  · split at h
    · obtain ⟨j, hj, heq⟩ := List.mem_map.1 h
      have hj' : j < 2097152 := List.mem_range.1 hj
      cases heq
      rw [BitVec.toNat_ofNat]
      unfold pkgData pkgTest
      omega
    · obtain ⟨j, -, heq⟩ := List.mem_map.1 h
      cases heq

theorem margined_overwrite (s : Mach) (x : Sweep) : Margined s (overwrite s x.written) := by
  have hall : ∀ a ∈ x.written, ∀ p k, a = .lpddr p k → pkgData ≤ k.toNat := by
    rintro _ ha p k rfl
    exact pkgData_le_of_mem_written ha
  unfold overwrite each
  generalize x.written = l at hall
  induction l generalizing s with
  | nil => rfl
  | cons a l ih =>
    refine Margined.trans ?_ (ih _ fun b hb => hall b (List.mem_cons_of_mem a hb))
    exact Margined.trans (b := (s.freshBytes 8).2) rfl (margined_store (hall a List.mem_cons_self) _)

theorem overwrite_of_readOnly (s : Mach) {x : Sweep} (h : x.kind < 2) : overwrite s x.written = s := by
  unfold Sweep.written
  rw [if_pos h]
  rfl

/-- From a to b at most plain registers and pseudo-channels have changed. -/
def PcsOnly (a b : Mach) : Prop := b = { a with regs := b.regs, pcs := b.pcs }

theorem PcsOnly.trans {a b c : Mach} (h : PcsOnly a b) (h' : PcsOnly b c) : PcsOnly a c := by
  unfold PcsOnly at h h'
  rw [h] at h'
  exact h'

theorem PcsOnly.of_regs {a b : Mach} (h : RegsOnly a b) : PcsOnly a b := by
  unfold PcsOnly
  rw [h]

theorem PcsOnly.setPc (s : Mach) (n : Nat) (x : PcSt) : PcsOnly s (s.setPc n x) := rfl

theorem Margined.of_pcs {a b : Mach} (h : PcsOnly a b) : Margined a b := by
  unfold Margined
  rw [h]

theorem RegsOnly.bump (s : Mach) (a n : Nat) : RegsOnly s (s.bump a n) := bump_frame s a n

theorem RegsOnly.raise (s : Mach) (d n : Nat) : RegsOnly s (s.raise d n) := raise_frame s d n

/-- A sweep after one of its holds. -/
def sweepHeld (x : Sweep) (h : MarginHold) (now : Nat) : Sweep :=
  if h.up then
    { x with pos := x.pos + h.clean.toNat, posDone := h.failed || decide (x.pos + h.clean.toNat ≥ 32), lastHold := some now }
  else { x with neg := x.neg + h.clean.toNat, negDone := h.failed || decide (x.neg + h.clean.toNat ≥ 32), lastHold := some now }

/-- A hold that the spec allows, before the other direction is done, leaves the sweep in progress. -/
theorem marginHold_eq {s : Mach} {h : MarginHold} {x : Sweep} (hsafe : s.safe = false) (hsweep : s.sweep = some x)
    (hdone : (if h.up then x.posDone else x.negDone) = false) (hother : (if h.up then x.negDone else x.posDone) = false)
    (hapart : ∀ e, x.lastHold = some e → e + 10 ≤ s.uptime)
    (hmay : (if x.lpddr then (s.pkg x.unit).state == 0#2 else s.mayHold x.unit false) = true)
    (hfit : h.clean.toNat + b2n h.failed ≤ 16) (hroom : (if h.up then x.pos else x.neg) + h.clean.toNat ≤ 32)
    (hends : h.clean.toNat = 16 ∨ h.failed = true ∨ (if h.up then x.pos else x.neg) + h.clean.toNat = 32) :
    ∃ u, (x.kind < 2 → PcsOnly s u) ∧ Margined s u ∧
      marginHold s h = { u with sweep := some (sweepHeld x h s.uptime) } := by
  unfold marginHold
  split
  case h_1 hnone => rw [hsweep] at hnone; cases hnone
  case h_2 x' hsome =>
  obtain rfl : x = x' := Option.some.inj (hsweep.symm.trans hsome)
  extract_lets had done n stops apart blocked s1 s2 x2 s3 s4 holds s5 x1 y s6 s7
  have hapart' : apart = true := by
    unfold apart
    split
    · next e he => exact decide_eq_true (hapart e he)
    · rfl
  have hblocked : blocked = false := by
    unfold blocked
    split at hmay
    · next hlp => rw [if_pos hlp]; simp [eq_of_beq hmay]
    · next hlp => rw [if_neg hlp]; simp [hmay]
  have hends' : (decide (n < 16) && !stops) = false := by
    rw [Bool.and_eq_false_iff]
    rcases hends with hall | hfailed | hlast
    · exact .inl (decide_eq_false (by unfold n; omega))
    · exact .inr (by simp [stops, hfailed])
    · exact .inr (by simp [stops, had, n, hlast])
  rw [if_neg (by
    simp only [hsafe, done, hdone, hapart', hblocked, Nat.not_lt.2 hfit, Nat.not_lt.2 hroom, had, n, hends']
    simp)]
  have hregs : RegsOnly s s2 := (RegsOnly.bump s _ _).trans (.raise s1 _ _)
  have hheld : PcsOnly s s3 := by
    unfold s3
    split
    · exact .of_regs hregs
    · exact (PcsOnly.of_regs hregs).trans (.setPc s2 _ _)
  have hall : Margined s s5 :=
    (Margined.of_pcs hheld).trans ((margined_overwrite s3 x).trans (.of_regs (setField_frame s4 _ _ _ _)))
  have hup : s5.uptime = s.uptime := by rw [hall]
  have hy : y = sweepHeld x h s.uptime := by
    rw [← hup]
    unfold sweepHeld y x1
    split
    · next hu => simp only [stops, had, n, if_pos hu]
    · next hu => simp only [stops, had, n, if_neg hu]
  refine ⟨s5, fun hkind => ?_, hall, ?_⟩
  · have h4 : s4 = s3 := overwrite_of_readOnly s3 hkind
    exact (h4 ▸ hheld).trans (.of_regs (setField_frame s4 _ _ _ _))
  · rw [if_neg, hy]
    rw [hy]
    unfold sweepHeld
    split
    · next hu => rw [if_pos hu] at hother; simp [hother]
    · next hu => rw [if_neg hu] at hother; simp [hother]

theorem exec_marginStepHold (s : State) (h : MarginHold) : exec (.marginStepHold h) s = .next { s with m := marginHold s.m h } := rfl

/-! ## Patrol (R272, R287) -/

theorem readSector_of_clean {s : Mach} {a : SectorAt} {errs : SymbolErrors}
    (h : rsDecode (withErrors (symbolsOf (s.stored a)) errs) = .clean) : (readSector s a errs).2 = s := by
  unfold readSector
  simp only [h]

theorem sectorState_setSlice (s : Mach) (g : Nat) (x : SliceSt) (a : SectorAt) : (s.setSlice g x).sectorState a = s.sectorState a := rfl

section Stack

variable {s : Mach} {g k : Nat} {errs : SymbolErrors} {x : SliceSt}

/-- The sector that a pass of a stack reads next: the first noted one that is free, else the pointer's. -/
def patrolNext (s : Mach) (g : Nat) : Option Nat :=
  match (s.slice g).skipped.find? fun k => !(s.sectorState (patrolAt g k) == 1#2) with
  | some k => some k
  | none => if (s.slice g).patrol < stackSectors then some (s.slice g).patrol else none

theorem patrolNext_of_none (hx : s.slice g = x) (hskip : x.skipped = []) (hlt : x.patrol < stackSectors) :
    patrolNext s g = some x.patrol := by
  unfold patrolNext
  rw [hx, hskip, List.find?_nil]
  exact if_pos hlt

theorem patrolNext_of_cons (hx : s.slice g = x) {l : List Nat} (hskip : x.skipped = k :: l)
    (hfree : s.sectorState (patrolAt g k) = 0#2) : patrolNext s g = some k := by
  unfold patrolNext
  rw [hx, hskip, List.find?_cons_of_pos (by simp [hfree])]

/-- A sector of a held pseudo-channel is noted, and the pointer passes on. -/
theorem patrolRead_of_held (hx : s.slice g = x) (hnext : patrolNext s g = some k) (hheld : s.sectorState (patrolAt g k) = 1#2) :
    patrolRead s g errs = s.setSlice g { x with patrol := k + 1, skipped := x.skipped ++ [k] } := by
  unfold patrolNext at hnext
  unfold patrolRead
  extract_lets x' held next
  have hn : next = some k := hnext
  rw [hn]
  exact (if_pos (beq_iff_eq.2 hheld)).trans (by rw [← hx])

/-- A sector that is free and reads clean, or whose pseudo-channel has FAILED, is passed. -/
theorem patrolRead_of_read (hx : s.slice g = x) (hnext : patrolNext s g = some k) (hfree : s.sectorState (patrolAt g k) ≠ 1#2)
    (hread : s.sectorState (patrolAt g k) = 2#2 ∨
      rsDecode (withErrors (symbolsOf (s.stored (patrolAt g k))) errs) = .clean) :
    patrolRead s g errs = patrolEnd (s.setSlice g
      (if x.skipped.contains k then { x with skipped := x.skipped.erase k } else { x with patrol := k + 1 })) g := by
  unfold patrolNext at hnext
  unfold patrolRead
  extract_lets x' held next
  have hn : next = some k := hnext
  have hx' : x' = x := hx
  rw [hn, ← hx']
  dsimp only
  rw [if_neg (by simpa [held] using hfree)]
  refine congrArg (patrolEnd · g) ?_
  rw [sectorState_setSlice]
  split
  · rfl
  · next hnot => exact readSector_of_clean (hread.resolve_left (by simpa using hnot))

/-- A pass goes on while sectors are left or noted. -/
theorem patrolEnd_of_lt (hlt : (s.slice g).patrol < stackSectors) : patrolEnd s g = s := if_pos (.inl hlt)

end Stack

/-- CE_PASS of n pseudo-channels from b on is cleared. -/
def clearPass (b n : Nat) (s : Mach) : Mach :=
  each (fun i s => s.setPc (b + i) { s.pc (b + i) with cePass := 0#16 }) (List.range n) s

theorem pc_clearPass (b n : Nat) (s : Mach) (k : Nat) :
    (clearPass b n s).pc k = if b ≤ k ∧ k < b + n then { s.pc k with cePass := 0#16 } else s.pc k := by
  induction n with
  | zero => exact (if_neg (by omega)).symm
  | succ n ih =>
    unfold clearPass each at ih ⊢
    rw [List.range_succ, List.foldl_append]
    refine (pc_setPc _ _ _ k).trans ?_
    by_cases hk : k = b + n
    · rw [if_pos hk, if_pos (by omega)]
      subst hk
      rw [ih, if_neg (by omega)]
    · rw [if_neg hk, ih]
      exact if_congr (by omega) rfl rfl

theorem clearPass_frame (b n : Nat) (s : Mach) : ∃ x, clearPass b n s = { s with pcs := x } := by
  refine rel_each (fun a b => ∃ x, b = { a with pcs := x }) (fun a b c hb hc => ?_) (fun s => ⟨s.pcs, rfl⟩) _ (fun i u => ⟨_, rfl⟩) _ s
  obtain ⟨x, rfl⟩ := hb
  exact hc

/-- The end of a pass of a stack: its count, the pointer at 0, and CE_PASS of the stack's pseudo-channels cleared. -/
theorem patrolEnd_of_done {s : Mach} {g : Nat} (hend : stackSectors ≤ (s.slice g).patrol) (hskip : (s.slice g).skipped = []) :
    ∃ y, patrolEnd s g = y ∧ (∀ h, y.slice h = if h = g then { s.slice g with patrol := 0 } else s.slice h) ∧
      (∀ r, y.reg r = if r = ldlReg g 0x114 then satAdd (s.reg (ldlReg g 0x114)) 1 else s.reg r) ∧
      (∀ n, y.pc n = if n / 32 = g then { s.pc n with cePass := 0#16 } else s.pc n) ∧
      y = { s with slices := y.slices, regs := y.regs, pcs := y.pcs } := by
  have hstep : patrolEnd s g = clearPass (32 * g) 32 ((s.setSlice g { s.slice g with patrol := 0 }).bump (ldlReg g 0x114) 1) :=
    if_neg (by simp [hskip, hend])
  have hreg := reg_bump (s.setSlice g { s.slice g with patrol := 0 }) (ldlReg g 0x114) 1
  have hbump := bump_frame (s.setSlice g { s.slice g with patrol := 0 }) (ldlReg g 0x114) 1
  generalize (s.setSlice g { s.slice g with patrol := 0 }).bump (ldlReg g 0x114) 1 = b at hstep hreg hbump
  have hpc := pc_clearPass (32 * g) 32 b
  obtain ⟨pcs, hclear⟩ := clearPass_frame (32 * g) 32 b
  generalize clearPass (32 * g) 32 b = y at hstep hpc hclear
  refine ⟨y, hstep, fun h => ?_, fun r => ?_, fun n => (hpc n).trans ?_, ?_⟩
  · rw [hclear, hbump]
    exact slice_setSlice _ _ _ _
  · rw [hclear]
    exact hreg r
  · rw [hbump]
    exact if_congr (by omega) rfl rfl
  · rw [hbump] at hclear
    rw [hclear]
    rfl

/-- Packages and plain registers are all that a count after a package's change leaves changed. -/
theorem pkgsOnly_of_regs {a b c : Mach} (h : b = { a with pkgs := b.pkgs }) (h' : RegsOnly b c) :
    c = { a with pkgs := c.pkgs, regs := c.regs } := by
  unfold RegsOnly at h'
  rw [h] at h'
  rw [h']

/-- A sector of a package that reads clean, or any of a FAILED package, is passed; after the last one the pass is counted. -/
theorem pkgPatrol_of_read {s : Mach} {p : Nat} {errs : SymbolErrors} {x : PkgSt} (hx : s.pkg p = x) (hfree : x.state ≠ 1#2)
    (hread : x.state = 2#2 ∨ rsDecode (withErrors (symbolsOf (s.stored (pkgPatrolAt p x.patrol))) errs) = .clean) :
    pkgPatrol s p errs = if x.patrol + 1 < pkgPass then s.setPkg p { x with patrol := x.patrol + 1 }
      else ((s.setPkg p { x with patrol := x.patrol + 1 }).setPkg p { x with patrol := 0, cePass := 0#16 }).bump (lpdReg p 0x14) 1 := by
  unfold pkgPatrol
  extract_lets x' t u v
  have hx' : x' = x := hx
  have hu : u = t := by
    unfold u
    split
    · rfl
    · next hnot =>
      rw [hx'] at hnot ⊢
      exact readSector_of_clean (hread.resolve_left (by simpa using hnot))
  have hv : v = { x with patrol := x.patrol + 1 } := by
    unfold v
    rw [hu]
    exact (pkg_setPkg s p _ p).trans ((if_pos rfl).trans (by rw [hx']))
  rw [hu, hv, if_neg (by rw [hx']; simpa using hfree)]
  unfold t
  rw [hx']

theorem exec_patrolRead_stack {s : State} {g : SliceNo} {errs : SymbolErrors} (h : errorsWf errs = true) :
    exec (.patrolRead (.stack g) errs) s = .next { s with m := patrolRead s.m g.toNat errs } := by
  change execPatrolRead (.stack g) errs s = _
  unfold execPatrolRead
  rw [if_neg (by simp [h])]

theorem exec_patrolRead_package {s : State} {p : PkgNo} {errs : SymbolErrors} (h : errorsWf errs = true) :
    exec (.patrolRead (.package p) errs) s = .next { s with m := pkgPatrol s.m p.toNat errs } := by
  change execPatrolRead (.package p) errs s = _
  unfold execPatrolRead
  rw [if_neg (by simp [h])]

/-! ## The statement -/

/-- Settles O23: a hold leaves the sweep as `sweepHeld` says and memory as `Margined` does; the loss of the module tier leaves every byte
(`TiersStand`); patrol moves the pointer (`patrolRead_of_read`, `pkgPatrol_of_read`), and at a pass's end `patrolEnd_of_done` counts it. -/
theorem patrolMarginsAndPackages : Obligations.PatrolMarginsAndPackages := by
  refine ⟨⟨?_, ?_, ?_⟩, ?_, ?_⟩
  · intro s h x hsafe hsweep hdone hother hapart hmay hfit hroom hends
    obtain ⟨u, hread, hall, hstep⟩ := marginHold_eq hsafe hsweep hdone hother hapart hmay hfit hroom hends
    refine ⟨{ s with m := { u with sweep := some (sweepHeld x h s.m.uptime) } }, sweepHeld x h s.m.uptime, ?_, rfl, ?_, ?_, ?_, ?_, ?_,
      fun hkind => ?_, fun _ => ?_⟩
    · rw [exec_marginStepHold, hstep]
    · unfold sweepHeld; split <;> rfl
    · unfold sweepHeld; split <;> rfl
    · unfold sweepHeld; split <;> rfl
    · unfold sweepHeld; split <;> rfl
    · unfold sweepHeld; split <;> rfl
    · rw [hread hkind]
    · rw [hall]
  · intro s p y hstate hnone hy
    obtain ⟨z, hz, hfail⟩ := packageFail_eq hstate
    have hnonez : NoneHeld z := hz.noneHeld hnone
    obtain ⟨hnear, hlp, hpkgs, l, hrecords⟩ := loseModule_parts hnonez
    obtain ⟨l', hrecords'⟩ := hz.records
    rw [hy] at hrecords'
    refine ⟨{ s with m := loseModule z }, l' ++ l, ?_, fun k => ?_, moduleOut_loseModule hnonez, ?_, hnear.trans hz.near,
      hlp.trans hz.lp⟩
    · rw [exec_lpddrPackageFail, hfail]
    · change tabGet _ (loseModule z).pkgs k = _
      rw [hpkgs, hz.pkgs]
      refine (pkg_setPkg s.m p.toNat { s.m.pkg p.toNat with state := 2#2 } k).trans ?_
      split
      · next hk => rw [hk]
      · rfl
    · exact hrecords.trans (by rw [hrecords', List.append_assoc])
  · intro s p h
    rw [exec_lpddrPackageFail, packageFail_of_failed h]
  · intro s g errs x herrs hx
    refine ⟨fun hskip hlt hheld => ?_, fun hskip hlt hfree hread => ?_, fun hskip hlast hfree hread => ?_,
      fun k l hskip hlt hfree hclean => ?_⟩
    · rw [exec_patrolRead_stack herrs, patrolRead_of_held hx (patrolNext_of_none hx hskip hlt) hheld, hskip]
      exact ⟨_, rfl, (slice_setSlice _ _ _ _).trans (if_pos rfl), fun h hh => (slice_setSlice _ _ _ _).trans (if_neg hh), rfl⟩
    · rw [exec_patrolRead_stack herrs, patrolRead_of_read hx (patrolNext_of_none hx hskip (by omega)) hfree hread, hskip,
        patrolEnd_of_lt]
      · exact ⟨_, rfl, (slice_setSlice _ _ _ _).trans (if_pos rfl), fun h hh => (slice_setSlice _ _ _ _).trans (if_neg hh), rfl⟩
      · rw [slice_setSlice, if_pos rfl]
        exact hlt
    · rw [exec_patrolRead_stack herrs, patrolRead_of_read hx (patrolNext_of_none hx hskip (by omega)) hfree hread, if_neg (by simp [hskip])]
      have hslice : (s.m.setSlice g.toNat { x with patrol := x.patrol + 1 }).slice g.toNat = { x with patrol := x.patrol + 1 } :=
        (slice_setSlice _ _ _ _).trans (if_pos rfl)
      obtain ⟨y, hy, hslices, hregs, hpcs, hframe⟩ := patrolEnd_of_done (s := s.m.setSlice g.toNat { x with patrol := x.patrol + 1 })
        (by rw [hslice]; exact Nat.le_of_eq hlast.symm) (by rw [hslice]; exact hskip)
      rw [hy]
      refine ⟨_, rfl, ?_, fun h hh => ?_, ?_, fun r hr => ?_, hpcs, congrArg (fun m => ({ s with m := m } : State)) hframe⟩
      · exact (hslices _).trans ((if_pos rfl).trans (by rw [hslice]))
      · exact (hslices h).trans ((if_neg hh).trans ((slice_setSlice _ _ _ _).trans (if_neg hh)))
      · exact (hregs _).trans (if_pos rfl)
      · exact (hregs r).trans (if_neg hr)
    · rw [exec_patrolRead_stack herrs, patrolRead_of_read hx (patrolNext_of_cons hx hskip hfree) (by rw [hfree]; decide)
        (.inr hclean), if_pos (by simp [hskip]), hskip, List.erase_cons_head, patrolEnd_of_lt]
      · exact ⟨_, rfl, (slice_setSlice _ _ _ _).trans (if_pos rfl), fun h hh => (slice_setSlice _ _ _ _).trans (if_neg hh), rfl⟩
      · rw [slice_setSlice, if_pos rfl]
        exact hlt
  · intro s p errs x herrs hx
    refine ⟨fun hheld => ?_, fun hfree hread => ?_⟩
    · rw [exec_patrolRead_package herrs, pkgPatrol, hx, if_pos (by rw [hheld]; rfl)]
    · rw [exec_patrolRead_package herrs, pkgPatrol_of_read hx hfree hread]
      have hpass : pkgPass = 505413632 := rfl
      by_cases hlt : x.patrol + 1 < pkgPass
      · rw [if_pos hlt]
        exact ⟨_, rfl, fun k hk => (pkg_setPkg _ _ _ _).trans (if_neg hk),
          fun _ => ⟨(pkg_setPkg _ _ _ _).trans (if_pos rfl), rfl⟩, fun hle => absurd (hpass ▸ hlt) (Nat.not_lt.2 hle)⟩
      · rw [if_neg hlt]
        have hbump := bump_frame ((s.m.setPkg p.toNat { x with patrol := x.patrol + 1 }).setPkg p.toNat
          { x with patrol := 0, cePass := 0#16 }) (lpdReg p.toNat 0x14) 1
        have hcount := reg_bump ((s.m.setPkg p.toNat { x with patrol := x.patrol + 1 }).setPkg p.toNat
          { x with patrol := 0, cePass := 0#16 }) (lpdReg p.toNat 0x14) 1
        generalize Mach.bump _ _ _ = y at hbump hcount ⊢
        have hpkg (k : Nat) : y.pkg k = if k = p.toNat then { x with patrol := 0, cePass := 0#16 } else s.m.pkg k := by
          rw [hbump]
          refine (pkg_setPkg _ _ _ _).trans (ite_congr rfl (fun _ => rfl) fun hk => ?_)
          exact (pkg_setPkg _ _ _ _).trans (if_neg hk)
        refine ⟨_, rfl, fun k hk => (hpkg k).trans (if_neg hk), fun hlt' => absurd (hpass ▸ hlt') hlt,
          fun _ => ⟨(hpkg _).trans (if_pos rfl), (hcount _).trans (if_pos rfl), fun r hr => (hcount r).trans (if_neg hr), ?_⟩⟩
        exact congrArg (fun m => ({ s with m := m } : State)) (pkgsOnly_of_regs rfl hbump)

end Sys2Proof.Proofs
end

section
/-! SUPPORT. Holds and retraining (12 R273 to R278, R287). -/

namespace Sys2Proof.Proofs

open Sys2Proof Sys2Proof.Machine Sys2Proof.Laws Sys2Proof.Safety

/-! ## Events and sensors (16 R397; 19 R442) -/

/-- An event of a source that is not reserved, of a machine with the registers of a. -/
theorem eventTaken_raise {a s : Mach} {d n : Nat} (hreg : ∀ x, s.reg x = a.reg x) (hsrc : srcReserved d n = false) (hn : n < 1024) :
    EventTaken d n a (s.raise d n) := by
  have hpending (d' n' : Nat) : s.irqPending d' n' = a.irqPending d' n' := by
    rw [Mach.irqPending, hreg]
    rfl
  refine ⟨fun d' n' => ?_, ?_, fun x h1 h2 => (reg_raise_other s d n x h1 h2).trans (hreg x)⟩
  · rw [irqPending_raise s d n _ _ hn (by omega), hsrc, hpending, Bool.not_false, Bool.and_true]
  · rw [← hpending, ← hreg, Mach.raise, if_neg (by simp [hsrc]; omega)]
    split
    · rw [reg_bump, if_pos rfl]
    · rw [Mach.setPending, reg_setField, if_neg (by unfold flaskReg; omega), satAdd_zero]

/-- The sources of the stacks' controllers and of the packages are not reserved. -/
theorem srcReserved_memory (d : Nat) {n : Nat} (h : 48 ≤ n) (h' : n < 100) : srcReserved d n = false := by
  have hlt (k : Nat) (hk : 100 ≤ k) : decide (k ≤ n) = false := decide_eq_false (by omega)
  simp [srcReserved, hlt]

/-- After an event of a memory controller its source is pending. -/
theorem irqPending_raise_memory (s : Mach) (d : Nat) {n : Nat} (h : 48 ≤ n) (h' : n < 100) : (s.raise d n).irqPending d n = true := by
  rw [irqPending_raise s d n d n (by omega) (by omega), srcReserved_memory d h h']
  simp

/-- The count of a stack's interface errors is no word of pending bits of its controllers, and no count of merged events. -/
theorem ldlReg_ne_flaskReg (g d : Nat) {k : Nat} (hk : k = 0x30 ∨ k < 0x10C) : ldlReg g 0x110 ≠ flaskReg d k := by
  unfold ldlReg flaskReg
  omega

/-- A sensor's reading changes registers and the table of readings only. -/
theorem sense_frame (s : Mach) (x : Sensor) (t : BitVec 16) :
    s.sense x t = { s with regs := (s.sense x t).regs, readings := (s.sense x t).readings } := by
  unfold Mach.sense
  extract_lets k u
  have hu : u = { s with regs := u.regs, readings := u.readings } := by
    unfold u
    split
    · split <;> rfl
    · rfl
  split
  · rw [setField_frame, hu]
  · split
    · rw [setField_frame, hu]
    · exact hu

/-- The table of readings with a sensor's entry. -/
def withReading (s : Mach) (k : Nat) (t : BitVec 16) : Mach := { s with readings := tabSet (fun _ => 0#16) s.readings k t }

/-- A sensor outside the clock table is read into the table of readings; the alert alone may follow. -/
theorem sense_cases {s : Mach} {x : Sensor} (hx : 2 ^ 28 ≤ sensorUnit x) (t : BitVec 16) :
    s.sense x t = withReading s (sensorUnit x) t ∨ ∃ v, s.sense x t = (withReading s (sensorUnit x) t).setField (devReg 0x80) 29 29 v := by
  unfold Mach.sense
  extract_lets k u
  have hu : u = withReading s k t := if_neg (Nat.not_lt.2 hx)
  rw [hu]
  split
  · exact .inr ⟨1, rfl⟩
  · split
    · exact .inr ⟨0, rfl⟩
    · exact .inl rfl

theorem reg_sense {s : Mach} {x : Sensor} (hx : 2 ^ 28 ≤ sensorUnit x) (t : BitVec 16) {r : Nat} (hr : r ≠ devReg 0x80) :
    (s.sense x t).reg r = s.reg r := by
  obtain heq | ⟨v, heq⟩ := sense_cases (s := s) hx t
  · rw [heq]
    rfl
  · rw [heq]
    exact (reg_setField _ _ _ _ _ _).trans (if_neg hr)

theorem reading_sense {s : Mach} {x : Sensor} (hx : 2 ^ 28 ≤ sensorUnit x) (t : BitVec 16) :
    (s.sense x t).reading (sensorUnit x) = t.toInt := by
  have hget : (withReading s (sensorUnit x) t).reading (sensorUnit x) = t.toInt := by
    rw [Mach.reading, if_neg (Nat.not_lt.2 hx)]
    exact congrArg BitVec.toInt (tabGet_tabSet_same (fun _ => 0#16) s.readings (sensorUnit x) t)
  obtain heq | ⟨v, heq⟩ := sense_cases (s := s) hx t
  · rw [heq, hget]
  · rw [heq, ← hget, Mach.reading, Mach.reading, if_neg (Nat.not_lt.2 hx), if_neg (Nat.not_lt.2 hx)]
    rfl

theorem degrees_toInt (c : Byte) : (degrees c.toNat).toInt = 16 * c.toNat := by
  unfold degrees
  rw [BitVec.toInt_ofNat', Int.bmod]
  omega

/-! ## Holds (R273, R274) -/

theorem exec_holdBegin (s : State) (n : PcNo) (why : HoldReason) :
    exec (.holdBegin n why) s = .next { s with m := holdBegin s.m n.toNat why } := rfl

/-- A hold that its reason allows. -/
theorem holdBegin_of_may {s : Mach} {n : Nat} {why : HoldReason} (hsafe : s.safe = false)
    (htrain : why = .retraining → s.mayHold n true = true ∧ (s.pc n).trainDue = true ∧ s.lowerDue n = false)
    (hmargin : why = .margining → s.mayHold n false = true)
    (hmigrate : why = .migration → (s.pc n).state = 0#2 ∧ s.migrates n = true) :
    holdBegin s n why = (s.setPc n { s.pc n with state := 1#2, reason := reasonCode why }).bump (ldlReg (n / 32) 0x10C) 1 := by
  unfold holdBegin
  extract_lets x may
  have hmay : may = true := by
    cases why with
    | retraining =>
      obtain ⟨hmay, hdue, hlow⟩ := htrain rfl
      simp [may, x, hmay, hdue, hlow]
    | margining => exact hmargin rfl
    | migration =>
      obtain ⟨hstate, hmig⟩ := hmigrate rfl
      simp [may, x, hstate, hmig]
  exact if_neg (by simp [hsafe, hmay])

/-- Another pseudo-channel of the stack, held for retraining or margining, keeps a hold for either from beginning. -/
theorem stackHeld_of_held {s : Mach} {n k : Nat} (hstack : k / 32 = n / 32) (hne : k ≠ n) (hheld : (s.pc k).state = 1#2)
    (hreason : (s.pc k).reason ≠ 2#2) : s.stackHeld n = true := by
  have hk : 32 * (n / 32) + k % 32 = k := by omega
  refine List.any_eq_true.2 ⟨k % 32, List.mem_range.2 (Nat.mod_lt _ (by decide)), ?_⟩
  simp [hk, hne, hheld, hreason]

theorem holdBegin_eq_self {s : Mach} {n : Nat} {why : HoldReason} (h : s.safe = true ∨ (s.pc n).state ≠ 0#2 ∨
    why ≠ .migration ∧ ∃ k, k / 32 = n / 32 ∧ k ≠ n ∧ (s.pc k).state = 1#2 ∧ (s.pc k).reason ≠ 2#2) : holdBegin s n why = s := by
  unfold holdBegin
  extract_lets x may
  refine if_pos ?_
  obtain hsafe | hstate | ⟨hwhy, k, hstack, hne, hheld, hreason⟩ := h
  · simp [hsafe]
  · have hmay : may = false := by cases why <;> simp [may, x, Mach.mayHold, hstate]
    simp [hmay]
  · have hmay : may = false := by
      cases why with
      | migration => exact absurd rfl hwhy
      | retraining => simp [may, Mach.mayHold, stackHeld_of_held hstack hne hheld hreason]
      | margining => simp [may, Mach.mayHold, stackHeld_of_held hstack hne hheld hreason]
    simp [hmay]

/-- The end of a hold before the operations that waited go on: the pseudo-channel in its next state, no wait on it left, the interrupt. -/
def holdEnded (s : Mach) (n : Nat) (st : BitVec 2) : Mach :=
  ((s.setPc n { s.pc n with state := st, reason := 0#2, lastHoldEnd := some s.uptime }).unwait n).raise (pcSrc n).1 ((pcSrc n).2 + 2)

theorem endHold_eq (s : Mach) (n : Nat) (st : BitVec 2) : endHold s n st = (holdEnded s n st).resendSyncs := rfl

theorem unwait_frame (s : Mach) (n : Nat) : s.unwait n = { s with
    cmds := s.cmds.map fun c => { c with heldOn := c.heldOn.filter fun w => w.pc != n }, slices := (s.unwait n).slices } := by
  unfold Mach.unwait
  rw [freeSlots_frame]

/-- Slots that come free change no other part of a slice. -/
theorem slice_freeSlots (s : Mach) (l : List HeldWait) (g : Nat) :
    (s.freeSlots l).slice g = { s.slice g with slotsFree := ((s.freeSlots l).slice g).slotsFree } := by
  refine rel_each (fun a b : Mach => b.slice g = { a.slice g with slotsFree := (b.slice g).slotsFree }) (fun a b c h h' => ?_)
    (fun _ => rfl) _ (fun w t => ?_) l s
  · rw [h] at h'
    exact h'
  · split
    · rfl
    · rw [slice_setSlice]
      split
      · next hg => rw [hg]
      · rfl

/-- What the end of a hold changes. -/
theorem holdEnded_parts (s : Mach) (n : Nat) (st : BitVec 2) : ∃ y, holdEnded s n st = y ∧
    (∀ k, y.pc k = if k = n then { s.pc k with state := st, reason := 0#2, lastHoldEnd := some s.uptime } else s.pc k) ∧
    y.cmds = s.cmds.map (fun c => { c with heldOn := c.heldOn.filter fun w => w.pc != n }) ∧
    (∀ g, y.slice g = { s.slice g with slotsFree := (y.slice g).slotsFree }) ∧
    (∀ die src, die = n / 256 → src = 50 + 4 * (n / 32 % 8) → EventTaken die src s y) ∧
    y = { s with regs := y.regs, pcs := y.pcs, cmds := y.cmds, slices := y.slices } := by
  have hpc := pc_setPc s n { s.pc n with state := st, reason := 0#2, lastHoldEnd := some s.uptime }
  have hset : s.setPc n { s.pc n with state := st, reason := 0#2, lastHoldEnd := some s.uptime } = { s with
    pcs := (s.setPc n { s.pc n with state := st, reason := 0#2, lastHoldEnd := some s.uptime }).pcs } := rfl
  unfold holdEnded
  generalize s.setPc n { s.pc n with state := st, reason := 0#2, lastHoldEnd := some s.uptime } = a at hpc hset
  have hwait := unwait_frame a n
  have hslices := slice_freeSlots a (a.cmds.flatMap fun c => c.heldOn.filter fun w => w.pc == n)
  have hslices' (g : Nat) : (a.unwait n).slice g = { a.slice g with slotsFree := ((a.unwait n).slice g).slotsFree } := hslices g
  generalize a.unwait n = b at hwait hslices'
  have hregs : ∀ x, b.reg x = s.reg x := fun x => by rw [hwait, hset]; rfl
  refine ⟨_, rfl, fun k => ?_, ?_, fun g => ?_, fun die src hdie hsrc => ?_, ?_⟩
  · rw [raise_frame, hwait]
    refine (hpc k).trans (ite_congr rfl (fun hk => by rw [hk]) fun _ => rfl)
  · rw [raise_frame, hwait, hset]
  · rw [raise_frame]
    refine (hslices' g).trans ?_
    rw [hset]
    rfl
  · have hpair : pcSrc n = (n / 256, 48 + 4 * (n / 32 % 8)) := rfl
    subst hdie hsrc
    rw [hpair]
    have h50 : 48 + 4 * (n / 32 % 8) + 2 = 50 + 4 * (n / 32 % 8) := by omega
    rw [h50]
    exact eventTaken_raise hregs (srcReserved_memory _ (by omega) (by omega)) (by omega)
  · have hb : b = { s with pcs := b.pcs, cmds := b.cmds, slices := b.slices } := by rw [hwait, hset]
    have hraise := raise_frame b (pcSrc n).1 ((pcSrc n).2 + 2)
    generalize b.raise (pcSrc n).1 ((pcSrc n).2 + 2) = y at hraise ⊢
    rw [hb] at hraise
    rw [hraise]

theorem exec_holdRelease (s : State) (n : PcNo) : exec (.holdRelease n) s =
    .next { s with m := if (s.m.pc n.toNat).state == 1#2 then endHold s.m n.toNat 0#2 else s.m } := rfl

theorem resendSyncs_of_none {s : Mach} (h : s.syncDue = []) : s.resendSyncs = s := if_pos (by rw [h]; rfl)

/-! ## Retraining (R276 to R278) -/

/-- A retraining of a pseudo-channel falls due. -/
def trainingDue (s : Mach) (n : Nat) (x : PcSt) : Mach :=
  (s.setPc n { x with trainDue := true }).raise (n / 256) (49 + 4 * (n / 32 % 8))

theorem trainingDue_parts (s : Mach) (n : Nat) (x : PcSt) : ∃ y, trainingDue s n x = y ∧
    (∀ k, y.pc k = if k = n then { x with trainDue := true } else s.pc k) ∧
    EventTaken (n / 256) (49 + 4 * (n / 32 % 8)) s y ∧ y.irqPending (n / 256) (49 + 4 * (n / 32 % 8)) = true ∧ PcsOnly s y := by
  have hraise := raise_frame (s.setPc n { x with trainDue := true }) (n / 256) (49 + 4 * (n / 32 % 8))
  have hevent : EventTaken (n / 256) (49 + 4 * (n / 32 % 8)) s (trainingDue s n x) :=
    eventTaken_raise (fun _ => rfl) (srcReserved_memory _ (by omega) (by omega)) (by omega)
  refine ⟨_, rfl, fun k => ?_, hevent, irqPending_raise_memory _ _ (by omega) (by omega), (PcsOnly.setPc s n _).trans (.of_regs hraise)⟩
  unfold trainingDue
  rw [hraise]
  exact pc_setPc s n _ k

theorem exec_retrainTrigger (s : State) (n : PcNo) (why : RetrainCause) :
    exec (.retrainTrigger n why) s = .next { s with m := retrainTrigger s.m n.toNat why } := rfl

section Trigger

variable {s : Mach} {n : Nat} (h2 : (s.pc n).state ≠ 2#2) (h3 : (s.pc n).state ≠ 3#2)
include h2 h3

/-- What a trigger does to a pseudo-channel that is active or held. -/
theorem retrainTrigger_eq (why : RetrainCause) : retrainTrigger s n why = match why with
    | .temperature t =>
      if t.toNat ≥ (s.pc n).temp.toNat + 10 ∨ (s.pc n).temp.toNat ≥ t.toNat + 10 then
        trainingDue (s.sense (.stack (BitVec.ofNat 5 (n / 32))) (degrees t.toNat)) n (s.pc n)
      else s.sense (.stack (BitVec.ofNat 5 (n / 32))) (degrees t.toNat)
    | .parity =>
      if 15 ≤ ((s.pc n).parityErrs.filter fun e => decide (s.uptime < e + 1000)).length then
        trainingDue (s.bump (ldlReg (n / 32) 0x110) 1) n { s.pc n with parityErrs := [], trainParity := true }
      else (s.bump (ldlReg (n / 32) 0x110) 1).setPc n
        { s.pc n with parityErrs := s.uptime :: (s.pc n).parityErrs.filter fun e => decide (s.uptime < e + 1000) }
    | .age => if (s.pc n).lastTrain + 86400000 ≤ s.uptime then trainingDue s n (s.pc n) else s
    | .request => trainingDue s n (s.pc n) := by
  have hsrc : (pcSrc n).2 + 1 = 49 + 4 * (n / 32 % 8) := by unfold pcSrc; omega
  have hdue (u : Mach) (x : PcSt) : (u.setPc n { x with trainDue := true }).raise (pcSrc n).1 ((pcSrc n).2 + 1) = trainingDue u n x := by
    rw [hsrc]
    rfl
  unfold retrainTrigger
  simp only [hdue]
  rw [if_neg (by simp [h2, h3])]
  cases why with
  | temperature t => rfl
  | parity =>
    have hup : (s.bump (ldlReg (n / 32) 0x110) 1).uptime = s.uptime := by rw [bump_frame]
    simp only [hup, List.length_cons]
    exact if_congr (by omega) (hdue _ { s.pc n with parityErrs := [], trainParity := true }) rfl
  | age => rfl
  | request => rfl

end Trigger

theorem exec_retrainComplete (s : State) (n : PcNo) (c : Byte) :
    exec (.retrainComplete n c) s = .next { s with m := retrainComplete s.m n.toNat c.toNat } := rfl

theorem retrainComplete_eq {s : Mach} {n : Nat} (t : Nat) (h : s.retraining n = true) (hreq : s.retrainReq ≠ some (false, n)) :
    retrainComplete s n t =
      (s.setPc n ((s.pc n).trained s.uptime t)).sense (.stack (BitVec.ofNat 5 (n / 32))) (degrees t) := by
  unfold retrainComplete
  rw [if_neg (by simp [h])]
  refine if_neg ?_
  rw [sense_frame]
  exact hreq

theorem trained_of_not_parity {x : PcSt} (h : x.trainParity = false) (now : Nat) (c : Byte) :
    x.trained now c.toNat = { x with temp := c, lastTrain := now, trainDue := false } := by
  unfold PcSt.trained
  simp [h]

theorem trained_of_parity {x : PcSt} (h : x.trainParity = true) (now : Nat) (c : Byte) {l : List Nat}
    (hl : now :: x.parityTimes.filter (fun e => decide (now < e + 3600000)) = l) : x.trained now c.toNat =
      { x with temp := c, lastTrain := now, trainDue := false, trainParity := false, parityTimes := l,
               retireDue := x.retireDue || decide (8 ≤ l.length) } := by
  unfold PcSt.trained
  simp [h, hl]

theorem exec_retrainFail (s : State) (n : PcNo) : exec (.retrainFail n) s = .next { s with m := retrainFail s.m n.toNat } := rfl

/-- A retraining that fails where its die can retire one more and nothing waits to be sent: the hold ends in FAILED. -/
theorem retrainFail_eq {s y : Mach} {n : Nat} (h : s.retraining n = true) (hreq : s.retrainReq ≠ some (false, n))
    (hdue : s.syncDue = []) (hcan : s.canRetire (n / 256) = true) (hy : holdEnded s n 2#2 = y)
    (hframe : y = { s with regs := y.regs, pcs := y.pcs, cmds := y.cmds, slices := y.slices }) :
    retrainFail s n = y.setPc n { y.pc n with trainDue := false, trainParity := false, retireDue := true } := by
  have hend : endHold s n 2#2 = y := by
    rw [endHold_eq, hy, resendSyncs_of_none]
    rw [hframe]
    exact hdue
  unfold retrainFail
  rw [if_neg (by simp [h]), hend]
  extract_lets z x u v
  have hu : u = { s with regs := y.regs, pcs := u.pcs, cmds := y.cmds, slices := y.slices } := by
    unfold u z
    rw [hframe]
    rfl
  have hreq' : u.retrainReq ≠ some (false, n) := by rw [hu]; exact hreq
  have hcan' : u.canRetire (n / 256) = true := by rw [hu]; exact hcan
  have hv : v = u := if_neg hreq'
  rw [hv, if_pos (by rw [hcan']; rfl)]

theorem exec_lpddrRetrain (s : State) (p : PkgNo) (c : Byte) :
    exec (.lpddrRetrain p c) s = .next { s with m := lpRetrain s.m p.toNat c.toNat } := rfl

theorem lpRetrain_eq {s : Mach} {p : PkgNo} (c : Byte) (hsafe : s.safe = false) (hstate : (s.pkg p.toNat).state = 0#2)
    (hreq : s.retrainReq ≠ some (true, p.toNat)) : lpRetrain s p.toNat c.toNat =
      ((((s.setPkg p.toNat { s.pkg p.toNat with temp := c }).bump (lpdReg p.toNat 0x10) 1).sense (.package p)
        (degrees c.toNat)).raise (p.toNat / 4) (81 + 4 * (p.toNat % 4))).raise (p.toNat / 4) (82 + 4 * (p.toNat % 4)) := by
  have h81 : 80 + 4 * (p.toNat % 4) + 1 = 81 + 4 * (p.toNat % 4) := by omega
  have h82 : 80 + 4 * (p.toNat % 4) + 2 = 82 + 4 * (p.toNat % 4) := by omega
  unfold lpRetrain
  simp only [h81, h82, BitVec.ofNat_toNat, BitVec.setWidth_eq, hsafe, hstate]
  rw [if_neg (by decide)]
  refine if_neg ?_
  have hraise (m : Mach) (d n : Nat) : (m.raise d n).retrainReq = m.retrainReq := by rw [raise_frame]
  have hsense (m : Mach) (x : Sensor) (t : BitVec 16) : (m.sense x t).retrainReq = m.retrainReq := by
    rw [sense_frame]
  have hbump (m : Mach) (a n : Nat) : (m.bump a n).retrainReq = m.retrainReq := by rw [bump_frame]
  rw [hraise, hraise, hsense, hbump]
  exact hreq

/-- From a to b a package has been retrained: registers, packages and readings may have changed. -/
def PkgRetrained (a b : Mach) : Prop := b = { a with regs := b.regs, pkgs := b.pkgs, readings := b.readings }

theorem PkgRetrained.trans {a b c : Mach} (h : PkgRetrained a b) (h' : PkgRetrained b c) : PkgRetrained a c := by
  unfold PkgRetrained at h h'
  rw [h] at h'
  exact h'

theorem PkgRetrained.of_regs {a b : Mach} (h : RegsOnly a b) : PkgRetrained a b := by
  unfold PkgRetrained
  rw [h]

theorem PkgRetrained.sense (s : Mach) (x : Sensor) (t : BitVec 16) : PkgRetrained s (s.sense x t) := by
  unfold PkgRetrained
  rw [sense_frame]

theorem PkgRetrained.setPkg (s : Mach) (p : Nat) (x : PkgSt) : PkgRetrained s (s.setPkg p x) := rfl

theorem reading_raise (s : Mach) (d n : Nat) {k : Nat} (hk : 2 ^ 28 ≤ k) : (s.raise d n).reading k = s.reading k := by
  rw [Mach.reading, Mach.reading, if_neg (Nat.not_lt.2 hk), if_neg (Nat.not_lt.2 hk), raise_frame]

/-- The count of a package's holds is no word of pending bits of its controllers, no count of merged events and no alert. -/
theorem lpdReg_ne_flaskReg (p d : Nat) {k : Nat} (hk : k = 0x30 ∨ 0x100 ≤ k ∧ k < 0x110) : lpdReg p 0x10 ≠ flaskReg d k := by
  unfold lpdReg flaskReg
  omega

theorem reg_raise_lpd (s : Mach) (p d : Nat) {n : Nat} (hn : n < 128) : (s.raise d n).reg (lpdReg p 0x10) = s.reg (lpdReg p 0x10) :=
  reg_raise_other s d n _ (lpdReg_ne_flaskReg p d (.inr (by omega))) (lpdReg_ne_flaskReg p d (.inl rfl))

/-! ## The statement -/

/-- Settles O24: a hold ends as `holdEnded_parts` says, a retraining falls due as `trainingDue_parts` says, and what each cause does is
`retrainTrigger_eq`. -/
theorem holdsAndRetraining : Obligations.HoldsAndRetraining := by
  refine ⟨⟨?_, ?_, ?_, ?_⟩, ?_, ?_, ?_, ?_, ?_, ?_⟩
  · intro s n why hsafe htrain hmargin hmigrate
    rw [exec_holdBegin, holdBegin_of_may hsafe htrain hmargin hmigrate]
    have hcount := reg_bump (s.m.setPc n.toNat { s.m.pc n.toNat with state := 1#2, reason := reasonCode why })
      (ldlReg (n.toNat / 32) 0x10C) 1
    have hframe : PcsOnly s.m _ := (PcsOnly.setPc s.m n.toNat { s.m.pc n.toNat with state := 1#2, reason := reasonCode why }).trans
      (.of_regs (.bump _ (ldlReg (n.toNat / 32) 0x10C) 1))
    refine ⟨_, rfl, fun k => ?_, (hcount _).trans (if_pos rfl), fun r hr => (hcount r).trans (if_neg hr),
      congrArg (fun m => ({ s with m := m } : State)) hframe⟩
    have hpc := pc_setPc s.m n.toNat { s.m.pc n.toNat with state := 1#2, reason := reasonCode why } k
    dsimp only
    rw [bump_frame]
    refine hpc.trans ?_
    split
    · next hk => rw [hk]
    · rfl
  · intro s n why h
    rw [exec_holdBegin, holdBegin_eq_self h]
  · intro s n hheld
    obtain ⟨y, hy, hpc, hcmds, hslice, hevent, hframe⟩ := holdEnded_parts s.m n.toNat 0#2
    refine ⟨y, ?_, hpc, fun i c hc => ?_, hslice, hevent _ _ rfl rfl, hframe, fun hdue => resendSyncs_of_none ?_⟩
    · rw [exec_holdRelease, if_pos (by rw [hheld]; rfl), endHold_eq, hy]
    · rw [hcmds, List.getElem?_map, hc]
      rfl
    · rw [hframe]
      exact hdue
  · intro s n hfree
    rw [exec_holdRelease, if_neg (by simpa using hfree)]
  · intro s n why y h2 h3 hcause
    obtain ⟨hpcs, hstep⟩ : (∀ k, y.pc k = s.m.pc k) ∧ retrainTrigger s.m n.toNat why = trainingDue y n.toNat (s.m.pc n.toNat) := by
      rw [retrainTrigger_eq h2 h3]
      obtain ⟨rfl | ⟨rfl, hage⟩, rfl⟩ | ⟨c, rfl, rfl, hdiff⟩ := hcause
      · exact ⟨fun _ => rfl, rfl⟩
      · exact ⟨fun _ => rfl, if_pos hage⟩
      · refine ⟨fun k => ?_, if_pos (by omega)⟩
        rw [sense_frame]
        rfl
    obtain ⟨t, ht, hpc, hevent, -, hframe⟩ := trainingDue_parts y n.toNat (s.m.pc n.toNat)
    rw [exec_retrainTrigger, hstep, ht]
    refine ⟨_, rfl, fun k => (hpc k).trans ?_, hevent, congrArg (fun m => ({ s with m := m } : State)) hframe⟩
    rw [hpcs]
    exact ite_congr rfl (fun hk => by rw [hk]) fun _ => rfl
  · intro s n c h2 h3 hlow hhigh
    rw [exec_retrainTrigger, retrainTrigger_eq h2 h3]
    dsimp only
    rw [if_neg (by omega)]
  · intro s n h2 h3
    rw [exec_retrainTrigger, retrainTrigger_eq h2 h3]
    dsimp only
    have hcount := reg_bump s.m (ldlReg (n.toNat / 32) 0x110) 1
    have hbump : PcsOnly s.m _ := .of_regs (.bump s.m (ldlReg (n.toNat / 32) 0x110) 1)
    have hpcs (k : Nat) : (s.m.bump (ldlReg (n.toNat / 32) 0x110) 1).pc k = s.m.pc k := by rw [bump_frame]; rfl
    generalize s.m.bump (ldlReg (n.toNat / 32) 0x110) 1 = b at hcount hbump hpcs
    by_cases h15 : 15 ≤ ((s.m.pc n.toNat).parityErrs.filter fun e => decide (s.m.uptime < e + 1000)).length
    · rw [if_pos h15]
      obtain ⟨t, ht, hpc, ⟨-, -, hother⟩, hpending, hframe⟩ :=
        trainingDue_parts b n.toNat { s.m.pc n.toNat with parityErrs := [], trainParity := true }
      rw [ht]
      refine ⟨_, rfl, ?_, fun h => absurd h15 (Nat.not_le.2 h), fun _ => ⟨(hpc _).trans (if_pos rfl), ?_⟩,
        fun k hk => (hpc k).trans ((if_neg hk).trans (hpcs k)), congrArg (fun m => ({ s with m := m } : State)) (hbump.trans hframe)⟩
      · exact (hother _ (ldlReg_ne_flaskReg _ _ (.inr (by omega))) (ldlReg_ne_flaskReg _ _ (.inl rfl))).trans
          ((hcount _).trans (if_pos rfl))
      · exact hpending
    · rw [if_neg h15]
      refine ⟨_, rfl, (hcount _).trans (if_pos rfl), fun _ => ⟨?_, ?_⟩, fun h => absurd h h15, 
        fun k hk => (pc_setPc _ _ _ _).trans ((if_neg hk).trans (hpcs k)),
        congrArg (fun m => ({ s with m := m } : State)) (hbump.trans (.setPc b _ _))⟩
      · refine (congrArg PcSt.trainDue (pc_setPc b _ _ _)).trans ?_
        rw [if_pos rfl]
      · change (b.reg _).toNat.testBit _ = (s.m.reg _).toNat.testBit _
        rw [hcount, if_neg (ldlReg_ne_flaskReg _ _ (.inr (by omega))).symm]
  · intro s n c hheld hreq
    rw [exec_retrainComplete, retrainComplete_eq _ hheld hreq]
    refine ⟨_, rfl, fun k hk => (pc_setPc _ _ _ _).trans (if_neg hk), fun hpar => ?_, fun l hpar hl => ?_, rfl⟩
    · exact (pc_setPc _ _ _ _).trans ((if_pos rfl).trans (trained_of_not_parity hpar _ c))
    · exact (pc_setPc _ _ _ _).trans ((if_pos rfl).trans (trained_of_parity hpar _ c hl))
  · intro s n hheld hreq hdue hcan
    obtain ⟨y, hy, hpc, hcmds, hslice, hevent, hframe⟩ := holdEnded_parts s.m n.toNat 2#2
    rw [exec_retrainFail, retrainFail_eq hheld hreq hdue hcan hy hframe]
    refine ⟨_, rfl, fun k => (pc_setPc _ _ _ _).trans ?_, fun c hc w hw => ?_, hevent _ _ rfl rfl, ?_⟩
    · by_cases hk : k = n.toNat
      · rw [if_pos hk, if_pos hk, hpc, if_pos rfl, hk]
      · rw [if_neg hk, if_neg hk, hpc, if_neg hk]
    · obtain ⟨c', -, rfl⟩ := List.mem_map.1 (hcmds ▸ hc)
      simpa using (List.mem_filter.1 hw).2
    · rw [hframe]
      rfl
  · intro s p c hsafe hstate hreq
    rw [exec_lpddrRetrain, lpRetrain_eq c hsafe hstate hreq]
    have hunit : 2 ^ 28 ≤ sensorUnit (.package p) := by
      change 2 ^ 28 ≤ 2 * 2 ^ 28 + p.toNat
      omega
    have hcount := reg_bump (s.m.setPkg p.toNat { s.m.pkg p.toNat with temp := c }) (lpdReg p.toNat 0x10) 1
    have hbump : PkgRetrained s.m _ := (PkgRetrained.setPkg s.m p.toNat { s.m.pkg p.toNat with temp := c }).trans
      (.of_regs (.bump _ (lpdReg p.toNat 0x10) 1))
    have hpkg (k : Nat) : ((s.m.setPkg p.toNat { s.m.pkg p.toNat with temp := c }).bump (lpdReg p.toNat 0x10) 1).pkg k =
        if k = p.toNat then { s.m.pkg k with temp := c } else s.m.pkg k := by
      rw [bump_frame]
      refine (pkg_setPkg s.m p.toNat { s.m.pkg p.toNat with temp := c } k).trans ?_
      exact ite_congr rfl (fun hk => by rw [hk]) fun _ => rfl
    generalize (s.m.setPkg p.toNat { s.m.pkg p.toNat with temp := c }).bump (lpdReg p.toNat 0x10) 1 = b at hcount hbump hpkg
    refine ⟨_, rfl, fun k => ?_, ?_, ?_, irqPending_raise_memory _ _ (by omega) (by omega), ?_, ?_⟩
    · dsimp only
      rw [raise_frame, raise_frame, sense_frame]
      exact hpkg k
    · dsimp only
      rw [reg_raise_lpd _ _ _ (by omega), reg_raise_lpd _ _ _ (by omega), reg_sense hunit _ (by unfold lpdReg devReg; omega), hcount,
        if_pos rfl]
      rfl
    · dsimp only
      rw [irqPending_raise _ _ _ _ _ (by omega) (by omega), irqPending_raise_memory _ _ (by omega) (by omega), Bool.true_or]
    · dsimp only
      rw [reading_raise _ _ _ hunit, reading_raise _ _ _ hunit, reading_sense hunit, degrees_toInt]
    · exact congrArg (fun m => ({ s with m := m } : State))
        (hbump.trans ((PkgRetrained.sense b _ _).trans ((PkgRetrained.of_regs (.raise _ _ _)).trans (.of_regs (.raise _ _ _)))))

end Sys2Proof.Proofs
end

section
/-! SUPPORT. A command that a restartable fault stops (13 R319, R320; 14 R341 to R344). -/

namespace Sys2Proof.Proofs

open Sys2Proof Sys2Proof.Machine Sys2Proof.Laws Sys2Proof.Safety

/-! ## What a residency miss asks for (13 R305, R307, R320) -/

/-- From a to b an object's promotion has been asked for, or it has been poisoned: objects, registers, records, translations and the
start of the search for victims may have changed. -/
def Asked (a b : Mach) : Prop :=
  b = { a with objs := b.objs, regs := b.regs, cores := b.cores, victimStart := b.victimStart, recordsDue := b.recordsDue }

namespace Asked

variable {a b c : Mach}

theorem refl (s : Mach) : Asked s s := rfl

theorem trans (h : Asked a b) (h' : Asked b c) : Asked a c := by
  unfold Asked at h h'
  rw [h] at h'
  exact h'

theorem of_regs (h : RegsOnly a b) : Asked a b := by
  unfold Asked
  rw [h]

theorem ite {p : Prop} [Decidable p] {s t u : Mach} (ht : Asked s t) (hu : Asked s u) : Asked s (if p then t else u) := by
  split
  · exact ht
  · exact hu

variable (s : Mach)

theorem setObj (n : Nat) (x : Obj) : Asked s (s.setObj n x) := rfl

theorem setVictimStart (n : Nat) : Asked s { s with victimStart := n } := rfl

theorem invalidateObj (n : Nat) : Asked s (s.invalidateObj n) := by
  unfold Asked
  rw [invalidateObj_frame]

theorem poisonObj (n : Nat) : Asked s (s.poisonObj n) := by
  unfold Asked
  rw [poisonObj_frame]

theorem startDown (n dst : Nat) : Asked s (s.startDown n dst) := by
  unfold Mach.startDown
  extract_lets o src base o' t
  have ht : Asked s t := setObj s n o'
  exact ite (ht.trans (invalidateObj t n)) ht

theorem evictLoop (x : Obj) (l : List Nat) : Asked s (evictLoop x l s) := by
  induction l generalizing s with
  | nil => exact refl s
  | cons n l ih =>
    rw [Machine.evictLoop]
    exact ite (refl s) (ite (((startDown s n _).trans (setVictimStart _ _)).trans (ih _)) (ih s))

theorem startUp {s t : Mach} {n dst : Nat} (h : s.startUp n dst = some t) : Asked s t := by
  unfold Mach.startUp at h
  extract_lets o src base at h
  obtain ⟨b, -, h⟩ := Option.bind_eq_some_iff.1 h
  extract_lets base' at h
  split at h
  · cases h
    exact setObj s n _
  · split at h
    · cases h
    · cases h
      exact ((setObj s n _).trans (evictLoop _ o _)).trans (setObj _ n _)

theorem request (n : Nat) : Asked s (s.request n).1 := by
  unfold Mach.request
  extract_lets o
  split
  · split
    · next t h => exact startUp h
    · exact refl s
  · exact refl s

theorem promote (n : Nat) : Asked s (s.promote n).1 := by
  unfold Mach.promote
  extract_lets o
  split
  · exact request s n
  · split
    · exact setObj s n _
    · exact refl s

end Asked

/-- A miss of an object before its promotion is asked for: counted, and die 0 told. -/
def missCounted (s : Mach) (n : Nat) : Mach :=
  ((s.setObj n { s.obj n with faults := (s.obj n).faults + 1#32 }).bump (tierReg 0x10) 1).raise 0 115

theorem residencyMiss_eq (s : Mach) (n : Nat) : s.residencyMiss n =
    (match ((missCounted s n).promote n).2 with
      | none => .restart (.residency (BitVec.ofNat 19 n))
      | some st => .fatal st, ((missCounted s n).promote n).1) := by
  unfold Mach.residencyMiss
  extract_lets o t
  have ht : t = missCounted s n := rfl
  rw [ht]
  generalize (missCounted s n).promote n = p
  obtain ⟨u, _ | st⟩ := p <;> rfl

theorem asked_missCounted (s : Mach) (n : Nat) : Asked s (missCounted s n) :=
  ((Asked.setObj s n _).trans (.of_regs (.bump _ _ _))).trans (.of_regs (.raise _ _ _))

theorem asked_residencyMiss (s : Mach) (n : Nat) : Asked s (s.residencyMiss n).2 := by
  rw [residencyMiss_eq]
  exact (asked_missCounted s n).trans (.promote _ n)

/-! ## A miss is counted once (13 R320) -/

/-- From a to b no miss has been counted: the objects' counts and TIER_RESFAULT_CNT stand. -/
structure FaultsStand (a b : Mach) : Prop where
  faults : ∀ k, (b.obj k).faults = (a.obj k).faults
  count : b.reg (tierReg 0x10) = a.reg (tierReg 0x10)

namespace FaultsStand

variable {a b c : Mach}

theorem refl (s : Mach) : FaultsStand s s := ⟨fun _ => rfl, rfl⟩

theorem trans (h : FaultsStand a b) (h' : FaultsStand b c) : FaultsStand a c :=
  ⟨fun k => (h'.faults k).trans (h.faults k), h'.count.trans h.count⟩

theorem ite {p : Prop} [Decidable p] {s t u : Mach} (ht : FaultsStand s t) (hu : FaultsStand s u) :
    FaultsStand s (if p then t else u) := by
  split
  · exact ht
  · exact hu

variable (s : Mach)

theorem setObj (n : Nat) (x : Obj) (hx : x.faults = (s.obj n).faults) : FaultsStand s (s.setObj n x) := by
  refine ⟨fun k => ?_, rfl⟩
  rw [obj_setObj]
  split
  · next hk => rw [hx, hk]
  · rfl

theorem invalidateObj (n : Nat) : FaultsStand s (s.invalidateObj n) := by
  refine ⟨fun k => by rw [invalidateObj_frame]; rfl, ?_⟩
  unfold Mach.invalidateObj
  extract_lets ms size hit t
  split
  · rfl
  · rw [reg_raise_other _ _ _ _ (by unfold tierReg flaskReg; omega) (by unfold tierReg flaskReg; omega), reg_bump,
      if_neg (by unfold tierReg; omega)]
    rfl

theorem startDown (n dst : Nat) : FaultsStand s (s.startDown n dst) := by
  unfold Mach.startDown
  extract_lets o src base o' t
  have ho : o'.faults = (s.obj n).faults := by
    unfold o'
    split
    · split <;> rfl
    · split <;> rfl
  have ht : FaultsStand s t := setObj s n o' ho
  exact ite (ht.trans (invalidateObj t n)) ht

theorem evictLoop (x : Obj) (l : List Nat) : FaultsStand s (evictLoop x l s) := by
  induction l generalizing s with
  | nil => exact refl s
  | cons n l ih =>
    rw [Machine.evictLoop]
    have hdown : FaultsStand s { s.startDown n (s.victimTier (s.obj n)) with victimStart := n + 1 } :=
      ⟨(startDown s n _).faults, (startDown s n _).count⟩
    exact ite (refl s) (ite (hdown.trans (ih _)) (ih s))

theorem startUp {s t : Mach} {n dst : Nat} (h : s.startUp n dst = some t) : FaultsStand s t := by
  unfold Mach.startUp at h
  extract_lets o src base at h
  obtain ⟨b, -, h⟩ := Option.bind_eq_some_iff.1 h
  extract_lets base' at h
  split at h
  · cases h
    exact setObj s n _ rfl
  · split at h
    · cases h
    · cases h
      have hevict : FaultsStand s (Machine.evictLoop o s.victims (s.setObj n base')) :=
        (setObj s n base' rfl).trans (evictLoop _ o _)
      exact hevict.trans (setObj _ n _ (hevict.faults n).symm)

theorem request (n : Nat) : FaultsStand s (s.request n).1 := by
  unfold Mach.request
  extract_lets o
  split
  · split
    · next t h => exact startUp h
    · exact refl s
  · exact refl s

theorem promote (n : Nat) : FaultsStand s (s.promote n).1 := by
  unfold Mach.promote
  extract_lets o
  split
  · exact request s n
  · split
    · exact setObj s n _ rfl
    · exact refl s

end FaultsStand

theorem faults_missCounted (s : Mach) (n : Nat) : ((missCounted s n).obj n).faults = (s.obj n).faults + 1#32 := by
  unfold missCounted
  rw [raise_frame, bump_frame]
  refine (congrArg Obj.faults (obj_setObj s n _ n)).trans ?_
  rw [if_pos rfl]

theorem count_missCounted (s : Mach) (n : Nat) :
    (missCounted s n).reg (tierReg 0x10) = satAdd (s.reg (tierReg 0x10)) 1 := by
  unfold missCounted
  rw [reg_raise_other _ _ _ _ (by unfold tierReg flaskReg; omega) (by unfold tierReg flaskReg; omega), reg_bump, if_pos rfl]
  rfl

/-! ## A miss of an object in the module tier whose frames are free (13 R305, R307) -/

/-- An object without near frames takes none from the free ones, whatever else it is. -/
theorem flatMap_near_tabIns (l : Tab Obj) (n : Nat) (x : Obj) (hx : x.near = [])
    (hold : (tabGet (fun _ => {}) l n).near = []) :
    ((tabIns l n x).flatMap fun p => p.2.near) = l.flatMap fun p => p.2.near := by
  induction l with
  | nil => simp [tabIns, hx]
  | cons p l ih =>
    obtain ⟨j, y⟩ := p
    unfold tabIns
    split
    · simp [hx]
    · split
      · next hj =>
        rw [tabGet, if_pos hj.symm] at hold
        simp [hx, hold]
      · next hj =>
        rw [tabGet, if_neg (Ne.symm hj)] at hold
        simp [ih hold]

theorem flatMap_near_setObj (s : Mach) {n : Nat} {x : Obj} (hx : x.near = []) (hlisted : x ≠ {}) (hold : (s.obj n).near = []) :
    ((s.setObj n x).objs.flatMap fun p => p.2.near) = s.objs.flatMap fun p => p.2.near := by
  unfold Mach.setObj tabSet
  rw [if_neg hlisted]
  exact flatMap_near_tabIns s.objs n x hx hold

theorem nearGaps_missCounted (s : Mach) {n : Nat} (hstate : (s.obj n).state = 4#3) (hnear : (s.obj n).near = []) :
    (missCounted s n).nearGaps = s.nearGaps := by
  have hobjs : (missCounted s n).objs = (s.setObj n { s.obj n with faults := (s.obj n).faults + 1#32 }).objs := by
    unfold missCounted
    rw [raise_frame, bump_frame]
  have htables : (missCounted s n).tableExts = s.tableExts ∧ (missCounted s n).nt = s.nt := by
    unfold missCounted
    rw [raise_frame, bump_frame]
    exact ⟨rfl, rfl⟩
  have hlisted : { s.obj n with faults := (s.obj n).faults + 1#32 } ≠ ({} : Obj) := fun h => by
    have h' := congrArg Obj.state h
    simp [hstate] at h'
  unfold Mach.nearGaps Mach.gapsBeside
  rw [hobjs, htables.1, htables.2, flatMap_near_setObj s (x := { s.obj n with faults := (s.obj n).faults + 1#32 }) hnear hlisted hnear]

/-- Such a miss starts the object's move up. -/
theorem promote_missCounted (s : Mach) {n : Nat} (hstate : (s.obj n).state = 4#3) (hnear : (s.obj n).near = [])
    (hroom : (s.allocNear (s.obj n)).isSome = true) :
    ((missCounted s n).promote n).2 = none ∧ (((missCounted s n).promote n).1.obj n).state = 2#3 ∧
      (((missCounted s n).promote n).1.obj n).dst = 1#2 := by
  have hobj : (missCounted s n).obj n = { s.obj n with faults := (s.obj n).faults + 1#32 } := by
    unfold missCounted
    rw [raise_frame, bump_frame]
    exact (obj_setObj s n _ n).trans (if_pos rfl)
  have halloc : (missCounted s n).allocNear ((missCounted s n).obj n) = s.allocNear (s.obj n) := by
    rw [hobj, Mach.allocNear, nearGaps_missCounted s hstate hnear]
    rfl
  obtain ⟨e, he⟩ := Option.isSome_iff_exists.1 hroom
  rw [he] at halloc
  generalize missCounted s n = t at hobj halloc ⊢
  have hlow : ((t.obj n).state == 4#3 || (t.obj n).state == 5#3) = true := by simp [hobj, hstate]
  have hup : ∃ x : Obj, t.startUp n 1 = some (t.setObj n x) ∧ x.state = 2#3 ∧ x.dst = 1#2 := by
    unfold Mach.startUp
    extract_lets o src base
    rw [if_neg (by decide), Option.bind_some]
    extract_lets base'
    rw [halloc]
    exact ⟨_, rfl, rfl, rfl⟩
  obtain ⟨x, hup, hx, hx'⟩ := hup
  have hpromote : t.promote n = (t.setObj n x, none) := by
    unfold Mach.promote Mach.request
    dsimp only
    rw [if_pos hlow, if_pos hlow, hup]
  rw [hpromote]
  refine ⟨rfl, ?_, ?_⟩
  · rw [obj_setObj, if_pos rfl, hx]
  · rw [obj_setObj, if_pos rfl, hx']

/-- A residency miss is counted in the object and once in TIER_RESFAULT_CNT, and starts the move up where there is room. -/
theorem residencyMiss_counts {s y : Mach} {n : Nat} {w : Flt} (h : s.residencyMiss n = (w, y)) :
    (y.obj n).faults = (s.obj n).faults + 1#32 ∧ y.reg (tierReg 0x10) = satAdd (s.reg (tierReg 0x10)) 1 ∧
      ((s.obj n).state = 4#3 → (s.obj n).near = [] → (s.allocNear (s.obj n)).isSome = true →
        w = .restart (.residency (BitVec.ofNat 19 n)) ∧ (y.obj n).state = 2#3 ∧ (y.obj n).dst = 1#2) := by
  rw [residencyMiss_eq, Prod.mk.injEq] at h
  obtain ⟨hw, hy⟩ := h
  have hstand := FaultsStand.promote (missCounted s n) n
  rw [hy] at hstand
  refine ⟨(hstand.faults n).trans (faults_missCounted s n), hstand.count.trans (count_missCounted s n), fun hstate hnear hroom => ?_⟩
  obtain ⟨hnone, hstate', hdst⟩ := promote_missCounted s hstate hnear hroom
  rw [hnone] at hw
  rw [hy] at hstate' hdst
  exact ⟨hw.symm, hstate', hdst⟩

end Sys2Proof.Proofs
end

section
/-! SUPPORT. How a command stops (13 R319, R320; 14 R336, R341 to R343). -/

namespace Sys2Proof.Proofs

open Sys2Proof Sys2Proof.Machine Sys2Proof.Laws Sys2Proof.Safety

/-! ## What the fault leaves before its command stops -/

/-- From a to b a restartable fault has been taken and its command has not stopped yet: every context is as active as it was. -/
structure Taken (a b : Mach) : Prop where
  frame : b = { a with
    objs := b.objs, regs := b.regs, cores := b.cores, victimStart := b.victimStart, recordsDue := b.recordsDue, ctxs := b.ctxs }
  state : ∀ k, (b.ctx k).state = (a.ctx k).state

namespace Taken

variable {a b c : Mach}

theorem refl (s : Mach) : Taken s s := ⟨rfl, fun _ => rfl⟩

theorem trans (h : Taken a b) (h' : Taken b c) : Taken a c where
  frame := by
    have hb := h.frame
    have hc := h'.frame
    rw [hb] at hc
    exact hc
  state k := (h'.state k).trans (h.state k)

theorem of_asked (h : Asked a b) : Taken a b := by
  unfold Asked at h
  have hctxs : b.ctxs = a.ctxs := by rw [h]
  refine ⟨?_, fun k => by rw [Mach.ctx, hctxs]; rfl⟩
  rw [hctxs]
  exact h

theorem setCtx (s : Mach) (n : Nat) (x : CtxSt) (hx : x.state = (s.ctx n).state) : Taken s (s.setCtx n x) := by
  refine ⟨rfl, fun k => ?_⟩
  rw [ctx_setCtx]
  split
  · next hk => rw [hx, hk]
  · rfl

theorem cmd? (h : Taken a b) (id : Nat) : b.cmd? id = a.cmd? id := by
  rw [h.frame]
  rfl

theorem queue (h : Taken a b) (q : Nat) : b.queue q = a.queue q := by
  rw [h.frame]
  rfl

theorem near (h : Taken a b) : b.near = a.near := by rw [h.frame]

end Taken

/-! ## The stop itself -/

theorem stopEligible_frame (s : Mach) (c : Cmd) : s.stopEligible c = { s with ctxs := (s.stopEligible c).ctxs } := by
  unfold Mach.stopEligible
  extract_lets die
  split <;> rfl

theorem charge_frame (s : Mach) (ctx die t : Nat) :
    s.charge ctx die t = { s with ctxs := (s.charge ctx die t).ctxs, chargedTotal := (s.charge ctx die t).chargedTotal } := by
  unfold Mach.charge
  extract_lets x stride y
  split <;> rfl

theorem sliceEnd_frame (s : Mach) (die : Nat) : s.sliceEnd die = { s with scheds := (s.sliceEnd die).scheds } := by
  unfold Mach.sliceEnd
  extract_lets d
  split
  · rfl
  · split <;> rfl

/-- A command whose execution has ended, before its replay. -/
def ended (c : Cmd) : Cmd :=
  { c with charged := c.charged + c.charge, charge := 0, lastCycles := c.maxCycles, cycles := 0, slots := [],
           planned := false, barriers := 0, shares := [], leaves := [], unitCycles := [], step := 0, pass := 0,
           begun := false, loaded := false, fixed := [],
           heldOn := c.heldOn.filter fun w => c.cause == some .heldWait && w.over (dHoldDl c.desc) }

theorem endExecution_frame (s : Mach) (c : Cmd) : s.endExecution c = { s with
    engines := (s.endExecution c).engines, cores := (s.freeUnits c.id).cores, clusters := (s.freeUnits c.id).clusters,
    slices := (s.endExecution c).slices, cmds := (s.setCmd (ended c)).cmds, ctxs := (s.endExecution c).ctxs,
    scheds := (s.endExecution c).scheds, chargedTotal := (s.endExecution c).chargedTotal } := by
  have hunits : s.freeUnits c.id = { s with
      engines := (s.freeUnits c.id).engines, cores := (s.freeUnits c.id).cores, clusters := (s.freeUnits c.id).clusters } := rfl
  unfold Mach.endExecution
  extract_lets t
  have hend := sliceEnd_frame (((s.freeUnits c.id).freeSlots c.heldOn).charge c.ctx c.die c.charge) c.die
  have hcharge := charge_frame ((s.freeUnits c.id).freeSlots c.heldOn) c.ctx c.die c.charge
  have hslots := freeSlots_frame (s.freeUnits c.id) c.heldOn
  change t = _ at hend
  generalize s.freeUnits c.id = u at hunits hslots hcharge hend ⊢
  generalize u.freeSlots c.heldOn = v at hslots hcharge hend
  generalize v.charge c.ctx c.die c.charge = w at hcharge hend
  clear_value t
  rw [hend, hcharge, hslots, hunits]
  rfl

/-- No core works for a command whose units have come free. -/
theorem core_freeUnits_cmd (s : Mach) (id k : Nat) : ((s.freeUnits id).core k).cmd ≠ some id := by
  unfold Mach.freeUnits Mach.core
  extract_lets free leave quiet
  rw [tabGet_tabMap _ leave _ k rfl]
  unfold leave
  split
  · simp
  · next h => simpa using h

/-- No cluster has a place of a command whose units have come free. -/
theorem places_freeUnits (s : Mach) (id k : Nat) : ∀ p ∈ ((s.freeUnits id).cluster k).places, p.2 ≠ id := by
  unfold Mach.freeUnits Mach.cluster
  extract_lets free leave quiet
  rw [tabGet_tabMap _ free _ k rfl]
  intro p hp
  simpa using (List.mem_filter.1 hp).2

section Stop

variable {y : Mach} {c : Cmd} (why : RestartCause) (hst : c.st ≠ .stopped)
include hst

theorem stopCmd_of_inFlight (hreplays : c.replays < 16) (hrun : c.st = .running) (hflight : y.inFlight c.id = true) :
    y.stopCmd c (some why) .stopped = (y.stopEligible c).setCmd { c with st := .stopped, cause := some why } := by
  unfold Mach.stopCmd
  rw [if_neg hst, if_neg (by omega), if_pos ⟨rfl, hrun, hflight⟩]

theorem stopCmd_of_none_inFlight (hreplays : c.replays < 16) (hflight : c.st ≠ .running ∨ y.inFlight c.id = false) :
    y.stopCmd c (some why) .stopped = (y.stopEligible c).endExecution { c with st := .stopped, cause := some why } := by
  unfold Mach.stopCmd
  rw [if_neg hst, if_neg (by omega), if_neg]
  rintro ⟨-, hrun, hfl⟩
  simp [hrun, hfl] at hflight

theorem stopCmd_of_limit (hreplays : 16 ≤ c.replays) :
    y.stopCmd c (some why) .stopped = y.fatalOn c.die c.ctx stReplayLimit (descCmdId c.desc) := by
  unfold Mach.stopCmd
  rw [if_neg hst, if_pos hreplays]

end Stop

/-! ## The events of the dispatchers (14 R341, R344) -/

/-- After a dispatcher's event its source is pending. -/
theorem irqPending_raise_dispatcher (s : Mach) (d : Nat) {n : Nat} (h : 112 ≤ n) (h' : n < 118) :
    (s.raise d n).irqPending d n = true := by
  have hsrc : srcReserved d n = false := by
    have hlt (k : Nat) (hk : 118 ≤ k) : decide (k ≤ n) = false := decide_eq_false (by omega)
    have hle (k : Nat) (hk : k < 112) : decide (n ≤ k) = false := decide_eq_false (by omega)
    simp [srcReserved, hlt, hle]
  rw [irqPending_raise s d n d n (by omega) (by omega), hsrc]
  simp

/-! ## The instructions (12 R275; 13 R319, R320; 14 R341) -/

theorem exec_heldWaitDeadline (s : State) (id : Nat) :
    exec (.heldWaitDeadline id) s = .next { s with m := heldDeadline s.m id } := rfl

theorem exec_restartableFault (s : State) (id : Nat) (why : RestartCause) :
    exec (.restartableFault id why) s = .next { s with m := restartable s.m id why } := rfl

theorem exec_budgetOverrun (s : State) (id : Nat) :
    exec (.budgetOverrun id) s = .next { s with m := budgetOverrun s.m id } := rfl

/-- The machine in which a restartable fault has stopped a command. -/
def stoppedBy (y : Mach) (c : Cmd) (why : RestartCause) : Mach := (y.stopCmd c (some why) .stopped).raise c.die 114

section Command

variable {s : Mach} {id : Nat} {c : Cmd} (hfound : s.cmd? id = some c)
include hfound

theorem cmdFault_restart (s0 : Mach) (unit no : Nat) (why : RestartCause) :
    s.cmdFault s0 id unit no (.restart why) = stoppedBy s c why := by
  unfold Mach.cmdFault
  dsimp only
  rw [hfound]
  rfl

theorem cmdFault_fatal (s0 : Mach) (unit no st : Nat) :
    s.cmdFault s0 id unit no (.fatal st) = s.fatalOn c.die c.ctx st (descCmdId c.desc) := by
  unfold Mach.cmdFault
  dsimp only
  rw [hfound]

/-- A wait of a core or branch command beyond its deadline stops it. -/
theorem heldDeadline_of_over (hwork : c.working = true) (hruns : s.runs c.ctx = true)
    (hover : (c.heldOn.any fun w => w.over (dHoldDl c.desc)) = true)
    (hop : isCoreOp (dOp c.desc) = true ∨ dOp c.desc = 0x13) : heldDeadline s id = stoppedBy s c .heldWait := by
  unfold heldDeadline
  rw [hfound]
  dsimp only
  rw [if_neg]
  · rfl
  · rcases hop with hop | hop <;> simp [hwork, hruns, hover, hop]

theorem heldDeadline_of_none_over (hover : ∀ w ∈ c.heldOn, w.over (dHoldDl c.desc) = false) : heldDeadline s id = s := by
  have hany : (c.heldOn.any fun w => w.over (dHoldDl c.desc)) = false := by simpa using hover
  unfold heldDeadline
  rw [hfound]
  dsimp only
  rw [if_pos (by simp [hany])]

theorem heldDeadline_of_not_runs (hruns : s.runs c.ctx = false) : heldDeadline s id = s := by
  unfold heldDeadline
  rw [hfound]
  dsimp only
  rw [if_pos (by simp [hruns])]

theorem restartable_of_not_runs (hruns : s.runs c.ctx = false) (why : RestartCause) : restartable s id why = s := by
  unfold restartable
  rw [hfound]
  dsimp only
  rw [if_pos (by simp [hruns])]

theorem budgetOverrun_of_not_runs (hruns : s.runs c.ctx = false) : budgetOverrun s id = s := by
  unfold budgetOverrun
  rw [hfound]
  dsimp only
  rw [if_pos (by simp [hruns])]

theorem budgetOverrun_of_within (hwithin : c.maxCycles ≤ dBudget c.desc) : budgetOverrun s id = s := by
  unfold budgetOverrun
  rw [hfound]
  dsimp only
  rw [if_pos (by simp [hwithin])]

section Working

variable (hwork : c.working = true) (hruns : s.runs c.ctx = true)
include hwork hruns

theorem budgetOverrun_of_over (hover : dBudget c.desc < c.maxCycles) :
    budgetOverrun s id = (s.raise c.die 117).fatalOn c.die c.ctx stBudget (dCmdId c.desc) := by
  unfold budgetOverrun
  rw [hfound]
  dsimp only
  rw [if_neg (by simp [hwork, hruns, hover])]

/-- A residency miss whose object starts to move up stops its command. -/
theorem restartable_residency {n : ObjNo} {y : Mach} (habsent : (s.obj n.toNat).present = false)
    (hclean : (s.obj n.toNat).poison = true → (s.obj n.toNat).clean = true)
    (hmiss : (s.setCtx c.ctx { s.ctx c.ctx with misses := (s.ctx c.ctx).misses + 1 }).residencyMiss n.toNat =
      (.restart (.residency n), y)) (hy : y.cmd? id = some c) :
    restartable s id (.residency n) = stoppedBy y c (.residency n) := by
  have hsound : ((s.obj n.toNat).poison && !(s.obj n.toNat).clean) = false := by
    cases hp : (s.obj n.toNat).poison
    · rfl
    · rw [hclean hp]; rfl
  unfold restartable
  rw [hfound]
  dsimp only
  rw [if_neg (by simp [hwork, hruns]), habsent, hsound, hmiss]
  exact cmdFault_restart hy s 0 0 _

/-- Slag of a clean object with an origin stops its command. -/
theorem restartable_slag {n : ObjNo} (hclean : (s.obj n.toNat).clean = true) (horigin : (s.obj n.toNat).origin = true)
    (hplace : c.st = .work → isInPlace c.desc = false) :
    restartable s id (.slag n) = stoppedBy (s.poisonObj n.toNat) c (.slag n) := by
  have hrecoverable : (c.st == .work && isInPlace c.desc) = false := by
    cases hw : c.st == .work
    · rfl
    · rw [hplace (by simpa using hw)]; rfl
  have hy : (s.poisonObj n.toNat).cmd? id = some c := by
    rw [poisonObj_frame]
    exact hfound
  unfold restartable
  rw [hfound]
  dsimp only
  rw [if_neg (by simp [hwork, hruns]), hclean, horigin, hrecoverable]
  exact cmdFault_restart hy s 0 0 _

/-- Slag of an object that no clean origin backs is fatal. -/
theorem restartable_slag_lost {n : ObjNo} (hlost : (s.obj n.toNat).clean = false ∨ (s.obj n.toNat).origin = false) :
    restartable s id (.slag n) = (s.poisonObj n.toNat).fatalOn c.die c.ctx stFaultPoison (descCmdId c.desc) := by
  have hy : (s.poisonObj n.toNat).cmd? id = some c := by
    rw [poisonObj_frame]
    exact hfound
  unfold restartable
  rw [hfound]
  dsimp only
  rw [if_neg (by simp [hwork, hruns]), if_neg (by rcases hlost with h | h <;> simp [h])]
  exact cmdFault_fatal hy s 0 0 _

end Working

end Command

/-! ## What the stop leaves -/

/-- Of the waits a command keeps through a deadline those remain that had waited it out. -/
theorem heldOn_ended (c : Cmd) (why : RestartCause) (hdl : why = .heldWait → dHoldDl c.desc ≠ 0) :
    (ended { c with st := .stopped, cause := some why }).heldOn =
      if why = .heldWait then c.heldOn.filter (fun w => decide (1024 * dHoldDl c.desc < w.cycles)) else [] := by
  unfold ended HeldWait.over
  by_cases hwhy : why = .heldWait
  · have hdeclared : (dHoldDl c.desc != 0) = true := by simpa using hdl hwhy
    simp [hwhy, hdeclared]
  · simp [hwhy]

section Taken

variable {s y : Mach} {id : Nat} {c : Cmd} {why : RestartCause} (hfound : s.cmd? id = some c) (htaken : Taken s y)
  (hst : c.st ≠ .stopped)
include hfound htaken hst

/-- A command with entries in flight keeps its cores and places. -/
theorem stoppedBy_of_inFlight (hreplays : c.replays < 16) (hrun : c.st = .running) (hflight : y.inFlight id = true) :
    (stoppedBy y c why).cmd? id = some { c with st := .stopped, cause := some why } ∧
      (stoppedBy y c why).cores = y.cores ∧ (stoppedBy y c why).clusters = y.clusters ∧
      (stoppedBy y c why).near = s.near ∧ ∀ d, d ≠ id → (stoppedBy y c why).cmd? d = s.cmd? d := by
  have hid := cmd?_id hfound
  have hel := stopEligible_frame y c
  unfold stoppedBy
  rw [stopCmd_of_inFlight why hst hreplays hrun (hid ▸ hflight), raise_frame]
  generalize y.stopEligible c = u at hel ⊢
  have hu : ∀ d, u.cmd? d = s.cmd? d := fun d => by
    rw [← htaken.cmd? d, hel]
    rfl
  refine ⟨cmd?_setCmd_same (s := u) ((hu id).trans hfound) hid, ?_, ?_, ?_, fun d hd => ?_⟩
  · rw [hel]; rfl
  · rw [hel]; rfl
  · rw [← htaken.near, hel]; rfl
  · exact (cmd?_setCmd_other u (c := { c with st := .stopped, cause := some why }) (hid ▸ hd)).trans (hu d)

/-- Any other command has its execution ended. -/
theorem stoppedBy_of_none_inFlight (hreplays : c.replays < 16) (hflight : c.st ≠ .running ∨ y.inFlight id = false) :
    (stoppedBy y c why).cmd? id = some (ended { c with st := .stopped, cause := some why }) ∧
      (∀ k, ((stoppedBy y c why).core k).cmd ≠ some id) ∧
      (∀ k, ∀ p ∈ ((stoppedBy y c why).cluster k).places, p.2 ≠ id) ∧
      (∀ q, (stoppedBy y c why).queue q = s.queue q) ∧ (stoppedBy y c why).near = s.near ∧
      ∀ d, d ≠ id → (stoppedBy y c why).cmd? d = s.cmd? d := by
  have hid := cmd?_id hfound
  have hel := stopEligible_frame y c
  unfold stoppedBy
  rw [stopCmd_of_none_inFlight why hst hreplays (by rw [hid]; exact hflight), raise_frame]
  generalize y.stopEligible c = u at hel ⊢
  have hu : ∀ d, u.cmd? d = s.cmd? d := fun d => by
    rw [← htaken.cmd? d, hel]
    rfl
  have hend := endExecution_frame u { c with st := .stopped, cause := some why }
  generalize u.endExecution { c with st := .stopped, cause := some why } = v at hend ⊢
  rw [hend]
  refine ⟨cmd?_setCmd_same (s := u) ((hu id).trans hfound) hid, fun k => ?_, fun k => ?_, fun q => ?_, ?_, fun d hd => ?_⟩
  · exact hid ▸ core_freeUnits_cmd u c.id k
  · exact hid ▸ places_freeUnits u c.id k
  · rw [← htaken.queue q, hel]; rfl
  · rw [← htaken.near, hel]
  · exact (cmd?_setCmd_other u (c := ended { c with st := .stopped, cause := some why }) (hid ▸ hd)).trans (hu d)

omit hfound in
/-- The 16th replay's execution takes ST_REPLAY_LIMIT. -/
theorem stoppedBy_of_limit (hreplays : 16 ≤ c.replays) (hactive : (s.ctx c.ctx).state = 1#2) :
    ((stoppedBy y c why).ctx c.ctx).state = 2#2 ∧ ((stoppedBy y c why).ctx c.ctx).lastSt = stReplayLimit := by
  unfold stoppedBy
  rw [stopCmd_of_limit why hst hreplays, fatalOn_of_active _ _ _ _ _ ((htaken.state _).trans hactive), raise_frame, raise_frame]
  have hctx := (ctx_setCtx y c.ctx { y.ctx c.ctx with state := 2#2, lastSt := stReplayLimit, faultCmd := descCmdId c.desc }
    c.ctx).trans (if_pos rfl)
  exact ⟨congrArg CtxSt.state hctx, congrArg CtxSt.lastSt hctx⟩

end Taken

/-! ## What stops a command (12 R275; 13 R319, R320) -/

/-- Instruction i stops command c of number id with cause why: a held-channel deadline, a residency miss whose object starts to move
up, or slag of a clean object with an origin; y is the machine in which it stops. -/
def StopsBy (s : State) (id : Nat) (c : Cmd) (i : Instr) (why : RestartCause) (y : Mach) : Prop :=
  (i = .heldWaitDeadline id ∧ why = .heldWait ∧ y = s.m ∧ dHoldDl c.desc ≠ 0 ∧
    (∃ w ∈ c.heldOn, 1024 * dHoldDl c.desc < w.cycles) ∧ (isCoreOp (dOp c.desc) = true ∨ dOp c.desc = 0x13)) ∨
  (∃ n : ObjNo, i = .restartableFault id (.residency n) ∧ why = .residency n ∧ (s.m.obj n.toNat).present = false ∧
    ((s.m.obj n.toNat).poison = true → (s.m.obj n.toNat).clean = true) ∧
    (s.m.setCtx c.ctx { s.m.ctx c.ctx with misses := (s.m.ctx c.ctx).misses + 1 }).residencyMiss n.toNat =
      (.restart (.residency n), y)) ∨
  (∃ n : ObjNo, i = .restartableFault id (.slag n) ∧ why = .slag n ∧ y = s.m.poisonObj n.toNat ∧
    (s.m.obj n.toNat).clean = true ∧ (s.m.obj n.toNat).origin = true ∧ (c.st = .work → isInPlace c.desc = false))

namespace StopsBy

variable {s : State} {id : Nat} {c : Cmd} {i : Instr} {why : RestartCause} {y : Mach} (h : StopsBy s id c i why y)
include h

theorem taken : Taken s.m y := by
  rcases h with ⟨-, -, rfl, -⟩ | ⟨n, -, -, -, -, hmiss⟩ | ⟨n, -, -, rfl, -⟩
  · exact .refl _
  · have hcounted : Taken s.m (s.m.setCtx c.ctx { s.m.ctx c.ctx with misses := (s.m.ctx c.ctx).misses + 1 }) :=
      .setCtx _ _ _ rfl
    generalize s.m.setCtx c.ctx { s.m.ctx c.ctx with misses := (s.m.ctx c.ctx).misses + 1 } = t at hmiss hcounted
    have hasked := asked_residencyMiss t n.toNat
    rw [hmiss] at hasked
    exact hcounted.trans (.of_asked hasked)
  · exact .of_asked (.poisonObj _ _)

theorem declared : why = .heldWait → dHoldDl c.desc ≠ 0 := by
  rcases h with ⟨-, -, -, hdl, -⟩ | ⟨n, -, rfl, -⟩ | ⟨n, -, rfl, -⟩
  · exact fun _ => hdl
  · exact nofun
  · exact nofun

theorem exec (hfound : s.m.cmd? id = some c) (hwork : c.working = true) (hruns : s.m.runs c.ctx = true) :
    exec i s = .next { s with m := stoppedBy y c why } := by
  have htaken := h.taken
  rcases h with ⟨rfl, rfl, rfl, hdl, hover, hop⟩ | ⟨n, rfl, rfl, habsent, hclean, hmiss⟩ | ⟨n, rfl, rfl, rfl, hclean, horigin, hplace⟩
  · have hany : (c.heldOn.any fun w => w.over (dHoldDl c.desc)) = true := by
      obtain ⟨w, hw, hlong⟩ := hover
      exact List.any_eq_true.2 ⟨w, hw, by simp [HeldWait.over, hdl, hlong]⟩
    rw [exec_heldWaitDeadline, heldDeadline_of_over hfound hwork hruns hany hop]
  · rw [exec_restartableFault,
      restartable_residency hfound hwork hruns habsent hclean hmiss ((htaken.cmd? id).trans hfound)]
  · rw [exec_restartableFault, restartable_slag hfound hwork hruns hclean horigin hplace]

end StopsBy

theorem Cmd.st_ne_stopped_of_working {c : Cmd} (h : c.working = true) : c.st ≠ .stopped := by
  intro hst
  simp [Cmd.working, hst] at h

/-- No wait of a command has outlasted its deadline. -/
theorem none_over {c : Cmd} (h : dHoldDl c.desc = 0 ∨ ∀ w ∈ c.heldOn, w.cycles ≤ 1024 * dHoldDl c.desc) :
    ∀ w ∈ c.heldOn, w.over (dHoldDl c.desc) = false := by
  intro w hw
  rcases h with h | h
  · simp [HeldWait.over, h]
  · simp [HeldWait.over, h w hw]

end Sys2Proof.Proofs
end

section
/-! SUPPORT. The replay of a stopped command (14 R343). -/

namespace Sys2Proof.Proofs

open Sys2Proof Sys2Proof.Machine Sys2Proof.Laws Sys2Proof.Safety

/-! ## The command that replays -/

/-- A command as its replay begins, in state st. -/
def replayed (c : Cmd) (st : CmdSt) : Cmd :=
  { c with st := st, replays := c.replays + 1, cause := none, heldOn := [], aux := if dOp c.desc = 13 then c.aux.take 1 else [] }

/-- The machine as a command's replay begins: counted in its context and its die. -/
def replayStart (r : Mach) (c : Cmd) (st : CmdSt) : Mach :=
  ((r.setCmd (replayed c st)).setCtx c.ctx { r.ctx c.ctx with replays := (r.ctx c.ctx).replays + 1 }).bump (schReg c.die 0x1C) 1

theorem replayStart_frame (r : Mach) (c : Cmd) (st : CmdSt) : replayStart r c st = { r with
    cmds := (r.setCmd (replayed c st)).cmds, ctxs := (replayStart r c st).ctxs, regs := (replayStart r c st).regs } := by
  unfold replayStart
  rw [bump_frame]
  rfl

theorem cmd?_replayStart {r : Mach} {c : Cmd} {id : Nat} (st : CmdSt) (h : r.cmd? id = some c) :
    (replayStart r c st).cmd? id = some (replayed c st) := by
  have hid := cmd?_id h
  rw [replayStart_frame]
  exact cmd?_setCmd_same h hid

theorem not_core_of_ladle {op : Nat} (h : isLadleOp op = true) : isCoreOp op = false := by
  simp only [isLadleOp, isCoreOp, Bool.or_eq_true, Bool.and_eq_true, beq_iff_eq, decide_eq_true_eq, Bool.and_eq_false_iff,
    decide_eq_false_iff_not, bne_eq_false_iff_eq] at h ⊢
  omega

/-! ## The replay of the first command of its queue -/

section Replay

variable {s r : Mach} {id : Nat} {c : Cmd}

/-- The command of a queue to be replayed may replay in a machine where the dispatcher has considered eligibility too. -/
theorem mayReplay_of_noted {die : Nat} (hr : Noted die s r) (hissues : s.issues = true) (hruns : s.runs c.ctx = true)
    (hready : s.replayable c = true) : (!r.issues || !r.runs c.ctx || !r.replayable c) = false := by
  have hissues' : r.issues = true := by
    have hsafe : r.safe = s.safe := congrArg (fun w : Word => w.toNat.testBit 30) (hr.reg _ (by unfold safReg schReg; omega))
    have hfrozen : r.frozen = s.frozen := by rw [hr.frame]
    rw [Mach.issues, hsafe, hfrozen]
    exact hissues
  have hruns' : r.runs c.ctx = true := by
    rw [Mach.runs, hr.ctx]
    exact hruns
  have hready' : r.replayable c = true := by
    rw [hr.frame]
    exact hready
  simp [hissues', hruns', hready']

theorem replayCmd_eq (hfound : s.cmd? id = some c) (hfirst : s.toReplay c.queue = some c) (hready : s.replayable c = true)
    (hr : noteReady s c.die c.ctx = r) : replayCmd s id = (tryReplay r c (keptPlaces r c.die c.ctx)).getD s := by
  unfold replayCmd
  rw [hfound]
  dsimp only
  rw [hfirst]
  dsimp only
  rw [if_pos ⟨cmd?_id hfound, hready⟩, hr]

theorem tryReplay_ladle {avoid : List Nat} {z : Cmd} {y : Mach} (hmay : (!r.issues || !r.runs c.ctx || !r.replayable c) = false)
    (hop : isLadleOp (dOp c.desc) = true)
    (hcheck : ladleIssue (replayed c .offered) (replayStart r c .offered) = .ok z y) :
    tryReplay r c avoid = some (y.setCmd z) := by
  unfold tryReplay
  extract_lets op go
  rw [if_neg (by simp [hmay]), if_neg (by simp [op, not_core_of_ladle hop]), if_pos hop]
  change startLadle r (replayStart r c .offered) (replayed c .offered) = _
  unfold startLadle
  rw [hcheck]
  rfl

theorem tryReplay_core {avoid ks : List Nat} (hmay : (!r.issues || !r.runs c.ctx || !r.replayable c) = false)
    (hop : isCoreOp (dOp c.desc) = true)
    (hplaces : r.choosePlaces (r.queue c.queue).dieMask (dSlots c.desc) avoid = some ks) :
    tryReplay r c avoid = startCore r (grantPlaces (replayStart r c .running) c.id ks) c.id := by
  unfold tryReplay
  extract_lets op go
  rw [if_neg (by simp [hmay]), if_pos hop, hplaces]
  rfl

/-- MATMUL and CONV with zero bits above their body pass their check at issue. -/
theorem startCore_matmul {g : Mach} {x : Cmd} (hx : g.cmd? id = some x) (hop : dOp x.desc ≤ 2) (hbody : bits x.desc 511 192 = 0) :
    startCore r g id = some g := by
  unfold startCore Machine.coreIssueCheck
  rw [hx]
  dsimp only
  rw [if_pos hop, hbody]
  rfl

/-- What is found under the number of a command just written is that command. -/
theorem eq_of_cmd?_setCmd_id {s : Mach} {c d : Cmd} (h : (s.setCmd c).cmd? id = some d) (hid : c.id = id) : d = c :=
  eq_of_cmd?_setCmd (hid ▸ h)

/-- No core has joined a slot that has just taken its place. -/
theorem cores_grants (id : Nat) (l : List (Nat × Nat)) {s : Mach} {z : Cmd}
    (hs : ∀ c, s.cmd? id = some c → ∀ x ∈ c.slots, x.cores = []) (hz : (each (grantOne id) l s).cmd? id = some z) :
    ∀ x ∈ z.slots, x.cores = [] := by
  induction l generalizing s with
  | nil => exact hs z hz
  | cons p l ih =>
    refine ih (s := grantOne id p s) (fun c hc => ?_) hz
    unfold grantOne at hc
    split at hc
    · exact hs c hc
    · next b hb =>
      have hid := cmd?_id hb
      obtain rfl := eq_of_cmd?_setCmd_id hc hid
      intro x hx
      rcases List.mem_append.1 hx with hx | hx
      · exact hs b hb x hx
      · rw [List.mem_singleton.1 hx]

end Replay

theorem exec_replay (s : State) (id : Nat) : exec (.replay id) s = .next { s with m := replayCmd s.m id } := rfl

/-- A command of the ladle units is checked as at issue and offered again. -/
theorem replay_ladle {s : State} {id : Nat} {c z : Cmd} {r y : Mach} (hfound : s.m.cmd? id = some c)
    (hfirst : s.m.toReplay c.queue = some c) (hissues : s.m.issues = true) (hruns : s.m.runs c.ctx = true)
    (hready : s.m.replayable c = true) (hop : isLadleOp (dOp c.desc) = true) (hr : noteReady s.m c.die c.ctx = r)
    (hcheck : ladleIssue (replayed c .offered) (replayStart r c .offered) = .ok z y) :
    exec (.replay id) s = .next { s with m := y.setCmd z } := by
  have hnoted : Noted c.die s.m r := hr ▸ Noted.noteReady s.m _
  rw [exec_replay, replayCmd_eq hfound hfirst hready hr,
    tryReplay_ladle (mayReplay_of_noted hnoted hissues hruns hready) hop hcheck, Option.getD_some]

/-- A MATMUL or CONV takes new places. -/
theorem replay_matmul {s : State} {id : Nat} {c : Cmd} {r : Mach} {ks : List Nat} (hfound : s.m.cmd? id = some c)
    (hfirst : s.m.toReplay c.queue = some c) (hissues : s.m.issues = true) (hruns : s.m.runs c.ctx = true)
    (hready : s.m.replayable c = true) (hop : dOp c.desc = 1 ∨ dOp c.desc = 2) (hr : noteReady s.m c.die c.ctx = r)
    (hplaces : r.choosePlaces (s.m.queue c.queue).dieMask (dSlots c.desc) (keptPlaces r c.die c.ctx) = some ks)
    (hbody : bits c.desc 511 192 = 0) (hslots : c.slots = []) :
    ∃ t z, exec (.replay id) s = .next t ∧ t.m.cmd? id = some z ∧ z.st = .running ∧ z.replays = c.replays + 1 ∧
      z.slots.map (fun x => x.cluster) = ks ∧ (∀ x ∈ z.slots, x.admitted = false ∧ x.cores = []) ∧ z.desc = c.desc ∧
      t = { s with m := { s.m with
        cmds := t.m.cmds, ctxs := t.m.ctxs, regs := t.m.regs, clusters := t.m.clusters, scheds := t.m.scheds } } := by
  have hid := cmd?_id hfound
  have hnoted : Noted c.die s.m r := hr ▸ Noted.noteReady s.m _
  have hcore : isCoreOp (dOp c.desc) = true := by rcases hop with h | h <;> rw [h] <;> rfl
  have hqueue : r.queue c.queue = s.m.queue c.queue := by rw [hnoted.frame]; rfl
  have hfound' : r.cmd? id = some c := by
    rw [hnoted.frame]
    exact hfound
  have hstart := cmd?_replayStart .running hfound'
  have hframe := replayStart_frame r c .running
  have htry := tryReplay_core (r := r) (mayReplay_of_noted hnoted hissues hruns hready) hcore (hqueue ▸ hplaces)
  rw [hid, grantPlaces_eq] at htry
  generalize replayStart r c .running = m at hstart hframe htry
  have hgranted := granted_each (id := id) 0 ks hstart
  have hcores := fun z => cores_grants id ks.zipIdx (s := m) (z := z) fun b hb x hx => by
    obtain rfl := Option.some.inj (hstart.symm.trans hb)
    rw [show (replayed c .running).slots = [] from hslots] at hx
    exact absurd hx List.not_mem_nil
  generalize each (grantOne id) ks.zipIdx m = g at hgranted hcores htry
  obtain ⟨⟨l, hl, hclusters, hnew⟩, -, -, -, -, -, hgframe⟩ := hgranted
  have hlslots : (replayed c .running).slots ++ l = l := by rw [show (replayed c .running).slots = [] from hslots, List.nil_append]
  rw [hlslots] at hl
  have hexec : exec (.replay id) s = .next { s with m := g } := by
    rw [exec_replay, replayCmd_eq hfound hfirst hready hr, htry,
      startCore_matmul hl (by rcases hop with h | h <;> exact h.le.trans (by decide)) hbody, Option.getD_some]
  refine ⟨_, _, hexec, hl, rfl, rfl, hclusters, fun x hx => ⟨hnew x hx, hcores _ hl x hx⟩, rfl, ?_⟩
  have hmach : g = { s.m with cmds := g.cmds, ctxs := g.ctxs, regs := g.regs, clusters := g.clusters, scheds := g.scheds } := by
    rw [hgframe, hframe, hnoted.frame]
  exact congrArg (fun m => ({ s with m := m } : State)) hmach

/-! ## Faults that are fatal, and the budget (13 R319; 14 R341, R344) -/

theorem ctx_of_raise (s : Mach) (d n k : Nat) : (s.raise d n).ctx k = s.ctx k := by
  rw [raise_frame]
  rfl

/-- A command over its budget begins its context's teardown. -/
theorem budget_tearsDown {s : State} {id : Nat} {c : Cmd} (hfound : s.m.cmd? id = some c) (hwork : c.working = true)
    (hactive : (s.m.ctx c.ctx).state = 1#2) (hover : dBudget c.desc < c.maxCycles) :
    ∃ t, exec (.budgetOverrun id) s = .next t ∧
      t.m.ctx c.ctx = { s.m.ctx c.ctx with state := 2#2, lastSt := stBudget, faultCmd := dCmdId c.desc } ∧
      (∀ x, x ≠ c.ctx → t.m.ctx x = s.m.ctx x) ∧ (c.die < 4 → t.m.irqPending c.die 117 = true ∧ t.m.irqPending c.die 113 = true) ∧
      t = { s with m := { s.m with ctxs := t.m.ctxs, regs := t.m.regs } } := by
  have hframe := raise_frame s.m c.die 117
  have hirq := irqPending_raise_dispatcher s.m c.die (n := 117) (by omega) (by omega)
  have hexec := exec_budgetOverrun s id
  rw [budgetOverrun_of_over hfound hwork (by simp [Mach.runs, hactive]) hover] at hexec
  generalize s.m.raise c.die 117 = r at hframe hirq hexec
  have hctx : ∀ x, r.ctx x = s.m.ctx x := fun x => by rw [hframe]; rfl
  rw [fatalOn_of_active r _ _ _ _ ((congrArg CtxSt.state (hctx _)).trans hactive), hctx] at hexec
  have hset := ctx_setCtx r c.ctx { s.m.ctx c.ctx with state := 2#2, lastSt := stBudget, faultCmd := dCmdId c.desc }
  have hbegun := raise_frame (r.setCtx c.ctx { s.m.ctx c.ctx with state := 2#2, lastSt := stBudget, faultCmd := dCmdId c.desc }) c.die 113
  refine ⟨_, hexec, ?_, fun x hx => ?_, fun _ => ⟨?_, irqPending_raise_dispatcher _ _ (by omega) (by omega)⟩, ?_⟩
  · exact (ctx_of_raise _ c.die 113 c.ctx).trans ((hset c.ctx).trans (if_pos rfl))
  · exact (ctx_of_raise _ c.die 113 x).trans (((hset x).trans (if_neg hx)).trans (hctx x))
  · rw [irqPending_raise _ _ _ _ _ (by omega) (by omega), Bool.or_eq_true]
    exact Or.inl hirq
  · refine congrArg (fun m => ({ s with m := m } : State)) ?_
    rw [hbegun, hframe]
    rfl

/-- Slag of an object that no clean origin backs begins the teardown of its reader's context. -/
theorem slag_tearsDown {s : State} {id : Nat} {c : Cmd} {n : ObjNo} (hfound : s.m.cmd? id = some c) (hwork : c.working = true)
    (hactive : (s.m.ctx c.ctx).state = 1#2) (hlost : (s.m.obj n.toNat).clean = false ∨ (s.m.obj n.toNat).origin = false) :
    ∃ t, exec (.restartableFault id (.slag n)) s = .next t ∧ (t.m.ctx c.ctx).state = 2#2 ∧
      (t.m.ctx c.ctx).lastSt = stFaultPoison ∧ (t.m.ctx c.ctx).faultCmd = dCmdId c.desc := by
  have hctx : (s.m.poisonObj n.toNat).ctx c.ctx = s.m.ctx c.ctx := by rw [poisonObj_frame]; rfl
  have hexec := exec_restartableFault s id (.slag n)
  rw [restartable_slag_lost hfound hwork (by simp [Mach.runs, hactive]) hlost,
    fatalOn_of_active _ _ _ _ _ ((congrArg CtxSt.state hctx).trans hactive)] at hexec
  generalize s.m.poisonObj n.toNat = p at hexec
  have hnew := (ctx_setCtx p c.ctx { p.ctx c.ctx with state := 2#2, lastSt := stFaultPoison, faultCmd := descCmdId c.desc }
    c.ctx).trans (if_pos rfl)
  refine ⟨_, hexec, ?_⟩
  rw [raise_frame]
  exact ⟨congrArg CtxSt.state hnew, congrArg CtxSt.lastSt hnew, congrArg CtxSt.faultCmd hnew⟩

/-! ## The statement -/

/-- Settles O35: a fault leaves commands, queues and the near tier as they are (`Taken`) and then stops its command
(`StopsBy.exec`), with its entries in flight (`stoppedBy_of_inFlight`), with its execution ended (`stoppedBy_of_none_inFlight`) or in
teardown (`stoppedBy_of_limit`); the replay is `replay_ladle` and `replay_matmul`. -/
theorem faultsStopAndReplay : Obligations.FaultsStopAndReplay := by
  refine ⟨fun s id c i why y hfound hwork hruns hcause => ?_, fun s n y w h => residencyMiss_counts h,
    fun s id c n hfound hwork hactive hlost => slag_tearsDown hfound hwork hactive hlost,
    fun s id c hfound hfirst hissues hruns hready => ⟨fun v z r m y hop hr hv hm hcheck => ?_,
      fun ks r hop hr hplaces hbody hslots => replay_matmul hfound hfirst hissues hruns hready hop hr hplaces hbody hslots⟩,
    fun s id c hfound hwork hactive hover => budget_tearsDown hfound hwork hactive hover,
    fun s id c i why hfound hruns hi => ?_, fun s id c hfound => ⟨fun hwithin => ?_, fun hwaits => ?_⟩⟩
  · have hstops : StopsBy s id c i why y := hcause
    have hst := Cmd.st_ne_stopped_of_working hwork
    have hexec := hstops.exec hfound hwork hruns
    have hirq : (stoppedBy y c why).irqPending c.die 114 = true :=
      irqPending_raise_dispatcher _ _ (by omega) (by omega)
    refine ⟨fun hreplays hrun hflight => ?_, fun hreplays hflight => ?_, fun hreplays hactive => ?_⟩
    · obtain ⟨hcmd, hcores, hclusters, hnear, hothers⟩ :=
        stoppedBy_of_inFlight (why := why) hfound hstops.taken hst hreplays hrun hflight
      exact ⟨_, hexec, hcmd, fun _ => hirq, hcores, hclusters, hnear, hothers⟩
    · obtain ⟨hcmd, hcores, hplaces, hqueues, hnear, hothers⟩ :=
        stoppedBy_of_none_inFlight (why := why) hfound hstops.taken hst hreplays hflight
      exact ⟨_, _, hexec, hcmd, rfl, rfl, rfl, heldOn_ended c why hstops.declared, rfl, rfl, rfl, rfl, rfl, rfl, rfl, rfl, rfl, rfl,
        hcores, hplaces, fun _ => hirq, hqueues, hnear, hothers⟩
    · exact ⟨_, hexec, stoppedBy_of_limit hstops.taken hst hreplays hactive⟩
  · subst hv hm
    refine ⟨replay_ladle hfound hfirst hissues hruns hready hop hr hcheck, fun hpage => ?_⟩
    have hsame := hcheck.symm.trans (ladleIssue_of_page hpage)
    cases hsame
    exact ⟨rfl, rfl⟩
  · rcases hi with rfl | rfl | rfl
    · rw [exec_heldWaitDeadline, heldDeadline_of_not_runs hfound hruns]
    · rw [exec_restartableFault, restartable_of_not_runs hfound hruns]
    · rw [exec_budgetOverrun, budgetOverrun_of_not_runs hfound hruns]
  · rw [exec_budgetOverrun, budgetOverrun_of_within hfound hwithin]
  · rw [exec_heldWaitDeadline, heldDeadline_of_none_over hfound (none_over hwaits)]

end Sys2Proof.Proofs
end

section
/-! SUPPORT. The ingot format, one sector at a time (13 R309 to R311): lanes, indices, the dictionary, and a sector rebuilt from its
mode and payload. -/

namespace Sys2Proof.Proofs

open Sys2Proof.Machine Sys2Proof.Laws

/-! ## Numbers by their digits -/

/-- A sum of fields of k bits each is the number with these digits. -/
theorem foldl_fields_eq {α : Type} (k : Nat) (f : α → Nat) (l : List α) :
    l.zipIdx.foldl (fun a x => a + f x.1 * 2 ^ (k * x.2)) 0 = Nat.ofDigits (2 ^ k) (l.map f) := by
  have key : ∀ (l : List α) (a i : Nat), (l.zipIdx i).foldl (fun a x => a + f x.1 * 2 ^ (k * x.2)) a =
      a + 2 ^ (k * i) * Nat.ofDigits (2 ^ k) (l.map f) := by
    intro l
    induction l with
    | nil => simp
    | cons x l ih =>
      intro a i
      rw [List.zipIdx_cons, List.foldl_cons, ih, List.map_cons, Nat.ofDigits_cons, Nat.mul_succ, pow_add]
      push_cast
      ring
  rw [key]
  simp

/-- A field of the number with given digits is the digit. -/
theorem ofDigits_shiftRight_mod {k : Nat} {ds : List Nat} (h : ∀ d ∈ ds, d < 2 ^ k) {i : Nat} (hi : i < ds.length) :
    Nat.ofDigits (2 ^ k) ds >>> (k * i) % 2 ^ k = ds[i] := by
  rw [Nat.shiftRight_eq_div_pow, pow_mul, Nat.ofDigits_div_pow_eq_ofDigits_drop i (by positivity) ds h,
    List.drop_eq_getElem_cons hi, Nat.ofDigits_cons]
  simp [Nat.mod_eq_of_lt (h _ (List.getElem_mem hi))]

/-! ## The high lane and the bytes beside it (R310) -/

/-- The bytes of a sector at the positions that satisfy p. -/
theorem zipIdx_filter_shift {w : Nat} (p : Nat → Bool) (l : List Byte) (k : Nat) :
    ((l.zipIdx (k + w)).filter fun x => p (x.2 % w)).map Prod.fst = ((l.zipIdx k).filter fun x => p (x.2 % w)).map Prod.fst := by
  induction l generalizing k with
  | nil => rfl
  | cons b l ih =>
    have hk := ih (k + 1)
    rw [Nat.add_right_comm] at hk
    simp only [List.zipIdx_cons, List.filter_cons, Nat.add_mod_right]
    split <;> simp [hk]


/-- The bytes of a group of w that stand at the positions satisfying p come before those of what follows. -/
theorem zipIdx_filter_append {w : Nat} (p : Nat → Bool) {c : List Byte} (l : List Byte) (hc : c.length = w) :
    (((c ++ l).zipIdx).filter fun x => p (x.2 % w)).map Prod.fst =
      ((c.zipIdx).filter fun x => p (x.2 % w)).map Prod.fst ++ ((l.zipIdx).filter fun x => p (x.2 % w)).map Prod.fst := by
  have h := zipIdx_filter_shift (w := w) p l 0
  rw [List.zipIdx_append, List.filter_append, List.map_append, hc, h]

theorem highLane_eq (w : Nat) (l : List Byte) :
    highLane w l = (((l.zipIdx).filter fun x => x.2 % w == w - 1).map Prod.fst).map BitVec.toNat := by
  rw [highLane, List.map_map]; rfl

section Group

variable {w : Nat} {c : List Byte} (h : Byte) (l : List Byte) (hc : c.length = w)

include hc

/-- Below the last position of a group no byte is in the high lane. -/
theorem mod_ne_of_mem_zipIdx {x : Byte × Nat} (hx : x ∈ c.zipIdx) : x.2 % (w + 1) ≠ w := by
  have hlt : x.2 < w := by simpa [hc] using List.snd_lt_of_mem_zipIdx hx
  rw [Nat.mod_eq_of_lt (by omega)]
  omega

/-- The high lane takes the last byte of each group. -/
theorem highLane_group : highLane (w + 1) ((c ++ [h]) ++ l) = h.toNat :: highLane (w + 1) l := by
  have hnone : (c.zipIdx).filter (fun x => x.2 % (w + 1) == w) = [] :=
    List.filter_eq_nil_iff.2 fun x hx => by simpa using mod_ne_of_mem_zipIdx hc hx
  rw [highLane_eq, highLane_eq, zipIdx_filter_append (fun i => i == w + 1 - 1) l (by simp [hc]), List.zipIdx_append]
  simp [hnone, hc]

/-- The bytes outside the high lane are the others of each group. -/
theorem lowBytes_group : lowBytes (w + 1) ((c ++ [h]) ++ l) = c ++ lowBytes (w + 1) l := by
  have hall : (c.zipIdx).filter (fun x => x.2 % (w + 1) != w) = c.zipIdx :=
    List.filter_eq_self.2 fun x hx => by simpa using mod_ne_of_mem_zipIdx hc hx
  have hfst : (c.zipIdx).map Prod.fst = c := List.zipIdx_map_fst 0 c
  unfold lowBytes
  rw [show (fun x : Byte × Nat => x.1) = Prod.fst from rfl, zipIdx_filter_append (fun i => i != w + 1 - 1) l (by simp [hc]),
    List.zipIdx_append]
  simp [hall, hfst, hc]

end Group

/-- Bytes as many as n + 1 groups are the bytes of a group, its last and n more groups. -/
theorem exists_group {w n : Nat} {l : List Byte} (h : l.length = (n + 1) * (w + 1)) :
    ∃ c b r, l = (c ++ [b]) ++ r ∧ c.length = w ∧ r.length = n * (w + 1) := by
  have hw : w < l.length := by rw [h, Nat.add_mul]; omega
  refine ⟨l.take w, l[w], l.drop (w + 1), ?_, by simp; omega, by rw [List.length_drop, h, Nat.add_mul]; omega⟩
  rw [← List.take_succ_eq_append_getElem hw, List.take_append_drop]

/-- The high lane woven back between the other bytes gives the sector. -/
theorem weave_lanes {w n : Nat} {l : List Byte} (h : l.length = n * (w + 1)) :
    weave (w + 1) n ((highLane (w + 1) l).map (BitVec.ofNat 8)) (lowBytes (w + 1) l) = l := by
  induction n generalizing l with
  | zero =>
    have : l = [] := by simpa using h
    rw [this]; rfl
  | succ n ih =>
    obtain ⟨c, b, r, rfl, hc, hr⟩ := exists_group h
    rw [highLane_group b r hc, lowBytes_group b r hc, weave, List.map_cons, ← hc]
    simp only [Nat.add_sub_cancel, List.take_left', List.drop_left', List.take_succ_cons, List.take_zero, List.drop_succ_cons,
      List.drop_zero, List.append_assoc, BitVec.ofNat_toNat, BitVec.setWidth_eq]
    have := ih hr
    rw [← hc] at this
    rw [this]

/-- A sector of n groups has n bytes in its high lane. -/
theorem length_lanes {w n : Nat} {l : List Byte} (h : l.length = n * (w + 1)) :
    (highLane (w + 1) l).length = n ∧ (lowBytes (w + 1) l).length = n * w := by
  induction n generalizing l with
  | zero =>
    have : l = [] := by simpa using h
    subst this
    simp [highLane, lowBytes]
  | succ n ih =>
    obtain ⟨c, b, r, rfl, hc, hr⟩ := exists_group h
    obtain ⟨hhigh, hlow⟩ := ih hr
    rw [highLane_group b r hc, lowBytes_group b r hc, List.length_cons, List.length_append, hhigh, hlow, hc]
    exact ⟨rfl, by ring⟩

/-! ## Indices as nibbles (R310) -/

/-- Indices below 16, as many as twice n, are read back from n bytes. -/
theorem nibbles_spec {n : Nat} {l : List Nat} (h : l.length = 2 * n) (hl : ∀ a ∈ l, a < 16) :
    (nibbles l).length = n ∧ ((nibbles l).flatMap fun b => [b.toNat % 16, b.toNat / 16]) = l := by
  induction n generalizing l with
  | zero =>
    have : l = [] := by simpa using h
    subst this
    exact ⟨rfl, rfl⟩
  | succ n ih =>
    match l, h with
    | a :: b :: r, h =>
      have ha := hl a (by simp)
      have hb := hl b (by simp)
      obtain ⟨hlen, hread⟩ := ih (l := r) (by simp only [List.length_cons] at h; omega) fun x hx => hl x (by simp [hx])
      have hbyte : (BitVec.ofNat 8 (a + 16 * b)).toNat = a + 16 * b := by
        rw [BitVec.toNat_ofNat, Nat.mod_eq_of_lt (by omega)]
      rw [nibbles, List.flatMap_cons, hread, hbyte, List.length_cons, hlen]
      refine ⟨rfl, ?_⟩
      have h1 : (a + 16 * b) % 16 = a := by omega
      have h2 : (a + 16 * b) / 16 = b := by omega
      rw [h1, h2]; rfl


/-! ## A sector of one repeated word (R310) -/

/-- Bytes of one number of bytes are the number's. -/
theorem ofBytes_inj {a b : List Byte} (hlen : a.length = b.length) (h : ofBytes a = ofBytes b) : a = b := by
  rw [← toBytes_ofBytes a, ← toBytes_ofBytes b, hlen, h]

/-- Bytes whose words of four all have one value are those of the word repeated. -/
theorem eq_flatten_replicate {m fuel : Nat} {c l : List Byte} (hc : c.length = 4) (hl : l.length = 4 * m) (hfuel : m ≤ fuel)
    (h : ∀ v ∈ (groupsAux fuel 4 l).map ofBytes, v = ofBytes c) : l = (List.replicate m c).flatten := by
  induction m generalizing fuel l with
  | zero => simpa using hl
  | succ m ih =>
    match fuel, l, hl with
    | fuel + 1, b :: r, hl =>
      rw [groupsAux, List.map_cons, List.forall_mem_cons] at h
      · have hhead : (b :: r).take 4 = c := ofBytes_inj (by rw [List.length_take, hl, hc]; omega) h.1
        have hrest := ih (l := (b :: r).drop 4) (by rw [List.length_drop, hl]; omega) (by omega) h.2
        rw [List.replicate_succ, List.flatten_cons, ← hhead, hhead, ← hrest, ← hhead, List.take_append_drop]
      · simp

/-! ## The dictionary (R310) -/

theorem length_topValues_le (n : Nat) (l : List (Nat × Nat)) : (topValues n l).length ≤ n := by
  induction n generalizing l with
  | zero => simp [topValues]
  | succ n ih =>
    rw [topValues]
    split
    · exact Nat.succ_le_succ (ih _)
    · exact Nat.zero_le _

/-- A dictionary holds at most 16 values. -/
theorem length_dictOf_le (w : Nat) (ss : List Sector) : (dictOf w ss).length ≤ 16 := by
  unfold dictOf
  extract_lets h top
  have hsub : ((List.range 256).filter fun v => top.contains v) ⊆ top := fun v hv => by
    simpa using (List.mem_filter.1 hv).2
  exact ((List.nodup_range.filter _).subperm hsub).length_le.trans (length_topValues_le 16 _)

/-- The values of a dictionary are bytes. -/
theorem dictOf_lt (w : Nat) (ss : List Sector) : ∀ v ∈ dictOf w ss, v < 256 := fun v hv => by
  simpa using (List.mem_filter.1 hv).1

/-- The dictionary as the number of its bytes (R309). -/
def dictNum (dict : List Nat) : Nat := dict.zipIdx.foldl (fun a x => a + x.1 * 2 ^ (8 * x.2)) 0

theorem dictNum_eq (dict : List Nat) : dictNum dict = Nat.ofDigits (2 ^ 8) dict := by
  rw [dictNum, foldl_fields_eq 8 (fun v : Nat => v), List.map_id']

theorem dictNum_lt {dict : List Nat} (hlen : dict.length ≤ 16) (h : ∀ v ∈ dict, v < 256) : dictNum dict < 2 ^ 128 := by
  rw [dictNum_eq]
  calc Nat.ofDigits (2 ^ 8) dict < (2 ^ 8) ^ dict.length := Nat.ofDigits_lt_base_pow_length (by omega) h
    _ ≤ (2 ^ 8) ^ 16 := Nat.pow_le_pow_right (by omega) hlen
    _ = 2 ^ 128 := by norm_num

/-- Entry i of the dictionary, as it is read back. -/
theorem bits_dictNum {dict : List Nat} (h : ∀ v ∈ dict, v < 256) {i : Nat} (hi : i < dict.length) :
    bits (dictNum dict) (8 * i + 7) (8 * i) = dict[i] := by
  rw [bits, show 8 * i + 7 + 1 - 8 * i = 8 by omega, dictNum_eq, ofDigits_shiftRight_mod h hi]

/-- The index of a value that the dictionary holds. -/
theorem getD_findIdx?_spec {dict : List Nat} {v : Nat} (h : v ∈ dict) :
    ∃ hi : (dict.findIdx? fun x => x == v).getD 0 < dict.length, dict[(dict.findIdx? fun x => x == v).getD 0] = v := by
  have hsome : (dict.findIdx? fun x => x == v).isSome = true := by
    rw [List.findIdx?_isSome]
    simpa using h
  obtain ⟨i, hi⟩ := Option.isSome_iff_exists.1 hsome
  obtain ⟨hlt, hval, -⟩ := List.findIdx?_eq_some_iff_getElem.1 hi
  rw [hi]
  exact ⟨hlt, by simpa using hval⟩

/-! ## One sector (R310, R311) -/

/-- A mode has two bits. -/
theorem modeOf_lt (w : Nat) (dict : List Nat) (x : Sector) : modeOf w dict x < 4 := by
  unfold modeOf
  repeat' split
  all_goals omega

/-- A payload in mode DICT: the indices of the high lane's values, then the other bytes. -/
theorem payload_of_dict {w : Nat} {dict : List Nat} {x : Sector} (h : modeOf w dict x = 2) :
    payload w dict x = nibbles ((highLane w x.1).map fun b => (dict.findIdx? fun v => v == b).getD 0) ++ lowBytes w x.1 := by
  simp only [payload, h]

/-- In mode DICT every value of the high lane is in the dictionary. -/
theorem mem_dict_of_mode {w : Nat} {dict : List Nat} {x : Sector} (h : modeOf w dict x = 2) : ∀ b ∈ highLane w x.1, b ∈ dict := by
  unfold modeOf at h
  split at h
  · omega
  · split at h
    · omega
    · split at h
      · omega
      · split at h
        next hd => simpa using hd
        · omega


/-- In mode FILL the sector repeats its first word. -/
theorem words_of_mode_fill {w : Nat} {dict : List Nat} {x : Sector} (h : modeOf w dict x = 1) :
    ∀ v ∈ wordsOf 4 x.1, v = ofBytes (x.1.take 4) := by
  unfold modeOf at h
  split at h
  · omega
  · split at h
    · omega
    · split at h
      next hf => simpa using hf
      · split at h <;> omega

/-- In mode ZERO the sector is zero. -/
theorem bytes_of_mode_zero {w : Nat} {dict : List Nat} {x : Sector} (h : modeOf w dict x = 0) : ∀ b ∈ x.1, b = 0#8 := by
  unfold modeOf at h
  split at h
  · omega
  · split at h
    next hz => simpa using hz
    · split at h
      · omega
      · split at h <;> omega

/-- The widths of elements cut a sector into an even number of groups. -/
theorem ewBytes_spec (ew : Nat) : ∃ v k, ewBytes ew = v + 1 ∧ 64 / ewBytes ew = 2 * k ∧ 32 / ewBytes ew = k ∧ 2 * k * (v + 1) = 64 := by
  unfold ewBytes
  split
  · exact ⟨0, 32, by norm_num⟩
  · exact ⟨1, 16, by norm_num⟩
  · exact ⟨3, 8, by norm_num⟩

section OneSector

variable {ew : Nat} {dict : List Nat} {x : Sector} (hx : x.1.length = 64)

include hx

/-- The parts of a payload in mode DICT (R310). -/
theorem dict_payload_parts (h : modeOf (ewBytes ew) dict x = 2) (hlen : dict.length ≤ 16) : ∃ idx : List Nat,
    payload (ewBytes ew) dict x = nibbles idx ++ lowBytes (ewBytes ew) x.1 ∧ (nibbles idx).length = 32 / ewBytes ew ∧
      (lowBytes (ewBytes ew) x.1).length = 64 - 64 / ewBytes ew ∧
      ((nibbles idx).flatMap fun b => [b.toNat % 16, b.toNat / 16]) = idx ∧ (∀ i ∈ idx, i < dict.length) ∧
      idx.map (fun i => dict.getD i 0) = highLane (ewBytes ew) x.1 := by
  obtain ⟨v, k, hw, hgroups, hhalf, hsize⟩ := ewBytes_spec ew
  obtain ⟨hhigh, hlow⟩ := length_lanes (w := v) (n := 2 * k) (l := x.1) (by rw [hx, hsize])
  rw [← hw] at hhigh hlow
  have hmem := mem_dict_of_mode h
  have hidx : ∀ i ∈ (highLane (ewBytes ew) x.1).map (fun b => (dict.findIdx? fun v => v == b).getD 0), i < dict.length := by
    intro i hi
    obtain ⟨b, hb, rfl⟩ := List.mem_map.1 hi
    exact (getD_findIdx?_spec (hmem b hb)).1
  obtain ⟨hnib, hread⟩ := nibbles_spec (n := k) (l := (highLane (ewBytes ew) x.1).map fun b => (dict.findIdx? fun v => v == b).getD 0)
    (by rw [List.length_map, hhigh]) fun a ha => (hidx a ha).trans_le hlen
  refine ⟨_, payload_of_dict h, by rw [hnib, hhalf], by rw [hlow, hgroups]; rw [Nat.mul_succ] at hsize; omega, hread, hidx, ?_⟩
  rw [List.map_map]
  refine (List.map_congr_left fun b hb => ?_).trans (List.map_id _)
  obtain ⟨hlt, hval⟩ := getD_findIdx?_spec (hmem b hb)
  rw [Function.comp, List.getD_eq_getElem _ _ hlt, hval]
  rfl

/-- A payload is as long as its mode says. -/
theorem length_payload (hlen : dict.length ≤ 16) :
    (payload (ewBytes ew) dict x).length = payLen (ewBytes ew) (modeOf (ewBytes ew) dict x) := by
  have hlt := modeOf_lt (ewBytes ew) dict x
  by_cases h2 : modeOf (ewBytes ew) dict x = 2
  · obtain ⟨idx, hpay, hnib, hlow, -⟩ := dict_payload_parts hx h2 hlen
    rw [hpay, List.length_append, hnib, hlow, h2, payLen]
    obtain ⟨v, k, hw, hgroups, hhalf, hsize⟩ := ewBytes_spec ew
    rw [Nat.mul_succ] at hsize
    omega
  · have h : modeOf (ewBytes ew) dict x = 0 ∨ modeOf (ewBytes ew) dict x = 1 ∨ modeOf (ewBytes ew) dict x = 3 := by omega
    rcases h with h | h | h <;> simp [payload, payLen, h, hx]

/-- A sector is rebuilt from its mode and payload (R311). -/
theorem rebuild_payload (hlen : dict.length ≤ 16) (hdict : ∀ v ∈ dict, v < 256) :
    rebuild (ewBytes ew) (dictNum dict) (modeOf (ewBytes ew) dict x) (payload (ewBytes ew) dict x) = x.1 := by
  have hlt := modeOf_lt (ewBytes ew) dict x
  have h : modeOf (ewBytes ew) dict x = 0 ∨ modeOf (ewBytes ew) dict x = 1 ∨ modeOf (ewBytes ew) dict x = 2 ∨
    modeOf (ewBytes ew) dict x = 3 := by omega
  rcases h with h | h | h | h
  · simp only [rebuild, h]
    exact (hx ▸ List.eq_replicate_of_mem (bytes_of_mode_zero h)).symm
  · simp only [rebuild, payload, h, List.take_take, Nat.min_self]
    exact (eq_flatten_replicate (fuel := x.1.length) (by simp [hx]) (by rw [hx]) (by omega) (words_of_mode_fill h)).symm
  · obtain ⟨idx, hpay, hnib, -, hread, hidx, hvals⟩ := dict_payload_parts hx h hlen
    obtain ⟨v, k, hw, hgroups, hhalf, hsize⟩ := ewBytes_spec ew
    have hmap : idx.map (fun i => BitVec.ofNat 8 (bits (dictNum dict) (8 * i + 7) (8 * i))) =
        (highLane (ewBytes ew) x.1).map (BitVec.ofNat 8) := by
      rw [← hvals, List.map_map]
      refine List.map_congr_left fun i hi => ?_
      rw [Function.comp, bits_dictNum hdict (hidx i hi), List.getD_eq_getElem _ _ (hidx i hi)]
    have hn : 64 / ewBytes ew / 2 = (nibbles idx).length := by rw [hnib, hgroups, hhalf]; omega
    simp only [rebuild, h, hpay, hn, List.take_left', List.drop_left']
    rw [hread, hmap, hgroups, hw]
    exact weave_lanes (by rw [hx, hsize])
  · simp only [rebuild, payload, h]
    exact List.take_of_length_le (by rw [hx])

/-- Every index of a payload in mode DICT is below the number of entries. -/
theorem indices_payload (h : modeOf (ewBytes ew) dict x = 2) (hlen : dict.length ≤ 16) :
    ∀ b ∈ (payload (ewBytes ew) dict x).take (32 / ewBytes ew), b.toNat % 16 < dict.length ∧ b.toNat / 16 < dict.length := by
  obtain ⟨idx, hpay, hnib, -, hread, hidx, -⟩ := dict_payload_parts hx h hlen
  intro b hb
  rw [hpay, ← hnib, List.take_left'] at hb
  · have hmem : ∀ i ∈ [b.toNat % 16, b.toNat / 16], i < dict.length := fun i hi =>
      hidx i (hread ▸ List.mem_flatMap.2 ⟨b, hb, hi⟩)
    exact ⟨hmem _ (by simp), hmem _ (by simp)⟩
  · rfl

end OneSector

end Sys2Proof.Proofs
end

section
/-! SUPPORT. The ingot format of a whole bar (13 R309 to R311) and the statement that it loses nothing. -/

namespace Sys2Proof.Proofs

open Sys2Proof.Machine Sys2Proof.Laws

/-! ## The tags (R310) -/

/-- The tag of a sector: its mode and its mark. -/
def sectorTag (w : Nat) (dict : List Nat) (x : Sector) : Nat := modeOf w dict x + 4 * b2n x.2

/-- The tags of a bar's sectors as one number. -/
def tagNum (w : Nat) (dict : List Nat) (ss : List Sector) : Nat :=
  ss.zipIdx.foldl (fun a x => a + sectorTag w dict x.1 * 2 ^ (3 * x.2)) 0

theorem sectorTag_lt (w : Nat) (dict : List Nat) (x : Sector) : sectorTag w dict x < 8 := by
  have := modeOf_lt w dict x
  unfold sectorTag b2n
  split <;> omega

theorem tagNum_eq (w : Nat) (dict : List Nat) (ss : List Sector) :
    tagNum w dict ss = Nat.ofDigits (2 ^ 3) (ss.map (sectorTag w dict)) := foldl_fields_eq 3 _ ss

theorem tagNum_lt (w : Nat) (dict : List Nat) (ss : List Sector) : tagNum w dict ss < 2 ^ (3 * ss.length) := by
  rw [tagNum_eq, pow_mul]
  have h := Nat.ofDigits_lt_base_pow_length (b := 2 ^ 3) (l := ss.map (sectorTag w dict)) (by omega) fun t ht => by
    obtain ⟨x, -, rfl⟩ := List.mem_map.1 ht
    exact sectorTag_lt w dict x
  rwa [List.length_map] at h

section Tags

variable {w : Nat} {dict : List Nat} {ss : List Sector} {i : Nat} (hi : i < ss.length)

include hi

theorem tagNum_field : tagNum w dict ss >>> (3 * i) % 2 ^ 3 = sectorTag w dict ss[i] := by
  have h := ofDigits_shiftRight_mod (k := 3) (ds := ss.map (sectorTag w dict)) (fun t ht => by
    obtain ⟨x, -, rfl⟩ := List.mem_map.1 ht
    exact sectorTag_lt w dict x) (i := i) (by simpa using hi)
  rw [tagNum_eq, h, List.getElem_map]

/-- The mode of a sector, as its tag gives it. -/
theorem bits_tagNum : bits (tagNum w dict ss) (3 * i + 1) (3 * i) = modeOf w dict ss[i] := by
  have h := tagNum_field (w := w) (dict := dict) hi
  have := modeOf_lt w dict ss[i]
  rw [sectorTag] at h
  rw [bits, show 3 * i + 1 + 1 - 3 * i = 2 by omega]
  omega

/-- The mark of a sector, as its tag gives it. -/
theorem testBit_tagNum : (tagNum w dict ss).testBit (3 * i + 2) = ss[i].2 := by
  have h := tagNum_field (w := w) (dict := dict) hi
  have hlt := modeOf_lt w dict ss[i]
  have hbit : (tagNum w dict ss >>> (3 * i) % 2 ^ 3).testBit 2 = (tagNum w dict ss).testBit (3 * i + 2) := by
    rw [Nat.testBit_mod_two_pow, Nat.testBit_shiftRight]
    simp
  have htag : (sectorTag w dict ss[i]).testBit 2 = ss[i].2 := by
    rw [sectorTag, Nat.testBit_eq_decide_div_mod_eq]
    cases ss[i].2
    · simp only [b2n, Bool.false_eq_true, if_false, decide_eq_false_iff_not]; omega
    · simp only [b2n, if_true, decide_eq_true_eq]; omega
  rw [← hbit, h, htag]

end Tags

/-! ## All sectors of a bar (R311) -/

/-- The payloads of sectors. -/
def payloads (w : Nat) (dict : List Nat) (ss : List Sector) : List Byte := ss.flatMap fun x => payload w dict x

/-- From the payloads of the sectors from s on, all of them are rebuilt, and every index is below the number of entries. -/
theorem rebuildAll_payloads {ew : Nat} {dict : List Nat} (hlen : dict.length ≤ 16) (hdict : ∀ v ∈ dict, v < 256)
    {ss : List Sector} (hss : ∀ x ∈ ss, x.1.length = 64) (n s : Nat) (hn : s + n = ss.length) :
    rebuildAll (ewBytes ew) (dictNum dict) dict.length (tagNum (ewBytes ew) dict ss) n s
      (payloads (ewBytes ew) dict (ss.drop s)) = some (ss.drop s, true) := by
  induction n generalizing s with
  | zero =>
    rw [List.drop_eq_nil_of_le (by omega)]
    rfl
  | succ n ih =>
    have hs : s < ss.length := by omega
    have hx : ss[s].1.length = 64 := hss _ (List.getElem_mem hs)
    have hpay := length_payload (ew := ew) (dict := dict) hx hlen
    rw [List.drop_eq_getElem_cons hs, rebuildAll, payloads, List.flatMap_cons, bits_tagNum hs, testBit_tagNum hs, ← hpay,
      List.length_append, if_neg (by omega), List.drop_left, List.take_left]
    have hok : (modeOf (ewBytes ew) dict ss[s] != 2 ||
        ((payload (ewBytes ew) dict ss[s] ++ payloads (ewBytes ew) dict (ss.drop (s + 1))).take (32 / ewBytes ew)).all fun b =>
          decide (b.toNat % 16 < dict.length) && decide (b.toNat / 16 < dict.length)) = true := by
      by_cases hmode : modeOf (ewBytes ew) dict ss[s] = 2
      · have hhalf : 32 / ewBytes ew ≤ (payload (ewBytes ew) dict ss[s]).length := by
          obtain ⟨v, k, hw, hgroups, hhalf, hsize⟩ := ewBytes_spec ew
          rw [hpay, hmode, payLen]
          rw [Nat.mul_succ] at hsize
          omega
        rw [List.take_append_of_le_length hhalf, Bool.or_eq_true, List.all_eq_true]
        refine .inr fun b hb => ?_
        simpa using indices_payload hx hmode hlen b hb
      · simp [hmode]
    have hrest := ih (s + 1) (by omega)
    rw [payloads] at hrest hok
    rw [hrest, Option.map_some, rebuild_payload hx hlen hdict, hok]
    rfl

/-- The payloads are as long as the tags say. -/
theorem length_payloads {ew : Nat} {dict : List Nat} (hlen : dict.length ≤ 16) {ss : List Sector} (hss : ∀ x ∈ ss, x.1.length = 64) :
    (payloads (ewBytes ew) dict ss).length = (List.range ss.length).foldl (fun a s =>
      a + payLen (ewBytes ew) (bits (tagNum (ewBytes ew) dict ss) (3 * s + 1) (3 * s))) 0 := by
  have hsum : ∀ (l : List Nat) (f : Nat → Nat) (a : Nat), l.foldl (fun a s => a + f s) a = a + (l.map f).sum := by
    intro l f
    induction l with
    | nil => simp
    | cons i l ih => intro a; rw [List.foldl_cons, ih, List.map_cons, List.sum_cons, Nat.add_assoc]
  rw [payloads, List.length_flatMap, hsum, Nat.zero_add]
  congr 1
  apply List.ext_getElem
  · simp
  · intro i h1 h2
    have hi : i < ss.length := by simpa using h1
    simp only [List.getElem_map, List.getElem_range]
    rw [length_payload (hss _ (List.getElem_mem hi)) hlen, bits_tagNum hi]

/-- No payload is longer than its sector. -/
theorem length_payloads_le {ew : Nat} {dict : List Nat} (hlen : dict.length ≤ 16) {ss : List Sector} (hss : ∀ x ∈ ss, x.1.length = 64) :
    (payloads (ewBytes ew) dict ss).length ≤ 64 * ss.length := by
  rw [payloads, List.length_flatMap]
  have h := List.sum_le_card_nsmul (ss.map fun x => (payload (ewBytes ew) dict x).length) 64 fun n hn => by
    obtain ⟨x, hx, rfl⟩ := List.mem_map.1 hn
    rw [length_payload (hss x hx) hlen]
    unfold payLen
    obtain ⟨v, k, hw, hgroups, hhalf, hsize⟩ := ewBytes_spec ew
    split <;> omega
  rw [List.length_map, smul_eq_mul] at h
  omega

/-! ## The header (R309) -/

/-- The header of a bar: magic number, version, element width, length, CRC, dictionary and its number of entries. -/
def headNum (ew len crc dict n : Nat) : Nat :=
  0x54474E49 + 0x01 <<< 32 + ew <<< 40 + len <<< 48 + crc <<< 96 + dict <<< 128 + n <<< 256

/-- What lies below a field put on top of a number. -/
theorem bits_add_shiftLeft_low (a b : Nat) {k hi lo : Nat} (h : lo ≤ hi) (hk : hi < k) : bits (a + b <<< k) hi lo = bits a hi lo := by
  have hparts : 2 ^ k = 2 ^ lo * (2 ^ (hi + 1 - lo) * 2 ^ (k - hi - 1)) := by
    rw [← pow_add, ← pow_add]
    congr 1
    omega
  rw [bits, bits, Nat.shiftLeft_eq, Nat.shiftRight_eq_div_pow, Nat.shiftRight_eq_div_pow, hparts, Nat.mul_left_comm,
    Nat.add_mul_div_left _ _ (by positivity), Nat.mul_left_comm, Nat.add_mul_mod_self_left]

/-- What lies within a field put on top of a number. -/
theorem bits_add_shiftLeft_high {a k : Nat} (b : Nat) {hi lo : Nat} (ha : a < 2 ^ k) (hk : k ≤ lo) (h : lo ≤ hi) :
    bits (a + b <<< k) hi lo = bits b (hi - k) (lo - k) := by
  rw [bits, bits, Nat.shiftLeft_eq, Nat.shiftRight_eq_div_pow, Nat.shiftRight_eq_div_pow, show hi - k + 1 - (lo - k) = hi + 1 - lo by omega]
  congr 1
  rw [show lo = k + (lo - k) by omega, pow_add, ← Nat.div_div_eq_div_mul, Nat.add_mul_div_right _ _ (by positivity),
    Nat.div_eq_of_lt ha, Nat.zero_add, Nat.add_sub_cancel_left]

theorem add_shiftLeft_lt {a b k j n : Nat} (ha : a < 2 ^ k) (hb : b < 2 ^ j) (hn : k + j ≤ n) : a + b <<< k < 2 ^ n := by
  refine lt_of_lt_of_le ?_ (Nat.pow_le_pow_right (by omega) hn)
  rw [Nat.shiftLeft_eq, pow_add]
  have := Nat.mul_le_mul_right (2 ^ k) hb
  rw [Nat.succ_mul, Nat.mul_comm (2 ^ j)] at this
  omega

theorem bits_of_lt {n hi lo : Nat} (h : n < 2 ^ lo) : bits n hi lo = 0 := by
  rw [bits, Nat.shiftRight_eq_div_pow, Nat.div_eq_of_lt h, Nat.zero_mod]

theorem bits_zero_of_lt {n hi : Nat} (h : n < 2 ^ (hi + 1)) : bits n hi 0 = n := by
  rw [bits, Nat.shiftRight_zero, Nat.sub_zero, Nat.mod_eq_of_lt h]

section Header

variable {ew len crc dict n : Nat} (hew : ew < 2 ^ 2) (hlen : len < 2 ^ 17) (hcrc : crc < 2 ^ 32) (hdict : dict < 2 ^ 128) (hn : n < 2 ^ 5)

include hew hlen hcrc hdict hn

/-- Every part of the header lies below the next. -/
theorem headNum_bounds : (0x54474E49 : Nat) < 2 ^ 32 ∧ 0x54474E49 + 0x01 <<< 32 < 2 ^ 40 ∧ 0x54474E49 + 0x01 <<< 32 + ew <<< 40 < 2 ^ 48 ∧
    0x54474E49 + 0x01 <<< 32 + ew <<< 40 + len <<< 48 < 2 ^ 96 ∧ 0x54474E49 + 0x01 <<< 32 + ew <<< 40 + len <<< 48 + crc <<< 96 < 2 ^ 128 ∧
    0x54474E49 + 0x01 <<< 32 + ew <<< 40 + len <<< 48 + crc <<< 96 + dict <<< 128 < 2 ^ 256 ∧ headNum ew len crc dict n < 2 ^ 512 := by
  have h1 : 0x54474E49 + 0x01 <<< 32 < 2 ^ 40 := by decide
  have h2 := add_shiftLeft_lt (n := 48) h1 hew (by omega)
  have h3 := add_shiftLeft_lt (n := 96) h2 hlen (by omega)
  have h4 := add_shiftLeft_lt (n := 128) h3 hcrc (by omega)
  have h5 := add_shiftLeft_lt (n := 256) h4 hdict (by omega)
  exact ⟨by decide, h1, h2, h3, h4, h5, add_shiftLeft_lt h5 hn (by omega)⟩

/-- The fields of the header, as they are read back. -/
theorem bits_headNum : bits (headNum ew len crc dict n) 31 0 = 0x54474E49 ∧ bits (headNum ew len crc dict n) 39 32 = 1 ∧
    bits (headNum ew len crc dict n) 41 40 = ew ∧ bits (headNum ew len crc dict n) 64 48 = len ∧
    bits (headNum ew len crc dict n) 127 96 = crc ∧ bits (headNum ew len crc dict n) 255 128 = dict ∧
    bits (headNum ew len crc dict n) 260 256 = n ∧
    zeroFields (headNum ew len crc dict n) [(511, 261), (95, 65), (47, 42)] = true := by
  obtain ⟨h0, h1, h2, h3, h4, h5, -⟩ := headNum_bounds hew hlen hcrc hdict hn
  have low := @bits_add_shiftLeft_low
  unfold headNum
  refine ⟨?_, ?_, ?_, ?_, ?_, ?_, ?_, ?_⟩
  · rw [low _ _ (by omega) (by omega), low _ _ (by omega) (by omega), low _ _ (by omega) (by omega), low _ _ (by omega) (by omega),
      low _ _ (by omega) (by omega), low _ _ (by omega) (by omega), bits_zero_of_lt h0]
  · rw [low _ _ (by omega) (by omega), low _ _ (by omega) (by omega), low _ _ (by omega) (by omega), low _ _ (by omega) (by omega),
      low _ _ (by omega) (by omega), bits_add_shiftLeft_high _ h0 (by omega) (by omega), bits_zero_of_lt (by omega)]
  · rw [low _ _ (by omega) (by omega), low _ _ (by omega) (by omega), low _ _ (by omega) (by omega), low _ _ (by omega) (by omega),
      bits_add_shiftLeft_high _ h1 (by omega) (by omega), bits_zero_of_lt hew]
  · rw [low _ _ (by omega) (by omega), low _ _ (by omega) (by omega), low _ _ (by omega) (by omega),
      bits_add_shiftLeft_high _ h2 (by omega) (by omega), bits_zero_of_lt hlen]
  · rw [low _ _ (by omega) (by omega), low _ _ (by omega) (by omega), bits_add_shiftLeft_high _ h3 (by omega) (by omega),
      bits_zero_of_lt hcrc]
  · rw [low _ _ (by omega) (by omega), bits_add_shiftLeft_high _ h4 (by omega) (by omega), bits_zero_of_lt hdict]
  · rw [bits_add_shiftLeft_high _ h5 (by omega) (by omega), bits_zero_of_lt hn]
  · simp only [zeroFields, List.all_cons, List.all_nil, Bool.and_true, Bool.and_eq_true, beq_iff_eq]
    refine ⟨?_, ?_, ?_⟩
    · rw [bits_add_shiftLeft_high _ h5 (by omega) (by omega), bits_of_lt hn]
    · rw [low _ _ (by omega) (by omega), low _ _ (by omega) (by omega), low _ _ (by omega) (by omega),
        bits_add_shiftLeft_high _ h2 (by omega) (by omega), bits_of_lt hlen]
    · rw [low _ _ (by omega) (by omega), low _ _ (by omega) (by omega), low _ _ (by omega) (by omega), low _ _ (by omega) (by omega),
        bits_add_shiftLeft_high _ h1 (by omega) (by omega), bits_of_lt hew]

end Header

/-! ## CRC-32C (R310) -/

theorem crcBits_lt (k : Nat) {c : Nat} (h : c < 2 ^ 32) : crcBits k c < 2 ^ 32 := by
  induction k generalizing c with
  | zero => exact h
  | succ k ih =>
    have hshift : c >>> 1 < 2 ^ 32 := by rw [Nat.shiftRight_eq_div_pow]; omega
    rw [crcBits]
    refine ih ?_
    split
    · exact Nat.xor_lt_two_pow hshift (by omega)
    · exact hshift

theorem crc32c_lt (l : List Byte) : crc32c l < 2 ^ 32 := by
  have key : ∀ (l : List Byte) (c : Nat), c < 2 ^ 32 → l.foldl (fun c b => crcBits 8 (c ^^^ b.toNat)) c < 2 ^ 32 := by
    intro l
    induction l with
    | nil => exact fun _ h => h
    | cons b l ih => exact fun c h => ih _ (crcBits_lt 8 (Nat.xor_lt_two_pow h (b.isLt.trans (by omega))))
  exact Nat.xor_lt_two_pow (key l _ (by omega)) (by omega)

/-! ## The statement -/

/-- A bar: header, tags, payloads. -/
theorem encodeBar_eq (ew : Nat) (ss : List Sector) : encodeBar ew ss =
    toBytes 64 (headNum ew (448 + (payloads (ewBytes ew) (dictOf (ewBytes ew) ss) ss).length) (crc32c (ss.flatMap fun x => x.1))
      (dictNum (dictOf (ewBytes ew) ss)) (dictOf (ewBytes ew) ss).length) ++
    toBytes 384 (tagNum (ewBytes ew) (dictOf (ewBytes ew) ss) ss) ++ payloads (ewBytes ew) (dictOf (ewBytes ew) ss) ss := rfl

/-- The parts of a bar, as its expansion takes them. -/
theorem encodeBar_parts (ew : Nat) {ss : List Sector} (hss : ss.length = 1024) {head : Nat} (hhead : head < 2 ^ 512) (p : List Byte) :
    ofBytes ((toBytes 64 head ++ toBytes 384 (tagNum (ewBytes ew) (dictOf (ewBytes ew) ss) ss) ++ p).take 64) = head ∧
    ofBytes (((toBytes 64 head ++ toBytes 384 (tagNum (ewBytes ew) (dictOf (ewBytes ew) ss) ss) ++ p).drop 64).take 384) =
      tagNum (ewBytes ew) (dictOf (ewBytes ew) ss) ss ∧
    (toBytes 64 head ++ toBytes 384 (tagNum (ewBytes ew) (dictOf (ewBytes ew) ss) ss) ++ p).drop 448 = p := by
  have htags := tagNum_lt (ewBytes ew) (dictOf (ewBytes ew) ss) ss
  rw [hss] at htags
  rw [List.append_assoc, List.take_left' (length_toBytes _ _), List.drop_left' (length_toBytes _ _),
    List.take_left' (length_toBytes _ _), ofBytes_toBytes, ofBytes_toBytes, Nat.mod_eq_of_lt hhead, Nat.mod_eq_of_lt htags,
    ← List.append_assoc, List.drop_left' (by simp)]
  exact ⟨rfl, rfl, rfl⟩

/-- Settles O26: the tags and the dictionary are read back digit by digit (`bits_tagNum`, `bits_dictNum`), each sector is rebuilt from
its payload (`rebuild_payload`), and every check of the header finds what was written (`bits_headNum`). -/
theorem ingotRoundTrip : Obligations.IngotRoundTrip := by
  intro ew ss hew hss hsectors
  have hdlen := length_dictOf_le (ewBytes ew) ss
  have hdlt := dictOf_lt (ewBytes ew) ss
  have hle := length_payloads_le (ew := ew) hdlen hsectors
  rw [hss] at hle
  have hall := rebuildAll_payloads (ew := ew) hdlen hdlt hsectors 1024 0 (by rw [hss])
  have hlen := length_payloads (ew := ew) hdlen hsectors
  rw [hss] at hlen
  rw [List.drop_zero] at hall
  have hnum := dictNum_lt hdlen hdlt
  have hcrc := crc32c_lt (ss.flatMap fun x => x.1)
  rw [encodeBar_eq]
  generalize hp : payloads (ewBytes ew) (dictOf (ewBytes ew) ss) ss = p at *
  have hbounds := headNum_bounds (ew := ew) (len := 448 + p.length) (n := (dictOf (ewBytes ew) ss).length) (by omega) (by omega)
    hcrc hnum (by omega)
  have hfields := bits_headNum (ew := ew) (len := 448 + p.length) (n := (dictOf (ewBytes ew) ss).length) (by omega) (by omega)
    hcrc hnum (by omega)
  generalize headNum ew (448 + p.length) _ _ _ = head at *
  obtain ⟨-, -, -, -, -, -, hlt⟩ := hbounds
  obtain ⟨hmagic, hver, hw, hbar, hc, hd, hn, hzero⟩ := hfields
  obtain ⟨hhead, htags, hpays⟩ := encodeBar_parts ew hss hlt p
  have hsize : (toBytes 64 head ++ toBytes 384 (tagNum (ewBytes ew) (dictOf (ewBytes ew) ss) ss) ++ p).length = 448 + p.length := by
    simp only [List.length_append, length_toBytes]
  refine ⟨?_, by omega⟩
  unfold expandBar
  simp only [hhead, htags, hpays, hd, hn, hall, hmagic, hver, hw, hbar, hc, hzero, ← hlen, beq_self_eq_true, Bool.and_self, if_true]
  rw [if_neg (by omega)]

end Sys2Proof.Proofs
end

section
/-! SUPPORT. The statement on the ingot units and REFETCH (13 R309 to R316). INGOT_COMPRESS reads its bar through the shared caches, and
a read of a LAST line counts: the last one drops the line and counts in LDL_LAST_DROP (06 R161; log entry 45). The statement lets the
counters of hits, misses and slag of the slices change and no other register of theirs. -/

namespace Sys2Proof.Proofs

open Sys2Proof Sys2Proof.Machine Sys2Proof.Laws

/-! ## The registers that the reads of a bar leave (06 R161; 12 R271) -/

/-- Beyond what the caches count, the reads of a bar count the slag delivered. -/
theorem reg_nearDelivered (s : Mach) (o : Obj) (b : Nat) {x : Nat} (hx : ∀ g, x ≠ ldlReg g 0x108) :
    (nearDelivered s o b).reg x = (touchBar s o b false).reg x := by
  refine rel_each (fun a t => t.reg x = a.reg x) (fun _ _ _ h h' => h'.trans h) (fun _ => rfl) _ (fun i t => ?_) _ _
  split
  · split
    · rw [reg_bump, if_neg (hx _)]
    · rfl
  · rfl

theorem satAdd_ne_zero {w : Word} (n : Nat) (h : w ≠ 0#32) : satAdd w n ≠ 0#32 := by
  intro heq
  have hsum := toNat_satAdd w n
  rw [heq] at hsum
  have hw : w.toNat ≠ 0 := fun h0 => h (BitVec.eq_of_toNat_eq h0)
  simp at hsum
  omega

/-- An access to a line takes back nothing that a register of counts has counted. -/
theorem touchLine_counts (s : Mach) (pa : Nat) (x : Nat) (h : s.under = [] ∧ s.reg x ≠ 0#32) :
    (s.touchLine pa false .none).under = [] ∧ (s.touchLine pa false .none).reg x ≠ 0#32 := by
  obtain ⟨hunder, hreg⟩ := h
  obtain ⟨l, n, hline, -⟩ := touchLine_lines (pa := pa) false hunder (h := .none) (by simp)
  rw [hline]
  refine ⟨by rw [lastCounted_frame]; exact hunder, ?_⟩
  rw [lastCounted, reg_bump, setAfter, hitCounted]
  have hhit : ∀ y k, (s.bump y k).reg x ≠ 0#32 := fun y k => by
    rw [reg_bump]
    split
    · next heq => exact satAdd_ne_zero k (heq ▸ hreg)
    · exact hreg
  split
  · next heq => exact satAdd_ne_zero n (heq ▸ hhit _ _)
  · exact hhit _ _

/-- Of a register an access to a range says what the accesses to its lines say, one after another. -/
theorem reg_touch (s : Mach) (pa : Nat) {n : Nat} (w : Bool) (h : Hint) (x : Nat) (hn : n ≠ 0) : (s.touch pa n w h).reg x =
    (each (fun i s => s.touchLine ((pa / 128 + i) * 128) w h) (List.range ((pa + n - 1) / 128 - pa / 128 + 1)) s).reg x := by
  unfold Mach.touch
  extract_lets y
  rw [if_neg hn]
  split <;> rfl

/-! ## A line that leaves at its last read -/

/-- An object of one bar that moves down from the near tier to the remote one. -/
def movingObj : Obj := { state := 3#3, src := 1#2, dst := 3#2, size64k := 1, near := [(0x2000000, 65536)] }

/-- Its first line stands in the shared cache of slice 4, to be read once more; the link is up. -/
def lastReadMach : Mach :=
  { objs := [(0, movingObj)], regs := [(portReg 0, 0x80000000#32)],
    cache := [(2048 * 4, [{ tag := 0x2000000 / 128, kind := .last 1, dirty := false }])] }

theorem lastReadMach_touchLine : (lastReadMach.touchLine ((0x2000000 / 128 + 0) * 128) false .none).under = [] ∧
    (lastReadMach.touchLine ((0x2000000 / 128 + 0) * 128) false .none).reg (ldlReg 4 0x2C) ≠ 0#32 := by decide +kernel

/-- The first line's drop stays counted while the bar's other lines are read. -/
theorem lastReadMach_touched : (touchBar lastReadMach movingObj 0 false).reg (ldlReg 4 0x2C) ≠ 0#32 := by
  obtain ⟨-, hlast⟩ := rel_each
    (fun a b => a.under = [] ∧ a.reg (ldlReg 4 0x2C) ≠ 0#32 → b.under = [] ∧ b.reg (ldlReg 4 0x2C) ≠ 0#32)
    (fun _ _ _ h h' => h' ∘ h) (fun _ => id) (fun i t => t.touchLine ((0x2000000 / 128 + i) * 128) false .none)
    (fun i t => touchLine_counts t _ _) ((List.range 511).map Nat.succ) _ lastReadMach_touchLine
  have hpa : movingObj.pa (65536 * 0) = some 0x2000000 := by decide
  have hlines : (0x2000000 + 65536 - 1) / 128 - 0x2000000 / 128 + 1 = 511 + 1 := by decide
  rw [touchBar, hpa]
  dsimp only
  rw [reg_touch _ _ _ _ _ (by decide), hlines, List.range_succ_eq_map, each, List.foldl_cons]
  exact hlast

theorem lastReadMach_sends : lastReadMach.linkUp = true ∧ (lastReadMach.ep 0).error = false ∧ lastReadMach.obj 0 = movingObj ∧
    barHeld lastReadMach movingObj 0 = false ∧ lastReadMach.reg (ldlReg 4 0x2C) = 0#32 := by decide +kernel

/-- The compression of the bar counts the line that leaves. -/
theorem lastReadMach_compressed : (ingotCompress lastReadMach 0 0).reg (ldlReg 4 0x2C) ≠ 0#32 := by
  obtain ⟨hlink, hep, hobj, hheld, -⟩ := lastReadMach_sends
  have hwaits : lastReadMach.remoteWaits movingObj true = false := by simp [Mach.remoteWaits, Mach.epFailed, hlink, movingObj, hep]
  have hgoes : ingotCompress lastReadMach 0 0 = (nearDelivered lastReadMach movingObj 0).sendEp 0
      (.remoteBar 0 0 0 (encodeBar 1 (nearSectors lastReadMach movingObj 0))) := by
    unfold ingotCompress
    rw [hobj]
    refine (if_neg ?_).trans (if_neg (by decide))
    rw [hheld, hwaits]
    decide
  rw [hgoes, Mach.sendEp]
  split
  · rw [reg_nearDelivered _ _ _ fun g => by simp only [ldlReg]; omega]
    exact lastReadMach_touched
  · rw [reg_sendOn_other _ _ _ _ (by decide), reg_nearDelivered _ _ _ fun g => by simp only [ldlReg]; omega]
    exact lastReadMach_touched

/-! ## The statement -/

theorem exec_ingotCompress (n : ObjNo) (b : BitVec 24) (s : State) :
    exec (.ingotCompress n b) s = .next { s with m := ingotCompress s.m n.toNat b.toNat } := rfl

/-- Refutes O27: the statement has INGOT_COMPRESS leave every register but the counters of hits, misses and delivered slag (and of
frames sent), but a bar whose near copy has a LAST line at its last read drops the line and counts it (`lastReadMach_compressed`). -/
theorem not_barsMoveAndRefetchEnds : ¬ Obligations.BarsMoveAndRefetchEnds := by
  unfold Obligations.BarsMoveAndRefetchEnds
  intro h
  obtain ⟨hlink, hep, hobj, hheld, hzero⟩ := lastReadMach_sends
  obtain ⟨s, hs⟩ : ∃ s : State, s.m = lastReadMach := ⟨{ State.reset with m := lastReadMach }, rfl⟩
  rw [← hs] at hlink hep hobj hheld hzero
  obtain ⟨-, hsent, -⟩ := h.1.1 s 0#19 0#24 movingObj _ hobj rfl rfl (by decide) hheld rfl
  obtain ⟨t, hexec, -, hunder, -⟩ := hsent (by decide) hlink hep
  obtain ⟨-, hregs⟩ := hunder (by rw [hs]; rfl)
  have hreg := hregs (ldlReg 4 0x2C) (fun g => by simp only [ldlReg]; omega) (by decide)
  rw [exec_ingotCompress] at hexec
  injection hexec with hexec
  subst hexec
  refine lastReadMach_compressed (Eq.trans ?_ hzero)
  rw [← hs]
  exact hreg

end Sys2Proof.Proofs
end

section
/-! SUPPORT. The statement on PROMOTION_TIMEOUT, ABANDON_REQUEST, ACCESSED_SWEEP and INVALIDATION (13 R298, R303 to R305, R307, R315).
A promotion that fails does three things: the object returns to its source, the contexts that wait take a fault (`Faulted`), the
sessions that asked are told (`Told`). -/

namespace Sys2Proof.Proofs

open Sys2Proof Sys2Proof.Machine Sys2Proof.Laws

/-! ## Events to sessions (15 R367) -/

/-- From a to b sessions have been told something: the events they hold, what was sent or waits to be, and of the registers only the
count of frames sent have changed. -/
structure Told (a b : Mach) : Prop where
  frame : b = { a with regs := b.regs, sessions := b.sessions, out := b.out, txHeld := b.txHeld }
  reg : ∀ x, x ≠ portReg 0x14 → b.reg x = a.reg x

namespace Told

variable {a b c : Mach}

theorem refl (s : Mach) : Told s s := ⟨rfl, fun _ _ => rfl⟩

theorem trans (h : Told a b) (h' : Told b c) : Told a c where
  frame := by
    rw [h'.frame, h.frame]
  reg x hx := (h'.reg x hx).trans (h.reg x hx)

variable (s : Mach)

theorem setSession (k : Nat) (x : Session) : Told s (s.setSession k x) := ⟨rfl, fun _ _ => rfl⟩

theorem sendOn (cls : Nat) (x : Sent) : Told s (s.sendOn cls x) where
  frame := by
    rw [sendOn_frame]
  reg _ hx := reg_sendOn_other _ _ _ _ hx

theorem postEvent (k opcode status body : Nat) (final : Bool) : Told s (s.postEvent k opcode status body final) := by
  unfold Mach.postEvent
  extract_lets x n t
  split
  · exact refl s
  · split
    · exact setSession s k _
    · exact (setSession s k _).trans (sendOn t _ _)

/-- The last reports on placements take those reports' requests off the object, and tell their sessions. -/
theorem reportPlaces (n : Nat) (p : Nat → Bool) (st : Nat) :
    Told (s.setObj n { s.obj n with places := (s.obj n).places.filter fun x => !p x.2.2 }) (reportPlaces s n p st) :=
  rel_each Told (fun _ _ _ => trans) refl _ (fun _ t => postEvent t _ _ _ _ _) _ _

theorem obj (h : Told a b) (j : Nat) : b.obj j = a.obj j := by
  rw [h.frame]
  rfl

theorem ctx (h : Told a b) (j : Nat) : b.ctx j = a.ctx j := by
  rw [h.frame]
  rfl

end Told

/-! ## Faults of contexts (14 R344) -/

/-- From a to b faults with a code have been given to contexts: one that was active stands or begins its teardown with the code, any
other stands, and nothing else changes but the pending bits. -/
structure Faulted (st : Nat) (a b : Mach) : Prop where
  frame : b = { a with regs := b.regs, ctxs := b.ctxs }
  active : ∀ c, (a.ctx c).state = 1#2 → b.ctx c = a.ctx c ∨ (b.ctx c).state = 2#2 ∧ (b.ctx c).lastSt = st
  other : ∀ c, (a.ctx c).state ≠ 1#2 → b.ctx c = a.ctx c

namespace Faulted

variable {st : Nat} {a b c : Mach}

theorem refl (s : Mach) : Faulted st s s := ⟨rfl, fun _ _ => .inl rfl, fun _ _ => rfl⟩

theorem obj (h : Faulted st a b) (j : Nat) : b.obj j = a.obj j := by
  rw [h.frame]
  rfl

/-- A teardown that has begun goes on. -/
theorem torn (h : Faulted st a b) {k : Nat} (hk : (a.ctx k).state = 2#2 ∧ (a.ctx k).lastSt = st) :
    (b.ctx k).state = 2#2 ∧ (b.ctx k).lastSt = st := by
  rwa [h.other k (by simp [hk.1])]

theorem trans (h : Faulted st a b) (h' : Faulted st b c) : Faulted st a c where
  frame := by
    rw [h'.frame, h.frame]
  active k hk := by
    rcases h.active k hk with hb | hb
    · rcases h'.active k (by rwa [hb]) with hc | hc
      · exact .inl (hc.trans hb)
      · exact .inr hc
    · exact .inr (h'.torn hb)
  other k hk := (h'.other k (by rwa [h.other k hk])).trans (h.other k hk)

theorem ctx_fatalOn {s : Mach} {die n id : Nat} (h : (s.ctx n).state = 1#2) (k : Nat) : (s.fatalOn die n st id).ctx k =
    if k = n then { s.ctx n with state := 2#2, lastSt := st, faultCmd := id } else s.ctx k := by
  rw [fatalOn_of_active s _ _ _ _ h, ctx_of_raise, ctx_setCtx]

theorem fatalOn (s : Mach) (die n id : Nat) : Faulted st s (s.fatalOn die n st id) := by
  by_cases h : (s.ctx n).state = 1#2
  · have hctx := ctx_fatalOn (die := die) (st := st) (id := id) h
    refine ⟨?_, fun k hk => ?_, fun k hk => ?_⟩
    · rw [fatalOn_of_active s _ _ _ _ h, raise_frame]
      rfl
    · rw [hctx]
      split
      · exact .inr ⟨rfl, rfl⟩
      · exact .inl rfl
    · rw [hctx, if_neg (fun e : k = n => hk (e ▸ h))]
  · have heq : s.fatalOn die n st id = s := if_pos (by simpa using h)
    rw [heq]
    exact refl s

theorem each {α : Type} (die ctx id : α → Nat) (l : List α) (s : Mach) :
    Faulted st s (Machine.each (fun x s => s.fatalOn (die x) (ctx x) st (id x)) l s) :=
  rel_each (Faulted st) (fun _ _ _ => trans) refl _ (fun _ t => fatalOn t _ _ _) l s

/-- Every active context of a list that takes faults begins its teardown. -/
theorem each_mem {α : Type} {die ctx id : α → Nat} {l : List α} {x : α} (hx : x ∈ l) (s : Mach) (h : (s.ctx (ctx x)).state = 1#2) :
    ((Machine.each (fun x s => s.fatalOn (die x) (ctx x) st (id x)) l s).ctx (ctx x)).state = 2#2 ∧
      ((Machine.each (fun x s => s.fatalOn (die x) (ctx x) st (id x)) l s).ctx (ctx x)).lastSt = st := by
  induction l generalizing s with
  | nil => cases hx
  | cons y l ih =>
    have hrest : Faulted st (s.fatalOn (die y) (ctx y) st (id y))
        (Machine.each (fun x s => s.fatalOn (die x) (ctx x) st (id x)) (y :: l) s) := each die ctx id l _
    rcases List.mem_cons.1 hx with rfl | hx
    · refine hrest.torn ?_
      rw [ctx_fatalOn h, if_pos rfl]
      exact ⟨rfl, rfl⟩
    · rcases (fatalOn (st := st) s (die y) (ctx y) (id y)).active _ h with hsame | htorn
      · exact ih hx _ (by rwa [hsame])
      · exact hrest.torn htorn

end Faulted

/-! ## A promotion that fails (13 R303, R304, R307, R315) -/

/-- The object of a failed promotion back at its source, its placements not yet reported on. -/
def returned (o : Obj) : Obj :=
  { o with state := if o.src = 3#2 then 5#3 else 4#3, near := [], wmark := 0#20, syncEn := false,
           bars := if o.dst = 2#2 then [] else o.bars, reMove := false }

/-- What fetching again is once no slag remains. -/
def healedObj (s : Mach) (o : Obj) : Obj :=
  if !o.refetch || (List.range o.nbars).any fun b => barSlag s o b then o else { o with poison := false, refetch := false }

theorem obj_healed_setObj (s : Mach) (n : Nat) (o : Obj) (j : Nat) :
    (healed (s.setObj n o) n).obj j = if j = n then healedObj s o else s.obj j := by
  have hobj : (s.setObj n o).obj n = o := by simp
  unfold healed healedObj
  dsimp only
  rw [hobj]
  by_cases h : (!o.refetch || (List.range o.nbars).any fun b => barSlag s o b) = true
  · rw [if_pos h]
    exact (congrArg (Mach.obj · j) (if_pos h)).trans (obj_setObj s n o j)
  · rw [if_neg h]
    refine (congrArg (Mach.obj · j) (if_neg h)).trans ?_
    rw [obj_setObj, obj_setObj]
    split <;> rfl

theorem healed_eq (s : Mach) (n : Nat) : healed s n = s ∨ ∃ o, healed s n = s.setObj n o := by
  unfold healed
  extract_lets o
  split
  · exact .inl rfl
  · exact .inr ⟨_, rfl⟩

theorem healed_frame (s : Mach) (n : Nat) : healed s n = { s with objs := (healed s n).objs } := by
  rcases healed_eq s n with h | ⟨o, h⟩ <;> rw [h]
  rfl

/-- What a failed promotion leaves: the contexts faulted, and then the sessions told. -/
theorem failPromotion_eq (s : Mach) (n st : Nat) : ∃ u, Faulted st (healed (s.setObj n (returned (s.obj n))) n) u ∧
    (∀ c ∈ s.waitersOf n, (s.ctx c.ctx).state = 1#2 → (u.ctx c.ctx).state = 2#2 ∧ (u.ctx c.ctx).lastSt = st) ∧
    Told (u.setObj n { u.obj n with places := [] }) (failPromotion s n st) := by
  unfold failPromotion
  extract_lets o ws rs t u v
  have hreturned : t = healed (s.setObj n (returned (s.obj n))) n := by simp [t, returned, o]
  have hu : Faulted st t u := Faulted.each _ _ _ _ _
  have hv : Faulted st u v := Faulted.each (fun x : Nat × Nat => x.1) (fun x => x.2) (fun _ => 0) _ _
  refine ⟨v, hreturned ▸ hu.trans hv, fun c hc hactive => hv.torn (Faulted.each_mem hc t ?_), ?_⟩
  · rw [hreturned, healed_frame]
    exact hactive
  · have htold := Told.reportPlaces v n (fun _ => true) st
    simpa using htold

/-! ## The parts of the statement -/

theorem promotionTimeout_fails {s : Mach} {n : Nat} (hstate : (s.obj n).state = 2#3) :
    promotionTimeout s n = failPromotion s n stTierTimeout := if_pos (by simp [hstate])

/-- An object returned whose placements are reported is fetched again no more where no slag remains. -/
theorem healedObj_returned (s : Mach) (o : Obj) : { healedObj s (returned o) with places := [] } =
    (if o.refetch && !((List.range o.nbars).any fun b => barSlag s { returned o with places := [] } b)
      then { returned o with places := [], poison := false, refetch := false } else { returned o with places := [] }) := by
  have hcond : (o.refetch && !((List.range o.nbars).any fun b => barSlag s (returned o) b)) =
      !(!o.refetch || (List.range o.nbars).any fun b => barSlag s (returned o) b) := by simp only [Bool.not_or, Bool.not_not]
  by_cases h : (!o.refetch || (List.range o.nbars).any fun b => barSlag s (returned o) b) = true
  · have hstays : healedObj s (returned o) = returned o := if_pos h
    rw [h] at hcond
    rw [hstays]
    exact (if_neg (Bool.eq_false_iff.1 hcond)).symm
  · have hheals : healedObj s (returned o) = { returned o with poison := false, refetch := false } := if_neg h
    rw [Bool.eq_false_iff.2 h] at hcond
    rw [hheals]
    exact (if_pos hcond).symm

theorem promotionTimeout_returns {s : State} {n : ObjNo} (hstate : (s.m.obj n.toNat).state = 2#3) :
    ∃ t, exec (.promotionTimeout n) s = .next t ∧
      (∀ j, t.m.obj j =
        if j = n.toNat then { healedObj s.m (returned (s.m.obj n.toNat)) with places := [] } else s.m.obj j) ∧
      (∀ c ∈ s.m.waitersOf n.toNat, (s.m.ctx c.ctx).state = 1#2 →
        (t.m.ctx c.ctx).state = 2#2 ∧ (t.m.ctx c.ctx).lastSt = stTierTimeout) ∧
      (∀ c, (s.m.ctx c).state ≠ 1#2 → t.m.ctx c = s.m.ctx c) ∧
      t = { s with m := { s.m with objs := t.m.objs, ctxs := t.m.ctxs, regs := t.m.regs, sessions := t.m.sessions,
                                   out := t.m.out, txHeld := t.m.txHeld } } := by
  have hexec : exec (.promotionTimeout n) s = .next { s with m := promotionTimeout s.m n.toNat } := rfl
  rw [promotionTimeout_fails hstate] at hexec
  obtain ⟨u, hfaulted, htorn, htold⟩ := failPromotion_eq s.m n.toNat stTierTimeout
  have hctx : ∀ c, (healed (s.m.setObj n.toNat (returned (s.m.obj n.toNat))) n.toNat).ctx c = s.m.ctx c := fun c => by
    rw [healed_frame]
    rfl
  refine ⟨_, hexec, fun j => ?_, fun c hc hactive => ?_, fun c hc => ?_, ?_⟩
  · rw [htold.obj, obj_setObj, hfaulted.obj, hfaulted.obj, obj_healed_setObj, obj_healed_setObj, if_pos rfl]
    split <;> rfl
  · rw [htold.ctx]
    exact htorn c hc hactive
  · rw [htold.ctx]
    exact (hfaulted.other c (by rwa [hctx])).trans (hctx c)
  · have hframe := htold.frame
    rw [hfaulted.frame, healed_frame] at hframe
    refine congrArg (fun m => ({ s with m := m } : State)) ?_
    rw [hframe]
    rfl

theorem abandonRequest_marks {s : State} {n : ObjNo} (hstate : (s.m.obj n.toNat).state = 3#3) (hsrc : (s.m.obj n.toNat).src = 1#2) :
    exec (.abandonRequest n) s = .next { s with m := s.m.setObj n.toNat { s.m.obj n.toNat with abandon := true } } := by
  have hmark : s.m.abandonReq n.toNat = s.m.setObj n.toNat { s.m.obj n.toNat with abandon := true } :=
    if_pos (by simp [hstate, hsrc])
  exact congrArg (fun m => Host.Outcome.next ({ s with m := m } : State)) hmark

theorem abandonRequest_stands {s : State} {n : ObjNo} (h : (s.m.obj n.toNat).state ≠ 3#3 ∨ (s.m.obj n.toNat).src ≠ 1#2) :
    exec (.abandonRequest n) s = .next s := by
  have hsame : s.m.abandonReq n.toNat = s.m := if_neg (by simpa [imp_iff_not_or] using h)
  exact congrArg (fun m => Host.Outcome.next ({ s with m := m } : State)) hsame

theorem obj_accessedSweep (s : Mach) (j : Nat) : (accessedSweep s).obj j = { s.obj j with accessed := false } :=
  tabGet_tabMap _ (fun _ (o : Obj) => { o with accessed := false }) s.objs j rfl

/-- The size of the leaf at an address of a context, or 64 KiB where it is mapped no more. -/
def leafSizeAt (s : Mach) (ctx l : Nat) : Nat :=
  match s.leafAt ctx l with
  | some p => (s.obj p.obj).leaf
  | none => 65536

/-- An invalidation takes the leaves that meet the range out of the caches that serve the context. -/
theorem core_invalidation (s : Mach) (ctx va len k : Nat) : (invalidation s ctx va len).core k =
    if (s.core k).xctx = ctx then
      { s.core k with xlate := (s.core k).xlate.filter fun l =>
        !(decide (l < va + len) && decide (va < l + leafSizeAt s ctx l)) }
    else s.core k := by
  unfold invalidation
  extract_lets meets drop
  rw [raise_frame, bump_frame]
  exact tabGet_tabMap _ drop s.cores k (by simp only [drop]; split <;> rfl)

theorem invalidation_frame (s : Mach) (ctx va len : Nat) : invalidation s ctx va len =
    { s with cores := (invalidation s ctx va len).cores, regs := (invalidation s ctx va len).regs } := by
  unfold invalidation
  extract_lets meets drop
  rw [raise_frame, bump_frame]

theorem reg_invalidation (s : Mach) (ctx va len : Nat) :
    (invalidation s ctx va len).reg (tierReg 0x2C) = satAdd (s.reg (tierReg 0x2C)) 1 := by
  unfold invalidation
  extract_lets meets drop
  rw [reg_raise_other _ _ _ _ (by decide) (by decide), reg_bump, if_pos rfl]
  rfl

theorem irqPending_invalidation (s : Mach) (ctx va len : Nat) : (invalidation s ctx va len).irqPending 0 116 = true :=
  irqPending_raise_dispatcher _ 0 (by decide) (by decide)

/-! ## The statement -/

/-- Settles O29: a promotion that times out fails (`promotionTimeout_returns`), an abandon request marks what moves down from the near
tier, a sweep and an invalidation pass through whole tables (`obj_accessedSweep`, `core_invalidation`). -/
theorem timeoutsAbandonsSweepsInvalidations : Obligations.TimeoutsAbandonsSweepsInvalidations := by
  refine ⟨fun s n o w ho hstate hw => ?_, fun s n hstate => ?_, fun s n hstate hsrc => ?_, fun s n h => abandonRequest_stands h,
    fun s => ⟨_, rfl, obj_accessedSweep s.m, rfl⟩, fun s c va len => ?_⟩
  · subst ho hw
    obtain ⟨t, hexec, hobjs, htorn, hother, hframe⟩ := promotionTimeout_returns hstate
    refine ⟨t, _, hexec, rfl, ?_, fun j hj => by rw [hobjs, if_neg hj], htorn, hother, hframe⟩
    rw [hobjs, if_pos rfl]
    exact healedObj_returned _ _
  · exact congrArg (fun m => Host.Outcome.next ({ s with m := m } : State)) (if_neg (by simpa using hstate))
  · exact ⟨_, abandonRequest_marks hstate hsrc, fun j => by rw [obj_setObj]; split <;> simp_all, rfl⟩
  · exact ⟨_, rfl, core_invalidation _ _ _ _, reg_invalidation _ _ _ _, irqPending_invalidation _ _ _ _,
      congrArg (fun m => ({ s with m := m } : State)) (invalidation_frame _ _ _ _)⟩

end Sys2Proof.Proofs
end

section
/-! SUPPORT. The bars of a move (13 R303 to R305, R309 to R312): what work on an object's bars leaves of the machine. -/

namespace Sys2Proof.Proofs

open Sys2Proof Sys2Proof.Machine Sys2Proof.Laws

/-- A relation holds along a repeated action whose actions for the items of the list keep it. -/
theorem rel_each_of_mem (R : Mach → Mach → Prop) (htrans : ∀ a b c : Mach, R a b → R b c → R a c) (hrefl : ∀ s, R s s) {α : Type}
    (f : α → Mach → Mach) (l : List α) (h : ∀ x ∈ l, ∀ s, R s (f x s)) (s : Mach) : R s (each f l s) := by
  unfold each
  induction l generalizing s with
  | nil => exact hrefl s
  | cons a l ih => exact htrans _ _ _ (h a (by simp) s) (ih (fun x hx => h x (by simp [hx])) (f a s))

/-- What work on bars leaves of an object: neither its soundness nor the places of its bars below. -/
def lasting (o : Obj) : Obj :=
  { o with poison := false, refetch := false, present := false, bars := [], remSlag := [], remUsed := 0 }

/-- From a to b bars have been read and written. Near bytes have changed only if N, the module tier only if L, and something was sent, or
an unstated value drawn, only if S. -/
structure Worked (N L S : Prop) (a b : Mach) : Prop where
  frame : b = { a with
    near := b.near, slag := b.slag, under := b.under, cache := b.cache, regs := b.regs, objs := b.objs, cores := b.cores,
    recordsDue := b.recordsDue, lp := b.lp, lpSlag := b.lpSlag, free := b.free, out := b.out, txHeld := b.txHeld }
  near : ¬ N → b.near = a.near
  lp : ¬ L → b.lp = a.lp ∧ b.lpSlag = a.lpSlag
  sent : ¬ S → b.free = a.free ∧ b.out = a.out ∧ b.txHeld = a.txHeld
  obj : ∀ j, lasting (b.obj j) = lasting (a.obj j)
  bars : ¬ L → ∀ j, (b.obj j).bars = (a.obj j).bars
  link : b.reg (portReg 0) = a.reg (portReg 0)

namespace Worked

variable {N L S : Prop} {a b c : Mach}

theorem refl (s : Mach) : Worked N L S s s :=
  ⟨rfl, fun _ => rfl, fun _ => ⟨rfl, rfl⟩, fun _ => ⟨rfl, rfl, rfl⟩, fun _ => rfl, fun _ _ => rfl, rfl⟩

theorem trans (h : Worked N L S a b) (h' : Worked N L S b c) : Worked N L S a c where
  frame := by
    have hb := h.frame
    have hc := h'.frame
    rw [hb] at hc
    exact hc
  near hN := (h'.near hN).trans (h.near hN)
  lp hL := ⟨(h'.lp hL).1.trans (h.lp hL).1, (h'.lp hL).2.trans (h.lp hL).2⟩
  sent hS := by
    obtain ⟨hfree, hout, hheld⟩ := h.sent hS
    obtain ⟨hfree', hout', hheld'⟩ := h'.sent hS
    exact ⟨hfree'.trans hfree, hout'.trans hout, hheld'.trans hheld⟩
  obj j := (h'.obj j).trans (h.obj j)
  bars hL j := (h'.bars hL j).trans (h.bars hL j)
  link := h'.link.trans h.link

/-- Parts that no tier is kept in may change in any way. -/
theorem of_frame (h : b = { a with
    slag := b.slag, under := b.under, cache := b.cache, regs := b.regs, cores := b.cores, recordsDue := b.recordsDue })
    (hlink : b.reg (portReg 0) = a.reg (portReg 0)) : Worked N L S a b := by
  have hobj : ∀ j, b.obj j = a.obj j := fun j => by
    rw [h]
    rfl
  refine ⟨?_, fun _ => ?_, fun _ => ?_, fun _ => ?_, fun j => congrArg lasting (hobj j),
    fun _ j => congrArg Obj.bars (hobj j), hlink⟩
  · rw [h]
  · rw [h]
  · rw [h]
    exact ⟨rfl, rfl⟩
  · rw [h]
    exact ⟨rfl, rfl, rfl⟩

theorem ite {p : Prop} [Decidable p] {s t u : Mach} (ht : Worked N L S s t) (hu : Worked N L S s u) :
    Worked N L S s (if p then t else u) := by
  split
  · exact ht
  · exact hu

theorem each {α : Type} (f : α → Mach → Mach) (h : ∀ x s, Worked N L S s (f x s)) (l : List α) (s : Mach) :
    Worked N L S s (Machine.each f l s) := rel_each (Worked N L S) (fun _ _ _ => trans) refl f h l s

variable (s : Mach)

/-! ### Parts of the machine -/

theorem bump {x : Nat} (hx : portReg 0 ≠ x) (n : Nat) : Worked N L S s (s.bump x n) :=
  of_frame (by rw [bump_frame]) (by rw [reg_bump, if_neg hx])

theorem raise {d n : Nat} (h : portReg 0 ≠ flaskReg d (0x100 + 4 * (n / 32))) (h' : portReg 0 ≠ flaskReg d 0x30) :
    Worked N L S s (s.raise d n) :=
  of_frame (by rw [raise_frame]) (reg_raise_other s d n _ h h')

theorem recordDue (r : RecordReq) : Worked N L S s (s.recordDue r) := of_frame rfl rfl

theorem setObj (n : Nat) (x : Obj) (hx : lasting x = lasting (s.obj n)) (hbars : L ∨ x.bars = (s.obj n).bars) :
    Worked N L S s (s.setObj n x) := by
  refine ⟨rfl, fun _ => rfl, fun _ => ⟨rfl, rfl⟩, fun _ => ⟨rfl, rfl, rfl⟩, fun j => ?_, fun hL j => ?_, rfl⟩
  · rw [obj_setObj]
    split
    · next hj => rw [hx, hj]
    · rfl
  · rw [obj_setObj]
    split
    · next hj => rw [hbars.resolve_left hL, hj]
    · rfl

theorem putBytes (pa : Nat) (l : List Byte) : Worked True L S s (s.putBytes pa l) :=
  ⟨rfl, fun h => absurd trivial h, fun _ => ⟨rfl, rfl⟩, fun _ => ⟨rfl, rfl, rfl⟩, fun _ => rfl, fun _ _ => rfl, rfl⟩

theorem lpPut (m : Nat) (l : List Byte) (hL : L) : Worked N L S s (s.lpPut m l) :=
  ⟨rfl, fun _ => rfl, fun h => absurd hL h, fun _ => ⟨rfl, rfl, rfl⟩, fun _ => rfl, fun _ _ => rfl, rfl⟩

theorem freshBytes (n : Nat) (hS : S) : Worked N L S s (s.freshBytes n).2 :=
  ⟨rfl, fun _ => rfl, fun _ => ⟨rfl, rfl⟩, fun h => absurd hS h, fun _ => rfl, fun _ _ => rfl, rfl⟩

theorem sendOn (cls : Nat) (x : Sent) (hS : S) : Worked N L S s (s.sendOn cls x) := by
  have hlink : (s.sendOn cls x).reg (portReg 0) = s.reg (portReg 0) := reg_sendOn_other s _ _ _ (by decide)
  have hobjs : (s.sendOn cls x).objs = s.objs := by rw [sendOn_frame]
  refine ⟨?_, fun _ => ?_, fun _ => ?_, fun h => absurd hS h, fun j => ?_, fun _ j => ?_, hlink⟩
  · rw [sendOn_frame]
  · rw [sendOn_frame]
  · rw [sendOn_frame]
    exact ⟨rfl, rfl⟩
  · rw [Mach.obj, hobjs]
    rfl
  · rw [Mach.obj, hobjs]
    rfl

theorem sendEp (e : Nat) (x : Sent) (hS : S) : Worked N L S s (s.sendEp e x) := ite (refl s) (sendOn s _ _ hS)

/-! ### Marks and the shared caches (06 R160, R161; 12 R270; 13 R314) -/

theorem invalidateObj (n : Nat) : Worked N L S s (s.invalidateObj n) := by
  unfold Mach.invalidateObj
  extract_lets ms size hit t
  have ht : Worked N L S s t := of_frame rfl rfl
  exact ite ht ((ht.trans (bump t (by decide) _)).trans (raise _ (by decide) (by decide)))

theorem poisonObj (n : Nat) : Worked N L S s (s.poisonObj n) := by
  unfold Mach.poisonObj
  extract_lets o again t u
  have ht : Worked N L S s t := (setObj s n _ (by rfl) (.inr (by rfl))).trans (bump _ (x := tierReg 0x24) (by decide) _)
  have hu : Worked N L S s u := ht.trans (recordDue t _)
  exact ite (refl s) (ite hu ((hu.trans (setObj u n _ (by rfl) (.inr (by rfl)))).trans (invalidateObj _ _)))

theorem setSlag (pa : Nat) (v : Bool) : Worked N L S s (s.setSlag pa v) := by
  unfold Mach.setSlag
  extract_lets t
  have ht : Worked N L S s t := of_frame rfl rfl
  split
  · split
    · exact ht.trans (poisonObj t _)
    · exact ht
  · exact ht

theorem dropLine (l : Line) : Worked N L S s (s.dropLine l) := by
  refine each _ (fun k t => ?_) _ s
  extract_lets u
  have hu : Worked N L S t u := of_frame rfl rfl
  exact ite (refl t) (ite hu (hu.trans (setSlag u _ _)))

theorem replaceSet (g set : Nat) (l : List Line) : Worked N L S s (s.replaceSet g set l) :=
  trans (b := s.setCacheSet g set l) (of_frame rfl rfl) (each _ (fun x t => dropLine t x) _ _)

/-- No counter of a slice or a package is the link's register. -/
theorem port_ne_ldl (g : Nat) {off : Nat} (h : 0 < off) (h' : off < 0x1000) : portReg 0 ≠ ldlReg g off := by
  unfold portReg ldlReg
  omega
theorem port_ne_lpd (p : Nat) {off : Nat} (h : 0 < off) (h' : off < 0x1000) : portReg 0 ≠ lpdReg p off := by
  unfold portReg lpdReg
  omega

theorem touchLine (pa : Nat) (write : Bool) (h : Hint) : Worked N L S s (s.touchLine pa write h) := by
  unfold Mach.touchLine
  extract_lets g set l tag hit t others kind kept rest line
  have ht : Worked N L S s t := bump s (by split <;> exact port_ne_ldl _ (by decide) (by decide)) _
  have hset : ∀ ls, Worked N L S s (t.replaceSet g set ls) := fun ls => ht.trans (replaceSet t g set ls)
  clear_value kind
  split
  · exact ht
  · split
    · exact ite ((hset _).trans (bump _ (port_ne_ldl _ (by decide) (by decide)) _)) (hset _)
    · exact hset _

theorem touch (pa n : Nat) (write : Bool) (h : Hint) : Worked N L S s (s.touch pa n write h) := by
  unfold Mach.touch
  extract_lets y
  have hy : Worked N L S s y := each _ (fun i t => touchLine t _ write h) _ s
  exact ite (refl s) (ite (of_frame rfl hy.link) hy)

/-! ### The near tier (12 R270, R277; 13 R311) -/

theorem writeSector (pa : Nat) (l : List Byte) (mark : Bool) : Worked True L S s (s.writeSector pa l mark) := by
  unfold Mach.writeSector
  extract_lets whole t
  have ht : Worked True L S s t := putBytes s pa l
  exact ite (bump s (port_ne_ldl _ (by decide) (by decide)) _)
    (ite (ite (ht.trans (setSlag t _ _)) ht) (ite (ht.trans (setSlag t _ _)) ht))

theorem writeNear (pa : Nat) (l : List Byte) (mark : Bool) : Worked True L S s (s.writeNear pa l mark) :=
  each _ (fun (p : Nat × List Byte) t => writeSector t p.1 p.2 mark) _ s

theorem touchBar (o : Obj) (b : Nat) (write : Bool) : Worked N L S s (touchBar s o b write) := by
  unfold Machine.touchBar
  split
  · exact touch s _ _ _ _
  · exact refl s

theorem nearDelivered (o : Obj) (b : Nat) : Worked N L S s (nearDelivered s o b) := by
  refine (touchBar s o b false).trans (each _ (fun i t => ?_) _ _)
  split
  · exact ite (bump t (port_ne_ldl _ (by decide) (by decide)) _) (refl t)
  · exact refl t

theorem putNearBar (n b : Nat) (ss : List Sector) : Worked True L S s (putNearBar s n b ss) := by
  refine (touchBar s _ b true).trans (each _ (fun x t => ?_) _ _)
  split
  · exact writeNear t _ _ _
  · exact refl t

theorem openBar (hS : S) : Worked N L S s (openBar s).2 := freshBytes s 8192 hS

theorem expandNear (n b : Nat) (l : Option (List Byte)) (hS : S) : Worked True L S s (expandNear s n b l) := by
  unfold Machine.expandNear
  split
  · exact putNearBar s n b _
  · exact (openBar s hS).trans (putNearBar _ n b _)

/-! ### The module tier (12 R270, R286; 13 R309) -/

theorem moduleDelivered (o : Obj) (b : Nat) : Worked N L S s (moduleDelivered s o b) :=
  each _ (fun i t => ite (bump t (port_ne_lpd _ (by decide) (by decide)) _) (refl t)) _ s

theorem lpSetSlag (m : Nat) (v : Bool) (hL : L) : Worked N L S s (s.lpSetSlag m v) := by
  unfold Mach.lpSetSlag
  extract_lets t
  have ht : Worked N L S s t :=
    ⟨rfl, fun _ => rfl, fun h => absurd hL h, fun _ => ⟨rfl, rfl, rfl⟩, fun _ => rfl, fun _ _ => rfl, rfl⟩
  split
  · split
    · exact ht.trans (poisonObj t _)
    · exact ht
  · exact ht

theorem lpWrite (m : Nat) (l : List Byte) (hL : L) : Worked N L S s (s.lpWrite m l) := by
  refine each _ (fun p t => ?_) _ s
  unfold Mach.lpSector
  extract_lets u
  have hu : Worked N L S t u := lpPut t _ _ hL
  exact ite (refl t) (ite (hu.trans (lpSetSlag u _ _ hL)) hu)

theorem putModuleBar (n b : Nat) (l : List Byte) (hL : L) : Worked N L S s (putModuleBar s n b l) := by
  unfold Machine.putModuleBar
  extract_lets o
  split
  · exact refl s
  · split
    · exact (setObj s n _ (by rfl) (.inl hL)).trans (lpWrite _ _ _ hL)
    · exact refl s

theorem slagModuleBar (n b : Nat) (hL : L) : Worked N L S s (slagModuleBar s n b) :=
  each _ (fun _ t => lpSetSlag t _ _ hL) _ s

/-! ### The remote tier (13 R312; 15 R359) -/

theorem useFrames (n : Nat) (l : List Byte) : Worked N L S s (useFrames s n l) := setObj s n _ (by rfl) (.inr (by rfl))

theorem putRemoteBar (n b : Nat) (l : List Byte) (slag : Bool) (hS : S) : Worked N L S s (putRemoteBar s n b l slag) :=
  (setObj s n _ (by rfl) (.inr (by rfl))).trans (sendEp _ _ _ hS)

theorem originBar (o : Obj) (b : Nat) (l : BarRead) (hS : S) : Worked N L S s (originBar s o b l).1 := by
  unfold Machine.originBar
  extract_lets e frames t
  have ht : Worked N L S s t := sendEp s _ _ hS
  split
  · exact ht
  · exact ht.trans (sendEp t _ _ hS)

/-! ### A bar of a move (13 R303 to R305) -/

/-- A bar goes down by the module tier or by the link. -/
theorem lowerBar (n b : Nat) (hsrc : (s.obj n).dst = 2#2 → (s.obj n).src = 1#2) :
    Worked False ((s.obj n).dst = 2#2) ((s.obj n).dst ≠ 2#2) s (lowerBar s n b) := by
  unfold Machine.lowerBar
  extract_lets o bar t
  have ht : Worked False (o.dst = 2#2) (o.dst ≠ 2#2) s t := ite (nearDelivered s o b) (moduleDelivered s o b)
  obtain ⟨bar', hbar⟩ : ∃ x, x = bar := ⟨_, rfl⟩
  rw [← hbar]
  cases bar' with
  | some l =>
    dsimp only
    split
    · next hdst => exact ht.trans (putModuleBar t n b _ (by simpa using hdst))
    · next hdst =>
      have hsent : o.dst ≠ 2#2 := by simpa using hdst
      exact (ht.trans (useFrames t n _)).trans (putRemoteBar _ n b _ _ hsent)
  | none =>
    have hsent : o.dst ≠ 2#2 := fun hdst => by
      have hsome := hsrc hdst
      simp [bar, o, hsome] at hbar
    exact ((ht.trans (openBar t hsent)).trans (useFrames _ n _)).trans (putRemoteBar _ n b _ _ hsent)

theorem fetchBar (n b : Nat) (l : BarRead) (hS : S) : Worked N L S s (fetchBar s n b l).1 := by
  unfold Machine.fetchBar
  extract_lets o
  split
  · exact moduleDelivered s o b
  · split
    · have horigin := originBar (N := N) (L := L) s o b l hS
      split
      next t x hx =>
      rw [hx] at horigin
      exact ite (horigin.trans (bump t (by decide) _)) horigin
    · exact sendEp s _ _ hS

/-- A bar comes up into the near tier, and into the module tier where that is its destination. -/
theorem raiseBar (n b : Nat) (l : Option (List Byte)) : Worked True ((s.obj n).dst ≠ 1#2) True s (raiseBar s n b l) := by
  unfold Machine.raiseBar
  extract_lets o t
  have ht : Worked True (o.dst ≠ 1#2) True s t := expandNear s n b l trivial
  split
  · exact ht
  · next hdst =>
    have hmod : o.dst ≠ 1#2 := by simpa using hdst
    split
    · split
      · exact ite ((ht.trans (putModuleBar t n b _ hmod)).trans (slagModuleBar _ n b hmod)) (ht.trans (putModuleBar t n b _ hmod))
      · exact ht.trans (slagModuleBar t n b hmod)
    · exact ht.trans (slagModuleBar t n b hmod)

/-! ### What stands -/

theorem state (h : Worked N L S a b) (j : Nat) : (b.obj j).state = (a.obj j).state := (congrArg Obj.state (h.obj j) :)
theorem src (h : Worked N L S a b) (j : Nat) : (b.obj j).src = (a.obj j).src := (congrArg Obj.src (h.obj j) :)
theorem dst (h : Worked N L S a b) (j : Nat) : (b.obj j).dst = (a.obj j).dst := (congrArg Obj.dst (h.obj j) :)
theorem nearOf (h : Worked N L S a b) (j : Nat) : (b.obj j).near = (a.obj j).near := (congrArg Obj.near (h.obj j) :)
theorem epOf (h : Worked N L S a b) (j : Nat) : (b.obj j).ep = (a.obj j).ep := (congrArg Obj.ep (h.obj j) :)
theorem ep (h : Worked N L S a b) (j : Nat) : b.ep j = a.ep j := by
  rw [h.frame]
  rfl
theorem linkUp (h : Worked N L S a b) : b.linkUp = a.linkUp := congrArg (fun w : Word => w.toNat.testBit 31) h.link

end Worked

end Sys2Proof.Proofs
end

section
/-! SUPPORT. MOVE_DOWN_STEP and MOVE_DOWN_COMMIT (13 R298, R303, R305, R306, R312; 15 R359). -/

namespace Sys2Proof.Proofs

open Sys2Proof Sys2Proof.Machine Sys2Proof.Laws

/-! ## Objects where no mark waits beneath a line (06 R160) -/

/-- From a to b bars of object n have gone down: where no mark waits beneath a line, none does afterwards, and of the objects only n has
changed, in where its bars lie below and which of them hold slag. -/
def Lowered (n : Nat) (a b : Mach) : Prop := a.under = [] → b.under = [] ∧ ∀ j, b.obj j = if j = n then
  { a.obj n with bars := (b.obj n).bars, remUsed := (b.obj n).remUsed, remSlag := (b.obj n).remSlag } else a.obj j

namespace Lowered

variable {n : Nat} {a b c : Mach}

theorem of_objs (hunder : b.under = a.under) (hobjs : b.objs = a.objs) : Lowered n a b := by
  refine fun h => ⟨hunder.trans h, fun j => ?_⟩
  have hobj : ∀ k, b.obj k = a.obj k := fun k => by
    rw [Mach.obj, hobjs]
    rfl
  rw [hobj, hobj]
  split
  · next hj => rw [hj]
  · rfl

theorem refl (s : Mach) : Lowered n s s := of_objs rfl rfl

theorem trans (h : Lowered n a b) (h' : Lowered n b c) : Lowered n a c := by
  intro ha
  obtain ⟨hb, hobj⟩ := h ha
  obtain ⟨hc, hobj'⟩ := h' hb
  refine ⟨hc, fun j => ?_⟩
  rw [hobj' j]
  split
  · rw [hobj n, if_pos rfl]
  · next hj => rw [hobj j, if_neg hj]

theorem ite {p : Prop} [Decidable p] {s t u : Mach} (ht : Lowered n s t) (hu : Lowered n s u) :
    Lowered n s (if p then t else u) := by
  split
  · exact ht
  · exact hu

theorem each {α : Type} (f : α → Mach → Mach) (h : ∀ x s, Lowered n s (f x s)) (l : List α) (s : Mach) :
    Lowered n s (Machine.each f l s) := rel_each (Lowered n) (fun _ _ _ => trans) refl f h l s

variable (s : Mach)

theorem bump (x k : Nat) : Lowered n s (s.bump x k) := of_objs (by rw [bump_frame]) (by rw [bump_frame])

theorem setObj (x : Obj) (hx : x = { s.obj n with bars := x.bars, remUsed := x.remUsed, remSlag := x.remSlag }) :
    Lowered n s (s.setObj n x) := by
  refine fun h => ⟨h, fun j => ?_⟩
  rw [obj_setObj, obj_setObj, if_pos rfl]
  split
  · exact hx
  · rfl

theorem sendEp (e : Nat) (x : Sent) : Lowered n s (s.sendEp e x) :=
  ite (refl s) (of_objs (by rw [sendOn_frame]) (by rw [sendOn_frame]))

theorem touchBar (o : Obj) (b : Nat) (write : Bool) : Lowered n s (touchBar s o b write) := by
  unfold Machine.touchBar
  split
  · next pa _ =>
    intro h
    have hframe := (CachesOnly.touch s pa 65536 write .none h).1
    exact of_objs (by rw [hframe]) (by rw [hframe]) h
  · exact refl s

theorem nearDelivered (o : Obj) (b : Nat) : Lowered n s (nearDelivered s o b) := by
  refine (touchBar s o b false).trans (each _ (fun i t => ?_) _ _)
  split
  · exact ite (bump t _ _) (refl t)
  · exact refl t

theorem moduleDelivered (o : Obj) (b : Nat) : Lowered n s (moduleDelivered s o b) :=
  each _ (fun _ t => ite (bump t _ _) (refl t)) _ s

theorem lpWrite (m : Nat) (l : List Byte) : Lowered n s (s.lpWrite m l) := by
  refine each _ (fun p t => ?_) _ s
  unfold Mach.lpSector
  exact ite (refl t) (ite (of_objs rfl rfl) (of_objs rfl rfl))

theorem putModuleBar (b : Nat) (l : List Byte) : Lowered n s (putModuleBar s n b l) := by
  unfold Machine.putModuleBar
  extract_lets o
  split
  · exact refl s
  · split
    · exact (setObj s _ (by rfl)).trans (lpWrite _ _ _)
    · exact refl s

theorem useFrames (l : List Byte) : Lowered n s (useFrames s n l) := setObj s _ (by rfl)

theorem putRemoteBar (b : Nat) (l : List Byte) (slag : Bool) : Lowered n s (putRemoteBar s n b l slag) :=
  (setObj s _ (by rfl)).trans (sendEp _ _ _)

theorem lowerBar (b : Nat) : Lowered n s (lowerBar s n b) := by
  unfold Machine.lowerBar
  extract_lets o bar t
  have ht : Lowered n s t := ite (nearDelivered s o b) (moduleDelivered s o b)
  have hopen : Lowered n t (openBar t).2 := of_objs rfl rfl
  generalize bar = bar'
  cases bar' with
  | some l => exact ite (ht.trans (putModuleBar t b l)) ((ht.trans (useFrames t _)).trans (putRemoteBar _ b _ _))
  | none => exact ((ht.trans hopen).trans (useFrames _ _)).trans (putRemoteBar _ b _ _)

end Lowered

/-! ## What goes over the link (15 R356, R359) -/

/-- The endpoint of an object can be written to. -/
def Reaches (s : Mach) (n : Nat) : Prop := s.linkUp = true ∧ (s.ep (s.obj n).ep.toNat).error = false

/-- How many messages have been sent or wait for their class. -/
def sentCount (s : Mach) : Nat := s.out.length + s.txHeld.length

theorem Worked.reaches {N L S : Prop} {a b : Mach} {n : Nat} (h : Worked N L S a b) (ha : Reaches a n) : Reaches b n :=
  ⟨h.linkUp.trans ha.1, by rw [h.ep, h.epOf]; exact ha.2⟩

theorem Worked.sentCount {N L : Prop} {a b : Mach} (h : Worked N L False a b) : sentCount b = sentCount a := by
  obtain ⟨-, hout, hheld⟩ := h.sent id
  rw [Proofs.sentCount, hout, hheld]
  rfl

/-- Over a link that is up a message is sent or waits. -/
theorem sentCount_sendOn {s : Mach} (cls : Nat) (x : Sent) (h : s.linkUp = true) : sentCount (s.sendOn cls x) = sentCount s + 1 := by
  unfold Mach.sendOn
  rw [if_neg (by simp [h])]
  split
  · simp [sentCount, Nat.add_assoc]
  · rw [bump_frame]
    simp only [sentCount, Mach.sendAs, List.length_cons]
    omega

theorem sentCount_putRemoteBar {s : Mach} {n : Nat} (b : Nat) (l : List Byte) (slag : Bool) (h : Reaches s n) :
    sentCount (putRemoteBar s n b l slag) = sentCount s + 1 := by
  obtain ⟨hlink, herr⟩ := h
  unfold putRemoteBar
  extract_lets o marks
  rw [Mach.sendEp, if_neg (by simpa [o] using herr)]
  exact sentCount_sendOn _ _ hlink

/-- A bar of a move down that does not end in the module tier is sent, or waits to be. -/
theorem sentCount_lowerBar {s : Mach} {n : Nat} (b : Nat) (hdst : (s.obj n).dst ≠ 2#2) (h : Reaches s n) :
    sentCount (lowerBar s n b) = sentCount s + 1 := by
  unfold lowerBar
  extract_lets o bar t
  have ht : Worked False False False s t := .ite (.nearDelivered s o b) (.moduleDelivered s o b)
  have hto : ¬(o.dst == 2#2) = true := by simpa [o] using hdst
  have hput : ∀ u l slag, Worked False False True t u → sentCount u = sentCount t →
      sentCount (putRemoteBar (useFrames u n l) n b l slag) = sentCount s + 1 := fun u l slag hu hcount => by
    have hframes : Worked False False True u (useFrames u n l) := .useFrames u n l
    rw [sentCount_putRemoteBar _ _ _ (hframes.reaches (hu.reaches (ht.reaches h)))]
    change sentCount u + 1 = _
    rw [hcount, ht.sentCount]
  generalize bar = bar'
  cases bar' with
  | some l =>
    dsimp only
    rw [if_neg hto]
    exact hput t _ _ (.refl t) rfl
  | none => exact hput _ _ _ (.openBar t trivial) rfl

/-! ## A step of a move down (13 R303, R305) -/

theorem Worked.lowerBars (s : Mach) (n : Nat) (l : List Nat) (hsrc : (s.obj n).dst = 2#2 → (s.obj n).src = 1#2) :
    Worked False ((s.obj n).dst = 2#2) ((s.obj n).dst ≠ 2#2) s (Machine.each (fun b s => Machine.lowerBar s n b) l s) := by
  refine rel_each (fun a b => (a.obj n).dst = (s.obj n).dst → (a.obj n).src = (s.obj n).src →
      Worked False ((s.obj n).dst = 2#2) ((s.obj n).dst ≠ 2#2) a b)
    (fun a b c hab hbc hdst hsrc => ?_) (fun t _ _ => .refl t) _ (fun b t hdst' hsrc' => ?_) l s rfl rfl
  · have hb := hab hdst hsrc
    exact hb.trans (hbc ((hb.dst n).trans hdst) ((hb.src n).trans hsrc))
  · rw [← hdst']
    exact .lowerBar t n b (by rw [hdst', hsrc']; exact hsrc)

theorem Lowered.lowerBars (s : Mach) (n : Nat) (l : List Nat) : Lowered n s (Machine.each (fun b s => Machine.lowerBar s n b) l s) :=
  .each _ (fun b t => .lowerBar t b) l s

/-- Each bar of a move down that does not end in the module tier is sent, or waits to be. -/
theorem sentCount_lowerBars {s : Mach} {n : Nat} (l : List Nat) (hdst : (s.obj n).dst ≠ 2#2) (h : Reaches s n) :
    sentCount (each (fun b s => lowerBar s n b) l s) = sentCount s + l.length := by
  induction l generalizing s with
  | nil => rfl
  | cons b l ih =>
    have hb : Worked False ((s.obj n).dst = 2#2) ((s.obj n).dst ≠ 2#2) s (lowerBar s n b) := .lowerBar s n b (absurd · hdst)
    have hrest := ih (s := lowerBar s n b) (by rwa [hb.dst]) (hb.reaches h)
    rw [sentCount_lowerBar b hdst h] at hrest
    exact hrest.trans (by rw [List.length_cons]; omega)

theorem requesterDone_frame (s : Mach) (e : Nat) :
    s.requesterDone e = { s with eps := (s.requesterDone e).eps, regs := (s.requesterDone e).regs } := by
  unfold Mach.requesterDone
  rw [raise_frame]
  split <;> rfl

theorem irqPending_requesterDone (s : Mach) (e : Nat) : (s.requesterDone e).irqPending 0 108 = true := by
  unfold Mach.requesterDone
  rw [irqPending_raise _ 0 108 0 108 (by decide) (by decide)]
  simp [show srcReserved 0 108 = false by decide]

/-- What the bars of a step leave, once the endpoint has answered. -/
def stepLowered (s : Mach) (n : Nat) : Mach :=
  let u := each (fun b s => lowerBar s n b) (stepBars (s.obj n)) s
  if (s.obj n).dst == 3#2 then u.requesterDone (u.obj n).ep.toNat else u

theorem moveDownStep_eq {s : Mach} {n : Nat} (hsafe : s.safe = false) (hstate : (s.obj n).state = 3#3)
    (habandon : (s.obj n).abandon = false) (hleft : (s.obj n).wmark.toNat < (s.obj n).steps)
    (hheld : (s.obj n).src = 1#2 → (stepBars (s.obj n)).any (barHeld s (s.obj n)) = false)
    (hladle : (s.obj n).src = 1#2 → (s.obj n).wmark = 0#20 → s.ladleHolds none n = false)
    (hremote : (s.obj n).dst = 3#2 → Reaches s n) : moveDownStep s n =
      (stepLowered s n).setObj n { (stepLowered s n).obj n with wmark := (s.obj n).wmark + 1#20 } := by
  have hwaits : ((s.obj n).dst == 3#2 && s.remoteWaits (s.obj n) true) = false := by
    by_cases hdst : (s.obj n).dst = 3#2
    · obtain ⟨hlink, herr⟩ := hremote hdst
      simp [Mach.remoteWaits, Mach.epFailed, hlink, herr]
    · simp [hdst]
  have hbars : ((s.obj n).src == 1#2 && (stepBars (s.obj n)).any (barHeld s (s.obj n))) = false := by
    by_cases hsrc : (s.obj n).src = 1#2
    · rw [hheld hsrc, Bool.and_false]
    · simp [hsrc]
  have hfirst : ((s.obj n).src == 1#2 && (s.obj n).wmark == 0#20 && s.ladleHolds none n) = false := by
    by_cases hsrc : (s.obj n).src = 1#2 ∧ (s.obj n).wmark = 0#20
    · rw [hladle hsrc.1 hsrc.2, Bool.and_false]
    · simp only [not_and_or] at hsrc
      rcases hsrc with h | h <;> simp [h]
  refine if_neg ?_
  rw [hwaits, hbars, hfirst, hsafe, habandon]
  simp [hstate, hleft]

/-- What a step leaves of the object, and of the other objects where no mark waits beneath a line. -/
theorem obj_stepLowered (s : Mach) (n : Nat) : ∀ j, (stepLowered s n).obj j =
    (each (fun b s => lowerBar s n b) (stepBars (s.obj n)) s).obj j := by
  intro j
  unfold stepLowered
  extract_lets u
  split
  · rw [requesterDone_frame]
    rfl
  · rfl

theorem stepLowered_module {s : Mach} {n : Nat} (hdst : (s.obj n).dst = 2#2) (hsrc : (s.obj n).src = 1#2) :
    stepLowered s n = { s with
      objs := (stepLowered s n).objs, lp := (stepLowered s n).lp, lpSlag := (stepLowered s n).lpSlag,
      regs := (stepLowered s n).regs, cache := (stepLowered s n).cache, under := (stepLowered s n).under,
      slag := (stepLowered s n).slag, cores := (stepLowered s n).cores, recordsDue := (stepLowered s n).recordsDue } := by
  have hbars := Worked.lowerBars s n (stepBars (s.obj n)) fun _ => hsrc
  have heq : stepLowered s n = each (fun b s => lowerBar s n b) (stepBars (s.obj n)) s := if_neg (by simp [hdst])
  obtain ⟨hfree, hout, hheld⟩ := hbars.sent (by simp [hdst])
  have hframe := hbars.frame
  rw [heq]
  rw [hbars.near id, hfree, hout, hheld] at hframe
  exact hframe

theorem stepLowered_remote {s : Mach} {n : Nat} (hdst : (s.obj n).dst = 3#2) :
    stepLowered s n = { s with
      objs := (stepLowered s n).objs, out := (stepLowered s n).out, txHeld := (stepLowered s n).txHeld,
      free := (stepLowered s n).free, eps := (stepLowered s n).eps, regs := (stepLowered s n).regs,
      cache := (stepLowered s n).cache, under := (stepLowered s n).under, slag := (stepLowered s n).slag,
      cores := (stepLowered s n).cores, recordsDue := (stepLowered s n).recordsDue } := by
  have hbars := Worked.lowerBars s n (stepBars (s.obj n)) (by simp [hdst])
  have heq : stepLowered s n = (each (fun b s => lowerBar s n b) (stepBars (s.obj n)) s).requesterDone _ := if_pos (by simp [hdst])
  obtain ⟨hlp, hlpSlag⟩ := hbars.lp (by simp [hdst])
  have hframe := hbars.frame
  rw [hbars.near id, hlp, hlpSlag] at hframe
  rw [heq, requesterDone_frame, hframe]

theorem sentCount_stepLowered {s : Mach} {n : Nat} (hdst : (s.obj n).dst = 3#2) (h : Reaches s n) :
    sentCount (stepLowered s n) = sentCount s + (stepBars (s.obj n)).length := by
  have heq : stepLowered s n = (each (fun b s => lowerBar s n b) (stepBars (s.obj n)) s).requesterDone _ := if_pos (by simp [hdst])
  rw [heq, requesterDone_frame]
  exact sentCount_lowerBars _ (by simp [hdst]) h

theorem moveDownStep_steps {s : State} {n : ObjNo} {o : Obj} (ho : s.m.obj n.toNat = o) (hsafe : s.m.safe = false) (hstate : o.state = 3#3)
    (habandon : o.abandon = false) (hleft : o.wmark.toNat < o.steps) (hway : o.dst = 2#2 ∧ o.src = 1#2 ∨ o.dst = 3#2)
    (hheld : o.src = 1#2 → (stepBars o).any (barHeld s.m o) = false)
    (hladle : o.src = 1#2 → o.wmark = 0#20 → s.m.ladleHolds none n.toNat = false)
    (hremote : o.dst = 3#2 → s.m.linkUp = true ∧ (s.m.ep o.ep.toNat).error = false) :
    ∃ (t : State) (z : Obj), exec (.moveDownStep n) s = .next t ∧ t.m.obj n.toNat = z ∧ z.wmark = o.wmark + 1#20 ∧
      z.state = 3#3 ∧ z.near = o.near ∧
      (s.m.under = [] → z = { o with wmark := z.wmark, remUsed := z.remUsed, remSlag := z.remSlag, bars := z.bars } ∧
        ∀ j, j ≠ n.toNat → t.m.obj j = s.m.obj j) ∧
      (o.dst = 2#2 → t = { s with m := { s.m with
        objs := t.m.objs, lp := t.m.lp, lpSlag := t.m.lpSlag, regs := t.m.regs, cache := t.m.cache, under := t.m.under,
        slag := t.m.slag, cores := t.m.cores, recordsDue := t.m.recordsDue } }) ∧
      (o.dst = 3#2 → t.m.out.length + t.m.txHeld.length = s.m.out.length + s.m.txHeld.length + (stepBars o).length ∧
        t.m.irqPending 0 108 = true ∧ z.bars = o.bars ∧
        t = { s with m := { s.m with
          objs := t.m.objs, out := t.m.out, txHeld := t.m.txHeld, free := t.m.free, eps := t.m.eps, regs := t.m.regs,
          cache := t.m.cache, under := t.m.under, slag := t.m.slag, cores := t.m.cores,
          recordsDue := t.m.recordsDue } }) := by
  subst ho
  have hexec : exec (.moveDownStep n) s = .next { s with m := moveDownStep s.m n.toNat } := rfl
  rw [moveDownStep_eq hsafe hstate habandon hleft hheld hladle hremote] at hexec
  have hworked := Worked.lowerBars s.m n.toNat (stepBars (s.m.obj n.toNat)) fun hdst => by
    rcases hway with ⟨-, hsrc⟩ | hdst'
    · exact hsrc
    · exact absurd (hdst.symm.trans hdst') (by decide)
  have hlowered := Lowered.lowerBars s.m n.toNat (stepBars (s.m.obj n.toNat))
  have hobj := obj_stepLowered s.m n.toNat
  refine ⟨_, _, hexec, by rw [obj_setObj, if_pos rfl], rfl, ?_, ?_, fun hunder => ⟨?_, fun j hj => ?_⟩, fun hdst => ?_,
    fun hdst => ⟨?_, ?_, ?_, ?_⟩⟩
  · rw [hobj]
    exact (hworked.state _).trans hstate
  · rw [hobj]
    exact hworked.nearOf _
  · have hz := (hlowered hunder).2 n.toNat
    rw [if_pos rfl, ← hobj] at hz
    rw [hz]
  · rw [obj_setObj, if_neg hj, hobj, (hlowered hunder).2 j, if_neg hj]
  · refine congrArg (fun m => ({ s with m := m } : State)) ?_
    rcases hway with ⟨-, hsrc⟩ | hdst'
    · rw [stepLowered_module hdst hsrc]
      rfl
    · exact absurd (hdst.symm.trans hdst') (by decide)
  · exact sentCount_stepLowered hdst (hremote hdst)
  · have heq : stepLowered s.m n.toNat =
        (each (fun b s => lowerBar s n.toNat b) (stepBars (s.m.obj n.toNat)) s.m).requesterDone _ := if_pos (by simp [hdst])
    rw [heq]
    exact irqPending_requesterDone _ _
  · rw [hobj]
    exact hworked.bars (by simp [hdst]) _
  · refine congrArg (fun m => ({ s with m := m } : State)) ?_
    rw [stepLowered_remote hdst]
    rfl

end Sys2Proof.Proofs
end

section
/-! SUPPORT. The commits of moves (13 R298, R303 to R306, R308, R315, R316). -/

namespace Sys2Proof.Proofs

open Sys2Proof Sys2Proof.Machine Sys2Proof.Laws

theorem obj_bump (s : Mach) (x k j : Nat) : (s.bump x k).obj j = s.obj j := by
  rw [bump_frame]
  rfl

/-- From a to b objects have been changed and sessions told. -/
def Settled (a b : Mach) : Prop :=
  b = { a with objs := b.objs, regs := b.regs, sessions := b.sessions, out := b.out, txHeld := b.txHeld }

namespace Settled

variable {a b c : Mach}

theorem trans (h : Settled a b) (h' : Settled b c) : Settled a c := by
  unfold Settled at h h'
  rw [h] at h'
  exact h'

theorem setObj (s : Mach) (n : Nat) (x : Obj) : Settled s (s.setObj n x) := rfl

theorem bump (s : Mach) (x n : Nat) : Settled s (s.bump x n) := by
  unfold Settled
  rw [bump_frame]

theorem told (h : Told a b) : Settled a b := by
  unfold Settled
  rw [h.frame]

theorem after_leaves (h : Settled b c) (hb : b = { a with objs := b.objs, cores := b.cores, regs := b.regs }) : c = { a with
    objs := c.objs, regs := c.regs, cores := c.cores, sessions := c.sessions, out := c.out, txHeld := c.txHeld } := by
  unfold Settled at h
  rw [hb] at h
  rw [h]

theorem core (h : Settled a b) (k : Nat) : b.core k = a.core k := by
  rw [h]
  rfl

end Settled

/-! ## The end of a commit: the placements are reported (13 R303; 15 R376) -/

/-- What both commits end with. -/
def commitEnd (s : Mach) (n : Nat) : Mach :=
  let s := reportPlaces (signalPlaced s n) n (fun _ => true) stOk
  s.setObj n { s.obj n with wmark := 0#20 }

section CommitEnd

variable {s : Mach} {n : Nat} (hsync : (s.obj n).syncEn = false)
include hsync

/-- An object that signals nothing is just reported on. -/
theorem told_commitEnd : ∃ r, Told (s.setObj n { s.obj n with places := [] }) r ∧
    commitEnd s n = r.setObj n { r.obj n with wmark := 0#20 } := by
  have hsame : signalPlaced s n = s := if_pos (by simp [hsync])
  have htold := Told.reportPlaces s n (fun _ => true) stOk
  refine ⟨reportPlaces s n (fun _ => true) stOk, by simpa using htold, ?_⟩
  unfold commitEnd
  rw [hsame]

theorem obj_commitEnd (j : Nat) :
    (commitEnd s n).obj j = if j = n then { s.obj n with places := [], wmark := 0#20 } else s.obj j := by
  obtain ⟨r, htold, heq⟩ := told_commitEnd hsync
  rw [heq, obj_setObj, htold.obj, htold.obj, obj_setObj, obj_setObj, if_pos rfl]
  split <;> rfl

theorem settled_commitEnd : Settled s (commitEnd s n) := by
  obtain ⟨r, htold, heq⟩ := told_commitEnd hsync
  rw [heq]
  exact ((Settled.setObj s n _).trans (.told htold)).trans (.setObj r n _)

theorem reg_commitEnd {x : Nat} (hx : x ≠ portReg 0x14) : (commitEnd s n).reg x = s.reg x := by
  obtain ⟨r, htold, heq⟩ := told_commitEnd hsync
  rw [heq]
  exact htold.reg x hx

end CommitEnd

/-! ## MOVE_DOWN_COMMIT -/

/-- An invalidation drops the leaves that lie in a mapping of the object. -/
theorem core_invalidateObj (s : Mach) (n k : Nat) : (s.invalidateObj n).core k =
    { s.core k with xlate := (s.core k).xlate.filter fun l => !((s.maps.filter fun m => m.obj == n).any fun m =>
      m.ctx == (s.core k).xctx && m.va ≤ l && l < m.va + (s.obj n).bytes) } := by
  unfold Mach.invalidateObj
  extract_lets ms size hit t
  have ht : t.core k = { s.core k with xlate := (s.core k).xlate.filter fun l => !hit (s.core k).xctx l } :=
    tabGet_tabMap _ _ s.cores k rfl
  split
  · exact ht
  · rw [raise_frame, bump_frame]
    exact ht

/-- After an invalidation no cache holds a leaf of the object. -/
theorem not_mem_invalidateObj {s : Mach} {n k l : Nat} {p : Mapping} (hl : l ∈ ((s.invalidateObj n).core k).xlate) (hp : p ∈ s.maps)
    (hobj : p.obj = n) (hctx : p.ctx = ((s.invalidateObj n).core k).xctx) : l < p.va ∨ p.va + (s.obj n).bytes ≤ l := by
  rw [core_invalidateObj] at hl hctx
  obtain ⟨-, hmiss⟩ := List.mem_filter.1 hl
  have hp' : p ∈ s.maps.filter fun m => m.obj == n := List.mem_filter.2 ⟨hp, by simp [hobj]⟩
  have hnot := hmiss
  simp only [Bool.not_eq_true', List.any_eq_false] at hnot
  have hno := hnot p hp'
  simp only [Bool.and_eq_true, beq_iff_eq, decide_eq_true_eq, not_and, Nat.not_lt] at hno
  by_cases hva : p.va ≤ l
  · exact .inr (hno ⟨hctx, hva⟩)
  · exact .inl (Nat.lt_of_not_le hva)

/-- The object in the tier below. -/
def loweredObj (s : Mach) (o : Obj) : Obj :=
  { o with state := if o.dst == 2#2 then 4#3 else 5#3, near := [], watch := false, present := false, wmark := 0#20,
           bars := if o.dst == 2#2 then trimBars s o.bars else [],
           remFrames := if o.dst == 3#2 then o.remFrames - 17 * o.nbars + o.remUsed else o.remFrames, remUsed := 0,
           image := o.image && o.dst != 3#2 }

/-- The machine once the leaves of an object that leaves the near tier are invalid. -/
def leavesDropped (s : Mach) (n : Nat) : Mach :=
  if (s.obj n).src == 1#2 then (s.setObj n { s.obj n with present := false }).invalidateObj n else s

theorem leavesDropped_frame (s : Mach) (n : Nat) : leavesDropped s n = { s with
    objs := (leavesDropped s n).objs, cores := (leavesDropped s n).cores, regs := (leavesDropped s n).regs } := by
  unfold leavesDropped
  split
  · rw [invalidateObj_frame]
    rfl
  · rfl

theorem obj_leavesDropped (s : Mach) (n j : Nat) : (leavesDropped s n).obj j =
    if j = n then { s.obj n with present := if (s.obj n).src = 1#2 then false else (s.obj n).present } else s.obj j := by
  unfold leavesDropped
  by_cases hsrc : (s.obj n).src = 1#2
  · rw [if_pos (by simp [hsrc]), if_pos hsrc, invalidateObj_frame]
    exact obj_setObj s n _ j
  · rw [if_neg (by simp [hsrc]), if_neg hsrc]
    split
    · next hj => rw [hj]
    · rfl

theorem reg_leavesDropped (s : Mach) (n : Nat) : (leavesDropped s n).reg (tierReg 0x18) = s.reg (tierReg 0x18) := by
  unfold leavesDropped Mach.invalidateObj
  extract_lets ms size hit t
  split
  · split
    · rfl
    · rw [reg_raise_other _ _ _ _ (by decide) (by decide), reg_bump, if_neg (by decide)]
      rfl
  · rfl

/-- The machine before the end of the commit: the object in the tier below, its move counted. -/
def loweredMach (s : Mach) (n : Nat) : Mach :=
  let w := leavesDropped s n
  let o := loweredObj w (w.obj n)
  ((w.setObj n o).bump (tierReg 0x18) 1).setObj n { o with wmark := BitVec.ofNat 20 o.steps }

theorem moveDownCommit_eq {s : Mach} {n : Nat} (hsafe : s.safe = false) (hstate : (s.obj n).state = 3#3)
    (habandon : (s.obj n).abandon = false) (hdone : (s.obj n).steps ≤ (s.obj n).wmark.toNat)
    (hladle : (s.obj n).src = 1#2 → s.ladleHolds none n = false) : moveDownCommit s n = commitEnd (loweredMach s n) n := by
  have hhold : ((s.obj n).src == 1#2 && s.ladleHolds none n) = false := by
    by_cases hsrc : (s.obj n).src = 1#2
    · rw [hladle hsrc, Bool.and_false]
    · simp [hsrc]
  unfold moveDownCommit
  refine (if_neg (by simp [hstate])).trans ((if_neg (by simp [habandon])).trans (if_neg ?_))
  rw [hhold, hsafe]
  simpa using hdone

theorem settled_loweredMach (s : Mach) (n : Nat) : Settled (leavesDropped s n) (loweredMach s n) :=
  ((Settled.setObj _ n _).trans (.bump _ _ _)).trans (.setObj _ n _)

/-- The object before the end of its commit. -/
theorem obj_loweredMach (s : Mach) (n : Nat) : ∃ d : Obj,
    d = loweredObj (leavesDropped s n)
      { s.obj n with present := if (s.obj n).src = 1#2 then false else (s.obj n).present } ∧
    ∀ j, (loweredMach s n).obj j = if j = n then { d with wmark := BitVec.ofNat 20 d.steps } else s.obj j := by
  refine ⟨_, rfl, fun j => ?_⟩
  have hn : (leavesDropped s n).obj n =
      { s.obj n with present := if (s.obj n).src = 1#2 then false else (s.obj n).present } := by
    rw [obj_leavesDropped, if_pos rfl]
  unfold loweredMach
  extract_lets w o
  rw [obj_setObj, obj_bump, obj_setObj]
  split
  · rw [← hn]
  · next hj =>
    change (leavesDropped s n).obj j = _
    rw [obj_leavesDropped, if_neg hj]

theorem reg_loweredMach (s : Mach) (n : Nat) : (loweredMach s n).reg (tierReg 0x18) = satAdd (s.reg (tierReg 0x18)) 1 := by
  unfold loweredMach
  extract_lets w o
  change ((w.setObj n o).bump (tierReg 0x18) 1).reg _ = _
  rw [reg_bump, if_pos rfl]
  change satAdd ((leavesDropped s n).reg _) 1 = _
  rw [reg_leavesDropped]

theorem moveDownCommit_commits {s : State} {n : ObjNo} {o : Obj} (ho : s.m.obj n.toNat = o) (hsafe : s.m.safe = false)
    (hstate : o.state = 3#3) (habandon : o.abandon = false) (hdone : o.steps ≤ o.wmark.toNat) (hsync : o.syncEn = false)
    (hladle : o.src = 1#2 → s.m.ladleHolds none n.toNat = false) :
    ∃ (t : State) (z : Obj), exec (.moveDownCommit n) s = .next t ∧ t.m.obj n.toNat = z ∧
      z.state = (if o.dst = 2#2 then 4#3 else 5#3) ∧ z.near = [] ∧ z.present = false ∧ z.watch = false ∧ z.wmark = 0#20 ∧
      z.places = [] ∧ z.remUsed = 0 ∧ (o.dst = 2#2 → z.remFrames = o.remFrames) ∧ (o.dst ≠ 2#2 → z.bars = []) ∧
      z.image = (o.image && o.dst != 3#2) ∧
      z = { o with state := z.state, near := z.near, present := z.present, watch := z.watch, wmark := z.wmark,
                   places := z.places, bars := z.bars, remFrames := z.remFrames, remUsed := z.remUsed, image := z.image } ∧
      (∀ j, j ≠ n.toNat → t.m.obj j = s.m.obj j) ∧
      (o.src = 1#2 → ∀ c l, l ∈ (t.m.core c).xlate → ∀ p ∈ s.m.maps, p.obj = n.toNat → p.ctx = (t.m.core c).xctx →
        l < p.va ∨ p.va + o.bytes ≤ l) ∧
      t.m.reg (tierReg 0x18) = satAdd (s.m.reg (tierReg 0x18)) 1 ∧
      t = { s with m := { s.m with objs := t.m.objs, regs := t.m.regs, cores := t.m.cores, sessions := t.m.sessions,
                                   out := t.m.out, txHeld := t.m.txHeld } } := by
  subst ho
  have hexec : exec (.moveDownCommit n) s = .next { s with m := moveDownCommit s.m n.toNat } := rfl
  rw [moveDownCommit_eq hsafe hstate habandon hdone hladle] at hexec
  obtain ⟨d, hd, hobj⟩ := obj_loweredMach s.m n.toNat
  have hobjn := hobj n.toNat
  rw [if_pos rfl, hd] at hobjn
  have hend : ((loweredMach s.m n.toNat).obj n.toNat).syncEn = false := by
    rw [hobjn]
    exact hsync
  have hsettled := (settled_loweredMach s.m n.toNat).trans (settled_commitEnd hend)
  have hzn := obj_commitEnd hend n.toNat
  rw [if_pos rfl, hobjn] at hzn
  refine ⟨_, _, hexec, hzn, ?_, rfl, rfl, rfl, rfl, rfl, rfl, fun hdst => ?_, fun hdst => ?_, rfl, rfl, fun j hj => ?_,
    fun hsrc c l hl p hp hpobj hpctx => ?_, ?_, ?_⟩
  · simp [loweredObj]
  · simp [loweredObj, hdst]
  · simp [loweredObj, hdst]
  · rw [obj_commitEnd hend, if_neg hj, hobj, if_neg hj]
  · have hinv : leavesDropped s.m n.toNat = (s.m.setObj n.toNat { s.m.obj n.toNat with present := false }).invalidateObj n.toNat :=
      if_pos (by simp [hsrc])
    rw [hsettled.core, hinv] at hl hpctx
    have haway := not_mem_invalidateObj hl hp hpobj hpctx
    rw [obj_setObj, if_pos rfl] at haway
    exact haway
  · rw [reg_commitEnd hend (by decide), reg_loweredMach]
  · exact congrArg (fun m => ({ s with m := m } : State)) (hsettled.after_leaves (leavesDropped_frame _ _))

end Sys2Proof.Proofs
end

section
/-! SUPPORT. MOVE_UP_COMMIT (13 R304, R308, R314 to R316). -/

namespace Sys2Proof.Proofs

open Sys2Proof Sys2Proof.Machine Sys2Proof.Laws

/-! ## The pins of the commands that wait (13 R308) -/

/-- A command that waits is pinned for its replay. -/
def pinWaiter (n : Nat) (c : Cmd) (s : Mach) : Mach :=
  match s.cmd? c.id with
  | some c => (s.pin n).setCmd { c with pins := c.pins ++ [n] }
  | none => s

/-- From a to b k commands have been pinned to an object: the object has k pins more, every command the pins it had. -/
structure Pinned (n k : Nat) (a b : Mach) : Prop where
  frame : b = { a with objs := b.objs, cmds := b.cmds }
  obj : ∀ j, b.obj j = if j = n then { a.obj n with pins := (a.obj n).pins + BitVec.ofNat 16 k } else a.obj j
  found : ∀ id, (b.cmd? id).isSome = (a.cmd? id).isSome
  pins : ∀ id x, b.cmd? id = some x → ∃ y, a.cmd? id = some y ∧ ∀ m ∈ y.pins, m ∈ x.pins

namespace Pinned

variable {n k k' : Nat} {a b c : Mach}

theorem refl (n : Nat) (s : Mach) : Pinned n 0 s s := by
  refine ⟨rfl, fun j => ?_, fun _ => rfl, fun _ x h => ⟨x, h, fun _ hm => hm⟩⟩
  split
  · next hj => rw [hj, BitVec.add_zero]
  · rfl

theorem trans (h : Pinned n k a b) (h' : Pinned n k' b c) : Pinned n (k + k') a c where
  frame := by
    have hb := h.frame
    have hc := h'.frame
    rw [hb] at hc
    exact hc
  obj j := by
    rw [h'.obj, h.obj j, h.obj n, if_pos rfl, BitVec.ofNat_add, ← BitVec.add_assoc]
    split <;> rfl
  found id := (h'.found id).trans (h.found id)
  pins id x hx := by
    obtain ⟨y, hy, hyx⟩ := h'.pins id x hx
    obtain ⟨z, hz, hzy⟩ := h.pins id y hy
    exact ⟨z, hz, fun m hm => hyx m (hzy m hm)⟩

end Pinned

/-- An object at rest that takes a pin is asked for nothing. -/
theorem pin_of_state {s : Mach} {n : Nat} (h : (s.obj n).state ≠ 3#3) :
    s.pin n = s.setObj n { s.obj n with pins := (s.obj n).pins + 1#16 } := by
  unfold Mach.pin
  extract_lets o
  refine if_neg ?_
  rw [obj_setObj, if_pos rfl]
  simp [o, h]

/-- A command that is there is pinned, once for each time that it is asked for. -/
theorem pinned_pinWaiter {s : Mach} {n : Nat} {c x : Cmd} (hstate : (s.obj n).state ≠ 3#3) (hx : s.cmd? c.id = some x) :
    Pinned n 1 s (pinWaiter n c s) ∧ (pinWaiter n c s).cmd? c.id = some { x with pins := x.pins ++ [n] } := by
  have hid : x.id = c.id := cmd?_id hx
  have heq : pinWaiter n c s = (s.setObj n { s.obj n with pins := (s.obj n).pins + 1#16 }).setCmd { x with pins := x.pins ++ [n] } := by
    unfold pinWaiter
    rw [hx, ← pin_of_state hstate]
  have hsame : (pinWaiter n c s).cmd? c.id = some { x with pins := x.pins ++ [n] } := by
    rw [heq]
    exact cmd?_setCmd_same (s := s.setObj n _) hx hid
  have hother : ∀ id, id ≠ c.id → (pinWaiter n c s).cmd? id = s.cmd? id := fun id hne => by
    rw [heq]
    exact cmd?_setCmd_other (s.setObj n _) (c := { x with pins := x.pins ++ [n] }) (hid ▸ hne)
  refine ⟨⟨?_, fun j => ?_, fun id => ?_, fun id y hy => ?_⟩, hsame⟩
  · rw [heq]
    rfl
  · rw [heq]
    exact obj_setObj s n _ j
  · by_cases hne : id = c.id
    · rw [hne, hsame, hx]
      rfl
    · rw [hother id hne]
  · by_cases hne : id = c.id
    · subst hne
      rw [hsame] at hy
      injection hy with hy
      subst hy
      exact ⟨x, hx, fun m hm => List.mem_append_left _ hm⟩
    · exact ⟨y, hother id hne ▸ hy, fun _ hm => hm⟩

/-- Every command of a list of commands that are there is pinned. -/
theorem pinned_waiters {n : Nat} (l : List Cmd) {s : Mach} (hstate : (s.obj n).state ≠ 3#3) (hfound : ∀ c ∈ l, (s.cmd? c.id).isSome) :
    Pinned n l.length s (each (pinWaiter n) l s) ∧ ∀ c ∈ l, ∀ x, (each (pinWaiter n) l s).cmd? c.id = some x → n ∈ x.pins := by
  induction l generalizing s with
  | nil => exact ⟨.refl n s, nofun⟩
  | cons c l ih =>
    obtain ⟨x, hx⟩ := Option.isSome_iff_exists.1 (hfound c (by simp))
    obtain ⟨hc, hsome⟩ := pinned_pinWaiter hstate hx
    have hstate' : ((pinWaiter n c s).obj n).state ≠ 3#3 := by
      rw [hc.obj, if_pos rfl]
      exact hstate
    obtain ⟨hl, hpins⟩ := ih hstate' fun d hd => (hc.found _).trans (hfound d (by simp [hd]))
    refine ⟨?_, fun d hd y hy => ?_⟩
    · rw [List.length_cons, Nat.add_comm]
      exact hc.trans hl
    · rcases List.mem_cons.1 hd with rfl | hd
      · obtain ⟨z, hz, hzy⟩ := hl.pins _ y hy
        rw [hsome] at hz
        injection hz with hz
        exact hzy n (hz ▸ List.mem_append_right _ (by simp))
      · exact hpins d hd y hy

/-! ## The commit -/

/-- The object in the near tier. -/
def raisedObj (o : Obj) : Obj :=
  { o with state := 1#3, present := o.sound, watch := false, bars := [], remFrames := if o.src == 3#2 then 0 else o.remFrames,
           remSlag := if o.src == 3#2 then [] else o.remSlag, reMove := false }

/-- The machine with the object in the near tier and its move counted. -/
def raisedMach (s : Mach) (n : Nat) : Mach := (s.setObj n (raisedObj (s.obj n))).bump (tierReg 0x14) 1

theorem obj_raisedMach (s : Mach) (n j : Nat) : (raisedMach s n).obj j = if j = n then raisedObj (s.obj n) else s.obj j := by
  rw [raisedMach, obj_bump, obj_setObj]

theorem poisonFailed_of_none {s : Mach} {n : Nat} (hpcs : ∀ p ∈ s.pcs, p.2.state ≠ 2#2) : poisonFailed s n = s := by
  refine if_neg ?_
  have hnone : (s.pcs.any fun p => p.2.state == 2#2) = false := by simpa using hpcs
  rw [hnone, Bool.false_and]
  decide

theorem moveUpCommit_eq {s : Mach} {n : Nat} (hsafe : s.safe = false) (hstate : (s.obj n).state = 2#3) (hdst : (s.obj n).dst = 1#2)
    (hdone : (s.obj n).steps ≤ (s.obj n).wmark.toNat) (hrefetch : (s.obj n).refetch = false)
    (hpcs : ∀ p ∈ s.pcs, p.2.state ≠ 2#2) :
    moveUpCommit s n = commitEnd (each (pinWaiter n) (s.waitersOf n) (raisedMach s n)) n := by
  have hrefetch' : ((raisedMach s n).obj n).refetch = false := by
    rw [obj_raisedMach, if_pos rfl]
    exact hrefetch
  have hhealed : healed (raisedMach s n) n = raisedMach s n := if_pos (by rw [hrefetch']; rfl)
  unfold moveUpCommit
  refine (if_neg (by simpa [hsafe, hstate] using hdone)).trans ?_
  rw [poisonFailed_of_none hpcs]
  extract_lets r o near o' ws t u v w
  have hnear : near = true := by simp [near, o, r, hdst]
  have ho' : o' = raisedObj (s.obj n) := by simp [o', hnear, raisedObj, o, r]
  have ht : t = raisedMach s n := by
    simp only [t]
    rw [ho']
    exact hhealed
  have hu : u = raisedMach s n := by
    simp only [u]
    rw [ht, hrefetch', Bool.and_false]
    rfl
  have hv : v = each (pinWaiter n) (s.waitersOf n) (raisedMach s n) := by
    simp only [v]
    rw [hnear, hu]
    rfl
  change commitEnd v n = _
  rw [hv]

/-- The commands that wait for an object are there. -/
theorem found_of_waitersOf {s : Mach} {n : Nat} {c : Cmd} (h : c ∈ s.waitersOf n) : (s.cmd? c.id).isSome :=
  List.find?_isSome.2 ⟨c, (List.mem_filter.1 h).1, by simp⟩

/-- From an object's commit on, commands have been pinned and sessions told. -/
theorem frame_of_pinned {n k : Nat} {a b c d : Mach} (h : Settled a b) (h' : Pinned n k b c) (h'' : Settled c d) :
    d = { a with objs := d.objs, regs := d.regs, cmds := d.cmds, sessions := d.sessions, out := d.out, txHeld := d.txHeld } := by
  have hc := h'.frame
  unfold Settled at h h''
  rw [h] at hc
  rw [hc] at h''
  rw [h'']

theorem moveUpCommit_commits {s : State} {n : ObjNo} {o : Obj} (ho : s.m.obj n.toNat = o) (hsafe : s.m.safe = false)
    (hstate : o.state = 2#3) (hdst : o.dst = 1#2) (hdone : o.steps ≤ o.wmark.toNat) (hsync : o.syncEn = false)
    (hrefetch : o.refetch = false) (hpcs : ∀ p ∈ s.m.pcs, p.2.state ≠ 2#2) :
    ∃ (t : State) (z : Obj), exec (.moveUpCommit n) s = .next t ∧ t.m.obj n.toNat = z ∧ z.state = 1#3 ∧
      z.present = (!o.poison || (o.clean && o.origin)) ∧ z.watch = false ∧ z.bars = [] ∧ z.wmark = 0#20 ∧ z.places = [] ∧
      z.pins = o.pins + BitVec.ofNat 16 (s.m.waitersOf n.toNat).length ∧
      z = { o with state := z.state, present := z.present, watch := z.watch, bars := z.bars, wmark := z.wmark,
                   places := z.places, pins := z.pins, remFrames := if o.src = 3#2 then 0 else o.remFrames,
                   remSlag := (if o.src = 3#2 then [] else o.remSlag), reMove := false } ∧
      (∀ j, j ≠ n.toNat → t.m.obj j = s.m.obj j) ∧
      t.m.reg (tierReg 0x14) = satAdd (s.m.reg (tierReg 0x14)) 1 ∧
      (∀ c ∈ s.m.waitersOf n.toNat, ∀ x, t.m.cmd? c.id = some x → n.toNat ∈ x.pins) ∧
      t = { s with m := { s.m with objs := t.m.objs, regs := t.m.regs, cmds := t.m.cmds, sessions := t.m.sessions,
                                   out := t.m.out, txHeld := t.m.txHeld } } := by
  subst ho
  have hexec : exec (.moveUpCommit n) s = .next { s with m := moveUpCommit s.m n.toNat } := rfl
  rw [moveUpCommit_eq hsafe hstate hdst hdone hrefetch hpcs] at hexec
  have hraised : Settled s.m (raisedMach s.m n.toNat) := (Settled.setObj _ _ _).trans (.bump _ _ _)
  have hcmd : ∀ id, (raisedMach s.m n.toNat).cmd? id = s.m.cmd? id := fun id => by
    rw [hraised]
    rfl
  have hstate' : ((raisedMach s.m n.toNat).obj n.toNat).state ≠ 3#3 := by
    rw [obj_raisedMach, if_pos rfl]
    change 1#3 ≠ 3#3
    decide
  obtain ⟨hpinned, hpins⟩ := pinned_waiters (s.m.waitersOf n.toNat) hstate' fun c hc => by
    rw [hcmd]
    exact found_of_waitersOf hc
  generalize hp : each (pinWaiter n.toNat) (s.m.waitersOf n.toNat) (raisedMach s.m n.toNat) = p at hexec hpinned hpins
  have hpn := hpinned.obj n.toNat
  rw [if_pos rfl, obj_raisedMach, if_pos rfl] at hpn
  have hend : (p.obj n.toNat).syncEn = false := by
    rw [hpn]
    exact hsync
  have hsettled := settled_commitEnd hend
  have hzn := obj_commitEnd hend n.toNat
  rw [if_pos rfl, hpn] at hzn
  refine ⟨_, _, hexec, hzn, rfl, rfl, rfl, rfl, rfl, rfl, rfl, ?_, fun j hj => ?_, ?_, fun c hc x hx => ?_, ?_⟩
  · simp [raisedObj]
  · rw [obj_commitEnd hend, if_neg hj, hpinned.obj, if_neg hj, obj_raisedMach, if_neg hj]
  · have hreg : p.reg (tierReg 0x14) = (raisedMach s.m n.toNat).reg (tierReg 0x14) := by
      rw [hpinned.frame]
      rfl
    rw [reg_commitEnd hend (by decide), hreg, raisedMach, reg_bump, if_pos rfl]
    rfl
  · refine hpins c hc x ?_
    rw [hsettled] at hx
    exact hx
  · exact congrArg (fun m => ({ s with m := m } : State)) (frame_of_pinned hraised hpinned hsettled)

end Sys2Proof.Proofs
end

section
/-! SUPPORT. MOVE_UP_STEP (13 R304, R311, R312). -/

namespace Sys2Proof.Proofs

open Sys2Proof Sys2Proof.Machine Sys2Proof.Laws

/-! ## The sectors of a bar have at most 64 bytes (13 R309, R311) -/

theorem length_weave_le {w : Nat} (hw : 0 < w) (n : Nat) (hi lo : List Byte) : (weave w n hi lo).length ≤ n * w := by
  induction n generalizing hi lo with
  | zero => simp [weave]
  | succ n ih =>
    have hrest := ih (hi.drop 1) (lo.drop (w - 1))
    rw [weave, Nat.succ_mul]
    simp only [List.length_append, List.length_take]
    omega

theorem length_rebuild_le (ew dict mode : Nat) (p : List Byte) : (rebuild (ewBytes ew) dict mode p).length ≤ 64 := by
  unfold rebuild
  split
  · simp
  · simp only [List.length_flatten, List.map_replicate, List.sum_replicate, List.length_take, smul_eq_mul]
    omega
  · obtain ⟨v, k, hw, hn, -, hkv⟩ := ewBytes_spec ew
    refine (length_weave_le (by omega) _ _ _).trans ?_
    exact Nat.div_mul_le_self 64 _
  · simp

theorem length_le_of_mem_rebuildAll {ew dict dictN tags n k : Nat} {p : List Byte} {r : List Sector × Bool}
    (h : rebuildAll (ewBytes ew) dict dictN tags n k p = some r) : ∀ x ∈ r.1, x.1.length ≤ 64 := by
  induction n generalizing k p r with
  | zero =>
    cases h
    exact nofun
  | succ n ih =>
    unfold rebuildAll at h
    extract_lets mode len ok at h
    split at h
    · cases h
    · obtain ⟨q, hq, rfl⟩ := Option.map_eq_some_iff.1 h
      intro x hx
      rcases List.mem_cons.1 hx with rfl | hx
      · exact length_rebuild_le _ _ _ _
      · exact ih hq x hx

theorem length_le_of_mem_expandBar {ew : Nat} {l : List Byte} {ss : List Sector} (h : expandBar ew l = some ss) :
    ∀ x ∈ ss, x.1.length ≤ 64 := by
  unfold expandBar at h
  extract_lets head tags w dictN at h
  split at h
  · cases h
  · split at h
    · cases h
    · next hall =>
      have hlen := length_le_of_mem_rebuildAll hall
      extract_lets len at h
      cases h
      split
      · exact hlen
      · intro x hx
        obtain ⟨y, hy, rfl⟩ := List.mem_map.1 hx
        exact hlen y hy

theorem length_le_of_mem_openBar (s : Mach) : ∀ x ∈ (openBar s).1, x.1.length ≤ 64 := by
  intro x hx
  unfold openBar at hx
  simp only [List.mem_map] at hx
  obtain ⟨i, -, rfl⟩ := hx
  exact List.length_take_le _ _

/-! ## The bytes that a bar's expansion writes (12 R270) -/

/-- The pieces that a store is cut into lie in its range. -/
theorem mem_sectorPieces {fuel a : Nat} {l : List Byte} {p : Nat × List Byte} (h : p ∈ sectorPieces fuel a l) :
    a ≤ p.1 ∧ p.1 + p.2.length ≤ a + l.length := by
  induction fuel generalizing a l with
  | zero => cases h
  | succ fuel ih =>
    cases l with
    | nil => cases h
    | cons b l =>
      rcases List.mem_cons.1 h with rfl | h
      · simp only [List.length_take]
        omega
      · by_cases hlong : 64 - a % 64 ≤ (b :: l).length
        · obtain ⟨hlow, hhigh⟩ := ih h
          rw [List.length_drop] at hhigh
          omega
        · rw [List.drop_eq_nil_of_le (by omega)] at h
          cases fuel <;> cases h

theorem nearByte_writeSector (s : Mach) {a x : Nat} {l : List Byte} (mark : Bool) (h : x < a ∨ a + l.length ≤ x) :
    (s.writeSector a l mark).nearByte x = s.nearByte x := by
  have hput : (s.putBytes a l).nearByte x = s.nearByte x := by
    rw [nearByte_putBytes, dif_neg (by omega)]
  have hmark : ∀ v, ((s.putBytes a l).setSlag a v).nearByte x = s.nearByte x := fun v => by
    have hset : Worked False False False (s.putBytes a l) ((s.putBytes a l).setSlag a v) := .setSlag _ a v
    rw [Mach.nearByte, hset.near id]
    exact hput
  unfold Mach.writeSector
  extract_lets whole t
  split
  · rw [bump_frame]
    rfl
  · split
    · split
      · exact hmark mark
      · exact hput
    · split
      · exact hmark true
      · exact hput

theorem nearByte_writeNear (s : Mach) {a x : Nat} {l : List Byte} (mark : Bool) (h : x < a ∨ a + l.length ≤ x) :
    (s.writeNear a l mark).nearByte x = s.nearByte x := by
  refine rel_each_of_mem (fun a b => b.nearByte x = a.nearByte x) (fun _ _ _ hab hbc => hbc.trans hab) (fun _ => rfl)
    _ _ (fun p hp t => nearByte_writeSector t mark ?_) s
  have hrange := mem_sectorPieces hp
  omega

/-- An address that lies in no sector of an object with these near frames. -/
def Away (near : List (Nat × Nat)) (x : Nat) : Prop := ∀ j p, extAt near (64 * j) = some p → x < p ∨ p + 64 ≤ x

/-- From a to b bars of object n have come up: of the near bytes those of its sectors have changed, and the module tier only if L. -/
structure Filled (n : Nat) (L : Prop) (a b : Mach) : Prop where
  worked : Worked True L True a b
  bytes : ∀ x, Away (a.obj n).near x → b.nearByte x = a.nearByte x

namespace Filled

variable {n : Nat} {L : Prop} {a b c : Mach}

theorem refl (s : Mach) : Filled n L s s := ⟨.refl s, fun _ _ => rfl⟩

theorem trans (h : Filled n L a b) (h' : Filled n L b c) : Filled n L a c where
  worked := h.worked.trans h'.worked
  bytes x hx := (h'.bytes x (by rwa [h.worked.nearOf])).trans (h.bytes x hx)

/-- Work that writes no near byte. -/
theorem of_worked (h : Worked False L True a b) : Filled n L a b :=
  ⟨{ h with near := fun hN => absurd trivial hN }, fun x _ => by rw [Mach.nearByte, h.near id]; rfl⟩

/-- A bar's sectors are written where the object has them. -/
theorem putNearBar (s : Mach) (b : Nat) {ss : List Sector} (hss : ∀ x ∈ ss, x.1.length ≤ 64) : Filled n L s (putNearBar s n b ss) := by
  unfold Machine.putNearBar
  refine (of_worked (.touchBar s _ b true)).trans
    (rel_each_of_mem (Filled n L) (fun _ _ _ => trans) refl _ _ (fun x hx t => ?_) _)
  split
  · next pa hpa =>
    refine ⟨.writeNear t _ _ _, fun y hy => nearByte_writeNear t _ ?_⟩
    have hlen := hss x.1 (List.fst_mem_of_mem_zipIdx hx)
    have haway := hy (1024 * b + x.2) pa (by rw [← hpa, Obj.pa]; congr 1; omega)
    omega
  · exact refl t

theorem expandNear (s : Mach) (b : Nat) (l : Option (List Byte)) : Filled n L s (expandNear s n b l) := by
  unfold Machine.expandNear
  split
  · next ss hss =>
    obtain ⟨l', -, hexpand⟩ := Option.bind_eq_some_iff.1 hss
    exact putNearBar s b (length_le_of_mem_expandBar hexpand)
  · have hlen := length_le_of_mem_openBar s
    have hopen : Filled n L s (openBar s).2 := of_worked (.openBar s trivial)
    generalize openBar s = r at hlen hopen
    exact hopen.trans (putNearBar r.2 b hlen)

theorem fetchBar (s : Mach) (b : Nat) (l : BarRead) : Filled n L s (fetchBar s n b l).1 :=
  of_worked (.fetchBar s n b l trivial)

/-- A bar comes up into the near tier, and into the module tier where that is its destination. -/
theorem raiseBar (s : Mach) (b : Nat) (l : Option (List Byte)) : Filled n ((s.obj n).dst ≠ 1#2) s (raiseBar s n b l) := by
  unfold Machine.raiseBar
  extract_lets o t
  have ht : Filled n (o.dst ≠ 1#2) s t := expandNear s b l
  split
  · exact ht
  · next hdst =>
    have hmod : o.dst ≠ 1#2 := by simpa using hdst
    have hput : ∀ l, Filled n (o.dst ≠ 1#2) s (putModuleBar t n b l) := fun l => ht.trans (of_worked (.putModuleBar t n b l hmod))
    have hslag : ∀ u, Filled n (o.dst ≠ 1#2) u (slagModuleBar u n b) := fun u => of_worked (.slagModuleBar u n b hmod)
    split
    · split
      · split
        · exact (hput _).trans (hslag _)
        · exact hput _
      · exact ht.trans (hslag t)
    · exact ht.trans (hslag t)

end Filled

/-! ## A step of a move up (13 R304) -/

/-- One bar of a step: read, and brought up. -/
def fetchRaise (n : Nat) (remote : List BarRead) (x : Nat × Nat) (s : Mach) : Mach :=
  raiseBar (fetchBar s n x.1 (remote.getD x.2 { data := none })).1 n x.1 (fetchBar s n x.1 (remote.getD x.2 { data := none })).2

theorem Filled.fetchRaise (s : Mach) (n : Nat) (remote : List BarRead) (x : Nat × Nat) :
    Filled n ((s.obj n).dst ≠ 1#2) s (fetchRaise n remote x s) := by
  have hfetch : Filled n ((s.obj n).dst ≠ 1#2) s (Machine.fetchBar s n x.1 (remote.getD x.2 { data := none })).1 := .fetchBar s _ _
  have hraise := Filled.raiseBar (n := n) (Machine.fetchBar s n x.1 (remote.getD x.2 { data := none })).1 x.1
    (Machine.fetchBar s n x.1 (remote.getD x.2 { data := none })).2
  rw [hfetch.worked.dst] at hraise
  exact hfetch.trans hraise

theorem Filled.bars (s : Mach) (n : Nat) (remote : List BarRead) (l : List (Nat × Nat)) :
    Filled n ((s.obj n).dst ≠ 1#2) s (each (Proofs.fetchRaise n remote) l s) := by
  refine rel_each (fun a b => (a.obj n).dst = (s.obj n).dst → Filled n ((s.obj n).dst ≠ 1#2) a b)
    (fun a b c hab hbc ha => ?_) (fun t _ => .refl t) _ (fun x t ht => ?_) l s rfl
  · have hb := hab ha
    exact hb.trans (hbc ((hb.worked.dst n).trans ha))
  · rw [← ht]
    exact .fetchRaise t n remote x

/-- What the bars of a step up leave, once the endpoint has answered. -/
def stepRaised (s : Mach) (n : Nat) (remote : List BarRead) : Mach :=
  let u := each (fetchRaise n remote) (stepBars (s.obj n)).zipIdx s
  if (s.obj n).src == 3#2 && !u.epFailed (s.obj n) then u.requesterDone (s.obj n).ep.toNat else u

theorem moveUpStep_eq {s : Mach} {n : Nat} {remote : List BarRead} (hsafe : s.safe = false) (hstate : (s.obj n).state = 2#3)
    (hleft : (s.obj n).wmark.toNat < (s.obj n).steps) (hnear : (s.obj n).near ≠ [])
    (hheld : (stepBars (s.obj n)).any (barHeld s (s.obj n)) = false) (hlink : (s.obj n).src = 3#2 → s.linkUp = true) :
    moveUpStep s n remote =
      (stepRaised s n remote).setObj n { (stepRaised s n remote).obj n with wmark := (s.obj n).wmark + 1#20 } := by
  have hroom : roomFor s n = s := if_pos (by simp [hnear])
  have hwaits : ((s.obj n).src == 3#2 && s.remoteWaits (s.obj n) false) = false := by
    by_cases hsrc : (s.obj n).src = 3#2
    · simp [Mach.remoteWaits, hlink hsrc]
    · simp [hsrc]
  unfold moveUpStep
  refine (if_neg (by simp [hsafe, hstate])).trans ?_
  rw [hroom]
  refine if_neg ?_
  rw [hwaits, hheld]
  simp [hstate, hnear, hleft]

/-- A step leaves of the machine what its bars leave, and tells of the endpoint's answer. -/
theorem stepRaised_frame (s : Mach) (n : Nat) (remote : List BarRead) :
    stepRaised s n remote = { each (fetchRaise n remote) (stepBars (s.obj n)).zipIdx s with
      eps := (stepRaised s n remote).eps, regs := (stepRaised s n remote).regs } := by
  unfold stepRaised
  extract_lets u
  split
  · rw [requesterDone_frame]
  · rfl

theorem moveUpStep_steps {s : State} {n : ObjNo} {remote : List BarRead} {o : Obj} (ho : s.m.obj n.toNat = o)
    (hsafe : s.m.safe = false) (hstate : o.state = 2#3) (hleft : o.wmark.toNat < o.steps) (hnear : o.near ≠ [])
    (hheld : (stepBars o).any (barHeld s.m o) = false) (hlink : o.src = 3#2 → s.m.linkUp = true) :
    ∃ t, exec (.moveUpStep n remote) s = .next t ∧ (t.m.obj n.toNat).wmark = o.wmark + 1#20 ∧
      (t.m.obj n.toNat).state = 2#3 ∧ (∀ j, (t.m.obj j).state = (s.m.obj j).state ∧ (t.m.obj j).near = (s.m.obj j).near) ∧
      (∀ a, (∀ j p, o.pa (64 * j) = some p → a < p ∨ p + 64 ≤ a) → t.m.nearByte a = s.m.nearByte a) ∧
      (o.dst = 1#2 → t.m.lp = s.m.lp ∧ t.m.lpSlag = s.m.lpSlag) ∧
      t = { s with m := { s.m with near := t.m.near, slag := t.m.slag, lp := t.m.lp, lpSlag := t.m.lpSlag, objs := t.m.objs,
                                   cores := t.m.cores, regs := t.m.regs, recordsDue := t.m.recordsDue, free := t.m.free,
                                   eps := t.m.eps, out := t.m.out, txHeld := t.m.txHeld, cache := t.m.cache,
                                   under := t.m.under } } := by
  subst ho
  have hexec : exec (.moveUpStep n remote) s = .next { s with m := moveUpStep s.m n.toNat remote } := rfl
  rw [moveUpStep_eq hsafe hstate hleft hnear hheld hlink] at hexec
  have hfilled := Filled.bars s.m n.toNat remote (stepBars (s.m.obj n.toNat)).zipIdx
  have hframe := stepRaised_frame s.m n.toNat remote
  generalize hu : each (fetchRaise n.toNat remote) (stepBars (s.m.obj n.toNat)).zipIdx s.m = u at hfilled hframe
  generalize stepRaised s.m n.toNat remote = v at hexec hframe
  have hobj : ∀ j, v.obj j = u.obj j := fun j => by
    rw [hframe]
    rfl
  have hlasts : ∀ j, ((v.setObj n.toNat { v.obj n.toNat with wmark := (s.m.obj n.toNat).wmark + 1#20 }).obj j).state = (s.m.obj j).state ∧
      ((v.setObj n.toNat { v.obj n.toNat with wmark := (s.m.obj n.toNat).wmark + 1#20 }).obj j).near = (s.m.obj j).near := fun j => by
    rw [obj_setObj, ← hfilled.worked.state, ← hfilled.worked.nearOf, ← hobj]
    split
    · next hj =>
      rw [hj]
      exact ⟨rfl, rfl⟩
    · exact ⟨rfl, rfl⟩
  refine ⟨_, hexec, ?_, (hlasts _).1.trans hstate, hlasts, fun a ha => ?_, fun hdst => ?_, ?_⟩
  · rw [obj_setObj, if_pos rfl]
  · rw [← hfilled.bytes a ha, hframe]
    rfl
  · rw [hframe]
    exact hfilled.worked.lp (by simp [hdst])
  · refine congrArg (fun m => ({ s with m := m } : State)) ?_
    rw [hframe, hfilled.worked.frame]
    rfl

end Sys2Proof.Proofs
end

section
/-! SUPPORT. The statement on the steps and commits of moves (13 R298, R303 to R308, R312). -/

namespace Sys2Proof.Proofs

open Sys2Proof Sys2Proof.Machine Sys2Proof.Laws

theorem promotionTimeout_ends {s : State} {n : ObjNo} (hstate : (s.m.obj n.toNat).state = 2#3) :
    ∃ t, exec (.promotionTimeout n) s = .next t ∧
      (t.m.obj n.toNat).state = (if (s.m.obj n.toNat).src = 3#2 then 5#3 else 4#3) ∧ (t.m.obj n.toNat).near = [] ∧
      (t.m.obj n.toNat).wmark = 0#20 ∧ (∀ j, j ≠ n.toNat → t.m.obj j = s.m.obj j) ∧ t.m.near = s.m.near ∧ t.m.maps = s.m.maps := by
  obtain ⟨t, hexec, hobj, -, -, hframe⟩ := promotionTimeout_returns hstate
  have hn := hobj n.toNat
  rw [if_pos rfl] at hn
  have hplace : ∀ o : Obj, (healedObj s.m o).state = o.state ∧ (healedObj s.m o).near = o.near ∧
      (healedObj s.m o).wmark = o.wmark := fun o => by
    unfold healedObj
    split <;> exact ⟨rfl, rfl, rfl⟩
  obtain ⟨hst, hnear, hwmark⟩ := hplace (returned (s.m.obj n.toNat))
  refine ⟨t, hexec, ?_, ?_, ?_, fun j hj => by rw [hobj, if_neg hj], ?_, ?_⟩
  · rw [hn]
    exact hst
  · rw [hn]
    exact hnear
  · rw [hn]
    exact hwmark
  · rw [hframe]
  · rw [hframe]

/-- A leaf that an invalidation leaves lies beside the range. -/
theorem mem_invalidation {s : Mach} {ctx va len k l : Nat} (hctx : (s.core k).xctx = ctx)
    (hl : l ∈ ((invalidation s ctx va len).core k).xlate) : l ∈ (s.core k).xlate ∧
      (l < va → l + leafSizeAt s ctx l ≤ va) ∧ (va ≤ l → va + len ≤ l ∨ leafSizeAt s ctx l = 0) := by
  rw [core_invalidation, if_pos hctx] at hl
  obtain ⟨hmem, hmiss⟩ := List.mem_filter.1 hl
  simp only [Bool.not_eq_true', Bool.and_eq_false_iff, decide_eq_false_iff_not] at hmiss
  refine ⟨hmem, fun hlt => ?_, fun hle => ?_⟩ <;> omega

/-- Settles O28: steps (`moveDownStep_steps`, `moveUpStep_steps`) by what work on one bar leaves (`Worked`, `Lowered`, `Filled`), commits
(`moveDownCommit_commits`, `moveUpCommit_commits`) by what their end leaves (`commitEnd`), the rest as for O29. -/
theorem movesStepAndCommit : Obligations.MovesStepAndCommit := by
  refine ⟨⟨fun s n o => moveDownStep_steps, fun s n remote o => moveUpStep_steps⟩,
    ⟨fun s n o => moveDownCommit_commits, fun s n o => moveUpCommit_commits⟩,
    fun s n => promotionTimeout_ends, fun s n hstate hsrc => ?_, fun s => ?_, fun s c va len => ?_⟩
  · exact ⟨_, abandonRequest_marks hstate hsrc, by rw [obj_setObj, if_pos rfl], fun j hj => by rw [obj_setObj, if_neg hj], rfl⟩
  · exact ⟨_, rfl, fun j => by rw [obj_accessedSweep], obj_accessedSweep s.m, rfl⟩
  · refine ⟨_, rfl, fun k hk l hl => mem_invalidation hk hl, fun k hk => ?_, reg_invalidation _ _ _ _,
      congrArg (fun m => ({ s with m := m } : State)) (invalidation_frame _ _ _ _)⟩
    exact (core_invalidation _ _ _ _ k).trans (if_neg hk)

end Sys2Proof.Proofs
end

section
/-! SUPPORT. Served requests (15 R363 to R366): what the machine is when one is handled, and the reply that ends it. -/

namespace Sys2Proof.Proofs

open Sys2Proof Sys2Proof.Machine Sys2Proof.Laws Sys2Proof.Safety

/-- Two machines that differ at most in registers of the mailbox, in sessions and in the mailbox's turn. -/
structure Alike (a b : Mach) : Prop where
  frame : a = { b with regs := a.regs, sessions := a.sessions, mbxLast := a.mbxLast }
  reg : ∀ x, x ∉ mailboxRegs → a.reg x = b.reg x

/-- So differs the machine in which a request is handled from the one at which it arrived. -/
theorem alike_atService (op : Nat) (r : Req) (s : State) : Alike (atService op r s) s.m := by
  obtain ⟨hframe, hreg, -, -⟩ := atService_facts op r s
  exact ⟨hframe, hreg⟩

namespace Alike

variable {a b : Mach}

/-- What registers and sessions do not bear on is the same in both. -/
theorem same {α : Type} (h : Alike a b) (f : Mach → α)
    (hf : ∀ regs sessions mbxLast, f { b with regs := regs, sessions := sessions, mbxLast := mbxLast } = f b) : f a = f b := by
  have hfa := hf a.regs a.sessions a.mbxLast
  rwa [← h.frame] at hfa

theorem objs (h : Alike a b) : a.objs = b.objs := h.same Mach.objs fun _ _ _ => rfl
theorem maps (h : Alike a b) : a.maps = b.maps := h.same Mach.maps fun _ _ _ => rfl
theorem ctx (h : Alike a b) (j : Nat) : a.ctx j = b.ctx j := h.same (fun x => x.ctx j) fun _ _ _ => rfl
theorem ep (h : Alike a b) (j : Nat) : a.ep j = b.ep j := h.same (fun x => x.ep j) fun _ _ _ => rfl
theorem mayName (h : Alike a b) (i c : Nat) : a.mayName i c = b.mayName i c := h.same (fun x => x.mayName i c) fun _ _ _ => rfl

theorem safe (h : Alike a b) : a.safe = b.safe := by
  rw [Mach.safe, h.reg _ (by decide)]
  rfl

end Alike

/-- A request that is no privileged one is run by its row, and then answered. -/
theorem message_runs {op : Nat} {r : Req} {s : State} (h : Served op r s) (hgate : isGateOp op = false) (hopen : op ≠ 1)
    (hpriv : isPrivOp op = false) : message op r s = afterHandling op r
      (runMessage op r.session.toNat ⟨r.seq.toNat, op, s.m.privileged, r⟩ { s with m := atService op r s }) := by
  rw [message_served op r s h hgate hopen]
  obtain ⟨-, -, -, -, hsafe, -, -, -, hfields, -, -, -, -⟩ := h
  have hserves : servable op r (atService op r s) = true := by
    rw [servable, hfields, (alike_atService op r s).safe, hsafe]
    rfl
  congr 1
  refine (if_neg ?_).trans (if_neg ?_)
  · change ¬(!servable op r (atService op r s)) = true
    rw [hserves]
    decide
  · rw [hpriv]
    exact Bool.false_ne_true

/-- What a reply makes of the machine at the service of its request. -/
def replied (op : Nat) (r : Req) (s : State) (y : Reply) : State := afterHandling op r ({ s with m := y.1 }, y.2.1, y.2.2)

section Rows

variable {r : Req} {s : State}

theorem exec_contextCreate_served (h : Served 0x10 r s) : exec (.contextCreate r) s =
    .next (replied 0x10 r s (msgContext (atService 0x10 r s) r.session.toNat (reqBody r))) :=
  congrArg Host.Outcome.next (message_runs h (by decide) (by decide) (by decide))

theorem exec_queueCreate_served (h : Served 0x11 r s) : exec (.queueCreate r) s =
    .next (replied 0x11 r s (msgQueue (atService 0x11 r s) r.session.toNat (reqBody r))) :=
  congrArg Host.Outcome.next (message_runs h (by decide) (by decide) (by decide))

theorem exec_syncCreate_served (h : Served 0x23 r s) : exec (.syncCreate r) s =
    .next (replied 0x23 r s (msgSync (atService 0x23 r s) r.session.toNat (reqBody r))) :=
  congrArg Host.Outcome.next (message_runs h (by decide) (by decide) (by decide))

theorem exec_endpointSet_served (h : Served 0x24 r s) : exec (.endpointSet r) s =
    .next (replied 0x24 r s (msgEndpoint (atService 0x24 r s) (reqBody r))) :=
  congrArg Host.Outcome.next (message_runs h (by decide) (by decide) (by decide))

end Rows

end Sys2Proof.Proofs
end

section
/-! SUPPORT. OBJECT_PLACE of an object that is in its tier already (13 R301; 15 R367, R376). -/

namespace Sys2Proof.Proofs

open Sys2Proof Sys2Proof.Machine Sys2Proof.Laws Sys2Proof.Safety Sys2Proof.Tests

/-- OBJECT_PLACE number 5 of session 3, of object 1 to the near tier. -/
def placeReq : Req := gct 5 6 (fl [(0, 1), (20, 1)])

/-- The machine of `wit_ObjectPlace`: object 1, of one bar and so of one step, is in the near tier. -/
theorem placeReq_served : Served 0x21 placeReq (on (serving mem)) := by
  obtain ⟨hserved, -⟩ := wit_ObjectPlace
  exact (served_iff _ _ _).1 (hserved 1 (by decide))

/-- The final report carries the steps done in bits [63:32] (15 R367). -/
theorem placeReq_reported : goes (.objectPlace placeReq) (on (serving mem)) (fun t =>
    (t.m.session 3).events.getLast?.map EventSt.body == some (5 + 1 <<< 32 + 1 <<< 64)) = true := by decide +kernel

/-- Refutes O42: the clause for an object in the near tier already writes its event's body as seq + steps % 2 ^ 20 <<< 32 + steps <<< 64,
where the shift binds before the remainder: the steps done stand in bit 0 and up, not in bits [63:32] where the report carries them
(`placeReq_reported`; R367, R376). -/
theorem not_objectsAreMadeMappedPlaced : ¬ Obligations.ObjectsAreMadeMappedPlaced := by
  unfold Obligations.ObjectsAreMadeMappedPlaced
  rintro ⟨-, -, -, -, hplace, -⟩
  obtain ⟨-, hname, hpin, -, hstate, -, -, hsync, hplaces, hroom, -, hsound, -⟩ := wit_ObjectPlace
  obtain ⟨-, -, -, hthere, -⟩ := hplace (on (serving mem)) placeReq _ 3 _ 1 1 placeReq_served rfl (by decide) rfl (by decide) (by decide)
    hname (by decide) (by decide) hsound (fun h => absurd (hpin.symm.trans h) (by decide)) (by decide) (by decide)
  obtain ⟨t, body, hexec, hbody, -, -, -, hevents, -⟩ := hthere hstate rfl hsync hplaces hroom
  have hsteps : ((serving mem).obj 1).steps = 1 := by decide +kernel
  have hreported := placeReq_reported
  rw [goes, hexec] at hreported
  dsimp only at hreported
  rw [hevents, List.getLast?_append_of_ne_nil _ (List.cons_ne_nil _ _), hbody] at hreported
  change (some _ == some _) = true at hreported
  rw [show ((on (serving mem)).m.obj 1).steps = 1 from hsteps] at hreported
  exact absurd hreported (by decide)

end Sys2Proof.Proofs
end

section
/-! SUPPORT. The mailbox and the reads of a command (15 R363 to R366; 13 R297): what the arrival of a request changes has no part in how
memory is read. -/

namespace Sys2Proof.Proofs

open Sys2Proof Sys2Proof.Machine Sys2Proof.Laws Sys2Proof.Safety

/-- The logical channels are 1,024 (12 R264). -/
theorem channel_lt (pa : Nat) : (logicalOf pa).1 < 1024 := by
  have hhash : ∀ u, hashF u < 2 ^ 10 := fun u => Nat.xor_lt_two_pow (Nat.xor_lt_two_pow (bits_lt u 9 0) (bits_lt u 19 10)) (bits_lt u 29 20)
  exact Nat.xor_lt_two_pow (bits_lt pa 17 8) (hhash _)

namespace Alike

variable {a b : Mach}

/-- A change of something else leaves them alike. -/
theorem update (h : Alike a b) (f : Mach → Mach)
    (hf : ∀ (m : Mach) regs sessions mbxLast, f { m with regs := regs, sessions := sessions, mbxLast := mbxLast } =
      { f m with regs := regs, sessions := sessions, mbxLast := mbxLast }) : Alike (f a) (f b) := by
  have hfa := hf b a.regs a.sessions a.mbxLast
  rw [← h.frame] at hfa
  have hfb : f b = { f b with regs := b.regs, sessions := b.sessions, mbxLast := b.mbxLast } := hf b b.regs b.sessions b.mbxLast
  refine ⟨by rw [hfa], fun x hx => ?_⟩
  have hra : (f a).regs = a.regs := by rw [hfa]
  have hrb : (f b).regs = b.regs := (congrArg Mach.regs hfb :)
  have hreg := h.reg x hx
  unfold Mach.reg at hreg ⊢
  rw [hra, hrb, hreg]

theorem bump (h : Alike a b) (x n : Nat) : Alike (a.bump x n) (b.bump x n) where
  frame := by
    rw [bump_frame a, bump_frame b]
    exact congrArg (fun m : Mach => { m with regs := (a.bump x n).regs }) h.frame
  reg y hy := by
    rw [reg_bump, reg_bump]
    split
    · next hx => rw [h.reg x (hx ▸ hy)]
    · exact h.reg y hy

theorem each {α : Type} {f : α → Mach → Mach} (hf : ∀ x {s t}, Alike s t → Alike (f x s) (f x t)) (l : List α) (h : Alike a b) :
    Alike (Machine.each f l a) (Machine.each f l b) := by
  unfold Machine.each
  induction l generalizing a b with
  | nil => exact h
  | cons x l ih => exact ih (hf x h)

/-! ### Where an address lies (12 R264 to R266, R274, R277) -/

theorem memReg_eq (h : Alike a b) {off : Nat} (hoff : off < 0x400000) : a.reg (memReg off) = b.reg (memReg off) := by
  refine h.reg _ fun hmem => ?_
  simp only [mailboxRegs, memReg, portReg, flaskReg, List.mem_cons, List.not_mem_nil, or_false] at hmem
  omega

theorem remap (h : Alike a b) {c : Nat} (hc : c < 1024) : a.remap c = b.remap c := by
  unfold Mach.remap
  rw [h.memReg_eq (by omega)]

theorem spread (h : Alike a b) {d j : Nat} (hd : d < 4) (hj : j < 8) {k : Nat} (hk : k < 248) : a.spread d j k = b.spread d j k := by
  unfold Mach.spread
  rw [h.memReg_eq (by omega)]

theorem locate (h : Alike a b) {c : Nat} (hc : c < 1024) (u : Nat) : a.locate c u = b.locate c u := by
  have hd : (b.remap c).2.2 / 256 < 4 := by
    have hphys : (b.remap c).2.2 < 2 ^ 10 := bits_lt _ 9 0
    omega
  have hlane : (b.remap c).2.1 < 8 := bits_lt _ 29 27
  have hspread := h.spread hd hlane (Nat.mod_lt u (by decide) : u % 248 < 248)
  have hrepair : ∀ d, a.repairOf d = b.repairOf d := fun d => h.same (fun m => m.repairOf d) fun _ _ _ => rfl
  unfold Mach.locate
  rw [h.remap hc]
  dsimp only
  rw [hspread, hrepair]

theorem placeOf (h : Alike a b) (pa : Nat) : a.placeOf pa = b.placeOf pa := h.locate (channel_lt pa) _

theorem sliceOf (h : Alike a b) (pa : Nat) : a.sliceOf pa = b.sliceOf pa := by
  unfold Mach.sliceOf
  rw [h.placeOf, h.remap (channel_lt pa)]

theorem isSlag (h : Alike a b) (pa : Nat) : a.isSlag pa = b.isSlag pa := by
  have hbit : a.slagBit pa = b.slagBit pa := h.same (fun m => m.slagBit pa) fun _ _ _ => rfl
  have hpc : ∀ n, a.pc n = b.pc n := fun n => h.same (fun m => m.pc n) fun _ _ _ => rfl
  unfold Mach.isSlag Mach.isFailed
  rw [hbit, h.placeOf]
  simp only [hpc]

theorem heldAt (h : Alike a b) (pa : Nat) : a.heldAt pa = b.heldAt pa := by
  have hpc : ∀ n, a.pc n = b.pc n := fun n => h.same (fun m => m.pc n) fun _ _ _ => rfl
  have hpcs : a.pcs = b.pcs := h.same Mach.pcs fun _ _ _ => rfl
  have hrepair : ∀ d, a.repairOf d = b.repairOf d := fun d => h.same (fun m => m.repairOf d) fun _ _ _ => rfl
  have hstep : ∀ u, a.inStep (logicalOf pa).1 u = b.inStep (logicalOf pa).1 u := fun u => by
    unfold Mach.inStep
    simp only [h.remap (channel_lt pa), hrepair]
  unfold Mach.heldAt
  simp only [h.locate (channel_lt pa), hpc, hpcs, hstep]

theorem heldIn (h : Alike a b) (pa n : Nat) : a.heldIn pa n = b.heldIn pa n := by
  have hpcs : a.pcs = b.pcs := h.same Mach.pcs fun _ _ _ => rfl
  unfold Mach.heldIn
  simp only [hpcs, h.heldAt]

/-! ### Marks (13 R298, R314) -/

/-- Source 116 of die 0 shares its pending word with the mailbox's sources. -/
theorem raise_dispatcher (h : Alike a b) : Alike (a.raise 0 116) (b.raise 0 116) where
  frame := by
    rw [raise_frame a, raise_frame b]
    exact congrArg (fun m : Mach => { m with regs := (a.raise 0 116).regs }) h.frame
  reg x hx := by
    have hword : x ≠ flaskReg 0 (0x100 + 4 * (116 / 32)) := fun e => hx (by rw [e]; decide)
    have hmerged : x ≠ flaskReg 0 0x30 := fun e => hx (by rw [e]; decide)
    rw [reg_raise_other _ _ _ _ hword hmerged, reg_raise_other _ _ _ _ hword hmerged, h.reg x hx]

theorem recordDue (h : Alike a b) (r : RecordReq) : Alike (a.recordDue r) (b.recordDue r) := by
  unfold Mach.recordDue Mach.recordDueAs
  rw [h.reg (safReg 0) (by decide)]
  exact h.update (fun m => { m with
    recordsDue := m.recordsDue ++ [⟨r, m.uptime, bits (b.reg (safReg 0)).toNat 29 26, m.livePools, false⟩] }) fun _ _ _ _ => rfl

theorem invalidateObj (h : Alike a b) (n : Nat) : Alike (a.invalidateObj n) (b.invalidateObj n) := by
  have hmaps : a.maps = b.maps := h.same Mach.maps fun _ _ _ => rfl
  have hobj : a.obj n = b.obj n := h.same (fun m => m.obj n) fun _ _ _ => rfl
  unfold Mach.invalidateObj
  rw [hmaps, hobj]
  extract_lets ms size hit s t
  clear_value hit
  have hst : Alike s t := h.update (fun m => { m with maps := b.maps, cores := tabMap (fun _ => {}) (fun _ (x : CoreSt) =>
    ({ x with xlate := x.xlate.filter fun l => !hit x.xctx l } : CoreSt)) m.cores }) fun _ _ _ _ => rfl
  split
  · exact hst
  · exact (hst.bump _ _).raise_dispatcher

theorem poisonObj (h : Alike a b) (n : Nat) : Alike (a.poisonObj n) (b.poisonObj n) := by
  have hobj : ∀ {s t : Mach}, Alike s t → s.obj n = t.obj n := fun hst => hst.same (fun m => m.obj n) fun _ _ _ => rfl
  have hentry : ∀ {s t : Mach}, Alike s t → s.objEntry n = t.objEntry n := fun hst => hst.same (fun m => m.objEntry n) fun _ _ _ => rfl
  have hset : ∀ {s t : Mach} (x : Obj), Alike s t → Alike (s.setObj n x) (t.setObj n x) := fun x hst =>
    hst.update (fun m => m.setObj n x) fun _ _ _ _ => rfl
  unfold Mach.poisonObj
  rw [hobj h]
  extract_lets o again s s' x t t' y
  have hs : Alike s t := (hset _ h).bump _ _
  have hst : Alike s' t' := by
    unfold s' t'
    rw [hentry hs]
    exact hs.recordDue _
  have hxy : x = y := hobj hst
  clear_value x y
  subst hxy
  split
  · exact h
  · split
    · exact hst
    · exact (hset _ hst).invalidateObj n

theorem setSlag (h : Alike a b) (pa : Nat) (v : Bool) : Alike (a.setSlag pa v) (b.setSlag pa v) := by
  unfold Mach.setSlag
  extract_lets s t
  have hst : Alike s t := h.update (fun m => { m with slag := tabSet (fun _ => false) m.slag (pa / 64) v }) fun _ _ _ _ => rfl
  have hat : s.objAt pa = t.objAt pa := hst.same (fun m => m.objAt pa) fun _ _ _ => rfl
  rw [hat]
  split
  · split
    · exact hst.poisonObj _
    · exact hst
  · exact hst

/-! ### Accesses of the near tier (06 R160, R161; 12 R271) -/

theorem dropLine (h : Alike a b) (l : Line) : Alike (a.dropLine l) (b.dropLine l) := by
  unfold Mach.dropLine
  refine each (fun k s t hst => ?_) _ h
  have hunder : s.under = t.under := hst.same Mach.under fun _ _ _ => rfl
  dsimp only
  rw [hunder]
  split
  · exact hst
  · have hst' : Alike { s with under := tabSet (fun _ => false) t.under k false } { t with under := tabSet (fun _ => false) t.under k false } :=
      hst.update (fun m => { m with under := tabSet (fun _ => false) t.under k false }) fun _ _ _ _ => rfl
    split
    · exact hst'
    · exact hst'.setSlag _ _

theorem replaceSet (h : Alike a b) (g set : Nat) (l : List Line) : Alike (a.replaceSet g set l) (b.replaceSet g set l) := by
  have hunder : a.under = b.under := h.same Mach.under fun _ _ _ => rfl
  have hset : a.cacheSet g set = b.cacheSet g set := h.same (fun m => m.cacheSet g set) fun _ _ _ => rfl
  unfold Mach.replaceSet
  dsimp only
  rw [hunder, hset]
  exact each (fun x s t hst => hst.dropLine x) _ (h.update (fun m => m.setCacheSet g set l) fun _ _ _ _ => rfl)

theorem touchLine (h : Alike a b) (pa : Nat) (write : Bool) (hint : Hint) : Alike (a.touchLine pa write hint) (b.touchLine pa write hint) := by
  have hset : a.cacheSet (b.sliceOf pa) (Machine.setOf pa) = b.cacheSet (b.sliceOf pa) (Machine.setOf pa) :=
    h.same (fun m => m.cacheSet _ _) fun _ _ _ => rfl
  unfold Mach.touchLine
  rw [h.sliceOf]
  dsimp only
  rw [hset]
  generalize b.cacheSet (b.sliceOf pa) (Machine.setOf pa) = l
  have hst := fun x n => h.bump x n
  split
  · exact hst _ _
  · split
    · split
      · exact ((hst _ _).replaceSet _ _ _).bump _ _
      · exact (hst _ _).replaceSet _ _ _
    · exact (hst _ _).replaceSet _ _ _

/-- Where the caches and their counters alone are taken over. -/
theorem caches {s t : Mach} (h : Alike a b) (hst : Alike s t) :
    Alike { a with cache := s.cache, regs := s.regs } { b with cache := t.cache, regs := t.regs } where
  frame := by
    have hcache : s.cache = t.cache := hst.same Mach.cache fun _ _ _ => rfl
    rw [← hcache]
    exact congrArg (fun m : Mach => { m with cache := s.cache, regs := s.regs }) h.frame
  reg := hst.reg

theorem touch (h : Alike a b) (pa n : Nat) (write : Bool) (hint : Hint) : Alike (a.touch pa n write hint) (b.touch pa n write hint) := by
  have hunder : a.under.isEmpty = b.under.isEmpty := h.same (fun m => m.under.isEmpty) fun _ _ _ => rfl
  unfold Mach.touch
  extract_lets s t
  have hst : Alike s t := each (f := fun i m => m.touchLine ((pa / 128 + i) * 128) write hint) (fun i s t hst => hst.touchLine _ _ _) _ h
  rw [hunder]
  split
  · exact h
  · split
    · exact h.caches hst
    · exact hst

theorem readNear (h : Alike a b) (pa n : Nat) : (a.readNear pa n).1 = (b.readNear pa n).1 ∧ (a.readNear pa n).2.1 = (b.readNear pa n).2.1 ∧
    Alike (a.readNear pa n).2.2 (b.readNear pa n).2.2 := by
  have hbytes : a.nearBytes pa n = b.nearBytes pa n := h.same (fun m => m.nearBytes pa n) fun _ _ _ => rfl
  unfold Mach.readNear
  simp only [h.isSlag]
  refine ⟨hbytes, trivial, each (fun x s t hst => ?_) _ h⟩
  rw [hst.sliceOf]
  exact hst.bump _ _

end Alike

/-! ## Parts of a step -/

/-- Two parts of a step end alike: both with the same value, or neither. -/
inductive EndAlike {α : Type} : Res α → Res α → Prop
  | ok (v : α) {s t : Mach} (h : Alike s t) : EndAlike (.ok v s) (.ok v t)
  | err (f g : Flt) (s t : Mach) : EndAlike (.err f s) (.err g t)

namespace EndAlike

variable {α β : Type} {x y : Res α} {a b : Mach}

theorem bind (h : EndAlike x y) {k l : α → Mach → Res β} (hk : ∀ v s t, Alike s t → EndAlike (k v s) (l v t)) :
    EndAlike (x.bind k) (y.bind l) := by
  cases h with
  | ok v h => exact hk v _ _ h
  | err f g s t => exact .err f g s t

theorem foldRes {f : β → α → Mach → Res β} (hf : ∀ v x s t, Alike s t → EndAlike (f v x s) (f v x t)) (l : List α) (v : β)
    (h : Alike a b) : EndAlike (Machine.foldRes f v l a) (Machine.foldRes f v l b) := by
  induction l generalizing v a b with
  | nil => exact .ok v h
  | cons x l ih =>
    unfold Machine.foldRes
    have hx := hf v x a b h
    generalize f v x a = p at hx ⊢
    generalize f v x b = q at hx ⊢
    cases hx with
    | ok w h => exact ih w h
    | err f g s t => exact .err f g s t

theorem eachRes {f : α → Mach → Res Unit} (hf : ∀ x s t, Alike s t → EndAlike (f x s) (f x t)) (l : List α) (h : Alike a b) :
    EndAlike (Machine.eachRes f l a) (Machine.eachRes f l b) := foldRes (fun _ x => hf x) l () h

/-- A check whose outcome is the same in both. -/
theorem ite {p : Prop} [Decidable p] {x' y' : Res α} (h : EndAlike x y) (h' : EndAlike x' y') :
    EndAlike (if p then x else x') (if p then y else y') := by
  split
  · exact h
  · exact h'

end EndAlike

/-! ### Translation (13 R295 to R298) -/

section Translation

variable {a b : Mach} (h : Alike a b)
include h

theorem readTables_alike (ctx va : Nat) : EndAlike (a.readTables ctx va) (b.readTables ctx va) := by
  have hpath : (a.descend ctx va 3 0).1 = (b.descend ctx va 3 0).1 := h.same (fun m => (m.descend ctx va 3 0).1) fun _ _ _ => rfl
  unfold Mach.readTables
  rw [hpath]
  refine .eachRes (fun level s t hst => ?_) _ h
  have hat : s.tableAt ctx level va = t.tableAt ctx level va := hst.same (fun m => m.tableAt ctx level va) fun _ _ _ => rfl
  dsimp only
  rw [hat, hst.heldAt, hst.isSlag]
  split
  · exact .err _ _ _ _
  · exact .ite (.err _ _ _ _) (.ok _ (hst.touch _ _ _ _))

/-- A walk notes what it translates. -/
theorem noted_alike (kept : Bool) (n : Nat) (o : Obj) (u : LeafUse) :
    Alike (if kept = true then a else { a.setObj n { o with accessed := true } with leafUse := u.note n })
      (if kept = true then b else { b.setObj n { o with accessed := true } with leafUse := u.note n }) := by
  split
  · exact h
  · exact h.update (fun m => { m.setObj n { o with accessed := true } with leafUse := u.note n }) fun _ _ _ _ => rfl

theorem abandonReq_alike (n : Nat) : Alike (a.abandonReq n) (b.abandonReq n) := by
  have hobj : a.obj n = b.obj n := h.same (fun m => m.obj n) fun _ _ _ => rfl
  unfold Mach.abandonReq
  rw [hobj]
  extract_lets o
  split
  · exact h.update (fun m => m.setObj n { o with abandon := true }) fun _ _ _ _ => rfl
  · exact h

theorem walkEnd_alike (ctx va : Nat) (acc : Access) (own : Bool) : EndAlike (a.walkEnd ctx va acc own) (b.walkEnd ctx va acc own) := by
  have hleaf : a.tableLeaf ctx va = b.tableLeaf ctx va := h.same (fun m => m.tableLeaf ctx va) fun _ _ _ => rfl
  have hobj : ∀ n, a.obj n = b.obj n := fun n => h.same (fun m => m.obj n) fun _ _ _ => rfl
  have huse : a.leafUse = b.leafUse := h.same Mach.leafUse fun _ _ _ => rfl
  unfold Mach.walkEnd
  rw [hleaf]
  cases b.tableLeaf ctx va with
  | none => exact .err _ _ _ _
  | some m =>
    dsimp only
    rw [hobj, huse]
    split
    · split
      · exact .err _ _ _ _
      · exact .err _ _ _ _
    · have hst := noted_alike h (b.leafUse.keeps m.obj) m.obj (b.obj m.obj) b.leafUse
      generalize (if b.leafUse.keeps m.obj = true then a else _) = s at hst ⊢
      generalize (if b.leafUse.keeps m.obj = true then b else _) = t at hst ⊢
      have hcontrol : s.isControl m.obj = t.isControl m.obj := hst.same (fun x => x.isControl m.obj) fun _ _ _ => rfl
      rw [hcontrol]
      refine .ite (.err _ _ _ _) ?_
      have hend : ∀ {p : Prop} [Decidable p], Alike (if p then s.abandonReq m.obj else s) (if p then t.abandonReq m.obj else t) :=
        fun {p} _ => by
          split
          · exact abandonReq_alike hst m.obj
          · exact hst
      rw [(hend).same Mach.nt fun _ _ _ => rfl]
      exact .ite (.err _ _ _ _) (.ok _ hend)

theorem walk_alike (ctx va : Nat) (acc : Access) (own : Bool) : EndAlike (a.walk ctx va acc own) (b.walk ctx va acc own) := by
  have hhand : a.atHand ctx va = b.atHand ctx va := h.same (fun m => m.atHand ctx va) fun _ _ _ => rfl
  unfold Mach.walk
  rw [hhand]
  exact .ite (walkEnd_alike h ctx va acc own) ((readTables_alike h ctx va).bind fun _ _ _ hst => walkEnd_alike hst ctx va acc own)

theorem readVaH_alike (ctx va n : Nat) (hint : Hint) : EndAlike (a.readVaH ctx va n hint) (b.readVaH ctx va n hint) := by
  unfold Mach.readVaH
  refine .foldRes (fun l p s t hst => ?_) _ _ h
  unfold Mach.pieceH
  refine .bind ((walk_alike hst ctx p.1 .read false).bind fun pa s t hst => ?_) fun pa s t hst => ?_
  · rw [hst.heldIn]
    split
    · exact .err _ _ _ _
    · exact .ok _ (hst.touch _ _ _ _)
  · obtain ⟨hbytes, hbad, hread⟩ := hst.readNear pa p.2
    dsimp only
    rw [hbytes, hbad]
    exact .ite (.err _ _ _ _) (.ok _ hread)

theorem readVa_alike (ctx va n : Nat) : EndAlike (a.readVa ctx va n) (b.readVa ctx va n) := readVaH_alike h ctx va n .none

theorem readWord_alike (ctx va n : Nat) : EndAlike (a.readWord ctx va n) (b.readWord ctx va n) :=
  (readVa_alike h ctx va n).bind fun _ _ _ hst => .ok _ hst

/-! ### Cores (05 R112) -/

theorem coreXlate_alike (c ctx va n : Nat) (acc : Access) : EndAlike (a.coreXlate c ctx va n acc) (b.coreXlate c ctx va n acc) := by
  refine .eachRes (fun p s t hst => ?_) _ h
  have hbase : ∀ {s t : Mach}, Alike s t → s.leafBase ctx p.1 = t.leafBase ctx p.1 := fun hst =>
    hst.same (fun m => m.leafBase ctx p.1) fun _ _ _ => rfl
  have hcore : ∀ {s t : Mach}, Alike s t → s.core c = t.core c := fun hst => hst.same (fun m => m.core c) fun _ _ _ => rfl
  unfold Mach.coreWalk
  rw [hbase hst, hcore hst]
  refine .ite (.ok _ hst) ((walk_alike (hst.bump _ _) ctx p.1 acc false).bind fun _ s t hst => ?_)
  dsimp only
  rw [hbase hst, hcore hst]
  exact .ok _ (hst.update (fun m => m.setCore c _) fun _ _ _ _ => rfl)

theorem byCache_alike {α : Type} {f : Mach → Res α} (hf : ∀ s t, Alike s t → EndAlike (f s) (f t)) :
    EndAlike (a.byCache f) (b.byCache f) := by
  have hstart : Alike { a with leafUse := .cached } { b with leafUse := .cached } :=
    h.update (fun m => { m with leafUse := .cached }) fun _ _ _ _ => rfl
  have hend := hf _ _ hstart
  unfold Mach.byCache
  generalize f { a with leafUse := .cached } = x at hend ⊢
  generalize f { b with leafUse := .cached } = y at hend ⊢
  cases hend with
  | ok v hst => exact .ok v (hst.update (fun m => { m with leafUse := .walk }) fun _ _ _ _ => rfl)
  | err f g s t => exact .err f g _ _

theorem viaCache_alike {α : Type} {f : Mach → Res α} (hf : ∀ s t, Alike s t → EndAlike (f s) (f t)) (c ctx va n : Nat) (acc : Access) :
    EndAlike (a.viaCache c ctx va n acc f) (b.viaCache c ctx va n acc f) :=
  (coreXlate_alike h c ctx va n acc).bind fun _ _ _ hst => byCache_alike hst hf

theorem coreRead_alike (c ctx cmd : Nat) (place : Nat × Nat) (n : Nat) : EndAlike (a.coreRead c ctx cmd place n) (b.coreRead c ctx cmd place n) := by
  have hscratch : a.scrBytes c place.2 n = b.scrBytes c place.2 n := h.same (fun m => m.scrBytes c place.2 n) fun _ _ _ => rfl
  have hbuffer : a.cbBytes (c / 16) (a.coreBase c cmd + place.2) n = b.cbBytes (c / 16) (b.coreBase c cmd + place.2) n :=
    h.same (fun m => m.cbBytes (c / 16) (m.coreBase c cmd + place.2) n) fun _ _ _ => rfl
  unfold Mach.coreRead Mach.coreReadH
  rw [hscratch, hbuffer]
  split
  · exact (coreXlate_alike h c ctx place.2 n .read).bind fun _ _ _ hst => byCache_alike hst fun _ _ hst => readVaH_alike hst ctx place.2 n .none
  · exact .ok _ h
  · exact .ok _ h

/-! ### Records (03 R69 to R75) -/

theorem checkRecord_alike (ctx va : Nat) (f : Format) : EndAlike (checkRecord ctx va f a) (checkRecord ctx va f b) := by
  unfold checkRecord
  refine .ite (.ite (.err _ _ _ _) (.ok _ h)) (.ite (.err _ _ _ _) ((readWord_alike h ctx va 128).bind fun r s t hst => ?_))
  have howns : ∀ n, s.ownsSync n ctx = t.ownsSync n ctx := fun n => hst.same (fun m => m.ownsSync n ctx) fun _ _ _ => rfl
  rw [howns]
  exact .ite (.err _ _ _ _) (.ite (.err _ _ _ _) (.ok _ hst))

theorem recordClass_alike (cmd : Cmd) (va : Nat) (f : Format) : EndAlike (cmd.recordClass va f a) (cmd.recordClass va f b) := by
  unfold Cmd.recordClass checkClass
  exact .ite (.ok _ h) (.ite (.ok _ h) ((readWord_alike h cmd.ctx va 128).bind fun _ _ _ hst => .ite (.err _ _ _ _) (.ok _ hst)))

theorem record_alike (cmd : Cmd) (va : Nat) (f : Format) : EndAlike (cmd.record va f a) (cmd.record va f b) := by
  unfold Cmd.record
  split
  · exact .ok _ h
  · exact checkRecord_alike h cmd.ctx va f

/-! ### The records of a command (05 R125; 06 R155; 11 R250) -/

theorem tileRecords_alike (cmd : Cmd) (c : Nat) (p : Phase) (e : Nat) : EndAlike (tileRecords cmd c p e a) (tileRecords cmd c p e b) := by
  have hentry : ∀ i, a.planEntry c i = b.planEntry c i := fun i => h.same (fun m => m.planEntry c i) fun _ _ _ => rfl
  have hblocks : ∀ st, blockAddrs a cmd c p st = blockAddrs b cmd c p st := fun st =>
    h.same (fun m => blockAddrs m cmd c p st) fun _ _ _ => rfl
  unfold tileRecords
  simp only [hentry, hblocks]
  refine .foldRes (fun l x s t hst => ?_) _ _ h
  refine .ite (.err _ _ _ _) ?_
  refine (coreRead_alike hst c cmd.ctx cmd.id x.2 32).bind fun l s t hst => ?_
  exact .ite (.ok _ hst) (.err _ _ _ _)

theorem viaRecord_alike {α : Type} {g : Mach → Res α} (hg : ∀ s t, Alike s t → EndAlike (g s) (g t)) (cmd : Cmd) (c va : Nat) (f : Format) :
    EndAlike (viaRecord cmd c va f g a) (viaRecord cmd c va f g b) := by
  unfold viaRecord
  exact .ite (hg a b h) (viaCache_alike h hg c cmd.ctx va 128 .read)

theorem planRecords_alike (cmd : Cmd) (c : Nat) : EndAlike (planRecords cmd c a) (planRecords cmd c b) := by
  have hentry : ∀ {s t : Mach}, Alike s t → ∀ i, s.planEntry c i = t.planEntry c i := fun hst i =>
    hst.same (fun m => m.planEntry c i) fun _ _ _ => rfl
  have hphases : a.phases c = b.phases c := h.same (fun m => m.phases c) fun _ _ _ => rfl
  unfold planRecords
  simp only [hphases, hentry h]
  refine EndAlike.bind (.foldRes (fun l x s t hst => ?_) _ _ h) fun named s t hst => ?_
  · rw [hentry hst]
    exact (tileRecords_alike hst cmd c x.1 _).bind fun _ _ _ hst => .ok _ hst
  refine EndAlike.bind (.eachRes (fun x s t hst => ?_) _ hst) fun _ s t hst => ?_
  · exact viaRecord_alike hst (fun s t hst => recordClass_alike hst cmd x.1 x.2) cmd c x.1 x.2
  refine EndAlike.bind (.foldRes (fun l x s t hst => ?_) _ _ hst) fun scales s t hst => ?_
  · exact (viaRecord_alike hst (fun s t hst => record_alike hst cmd x.1 x.2) cmd c x.1 x.2).bind fun _ _ _ hst => .ok _ hst
  simp only [hentry hst]
  exact .ite (.ok _ hst) (.err _ _ _ _)

theorem redIssue_alike (cmd : Cmd) : EndAlike (redIssue cmd a) (redIssue cmd b) := by
  unfold redIssue
  dsimp only
  refine .ite (.err _ _ _ _) (EndAlike.bind (readVa_alike h cmd.ctx _ _) fun l s t hst => ?_)
  refine .ite (.err _ _ _ _) (.ite (.ok _ hst) ?_)
  refine EndAlike.bind (.eachRes (fun x s t hst => recordClass_alike hst cmd x.1 x.2) _ hst) fun _ s t hst => ?_
  refine EndAlike.bind (.foldRes (fun l x s t hst => ?_) _ _ hst) fun scales s t hst => ?_
  · exact (record_alike hst cmd x.2 _).bind fun _ _ _ hst => .ok _ hst
  refine EndAlike.bind (.ite (.ite (.err _ _ _ _) (.ok _ hst)) ?_) fun _ _ _ hst => .ok _ hst
  exact (record_alike hst cmd _ _).bind fun _ _ _ hst => .ok _ hst

theorem optIssue_alike (cmd : Cmd) : EndAlike (optIssue cmd a) (optIssue cmd b) := by
  have hform : ∀ {s t : Mach}, Alike s t → ∀ (va k : Nat), EndAlike
      (if va = 0 ∨ va % 128 ≠ 0 then .ok () s else (s.readRecord cmd.ctx va).bind fun r s =>
        if (recordForm r && bits r 165 164 != k) = true then .err (.fatal stShape) s else .ok () s)
      (if va = 0 ∨ va % 128 ≠ 0 then .ok () t else (t.readRecord cmd.ctx va).bind fun r s =>
        if (recordForm r && bits r 165 164 != k) = true then .err (.fatal stShape) s else .ok () s) := fun hst va k =>
    .ite (.ok _ hst) ((readWord_alike hst cmd.ctx va 128).bind fun _ _ _ hst => .ite (.err _ _ _ _) (.ok _ hst))
  unfold optIssue
  dsimp only
  refine .ite (.ok _ h) (.ite (.err _ _ _ _) (EndAlike.bind (readWord_alike h cmd.ctx _ 128) fun l s t hst => ?_))
  refine .ite (.err _ _ _ _) (EndAlike.bind (recordClass_alike hst cmd _ _) fun _ s t hst => ?_)
  refine EndAlike.bind (recordClass_alike hst cmd _ _) fun _ s t hst => ?_
  refine EndAlike.bind (hform hst _ 2) fun _ s t hst => ?_
  refine EndAlike.bind (hform hst _ 1) fun _ s t hst => ?_
  refine .ite (.err _ _ _ _) (EndAlike.bind (record_alike hst cmd _ _) fun _ s t hst => ?_)
  exact (record_alike hst cmd _ _).bind fun _ _ _ hst => .ok _ hst

/-! ### The synchronisation objects that commands name (14 R331; 15 R379) -/

theorem ladleIssue_alike {cmd : Cmd} (hop : dOp cmd.desc = 13 ∨ dOp cmd.desc = 14) : EndAlike (ladleIssue cmd a) (ladleIssue cmd b) := by
  unfold ladleIssue
  rcases hop with hop | hop
  · rw [hop]
    exact optIssue_alike h cmd
  · rw [hop]
    exact redIssue_alike h cmd

theorem recordsOf_alike (cmd : Cmd) : a.recordsOf cmd = b.recordsOf cmd := by
  have hscratch : ∀ {s t : Mach} (pa : Nat) (l : List Byte), Alike s t → Alike (s.scrPut 0 pa l) (t.scrPut 0 pa l) := fun pa l hst =>
    hst.update (fun m => m.scrPut 0 pa l) fun _ _ _ _ => rfl
  unfold Mach.recordsOf
  extract_lets found op
  have hfound : ∀ {x y : Res (List (Nat × Word))}, EndAlike x y → found x = found y := fun hxy => by
    cases hxy with
    | ok => rfl
    | err => rfl
  split
  · rfl
  · split
    · refine hfound (EndAlike.bind (readVa_alike h cmd.ctx _ _) fun x s t hst => ?_)
      refine EndAlike.bind (readVa_alike hst cmd.ctx _ _) fun y s t hst => ?_
      refine EndAlike.bind (readVa_alike hst cmd.ctx _ _) fun z s t hst => ?_
      exact planRecords_alike (hscratch _ _ (hscratch _ _ hst)) cmd 0
    · split
      · next hop =>
        simp only [op, Bool.or_eq_true, beq_iff_eq] at hop
        exact hfound ((ladleIssue_alike h hop).bind fun _ _ _ hst => .ok _ hst)
      · rfl

theorem namesSync_alike (cmd : Cmd) (g : Nat) : cmd.namesSync a g = cmd.namesSync b g := by
  unfold Cmd.namesSync
  rw [recordsOf_alike h]
  cases b.recordsOf cmd with
  | none => rfl
  | some l =>
    refine congrArg (_ || l.any ·) (funext fun va => ?_)
    have hword := readWord_alike h cmd.ctx (va + 20) 4
    generalize a.readWord cmd.ctx (va + 20) 4 = x at hword ⊢
    generalize b.readWord cmd.ctx (va + 20) 4 = y at hword ⊢
    cases hword with
    | ok => rfl
    | err => rfl

/-- Whether a release is refused does not hang on the mailbox. -/
theorem syncBusy_alike (g : Nat) : a.syncBusy g = b.syncBusy g := by
  have hcmds : a.cmds = b.cmds := h.same Mach.cmds fun _ _ _ => rfl
  have hobjs : a.objs = b.objs := h.same Mach.objs fun _ _ _ => rfl
  unfold Mach.syncBusy
  simp only [hcmds, hobjs, namesSync_alike h]

end Translation

end Sys2Proof.Proofs
end

section
/-! SUPPORT. Contexts, queues, synchronisation objects and endpoints (13 R295; 15 R360, R372, R373, R378 to R380). -/

namespace Sys2Proof.Proofs

open Sys2Proof Sys2Proof.Machine Sys2Proof.Laws Sys2Proof.Safety

/-! ## Contexts (R360, R372) -/

theorem fst_alignGaps {leaf : Nat} {l : List (Nat × Nat)} {g : Nat × Nat} (h : g ∈ alignGaps leaf l) : g.1 % leaf = 0 := by
  obtain ⟨x, -, hx⟩ := List.mem_filterMap.1 h
  dsimp only at hx
  split at hx
  · next hpart =>
    cases hx
    have hleaf : leaf ≠ 0 := by
      rintro rfl
      simp at hpart
    change roundUp x.1 leaf % leaf = 0
    rw [roundUp, if_neg hleaf]
    exact Nat.mul_mod_left _ _
  · cases hx

/-- A table that a context has not yet lies at an address of its own, with no mark in it. -/
theorem addTable_new {s w : Mach} {ctx level span : Nat} (h : s.addTable ctx level span = some w) (hnew : ∀ t ∈ s.tables, t.ctx ≠ ctx) :
    ∃ t, t.ctx = ctx ∧ t.addr % tableBytes level = 0 ∧ w.tables = s.tables ++ [t] ∧
      ∀ p ∈ w.slag, 64 * p.1 < t.addr ∨ t.addr + tableBytes level ≤ 64 * p.1 := by
  have hnone : (s.tables.any fun t => t.ctx == ctx && t.level == level && t.span == span) = false := by
    rw [List.any_eq_false]
    intro t ht
    simp [hnew t ht]
  unfold Mach.addTable at h
  rw [hnone] at h
  obtain ⟨x, hplace, rfl⟩ := Option.map_eq_some_iff.1 h
  obtain ⟨g, hg, rfl⟩ := Option.map_eq_some_iff.1 hplace
  refine ⟨⟨ctx, level, span, g.1⟩, rfl, ?_, rfl, fun p hp => ?_⟩
  · rcases List.mem_append.1 (List.mem_of_head? hg) with hg | hg
    · exact fst_alignGaps hg
    · exact fst_alignGaps hg
  · have hout := (List.mem_filter.1 hp).2
    simp only [Bool.not_eq_true', Bool.and_eq_false_iff, decide_eq_false_iff_not] at hout
    change 64 * p.1 < g.1 ∨ g.1 + tableBytes level ≤ 64 * p.1
    omega

/-- A context's table is there once it has been asked for. -/
theorem addTable_there {s w : Mach} {ctx level span : Nat} (h : s.addTable ctx level span = some w) :
    (∃ ts marks, w = { s with tables := ts, slag := marks }) ∧ ∃ t ∈ w.tables, t.ctx = ctx ∧ t.level = level ∧ t.span = span := by
  unfold Mach.addTable at h
  split at h
  · next hany =>
    cases h
    obtain ⟨t, ht, heq⟩ := List.any_eq_true.1 hany
    simp only [Bool.and_eq_true, beq_iff_eq, and_assoc] at heq
    exact ⟨⟨_, _, rfl⟩, t, ht, heq⟩
  · obtain ⟨x, -, rfl⟩ := Option.map_eq_some_iff.1 h
    exact ⟨⟨_, _, rfl⟩, _, List.mem_append_right _ (List.mem_singleton.2 rfl), rfl, rfl, rfl⟩

theorem freshTag_facts (s : Mach) (old : Nat) : (freshTag s old).1 < 2 ^ 20 ∧ (freshTag s old).1 ≠ old ∧
    (freshTag s old).2 = { s with free := s.free + 1 } := by
  unfold freshTag
  dsimp only [Mach.fresh]
  refine ⟨?_, ?_, rfl⟩
  · split <;> omega
  · split <;> omega

/-- A context number that is given up keeps its TAG alone. -/
theorem ctx_releaseCtx (s : Mach) (c : Nat) : ∃ tag, (s.releaseCtx c).ctx c = { tag := tag } := by
  unfold Mach.releaseCtx
  extract_lets
  exact ⟨_, (ctx_setCtx _ _ _ _).trans (if_pos rfl)⟩

theorem Alike.newCtxNo {a b : Mach} (h : Alike a b) : a.newCtxNo = b.newCtxNo := by
  have hnos : a.ctxNos = b.ctxNos := h.same Mach.ctxNos fun _ _ _ => rfl
  unfold Mach.newCtxNo
  simp only [h.ctx, h.objs, hnos]

theorem Alike.rkeyBody {a b : Mach} (h : Alike a b) (c : Nat) :
    rkeyBody a c = c + (c + (b.ctx c).tag <<< 12) <<< 32 := by
  unfold Machine.rkeyBody
  rw [h.ctx]

theorem rkeyBody_setCtx (s : Mach) (c : Nat) (x : CtxSt) : rkeyBody (s.setCtx c x) c = c + (c + x.tag <<< 12) <<< 32 := by
  unfold rkeyBody
  rw [ctx_setCtx, if_pos rfl]

section Requests

variable {s : State} {r : Req} {a : Mach} {k b : Nat}

/-- The context that a session makes. -/
def madeCtx (k b tag : Nat) : CtxSt :=
  { state := 1#2, client := k, share := bits b 31 16, priority := bit b 2, tag := tag, sessions := [k] }

section New

variable {n : Nat} (hform : bits b 1 0 = 0) (hshare : bits b 31 16 ≠ 0) (hroom : a.ctxNos.length < 4096) (hlife : a.life ≠ .test)
  (hn : a.newCtxNo = some n)
include hform hshare hroom hlife hn

theorem msgContext_full (hfull : a.addTable n 0 0 = none) : msgContext a k b = refuse a stTierFull := by
  unfold msgContext
  simp only [firstCode, hform, hn, hfull]
  simp [hshare, Nat.not_le.2 hroom, hlife]

theorem msgContext_makes {w : Mach} (hw : a.addTable n 0 0 = some w) : msgContext a k b =
    accept ((freshTag w (w.ctx n).tag).2.setCtx n (madeCtx k b (freshTag w (w.ctx n).tag).1))
      (n + (n + (freshTag w (w.ctx n).tag).1 <<< 12) <<< 32) := by
  have hbody := rkeyBody_setCtx (freshTag w (w.ctx n).tag).2 n (madeCtx k b (freshTag w (w.ctx n).tag).1)
  change _ = n + (n + (freshTag w (w.ctx n).tag).1 <<< 12) <<< 32 at hbody
  rw [← hbody]
  unfold msgContext
  simp only [firstCode, hform, hn, hw]
  simp [hshare, Nat.not_le.2 hroom, hlife, madeCtx]

end New

/-- A context that one more session may name. -/
def attachedCtx (x : CtxSt) (k : Nat) : CtxSt := { x with sessions := x.sessions ++ [k] }

theorem msgContext_attaches {c : Nat} (hc : c = bits b 43 32) (hform : bits b 1 0 = 1) (hstate : (a.ctx c).state ≠ 0#2) :
    msgContext a k b = (if (a.ctx c).sessions.contains k then accept a (rkeyBody a c) else
      accept (a.setCtx c (attachedCtx (a.ctx c) k)) (rkeyBody (a.setCtx c (attachedCtx (a.ctx c) k)) c)) := by
  subst hc
  unfold msgContext
  simp only [firstCode, hform]
  simp [hstate]
  split <;> rfl

theorem msgContext_releases {c : Nat} (hc : c = bits b 43 32) (hform : bits b 1 0 = 2) (hstate : (a.ctx c).state ≠ 0#2)
    (hclient : (a.ctx c).client = k)
    (hforeign : ∀ p ∈ a.maps, p.ctx ≠ c → ∀ o ∈ a.objs, o.1 = p.obj → o.2.owner.toNat ≠ c) :
    msgContext a k b = accept (a.releaseCtx c) (rkeyBody a c) := by
  have hnone : (a.objs.any fun p => p.2.state != 0#3 && p.2.owner.toNat == c && (a.mapsOf p.1).any fun m => m.ctx != c) = false := by
    rw [List.any_eq_false]
    intro o ho
    simp only [Bool.and_eq_true, beq_iff_eq, List.any_eq_true, bne_iff_ne, not_and, not_exists]
    rintro ⟨-, howner⟩ p hp hctx
    obtain ⟨hp, hobj⟩ := List.mem_filter.1 hp
    exact hforeign p hp hctx o ho (beq_iff_eq.1 hobj).symm howner
  subst hc
  unfold msgContext
  simp only [firstCode, hform, hnone]
  simp [hstate, hclient]

section Served

variable {c n : Nat} (h : Served 0x10 r s) (ha : atService 0x10 r s = a) (hk : k = r.session.toNat) (hb : b = reqBody r)
include h ha hk hb

theorem exec_contextCreate : exec (.contextCreate r) s = .next (replied 0x10 r s (msgContext a k b)) := by
  rw [exec_contextCreate_served h, ha, hk, hb]

theorem contextCreate_makes (hform : bits b 1 0 = 0) (hshare : bits b 31 16 ≠ 0) (hroom : s.m.ctxNos.length < 4096)
    (hlife : s.m.life ≠ .test) (hn : s.m.newCtxNo = some n) :
    (a.addTable n 0 0 = none → exec (.contextCreate r) s = .next (afterHandling 0x10 r ({ s with m := a }, stTierFull, 0))) ∧
    ((a.addTable n 0 0).isSome = true →
      ∃ (y : Mach) (tag : Nat), tag < 2 ^ 20 ∧ tag ≠ (s.m.ctx n).tag ∧
        y.ctx n = { state := 1#2, client := k, share := bits b 31 16, priority := bit b 2, tag := tag, sessions := [k] } ∧
        (∀ j, j ≠ n → y.ctx j = s.m.ctx j) ∧ (∃ t ∈ y.tables, t.ctx = n ∧ t.level = 0 ∧ t.span = 0) ∧
        ((∀ t ∈ s.m.tables, t.ctx ≠ n) → ∃ t, t.ctx = n ∧ t.addr % 4096 = 0 ∧ y.tables = s.m.tables ++ [t] ∧
          ∀ p ∈ y.slag, 64 * p.1 < t.addr ∨ t.addr + 4096 ≤ 64 * p.1) ∧
        y = { a with ctxs := y.ctxs, free := y.free, tables := y.tables, slag := y.slag } ∧
        exec (.contextCreate r) s =
          .next (afterHandling 0x10 r ({ s with m := y }, stOk, n + (n + tag <<< 12) <<< 32))) := by
  have halike : Alike a s.m := ha ▸ alike_atService 0x10 r s
  have hexec := exec_contextCreate h ha hk hb
  have hroom' : a.ctxNos.length < 4096 := (halike.same (fun m => m.ctxNos.length) fun _ _ _ => rfl).trans_lt hroom
  have hlife' : a.life ≠ .test := (halike.same Mach.life fun _ _ _ => rfl).trans_ne hlife
  have hn' : a.newCtxNo = some n := halike.newCtxNo.trans hn
  refine ⟨fun hfull => ?_, fun hplaced => ?_⟩
  · rw [msgContext_full hform hshare hroom' hlife' hn' hfull] at hexec
    exact hexec
  · obtain ⟨w, hw⟩ := Option.isSome_iff_exists.1 hplaced
    rw [msgContext_makes hform hshare hroom' hlife' hn' hw] at hexec
    obtain ⟨⟨ts, marks, rfl⟩, hthere⟩ := addTable_there hw
    obtain ⟨hlt, hne, hfree⟩ := freshTag_facts { a with tables := ts, slag := marks }
      (({ a with tables := ts, slag := marks } : Mach).ctx n).tag
    have hctxs : ∀ j, ({ a with tables := ts, slag := marks } : Mach).ctx j = s.m.ctx j := halike.ctx
    have htables : a.tables = s.m.tables := halike.same Mach.tables fun _ _ _ => rfl
    rw [hfree] at hexec
    refine ⟨_, _, hlt, hctxs n ▸ hne, (ctx_setCtx _ _ _ _).trans (if_pos rfl), fun j hj => ?_, ?_, fun hnew => ?_, ?_, hexec⟩
    · rw [ctx_setCtx, if_neg hj]
      exact hctxs j
    · exact hthere
    · obtain ⟨t, hctx, haddr, hlist, hmarks⟩ := addTable_new hw (htables ▸ hnew)
      exact ⟨t, hctx, haddr, htables ▸ hlist, hmarks⟩
    · rfl

theorem contextCreate_attaches (hc : c = bits b 43 32) (hform : bits b 1 0 = 1) (hstate : (s.m.ctx c).state ≠ 0#2) :
    ∃ y : Mach, (y.ctx c).sessions = (if (s.m.ctx c).sessions.contains k then (s.m.ctx c).sessions else (s.m.ctx c).sessions ++ [k]) ∧
      y.ctx c = { s.m.ctx c with sessions := (y.ctx c).sessions } ∧ (∀ j, j ≠ c → y.ctx j = s.m.ctx j) ∧
      y = { a with ctxs := y.ctxs } ∧
      exec (.contextCreate r) s =
        .next (afterHandling 0x10 r ({ s with m := y }, stOk, c + (c + (s.m.ctx c).tag <<< 12) <<< 32)) := by
  have halike : Alike a s.m := ha ▸ alike_atService 0x10 r s
  have hctx := halike.ctx
  have hexec := exec_contextCreate h ha hk hb
  rw [msgContext_attaches hc hform (by rwa [hctx])] at hexec
  by_cases hnamed : (s.m.ctx c).sessions.contains k = true
  · rw [hctx, if_pos hnamed, halike.rkeyBody] at hexec
    refine ⟨a, ?_, ?_, fun j _ => hctx j, rfl, hexec⟩
    · rw [if_pos hnamed, hctx]
    · rw [hctx]
  · rw [hctx, if_neg hnamed, rkeyBody_setCtx] at hexec
    refine ⟨a.setCtx c (attachedCtx (s.m.ctx c) k), ?_, ?_, fun j hj => ?_, rfl, hexec⟩
    · rw [if_neg hnamed, ctx_setCtx, if_pos rfl]
      rfl
    · rw [ctx_setCtx, if_pos rfl]
      rfl
    · rw [ctx_setCtx, if_neg hj, hctx]

theorem contextCreate_releases (hc : c = bits b 43 32) (hform : bits b 1 0 = 2) (hstate : (s.m.ctx c).state ≠ 0#2)
    (hclient : (s.m.ctx c).client = k)
    (hforeign : ∀ p ∈ s.m.maps, p.ctx ≠ c → ∀ o ∈ s.m.objs, o.1 = p.obj → o.2.owner.toNat ≠ c) :
    ((a.releaseCtx c).ctx c).state = 0#2 ∧ ((a.releaseCtx c).ctx c).sessions = [] ∧
      exec (.contextCreate r) s =
        .next (afterHandling 0x10 r ({ s with m := a.releaseCtx c }, stOk, c + (c + (s.m.ctx c).tag <<< 12) <<< 32)) := by
  have halike : Alike a s.m := ha ▸ alike_atService 0x10 r s
  have hctx := halike.ctx
  have hexec := exec_contextCreate h ha hk hb
  rw [msgContext_releases hc hform (by rwa [hctx]) (by rwa [hctx]) (by rwa [halike.maps, halike.objs]), halike.rkeyBody] at hexec
  obtain ⟨tag, hctxc⟩ := ctx_releaseCtx a c
  rw [hctxc]
  exact ⟨rfl, rfl, hexec⟩

end Served

/-! ## Queues (R373) -/

theorem msgQueue_makes {n : Nat} (hform : bits b 1 0 = 0) (hname : a.mayName k (bits b 27 16) = true) (hlow : 6 ≤ bits b 12 8)
    (hhigh : bits b 12 8 ≤ 20) (hdies : bits b 7 4 ≠ 0) (halign : bits b 111 64 % (64 * 2 ^ bits b 12 8) = 0)
    (hn : lowestFree ((a.queues.filter fun p => p.2.state != 0#2).map fun p => p.1) 65536 = some n) :
    msgQueue a k b = accept (a.setQueue n
      { state := 1#2, ctx := bits b 27 16, ringVa := bits b 111 64, sizeLog2 := bits b 12 8, dieMask := bits b 7 4 }) n := by
  unfold msgQueue
  simp only [firstCode, hform, hname, hn]
  simp [Nat.not_lt.2 hlow, Nat.not_lt.2 hhigh, hdies, halign]

theorem msgQueue_frees {q : Nat} (hq : q = bits b 47 32) (hform : bits b 1 0 = 1) (hname : a.mayNameQueue k q = true)
    (hstate : (a.queue q).state ≠ 0#2) (hdone : (a.queue q).wr = (a.queue q).rd ∨ (a.ctx (a.queue q).ctx).state = 3#2) :
    msgQueue a k b = accept (a.setQueue q {}) q := by
  subst hq
  unfold msgQueue
  simp only [firstCode, hform, hname]
  rcases hdone with hdone | hdone <;> simp [hstate, hdone]

theorem queueCreate_serves {q n : Nat} (h : Served 0x11 r s) (ha : atService 0x11 r s = a) (hk : k = r.session.toNat) (hb : b = reqBody r)
    (hq : q = bits b 47 32) :
    (bits b 1 0 = 0 → s.m.mayName k (bits b 27 16) = true → 6 ≤ bits b 12 8 → bits b 12 8 ≤ 20 → bits b 7 4 ≠ 0 →
      bits b 111 64 % (64 * 2 ^ bits b 12 8) = 0 →
      lowestFree ((s.m.queues.filter fun p => p.2.state != 0#2).map fun p => p.1) 65536 = some n →
      ∃ y : Mach, y.queue n = { state := 1#2, ctx := bits b 27 16, ringVa := bits b 111 64, sizeLog2 := bits b 12 8,
                                dieMask := bits b 7 4 } ∧
        (∀ j, j ≠ n → y.queue j = s.m.queue j) ∧ y = { a with queues := y.queues } ∧
        exec (.queueCreate r) s = .next (afterHandling 0x11 r ({ s with m := y }, stOk, n))) ∧
    (bits b 1 0 = 1 → s.m.mayNameQueue k q = true → (s.m.queue q).state ≠ 0#2 →
      ((s.m.queue q).wr = (s.m.queue q).rd ∨ (s.m.ctx (s.m.queue q).ctx).state = 3#2) →
      ∃ y : Mach, y.queue q = {} ∧ (∀ j, j ≠ q → y.queue j = s.m.queue j) ∧ y = { a with queues := y.queues } ∧
        exec (.queueCreate r) s = .next (afterHandling 0x11 r ({ s with m := y }, stOk, q))) := by
  have halike : Alike a s.m := ha ▸ alike_atService 0x11 r s
  have hqueue : ∀ j, a.queue j = s.m.queue j := fun j => halike.same (fun m => m.queue j) fun _ _ _ => rfl
  have hexec := exec_queueCreate_served h
  rw [ha, ← hk, ← hb] at hexec
  refine ⟨fun hform hname hlow hhigh hdies halign hn => ?_, fun hform hname hstate hdone => ?_⟩
  · have hn' : lowestFree ((a.queues.filter fun p => p.2.state != 0#2).map fun p => p.1) 65536 = some n := by
      rw [halike.same Mach.queues fun _ _ _ => rfl]
      exact hn
    rw [msgQueue_makes hform ((halike.mayName _ _).trans hname) hlow hhigh hdies halign hn'] at hexec
    exact ⟨_, (queue_setQueue _ _ _ _).trans (if_pos rfl), fun j hj => (queue_setQueue _ _ _ _).trans ((if_neg hj).trans (hqueue j)),
      rfl, hexec⟩
  · have hname' : a.mayNameQueue k q = true := (halike.same (fun m => m.mayNameQueue k q) fun _ _ _ => rfl).trans hname
    rw [msgQueue_frees hq hform hname' (by rwa [hqueue]) (by rwa [hqueue, halike.ctx])] at hexec
    exact ⟨_, (queue_setQueue _ _ _ _).trans (if_pos rfl), fun j hj => (queue_setQueue _ _ _ _).trans ((if_neg hj).trans (hqueue j)),
      rfl, hexec⟩

/-! ## Synchronisation objects (R378, R379) -/

theorem msgSync_makes {n : Nat} (hform : bit b 0 = false) (hname : a.mayName k (bits b 27 16) = true)
    (hn : tabGet (fun _ => 0) a.syncNext (bits b 2 1) = n) (hroom : n < 4096) :
    msgSync a k b = accept (({ a with syncNext := tabSet (fun _ => 0) a.syncNext (bits b 2 1) (n + 1) } : Mach).setSync
      (4096 * bits b 2 1 + n)
      { count := BitVec.ofNat 32 (bits b 95 64), owner := BitVec.ofNat 12 (bits b 27 16), live := true }) (4096 * bits b 2 1 + n) := by
  have hnew : a.newSync (bits b 2 1) =
      some (4096 * bits b 2 1 + n, { a with syncNext := tabSet (fun _ => 0) a.syncNext (bits b 2 1) (n + 1) }) := by
    unfold Mach.newSync
    rw [hn]
    exact if_pos hroom
  unfold msgSync
  simp [hform, hname, hnew]

theorem msgSync_releases {g : Nat} (hg : g = bits b 45 32) (hform : bit b 0 = true) (hname : a.mayNameSync k g = true)
    (hlive : (a.sync g).live = true) (hbusy : a.syncBusy g = false) : msgSync a k b = accept (a.freeSync g) g := by
  subst hg
  unfold msgSync
  simp [firstCode, hform, hname, hlive, hbusy]

theorem syncCreate_serves {n g : Nat} (h : Served 0x23 r s) (ha : atService 0x23 r s = a) (hk : k = r.session.toNat) (hb : b = reqBody r)
    (hg : g = bits b 45 32) :
    (bit b 0 = false → s.m.mayName k (bits b 27 16) = true → tabGet (fun _ => 0) s.m.syncNext (bits b 2 1) = n → n < 4096 →
      ∃ y : Mach, y.sync (4096 * bits b 2 1 + n) = { count := BitVec.ofNat 32 (bits b 95 64), owner := BitVec.ofNat 12 (bits b 27 16),
                                                     live := true } ∧
        (∀ j, j ≠ 4096 * bits b 2 1 + n → y.sync j = s.m.sync j) ∧ tabGet (fun _ => 0) y.syncNext (bits b 2 1) = n + 1 ∧
        y = { a with syncs := y.syncs, syncNext := y.syncNext } ∧
        exec (.syncCreate r) s = .next (afterHandling 0x23 r ({ s with m := y }, stOk, 4096 * bits b 2 1 + n))) ∧
    (bit b 0 = true → s.m.mayNameSync k g = true → (s.m.sync g).live = true → s.m.syncBusy g = false →
      ∃ y : Mach, y.sync g = { s.m.sync g with live := false, status := BitVec.ofNat 16 stAborted } ∧
        (∀ j, j ≠ g → y.sync j = s.m.sync j) ∧ y = { a with syncs := y.syncs, syncFreed := y.syncFreed } ∧
        tabGet (fun _ => []) y.syncFreed (g / 4096) = tabGet (fun _ => []) s.m.syncFreed (g / 4096) ++ [g] ∧
        exec (.syncCreate r) s = .next (afterHandling 0x23 r ({ s with m := y }, stOk, g))) := by
  have halike : Alike a s.m := ha ▸ alike_atService 0x23 r s
  have hsync : ∀ j, a.sync j = s.m.sync j := fun j => halike.same (fun m => m.sync j) fun _ _ _ => rfl
  have hexec := exec_syncCreate_served h
  rw [ha, ← hk, ← hb] at hexec
  refine ⟨fun hform hname hn hroom => ?_, fun hform hname hlive hbusy => ?_⟩
  · have hn' : tabGet (fun _ => 0) a.syncNext (bits b 2 1) = n := by
      rw [halike.same Mach.syncNext fun _ _ _ => rfl]
      exact hn
    rw [msgSync_makes hform ((halike.mayName _ _).trans hname) hn' hroom] at hexec
    refine ⟨_, ?_, fun j hj => ?_, ?_, ?_, hexec⟩
    · exact (sync_setSync _ _ _ _).trans (if_pos rfl)
    · exact (sync_setSync _ _ _ _).trans ((if_neg hj).trans (hsync j))
    · exact tabGet_tabSet_same (fun _ => 0) a.syncNext (bits b 2 1) (n + 1)
    · rfl
  · have hname' : a.mayNameSync k g = true := (halike.same (fun m => m.mayNameSync k g) fun _ _ _ => rfl).trans hname
    have hfreed : a.syncFreed = s.m.syncFreed := halike.same Mach.syncFreed fun _ _ _ => rfl
    rw [msgSync_releases hg hform hname' (by rwa [hsync]) ((syncBusy_alike halike g).trans hbusy)] at hexec
    refine ⟨a.freeSync g, ?_, fun j hj => ?_, rfl, ?_, hexec⟩
    · rw [← hsync]
      exact (sync_setSync _ _ _ _).trans (if_pos rfl)
    · exact (sync_setSync _ _ _ _).trans ((if_neg hj).trans (hsync j))
    · rw [← hfreed]
      exact tabGet_tabSet_same _ _ _ _

/-! ## Endpoints (R380) -/

theorem msgEndpoint_configures {e : Nat} (he : e = bits b 15 8) (hreal : e ≠ 255) (hform : bit b 0 = false) (hlow : 3 ≤ bits b 74 72)
    (hhigh : bits b 74 72 ≤ 5) : ∃ q p : Nat, q < 2 ^ 24 ∧ p < 2 ^ 24 ∧ msgEndpoint a b =
      accept (({ a with free := a.free + 1 + 1 } : Mach).setEp e
        { configured := true, body := b, localQpn := q, localPsn := p, rate := 65536 }) (q + p <<< 32) := by
  subst he
  refine ⟨_, _, Nat.mod_lt (a.fresh).1 (by decide), Nat.mod_lt ((a.fresh).2.fresh).1 (by decide), ?_⟩
  unfold msgEndpoint
  simp only [firstCode, hform]
  simp [hreal, Nat.not_lt.2 hlow, Nat.not_lt.2 hhigh, Mach.fresh]

theorem msgEndpoint_clears {e : Nat} (he : e = bits b 15 8) (hreal : e ≠ 255) (hform : bit b 0 = true) (hset : (a.ep e).configured = true)
    (hfree : ∀ o ∈ a.objs, o.2.onEp e = false) : msgEndpoint a b = accept (a.setEp e {}) 0 := by
  have hnone : (a.objs.any fun p => p.2.onEp e) = false := by
    rw [List.any_eq_false]
    exact fun o ho => Bool.eq_false_iff.1 (hfree o ho)
  subst he
  unfold msgEndpoint
  simp [firstCode, hform, hset, hnone, hreal]

theorem endpointSet_serves {e : Nat} (h : Served 0x24 r s) (ha : atService 0x24 r s = a) (hb : b = reqBody r) (he : e = bits b 15 8)
    (hreal : e ≠ 255) :
    (bit b 0 = false → 3 ≤ bits b 74 72 → bits b 74 72 ≤ 5 →
      ∃ (y : Mach) (q p : Nat), q < 2 ^ 24 ∧ p < 2 ^ 24 ∧
        y.ep e = { configured := true, body := b, localQpn := q, localPsn := p, rate := 65536 } ∧
        (∀ j, j ≠ e → y.ep j = s.m.ep j) ∧ y = { a with eps := y.eps, free := y.free } ∧
        exec (.endpointSet r) s = .next (afterHandling 0x24 r ({ s with m := y }, stOk, q + p <<< 32))) ∧
    (bit b 0 = true → (s.m.ep e).configured = true → (∀ o ∈ s.m.objs, o.2.onEp e = false) →
      ∃ y : Mach, y.ep e = {} ∧ (∀ j, j ≠ e → y.ep j = s.m.ep j) ∧ y = { a with eps := y.eps } ∧
        exec (.endpointSet r) s = .next (afterHandling 0x24 r ({ s with m := y }, stOk, 0))) := by
  have halike : Alike a s.m := ha ▸ alike_atService 0x24 r s
  have hexec := exec_endpointSet_served h
  rw [ha, ← hb] at hexec
  refine ⟨fun hform hlow hhigh => ?_, fun hform hset hfree => ?_⟩
  · obtain ⟨q, p, hq, hp, hmsg⟩ := msgEndpoint_configures (a := a) he hreal hform hlow hhigh
    rw [hmsg] at hexec
    refine ⟨_, q, p, hq, hp, ?_, fun j hj => ?_, ?_, hexec⟩
    · exact (ep_setEp _ _ _ _).trans (if_pos rfl)
    · exact (ep_setEp _ _ _ _).trans ((if_neg hj).trans (halike.ep j))
    · rfl
  · rw [msgEndpoint_clears he hreal hform (by rwa [halike.ep]) (by rwa [halike.objs])] at hexec
    exact ⟨_, (ep_setEp _ _ _ _).trans (if_pos rfl),
      fun j hj => (ep_setEp _ _ _ _).trans ((if_neg hj).trans (halike.ep j)), rfl, hexec⟩

end Requests

/-- Settles O41, message by message; that a synchronisation object is in use is judged by reads that the mailbox has no part in
(`syncBusy_alike`). -/
theorem tablesAreMadeAndReleased : Obligations.TablesAreMadeAndReleased := by
  unfold Obligations.TablesAreMadeAndReleased
  refine ⟨fun s r a k b c n h ha hk hb hc => ⟨?_, ?_, ?_⟩, fun s r a k b q n h ha hk hb hq => queueCreate_serves h ha hk hb hq,
    fun s r a k b n h ha hk hb => syncCreate_serves h ha hk hb rfl, fun s r a b e h ha hb he hreal => endpointSet_serves h ha hb he hreal⟩
  · exact contextCreate_makes h ha hk hb
  · exact contextCreate_attaches h ha hk hb hc
  · exact contextCreate_releases h ha hk hb hc

end Sys2Proof.Proofs
end
